-- ==== Sys2Proof/Word.lean ====
section
/-! DEFINITION. The plain widths of the W4 and the sparse table in which the state keeps its files and memories. -/

namespace Sys2Proof

/-- A 64-bit value: scalar registers, control registers, virtual addresses (R116, R222). -/
abbrev Word := BitVec 64

/-- One byte of memory. -/
abbrev Byte := BitVec 8

/-- A six-bit format code (R48). -/
abbrev FmtCode := BitVec 6

/-- A sparse table: keys strictly rising, and no entry equal to what an unlisted key reads as. -/
abbrev Tab (α : Type) := List (Nat × α)

/-- One register specifier slot of an instruction word, numbered as BOUND and QUEUE_END report it (R122, R210). -/
inductive Slot where
  | a | b | c | d
deriving DecidableEq, Repr

/-- The three privileges (R381). -/
inductive Priv where
  | user | sup | mon
deriving DecidableEq, Repr

/-- SCOPE of an access (R276). -/
inductive Scope where
  | core | dev | sys
deriving DecidableEq, Repr

/-- ORD of an access (Table 2.4). -/
inductive Ord where
  | plain | acq | rel | sc
deriving DecidableEq, Repr

/-- The RM field (R32); `fctl` takes the mode of FCTL.RM. -/
inductive Rm where
  | fctl | rne | rtz | rdn | rup | rna
deriving DecidableEq, Repr

/-- The type field of the scalar floating-point forms (R32). -/
inductive FTy where
  | f64 | f32 | f16 | bf16
deriving DecidableEq, Repr

end Sys2Proof
end

