-- ==== Sys2Proof/Machine/CrMap.lean ====
section
/-! DEFINITION. The control register map of Table 5.2: which numbers exist and who may read and write them. -/

namespace Sys2Proof.Machine

/-- What a privilege may do with a control register. -/
inductive CrAcc where
  | none | ro | rw
deriving DecidableEq, Repr

/-- The control register numbers of Table 5.2. -/
def crExists (n : Nat) : Bool := n ≤ 0x19 || (0x20 ≤ n && n ≤ 0x2D) || (0x40 ≤ n && n ≤ 0x4A)

/-- A register that is RO at every privilege (R142): CYCLE, REFCNT, SPBASE, SPLEN, the masks and FEATURES. -/
def crReadOnly (n : Nat) : Bool := n == 0x10 || n == 0x11 || (0x13 ≤ n && n ≤ 0x17) || n == 0x19

/-- Access of a privilege to a register (Table 5.2). -/
def crAccess (n : Nat) (p : Priv) : CrAcc :=
  if !crExists n then .none
  else if crReadOnly n then .ro
  else if 0x40 ≤ n then (if p == .mon then .rw else .none)
  else if n == 0x29 then (match p with | .user => .none | .sup => .ro | .mon => .rw)
  else if 0x20 ≤ n then (if p == .user then .none else .rw)
  else if n == 0x04 || n == 0x05 || n == 0x08 || n == 0x0E || n == 0x0F || n == 0x12 then .rw
  else if p == .user then .ro
  else .rw

end Sys2Proof.Machine
end

