-- ==== Sys2Proof/Machine/Fmt.lean ====
section
/-! DEFINITION. The format codes of the W4: which codes exist, their kinds, widths, capacities and line packing (chapter 3). -/

namespace Sys2Proof.Machine

/-- A reserved format code (R48): 0x0F and 0x33–0x3F. -/
def fmtReserved (f : FmtCode) : Bool := f == 0x0F#6 || 0x33#6 ≤ f

/-- A narrow, block-scaled format: codes 0x10–0x32 (R49). -/
def isNarrow (f : FmtCode) : Bool := 0x10#6 ≤ f && f ≤ 0x32#6

/-- A wide format: codes 0x00–0x0E (R49). -/
def isWide (f : FmtCode) : Bool := f ≤ 0x0E#6

/-- I8–I64. -/
def isSInt (f : FmtCode) : Bool := 0x01#6 ≤ f && f ≤ 0x04#6

/-- N8–N64. -/
def isUInt (f : FmtCode) : Bool := 0x05#6 ≤ f && f ≤ 0x08#6

/-- The wide integers (R49). -/
def isWInt (f : FmtCode) : Bool := isSInt f || isUInt f

/-- BF16, F16, F32 and F64 (R49). -/
def isIeee (f : FmtCode) : Bool := 0x09#6 ≤ f && f ≤ 0x0C#6

/-- E4M3 and E5M2 (R49). -/
def isStorage (f : FmtCode) : Bool := f == 0x0D#6 || f == 0x0E#6

/-- Bw. -/
def isB (f : FmtCode) : Bool := 0x10#6 ≤ f && f ≤ 0x1F#6

/-- Zw. -/
def isZ (f : FmtCode) : Bool := 0x20#6 ≤ f && f ≤ 0x2F#6

/-- E2M1S, E2M3S and E3M2S (R49). -/
def isMini (f : FmtCode) : Bool := 0x30#6 ≤ f && f ≤ 0x32#6

/-- Element bits of a format (Tables 3.1 and 3.4). -/
def elemBits (f : FmtCode) : Nat :=
  let n := f.toNat
  if n = 0 then 8
  else if n ≤ 4 then 8 * 2 ^ (n - 1)
  else if n ≤ 8 then 8 * 2 ^ (n - 5)
  else if n = 0x09 || n = 0x0A then 16
  else if n = 0x0B then 32
  else if n = 0x0C then 64
  else if n ≤ 0x0F then 8
  else if n ≤ 0x2F then (n % 16) + 1
  else if n = 0x30 then 4
  else 6

/-- Element bytes of a wide format. -/
def elemBytes (f : FmtCode) : Nat := elemBits f / 8

/-- Segments of 16 elements in a narrow line: `segs` of R7. -/
def segs (w : Nat) : Nat := 1024 / (8 + 16 * w)

/-- Elements per 128-byte line: `eln` of R7 (Table 3.4). -/
def eln (f : FmtCode) : Nat := if isNarrow f then 16 * segs (elemBits f) else 1024 / elemBits f

/-- Element capacity of a vector register: `cap` of R7 (Table 3.4). -/
def cap (f : FmtCode) : Nat :=
  if isNarrow f then Nat.min 1024 (16 * (8192 / (16 * elemBits f))) else 8192 / elemBits f

/-- The integer-image width of Table 3.4, where the format has one. -/
def imageWidth (f : FmtCode) : Option Nat :=
  if f == 0x01#6 || f == 0x05#6 then some 8
  else if f == 0x02#6 || f == 0x06#6 then some 16
  else if isB f || isZ f then some (elemBits f)
  else if f == 0x30#6 then some 5
  else if f == 0x31#6 then some 7
  else if f == 0x32#6 then some 10
  else none

/-- `widen` of Table 6.2. -/
def widen (f : FmtCode) : FmtCode :=
  if f == 0x01#6 || f == 0x02#6 || f == 0x03#6 || f == 0x05#6 || f == 0x06#6 || f == 0x07#6 then f + 1#6
  else if f == 0x04#6 || f == 0x08#6 || f == 0x0C#6 || f == 0x00#6 then f
  else if f == 0x0B#6 then 0x0C#6
  else 0x0B#6

end Sys2Proof.Machine
end

