-- ==== Sys2Proof/Syntax.lean ====
section
/-! DEFINITION. The operations of the W4: its instructions with typed operands, and the events of the operation table. -/

namespace Sys2Proof

/-- A specifier of a scalar, vector or mask slot (Table 2.3): a register named directly, one named through an
index register, or a queue. -/
inductive Opnd where
  | reg (n : BitVec 6)
  | ix (n : BitVec 3)
  | q (n : BitVec 3)
deriving DecidableEq, Repr

/-- A scalar source that an immediate may replace (R33 and the entries with an IMM bit). -/
inductive SrcB where
  | op (o : Opnd)
  | imm (i : BitVec 16)
deriving DecidableEq, Repr

/-- A format named by the word or by a scalar register. -/
inductive FmtSel where
  | imm (f : FmtCode)
  | reg (o : Opnd)
deriving DecidableEq, Repr

/-- An element, row or column number named by the word or by a scalar register. -/
inductive IdxSel (w : Nat) where
  | imm (n : BitVec w)
  | reg (o : Opnd)
deriving DecidableEq, Repr

/-- The mask field (R29): every element, or the bits of a mask register, inverted or not. -/
inductive Mk where
  | all
  | m (n : BitVec 4) (inv : Bool)
deriving DecidableEq, Repr

/-- Where a scalar, manifest or tile form goes: virtual memory at a scope and order, or the scratchpad (R30, R31). -/
inductive Space where
  | mem (sc : Scope) (o : Ord)
  | sp (o : Ord)
deriving DecidableEq, Repr

/-- The qualifier of a vector load in byte form, which may also be bound to a copy stream (R31). -/
inductive Qual where
  | mem (sc : Scope) (o : Ord)
  | sp (o : Ord)
  | kb (k : BitVec 4)
deriving DecidableEq, Repr

/-- KIND and SFMT of FCVT (R138). -/
inductive FCvtKind where
  | flt (src : FTy)
  | fromI | fromN | toI | toN
deriving DecidableEq, Repr

/-- AOP of the atomics (Table 13.2). -/
inductive Aop where
  | add | and | or | xor | min | max | minu | maxu | swap | fadd32 | fadd64 | fxadd
deriving DecidableEq, Repr

/-- The operand of CJOIN: a binding at a position, or UNBIND (R204). -/
inductive JoinSel where
  | bind (a : Opnd) (p q : BitVec 2)
  | unbind
deriving DecidableEq, Repr

/-- The base of a context image: the level's scratch register or S[A] + S[B] (R403). -/
inductive CtxBase where
  | ssc
  | at (a b : Opnd)
deriving DecidableEq, Repr

/-- The operand of an atomic event at its home: the EXP of FXADD, or the comparand of a CAS (R327–R329). -/
inductive AtomicArg where
  | exp (e : BitVec 11)
  | cmp (k : Word)
deriving DecidableEq, Repr

/-- A page of host memory as a VI's PASID names it (R244, R347). -/
structure HostPage where
  pasid : Nat
  page : Nat
deriving DecidableEq, Repr

/-- What becomes of a send at one of its destinations (R360): its lines and its count land, its lines land ahead of earlier sends
and are counted later, or it fails with a sub-cause and TVAL3. -/
inductive Landing where
  | counted
  | ahead
  | failed (sub : Nat) (v3 : Word)
deriving DecidableEq, Repr

/-- Where a host read goes: an offset of the aperture in BAR2, of the registers in BAR0, or of the tag window in BAR4 (R246, R369). -/
inductive HostAddr where
  | aperture (off : Nat)
  | tags (off : Nat)
  | bar0 (off : Nat)
deriving DecidableEq, Repr

/-- A register of a function's BAR0; VI0 has those of PF0 (R369). -/
structure BarReg where
  vi : Nat
  off : Nat
deriving DecidableEq, Repr

/-- What an inbound request from another W4 asks of a home slice (R301). -/
inductive WeatreReq where
  | load (pa n : Nat)
  /-- bytes of a line, with the line's new tag where the store writes elements, and none where it is a scalar store -/
  | store (pa : Nat) (data : List Byte) (tag : Option (BitVec 16))
  /-- `cmp` is the comparand of a CAS, whose new value is `v` -/
  | atomic (pa : Nat) (w8 : Bool) (op : Aop) (v : Word) (x : AtomicArg)
  /-- a tile of another W4 asks for capacity and for lines here, in shared or exclusive mode (R306, R307) -/
  | reserve (excl : Bool) (lines : List Nat)
  /-- the staged writes, each with its line, first byte, bytes and tag: their tag checks are made here (R313) -/
  | stage (tile : Nat) (writes : List (Nat × Nat × List Byte × BitVec 16))
  /-- its coordinator has passed the commit point (R314) -/
  | flip (tile : Nat)
  /-- every slice has confirmed, or the tile is abandoned -/
  | release (tile : Nat)
  /-- a WAKE at SYS scope of a line whose home is here (R111) -/
  | wake (pa : Nat)
deriving DecidableEq, Repr

/-- The AtomicOps the host port completes (Table 15.1). -/
inductive HostAtomic where
  | fetchAdd | swap | cas (cmp : Word)
deriving DecidableEq, Repr

/-- A source element of an XRED as it travels: its code and the scale of its block, whether its line is poisoned, and whether it
comes from a line of VCLS zero. A pair record of MODE 2 is a code of 64 bits. -/
structure XEl where
  code : Nat
  scale : Nat := 0
  psn : Bool := false
  zero : Bool := false
deriving DecidableEq, Repr

/-- What another rank contributes to a matched XRED (R361): its MODE, E, source format and g, the elements of its source, and the
sub-cause and VA of a failure that it met. -/
structure PeerPart where
  rank : Nat
  mode : Nat
  elems : Nat
  fmt : FmtCode
  g : FmtCode
  els : List XEl
  failed : Option (Nat × Word)
deriving DecidableEq, Repr

/-- What the ROM finds of the keys and the signatures of a fetched image, and the minimum version in ROM (R409). -/
structure ImageCheck where
  rootHashes : Bool
  mldsa : Bool
  ecdsa : Bool
  minSvn : Nat
deriving DecidableEq, Repr

/-- A section of a Dorox object (R44): kind (0 text, 1 rodata, 2 data, 3 bss), log2 of its alignment, size, the bytes that are not
zero by offset, the tags that are not 0x0000 by line, and its relocations as offset and target offset. -/
structure BootSection where
  kind : Nat
  align : Nat
  size : Nat
  bytes : List (Nat × Byte) := []
  tags : List (Nat × BitVec 16) := []
  relocs : List (Nat × Nat) := []
deriving DecidableEq, Repr

/-- The monitor's object as the boot image carries it (R417, R418). -/
structure BootImage where
  entry : Nat
  features : Nat
  sections : List BootSection
  /-- declared patch slots, by byte offset within .text (R46) -/
  patchSlots : List Nat
deriving DecidableEq, Repr

/-- A boot image: its length, and its bytes that are not zero, by offset (R417). -/
structure BootFile where
  len : Nat := 0
  bytes : List (Nat × Byte) := []
deriving DecidableEq, Repr

/-- What the W4 estimates each 1 ms: the power of the VIs and of the device in W, and the loads of core islands (R414, R415). -/
structure PowerEstimate where
  vis : List (Nat × Nat) := []
  device : Nat := 0
  loads : List (Nat × Nat) := []
deriving DecidableEq, Repr

/-- What the boot derives beside the CDI: alias private key, alias public key and certificate (R410). -/
structure BootKeys where
  aliasPriv : List Byte
  aliasPub : List Byte
  cert : List Byte
deriving DecidableEq, Repr

/-- The operations of spec/opcode_table.json: the instructions, then the events. -/
inductive Instr where
  -- scalar integer (Table 5.6)
  | add (d a : Opnd) (b : SrcB) | sub (d a : Opnd) (b : SrcB) | mul (d a : Opnd) (b : SrcB)
  | mulh (d a : Opnd) (b : SrcB) | mulhu (d a : Opnd) (b : SrcB) | div (d a : Opnd) (b : SrcB)
  | divu (d a : Opnd) (b : SrcB) | rem (d a : Opnd) (b : SrcB) | remu (d a : Opnd) (b : SrcB)
  | and (d a : Opnd) (b : SrcB) | or (d a : Opnd) (b : SrcB) | xor (d a : Opnd) (b : SrcB)
  | shl (d a : Opnd) (b : SrcB) | shr (d a : Opnd) (b : SrcB) | sra (d a : Opnd) (b : SrcB)
  | slt (d a : Opnd) (b : SrcB) | sltu (d a : Opnd) (b : SrcB) | min (d a : Opnd) (b : SrcB)
  | max (d a : Opnd) (b : SrcB) | minu (d a : Opnd) (b : SrcB) | maxu (d a : Opnd) (b : SrcB)
  | clz (d a : Opnd) | ctz (d a : Opnd) | popc (d a : Opnd)
  | bfx (d a : Opnd) (pos len1 : BitVec 6) (sx : Bool)
  | bfi (d a b : Opnd) (pos len1 : BitVec 6)
  | sel (d a b c : Opnd)
  | li (d : Opnd) (imm : BitVec 37) | lih (d a : Opnd) (imm : BitVec 27)
  -- control flow (R134, R135)
  | jmp (off : BitVec 44) | jal (d : Opnd) (off : BitVec 44) | jr (d a : Opnd) (imm : BitVec 16)
  | beq (a b : Opnd) (off : BitVec 37) | bne (a b : Opnd) (off : BitVec 37) | blt (a b : Opnd) (off : BitVec 37)
  | bge (a b : Opnd) (off : BitVec 37) | bltu (a b : Opnd) (off : BitVec 37) | bgeu (a b : Opnd) (off : BitVec 37)
  -- scalar floating point (Table 5.8)
  | fadd (t : FTy) (rm : Rm) (d a b : Opnd) | fsub (t : FTy) (rm : Rm) (d a b : Opnd)
  | fmul (t : FTy) (rm : Rm) (d a b : Opnd) | fdiv (t : FTy) (rm : Rm) (d a b : Opnd)
  | fsqrt (t : FTy) (rm : Rm) (d a : Opnd) | fma (t : FTy) (rm : Rm) (d a b c : Opnd)
  | fmin (t : FTy) (d a b : Opnd) | fmax (t : FTy) (d a b : Opnd)
  | fcmp (t : FTy) (cond : BitVec 3) (d a b : Opnd)
  | fcvt (t : FTy) (rm : Rm) (kind : FCvtKind) (d a : Opnd)
  | fclass (t : FTy) (d a : Opnd)
  -- scalar memory (Tables 10.5, 13.1, 11.2)
  | ld (sz : BitVec 3) (sp : Space) (d a b : Opnd) (imm : BitVec 16)
  | st (sz : BitVec 2) (sp : Space) (d a b : Opnd) (imm : BitVec 16)
  | stPatch (sc : Scope) (o : Ord) (d a b : Opnd) (imm : BitVec 16)
  | amo (op : Aop) (w8 : Bool) (sp : Space) (d a b : Opnd) (imm : BitVec 16)
  | cas (w8 : Bool) (sp : Space) (d a b : Opnd) (imm : BitVec 16)
  | fence (kind : BitVec 3) (sc : Scope) | lsync
  | flush (a b c : Opnd) (imm : BitVec 16) | inval (a b c : Opnd) (imm : BitVec 16)
  -- index and control registers (Tables 5.9, 5.2)
  | ixset (d : BitVec 3) (a : Opnd) | ixget (d : Opnd) (a : BitVec 3)
  | ixadv (d : BitVec 3) (n : SrcB) | ixoff (d : BitVec 3) (n : SrcB)
  | crd (d : Opnd) (n : BitVec 12) | cwr (n : BitVec 12) (a : Opnd) | crsw (d : Opnd) (n : BitVec 12) (a : Opnd)
  | vsetl (d a : Opnd) (f : FmtSel) | vgetcap (d : Opnd) (f : FmtSel)
  | palsel (n : IdxSel 4) | palrd (d a : Opnd) | palwr (a b : Opnd)
  | getid (d : Opnd) (sel : BitVec 4) | heartbeat (a : Opnd)
  -- tags, conversion and single registers
  | vtag (zero : Bool) (d : Opnd) (f : FmtSel) | vgtag (sel : BitVec 2) (d a : Opnd)
  | vcvt (mk : Mk) (rm : Rm) (d a : Opnd) (f : FmtCode) | vresc (mk : Mk) (rm : Rm) (d a b : Opnd)
  | vvalid (sel : BitVec 2) (d a : Opnd)
  | vsave (sc : Scope) (o : Ord) (a b c : Opnd) (imm : BitVec 16)
  | vrstr (sc : Scope) (o : Ord) (d a b : Opnd) (imm : BitVec 16)
  | vmov (mk : Mk) (rm : Rm) (all : Bool) (d a : Opnd)
  | vsplat (mk : Mk) (rm : Rm) (st : BitVec 2) (d a : Opnd) (f : FmtCode)
  | viota (mk : Mk) (rm : Rm) (count : Bool) (d : Opnd) (f : FmtCode)
  | vext (rm : Rm) (d a : Opnd) (e : IdxSel 10) | vins (rm : Rm) (d a : Opnd) (e : IdxSel 10)
  -- elementwise (Table 6.3)
  | vadd (mk : Mk) (rm : Rm) (sat wide : Bool) (d a b : Opnd)
  | vsub (mk : Mk) (rm : Rm) (sat wide : Bool) (d a b : Opnd)
  | vmul (mk : Mk) (rm : Rm) (sat wide : Bool) (d a b : Opnd)
  | vfma (mk : Mk) (rm : Rm) (sat wide : Bool) (d a b c : Opnd)
  | vmin (mk : Mk) (rm : Rm) (sat : Bool) (d a b : Opnd) | vmax (mk : Mk) (rm : Rm) (sat : Bool) (d a b : Opnd)
  | vabs (mk : Mk) (rm : Rm) (sat : Bool) (d a : Opnd) | vneg (mk : Mk) (rm : Rm) (sat : Bool) (d a : Opnd)
  | vdiv (mk : Mk) (rm : Rm) (sat : Bool) (d a b : Opnd)
  | vsqrt (mk : Mk) (rm : Rm) (d a : Opnd) | vrsqrt (mk : Mk) (rm : Rm) (d a : Opnd)
  | vrcp (mk : Mk) (rm : Rm) (d a : Opnd) | vexp2 (mk : Mk) (rm : Rm) (d a : Opnd)
  | vlog2 (mk : Mk) (rm : Rm) (d a : Opnd)
  | vclip (mk : Mk) (rm : Rm) (sat : Bool) (d a b c : Opnd)
  | vcmp (mk : Mk) (cond : BitVec 3) (d a b : Opnd)
  | vsel (mk : Mk) (rm : Rm) (sat : Bool) (d a b c : Opnd)
  | vand (mk : Mk) (d a b : Opnd) | vor (mk : Mk) (d a b : Opnd) | vxor (mk : Mk) (d a b : Opnd)
  | vnot (mk : Mk) (d a : Opnd)
  | vshl (mk : Mk) (d a : Opnd) (b : IdxSel 6) | vshr (mk : Mk) (d a : Opnd) (b : IdxSel 6)
  | vsra (mk : Mk) (d a : Opnd) (b : IdxSel 6)
  -- reductions, cross-lane, packing, masks
  | vrsum (mk : Mk) (rm : Rm) (sat wide : Bool) (d a : Opnd)
  | vrmax (mk : Mk) (rm : Rm) (sat wide : Bool) (d a : Opnd)
  | vrmin (mk : Mk) (rm : Rm) (sat wide : Bool) (d a : Opnd)
  | vscan (mk : Mk) (rm : Rm) (sat wide : Bool) (op : BitVec 2) (d a : Opnd)
  | vslup (mk : Mk) (rm : Rm) (d a : Opnd) (n : SrcB) | vsldn (mk : Mk) (rm : Rm) (d a : Opnd) (n : SrcB)
  | vshuf (mk : Mk) (rm : Rm) (d a b : Opnd)
  | vcomp (mk : Mk) (rm : Rm) (d a : Opnd) | vexpd (mk : Mk) (rm : Rm) (d a : Opnd)
  | vzip (mk : Mk) (rm : Rm) (mode : BitVec 2) (d a b : Opnd)
  | vunpk (mk : Mk) (d a : Opnd) (w1 : BitVec 4) (f : FmtCode)
  | vpack (mk : Mk) (sat : Bool) (d a : Opnd) (w1 : BitVec 4)
  | vlook (mk : Mk) (rm : Rm) (d a b : Opnd)
  | vtopk (mk : Mk) (rm : Rm) (d a c : Opnd) (k : BitVec 11) (bs : BitVec 3)
  | vdot4 (mk : Mk) (rm : Rm) (sat : Bool) (d a b : Opnd)
  | mlog (tt : BitVec 4) (d a b : Opnd) | mpop (d a : Opnd) | mfirst (d a : Opnd) | mset (d : Opnd) (n : SrcB)
  | mtov (mk : Mk) (rm : Rm) (d a : Opnd) (f : FmtCode) | vtom (mk : Mk) (d a : Opnd)
  -- vector memory (Table 10.6) and manifests (Table 10.4)
  | vld (mk : Mk) (rm : Rm) (ql : Qual) (trim : Bool) (d a b : Opnd) (imm : BitVec 16)
  | vlds (mk : Mk) (rm : Rm) (ql : Qual) (d a b : Opnd) (imm : BitVec 16)
  | vldx (mk : Mk) (rm : Rm) (ql : Qual) (d a b : Opnd) (imm : BitVec 16)
  | vldf (mk : Mk) (rm : Rm) (ql : Qual) (d a b : Opnd) (imm : BitVec 16)
  | vldm (mk : Mk) (rm : Rm) (sp : Space) (d : Opnd) (h : BitVec 4) (b c : Opnd)
  | vldg (mk : Mk) (rm : Rm) (sp : Space) (d : Opnd) (h : BitVec 4) (b c : Opnd) (k : BitVec 4)
  | vst (mk : Mk) (rm : Rm) (sp : Space) (d a b : Opnd) (imm : BitVec 16)
  | vsts (mk : Mk) (rm : Rm) (sp : Space) (d a b : Opnd) (imm : BitVec 16)
  | vstx (mk : Mk) (rm : Rm) (sp : Space) (d a b : Opnd) (imm : BitVec 16)
  | vstm (mk : Mk) (rm : Rm) (sp : Space) (d : Opnd) (h : BitVec 4) (b c : Opnd)
  | vstg (mk : Mk) (rm : Rm) (sp : Space) (d : Opnd) (h : BitVec 4) (b c : Opnd) (k : BitVec 4)
  | vamo (mk : Mk) (op : Aop) (noret : Bool) (sp : Space) (d a b c : Opnd) (e : BitVec 11)
  | mnf (d : BitVec 4) (a b : Opnd) (imm : BitVec 16) | mnfget (d : Opnd) (h : BitVec 4) (sel : BitVec 4)
  | mnfset (add : Bool) (d : BitVec 4) (a : Opnd) (sel : BitVec 4)
  -- canvases (Table 7.3)
  | czero (d : BitVec 3) (cf : FmtCode) (mr : IdxSel 8)
  | cop (mk : Mk) (rm : Rm) (d : BitVec 3) (a b : Opnd)
  | copk (mk : Mk) (rm : Rm) (d : BitVec 3) (a b : Opnd) (k : BitVec 4)
  | crrow (mk : Mk) (rm : Rm) (sat : Bool) (d : Opnd) (c : BitVec 3) (x : IdxSel 8) (f : FmtCode)
  | crcol (mk : Mk) (rm : Rm) (sat hi : Bool) (d : Opnd) (c : BitVec 3) (x : IdxSel 8) (f : FmtCode)
  | cwrow (mk : Mk) (rm : Rm) (d : BitVec 3) (x : IdxSel 8) (b : Opnd)
  | cwcol (mk : Mk) (rm : Rm) (hi : Bool) (d : BitVec 3) (x : IdxSel 8) (b : Opnd)
  | cld (rm : Rm) (atom : Bool) (sp : Space) (d : BitVec 3) (h : BitVec 4) (b c : Opnd) (ncol : BitVec 9)
  | cst (rm : Rm) (atom : Bool) (sp : Space) (d : BitVec 3) (h : BitVec 4) (b c : Opnd) (ncol : BitVec 9)
  | cjoin (d : BitVec 3) (j : JoinSel)
  | cstj (rm : Rm) (sc : Scope) (o : Ord) (d : BitVec 3) (h : BitVec 4) (b c : Opnd)
  | cadd (rm : Rm) (d a b : BitVec 3) | cstat (d : Opnd) (c : BitVec 3) (sel : BitVec 3)
  -- copy streams (Table 14.3) and queues (Table 8.2)
  | cpstart (k : BitVec 4) (h : BitVec 4) (b c : Opnd) (ncol : BitVec 16)
  | cpgather (mk : Mk) (k : BitVec 4) (h : BitVec 4) (b c : Opnd) (ncol : BitVec 16)
  | cpscatter (rm : Rm) (k : BitVec 4) (h : BitVec 4) (b c : Opnd) (ncol : BitVec 16)
  | cpwait (sc : Scope) (part : Option Opnd) (d : Opnd) (k : BitVec 4)
  | cpavail (d : Opnd) (k : BitVec 4) (sel : BitVec 2) | cpresume (d : Opnd) (k : BitVec 4) (mode : BitVec 2)
  | cpcancel (k : BitVec 4)
  | qbind (d : BitVec 3) (a : Opnd) | qclose (a : BitVec 3) | qstat (d : Opnd) (a : BitVec 3)
  -- strands (chapter 4)
  | launch (d a : Opnd) | exit | yield | bar (id : BitVec 2)
  | waitw (cond : BitVec 3) (sc : Scope) (d a b c : Opnd) (imm : BitVec 16)
  | wake (sc : Scope) (a b : Opnd) (imm : BitVec 16) | snext (d : Opnd)
  -- exchange (Table 15.6)
  | xopen (d a : Opnd) | xsend (d a : Opnd) (h : BitVec 4) (c : Opnd)
  | xred (mode : BitVec 2) (rm : Rm) (d a : Opnd) (hb hc : BitVec 4)
  | xwait (sc : Scope) (d a b : Opnd) | xclose (a : Opnd)
  -- traps, context and system (chapters 9, 16, 17)
  | trap (imm : BitVec 16) | tret | brk (imm : BitVec 16)
  | ctxsave (vec dirty msks mnfs : Bool) (d : Opnd) (base : CtxBase) (imm : BitVec 16)
  | ctxrstr (lzy : Bool) (base : CtxBase) (imm : BitVec 16)
  | tlbinv (ty : BitVec 3) (a b : Opnd)
  | rcstart (rm : Rm) (d a b : Opnd) (f : FmtCode) | rcstat (d : Opnd) (page : Bool)
  | kdsetAssign (d a b c : Opnd) | kdsetNewkey (d a b c : Opnd) | kdsetRetire (d a b c : Opnd)
  | homemap (d a b : Opnd) | idle (d a : Opnd)
  -- events: admission, parking and memory
  | evTeamAdmission | evPreemption (team : Nat) | evTeamReclaim (team : Nat) | evCaravanCompletion (caravan : Nat)
  | evWaitwReevaluate (sid : Nat) | evIdleWake (sid : Nat)
  | evAccessPerform (core track : Nat)
  | evAtomicApply (pa : Nat) (w8 : Bool) (op : Aop) (v : Word) (x : AtomicArg)
  | evPriResponse (p : HostPage) (ok : Bool) | evHostInvalidation (p : HostPage)
  -- events: engines
  | evCopyRowRequest (team k : Nat) | evCopyRowComplete (team k row : Nat) | evCopyRowFault (team k row : Nat)
  | evRecodePageStart (vi : Nat) | evRecodePageReencode (vi : Nat)
  | evFrameMigration (frame : Nat) | evFrameSwitch (frame : Nat)
  | evTileCapacityGrant | evTileLineReserve (tile : Nat) | evTileCommit (tile : Nat) | evTileRelease (tile : Nat)
  -- a send from rank `src` lands at rank `dst`: this endpoint's own send, or a peer's, with its sequence number, its offset and
  -- its lines with their tags. `fate` is what becomes of it: at this endpoint's own send, what its peer answers.
  | evXsendLanding (vi chan seq src dst off : Nat) (lines : List (List Byte × BitVec 16)) (fate : Landing)
  | evXredReduce (vi chan seq : Nat) (peers : List PeerPart)
  | evExchangeOpComplete (vi chan seq : Nat) | evExchangePeerTimeout (vi chan rank : Nat)
  | evExchangePeerClose (vi chan rank : Nat)
  -- events: traps, watchdog, errors
  | evAsyncTrapDelivery (sid : Nat) | evWatchdogExpiry (sid : Nat) | evEphemeralExpiry (line : Nat)
  -- in a line of memory, or of the scratchpad of a team
  | evSoftError (team : Option Nat) (line : Nat) (correctable : Bool)
  -- the end of a die's command stands here with the events that the engines raise
  | evDctlCommandDone (die : Nat) (ok : Bool) (repair : Nat)
  -- events: host port and links
  -- a write may carry the attributes of relaxed ordering and of ID-based ordering (R298)
  | evHostWrite (vi off : Nat) (data : List Byte) (relaxed ido : Bool) | evTagWindowWrite (vi off : Nat) (tag : BitVec 16)
  | evHostRead (vi : Nat) (a : HostAddr) (n : Nat) | evMmioRegisterWrite (r : BarReg) (v : Word)
  | evHostAtomicop (vi off : Nat) (w8 : Bool) (op : HostAtomic) (v : Word)
  -- of n bytes, read or written; its completion carries its tag
  | evCxlMemRequest (pa : Nat) (write : Bool) (data : List Byte) (n tag : Nat)
  | evWeatreInboundRequest (src : Nat) (req : WeatreReq)
  | evFlitRetry (link : Nat) | evLinkFailure (link : Nat) | evDeviceUnreachable (dev : Nat)
  | evLinkLayerRetry (port : Nat) | evLongHaulAck (port bytes : Nat) | evLhcfgWrite (port : Nat) (v : Word)
  | evQuotaRecordWrite (vi off : Nat) (v : Word) | evViReset (vi : Nat) | evViResetComplete (vi : Nat)
  | evCounterSnapshot (vi : Nat) | evCounterClear (vi : Nat)
  | evEvqheadWrite (vi : Nat) (v : Word) | evEvqstatWrite (vi : Nat) (v : Word) | evMailboxDoorbell
  | evDctlAdmit (die : Nat) (v : Word) | evDctlDrain (die : Nat) | evDctlWb (die : Nat) | evDctlMig (die : Nat)
  | evDctlQuiesce (die : Nat) | evDctlRst (die : Nat) | evDctlRetrain (die : Nat)
  | evOperatingPointChange (island point : Nat) | evPcapEstimate (e : PowerEstimate) | evThermalTrip
  | evThermalReset
  -- events: boot
  | evDeviceReset | evBootPuf (ok : Bool) | evBootDhcp (ok : Bool) | evBootFetch (ok : Bool) (img : BootFile)
  -- BIST: the array dies that passed, and those whose self-repair found spare rows enough
  | evBootVerify (c : ImageCheck) | evBootRetry | evBootBist (pass spare : BitVec 4)
  | evBootDice
  | evMonitorStart (keys : BootKeys)
  | evLinkStateChange (link : Nat) (up : Bool) | evExchangePeerOpen (vi chan rank : Nat)
  | evEthernetTransportGaveUp (vi chan rank : Nat) | evConfigurationRequest (fn : Nat)
deriving DecidableEq, Repr

end Sys2Proof
end

