-- ==== Sys2Proof/WellFormed.lean ====
section
/-! DEFINITION. Which instructions a word may encode: the static conditions of R25 and of the instructions' entries. -/

namespace Sys2Proof

open Machine

/-- A vector slot: v0–v47, an index register or a queue (Table 2.3). -/
def Opnd.okV : Opnd → Bool
  | .reg n => n.toNat < 48
  | _ => true

/-- The first register of a group of `k` vector registers (R153): not past v47, an index register, or a queue, which gives or takes
k entries (R26; DEDUCED, log 6). -/
def Opnd.okVGroup (k : Nat) : Opnd → Bool
  | .reg n => n.toNat + k ≤ 48
  | .ix _ | .q _ => true

/-- A mask slot: m0–m11 or an index register (Table 2.3). -/
def Opnd.okM : Opnd → Bool
  | .reg n => n.toNat < 12
  | .ix _ => true
  | .q _ => false

/-- A slot without queue codes: J and B formats (R26) and VAMO (R331). -/
def Opnd.noQ : Opnd → Bool
  | .q _ => false
  | _ => true

/-- The mask field of R29: MSK = 0, or 1 to 12. -/
def Mk.ok : Mk → Bool
  | .all => true
  | .m n _ => n.toNat < 12

/-- A defined format code named by a word (R48). -/
def fmtOk (f : FmtCode) : Bool := !fmtReserved f

def FmtSel.ok : FmtSel → Bool
  | .imm f => fmtOk f
  | .reg _ => true

/-- A space whose order is not the reserved one: release on a load, acquire on a store. Chapter 10 reserves these in the byte forms
alone (log 99). -/
def Space.okOrd (bad : Ord) : Space → Bool
  | .mem _ o => o != bad
  | .sp o => o != bad

def Qual.okLoad : Qual → Bool
  | .mem _ o => o != .rel
  | .sp o => o != .rel
  | .kb _ => true

/-- Which sizes an AOP takes (Table 13.2) and what IMM16 may hold in FXADD (R327). -/
def amoOk (op : Aop) (w8 : Bool) (imm : BitVec 16) : Bool :=
  match op with
  | .fadd32 => !w8
  | .fadd64 => w8
  | .fxadd => w8 && imm.toNat < 2 ^ 11
  | _ => true

/-- The shift forms with an immediate need IMM16[15:6] = 0 (R131). -/
def shiftOk : SrcB → Bool
  | .op _ => true
  | .imm i => i.toNat < 64

/-- CWR and CRSW name a register that some privilege may write (R142). -/
def crWritable (n : BitVec 12) : Bool := crExists n.toNat && !crReadOnly n.toNat

/-- A tile's space, scope and atomicity (R202). -/
def tileOk (atom : Bool) (bad : Ord) : Space → Bool
  | .mem sc o => o != bad && !(atom && sc == .core)
  | .sp o => o != bad

def canvasFmt (f : FmtCode) : Bool := f == 0x03#6 || f == 0x0B#6 || f == 0x0C#6

/-- The well-formed operations: what some word encodes. Events carry no static condition. -/
def Instr.wf : Instr → Bool
  | .shl _ _ b | .shr _ _ b | .sra _ _ b => shiftOk b
  | .bfx _ _ pos len1 _ => pos.toNat + len1.toNat + 1 ≤ 64
  | .bfi _ _ _ pos len1 => pos.toNat + len1.toNat + 1 ≤ 64
  | .jal d _ => d.noQ
  | .beq a b _ | .bne a b _ | .blt a b _ | .bge a b _ | .bltu a b _ | .bgeu a b _ => a.noQ && b.noQ
  | .fcmp _ cond _ _ _ => cond.toNat < 5
  | .ld sz sp _ _ _ _ => sz.toNat < 7 && sp.okOrd .rel
  | .st _ sp _ _ _ _ => sp.okOrd .acq
  | .stPatch sc o _ _ _ _ => sc != .core && (o == .plain || o == .rel)
  | .amo op w8 _ _ _ _ imm => amoOk op w8 imm
  | .fence kind _ => kind.toNat < 5
  | .crd _ n => crExists n.toNat
  | .cwr n _ => crWritable n
  | .crsw _ n _ => crWritable n
  | .vsetl _ _ f | .vgetcap _ f => f.ok
  | .getid _ w => w.toNat < 10
  | .vtag _ d f => d.okV && f.ok
  | .vgtag w _ a => w.toNat < 3 && a.okV
  | .vcvt mk _ d a f => mk.ok && d.okV && a.okV && fmtOk f && f != 0#6
  | .vresc mk _ d a _ => mk.ok && d.okV && a.okV
  | .vvalid w d a => w.toNat < 3 && d.okM && a.okV
  | .vsave _ o _ _ c _ => o != .acq && c.okV
  | .vrstr _ o d _ _ _ => o != .rel && d.okV
  | .vmov mk rm all d a => mk.ok && d.okV && a.okV && (!all || (mk == .all && rm == .fctl))
  | .vsplat mk _ _ d _ f => mk.ok && d.okV && fmtOk f
  | .viota mk _ _ d f => mk.ok && d.okV && fmtOk f && f != 0#6
  | .vext _ _ a _ => a.okV
  | .vins _ d _ _ => d.okV
  | .vadd mk _ _ _ d a b | .vsub mk _ _ _ d a b | .vmul mk _ _ _ d a b
  | .vmin mk _ _ d a b | .vmax mk _ _ d a b | .vdiv mk _ _ d a b
  | .vand mk d a b | .vor mk d a b | .vxor mk d a b
  | .vshuf mk _ d a b | .vzip mk _ _ d a b | .vlook mk _ d a b => mk.ok && d.okV && a.okV && b.okV
  | .vfma mk _ _ _ d a b c | .vclip mk _ _ d a b c => mk.ok && d.okV && a.okV && b.okV && c.okV
  | .vabs mk _ _ d a | .vneg mk _ _ d a | .vsqrt mk _ d a | .vrsqrt mk _ d a | .vrcp mk _ d a
  | .vexp2 mk _ d a | .vlog2 mk _ d a | .vnot mk d a | .vrsum mk _ _ _ d a | .vrmax mk _ _ _ d a
  | .vrmin mk _ _ _ d a | .vslup mk _ d a _ | .vsldn mk _ d a _ | .vcomp mk _ d a
  | .vexpd mk _ d a => mk.ok && d.okV && a.okV
  | .vcmp mk cond d a b => mk.ok && cond.toNat < 7 && d.okM && a.okV && b.okV
  | .vsel mk _ _ d a b c => mk.ok && d.okV && a.okV && b.okV && c.okM
  | .vshl mk d a b | .vshr mk d a b | .vsra mk d a b =>
    mk.ok && d.okV && a.okV && (match b with | .imm _ => true | .reg o => o.okV)
  | .vscan mk _ _ _ op d a => mk.ok && op.toNat < 3 && d.okV && a.okV
  | .vunpk mk d a _ f => mk.ok && d.okV && a.okV && isWInt f
  | .vpack mk _ d a _ => mk.ok && d.okV && a.okV
  | .vtopk mk _ d a c k bs =>
    mk.ok && d.okVGroup 2 && a.okV && c.okV && bs.toNat < 5 && 1 ≤ k.toNat && k.toNat ≤ 64 * 2 ^ bs.toNat
  | .vdot4 mk _ _ d a b => mk.ok && d.okV && a.okVGroup 4 && b.okVGroup 4
  | .mlog _ d a b => d.okM && a.okM && b.okM
  | .mpop _ a | .mfirst _ a => a.okM
  | .mset d _ => d.okM
  | .mtov mk _ d a f => mk.ok && d.okV && a.okM && (isWInt f || isIeee f)
  | .vtom mk d a => mk.ok && d.okM && a.okV
  | .vld mk _ ql trim d _ _ _ => mk.ok && ql.okLoad && d.okV && (!trim || (match ql with | .kb _ => true | _ => false))
  | .vlds mk _ ql d _ _ _ | .vldf mk _ ql d _ _ _ => mk.ok && ql.okLoad && d.okV
  | .vldx mk _ ql d _ b _ => mk.ok && ql.okLoad && d.okV && b.okV
  | .vldm mk _ _ d _ _ _ => mk.ok && d.okV
  | .vldg mk _ _ d _ _ _ k => mk.ok && d.okVGroup k.toNat && d.noQ && 1 ≤ k.toNat && k.toNat ≤ 8
  | .vst mk _ sp d _ _ _ | .vsts mk _ sp d _ _ _ => mk.ok && sp.okOrd .acq && d.okV
  | .vstx mk _ sp d _ b _ => mk.ok && sp.okOrd .acq && d.okV && b.okV
  | .vstm mk _ _ d _ _ _ => mk.ok && d.okV
  | .vstg mk _ _ d _ _ _ k => mk.ok && d.okVGroup k.toNat && d.noQ && 1 ≤ k.toNat && k.toNat ≤ 8
  | .vamo mk op noret _ d a b c e =>
    mk.ok && d.okV && d.noQ && a.noQ && b.okV && b.noQ && c.okV && c.noQ && (!noret || d == .reg 0#6)
      && (op == .fxadd || e == 0#11)
  | .mnfget _ _ w => w.toNat < 12
  | .mnfset ad _ _ w => w.toNat < 12 && !(ad && 1 ≤ w.toNat && w.toNat ≤ 3)
  | .czero _ cf _ => canvasFmt cf
  | .cop mk _ _ a b => mk.ok && a.okV && b.okV
  | .copk mk _ _ a b k => mk.ok && a.okVGroup k.toNat && b.okVGroup k.toNat && 1 ≤ k.toNat && k.toNat ≤ 8
  | .crrow mk _ _ d _ _ f => mk.ok && d.okV && fmtOk f && f != 0#6
  | .crcol mk _ _ _ d _ _ f => mk.ok && d.okV && fmtOk f && f != 0#6
  | .cwrow mk _ _ _ b => mk.ok && b.okV
  | .cwcol mk _ _ _ _ b => mk.ok && b.okV
  | .cld _ atom sp _ _ _ _ _ => tileOk atom .rel sp
  | .cst _ atom sp _ _ _ _ _ => tileOk atom .acq sp
  | .cstj _ sc o _ _ _ _ => sc != .core && o != .acq
  | .cstat _ _ w => w.toNat < 5
  | .cpgather mk _ _ b _ _ => mk.ok && b.okV
  | .cpresume _ _ mode => mode.toNat < 3
  | .xred mode _ _ _ _ _ => mode.toNat < 3
  | .tlbinv ty a b =>
    ty.toNat < 5 && (ty == 1#3 || ty == 3#3 || a == .reg 0#6) && (ty != 4#3 || b == .reg 0#6)
  | .rcstart _ _ _ _ f => fmtOk f && f != 0#6
  | _ => true

end Sys2Proof
end

