-- ==== Sys2Proof/Decode.lean ====
section
/-! DEFINITION. The instruction words: their fields (R22, R23), the encoder and the decoder, and the ILLEGAL sub-codes
0x0–0x5 of Table 2.2. -/

namespace Sys2Proof

open Machine

/-- The fields of a word in format R (Table 2.1). The other formats are views of these fields: IMM37 is B, C, FN and
IMM16 joined, OFF44 is A and IMM37 joined, and in format B the slots A and B stand in the fields D and A. -/
structure RWord where
  op : BitVec 8
  msk : BitVec 4 := 0#4
  minv : BitVec 1 := 0#1
  d : BitVec 7 := 0#7
  a : BitVec 7 := 0#7
  b : BitVec 7 := 0#7
  c : BitVec 7 := 0#7
  fn : BitVec 7 := 0#7
  imm : BitVec 16 := 0#16
deriving DecidableEq, Repr

/-- The 64-bit word of the fields. -/
def RWord.pack (r : RWord) : Word :=
  r.op ++ r.msk ++ r.minv ++ r.d ++ r.a ++ r.b ++ r.c ++ r.fn ++ r.imm

/-- The fields of a 64-bit word. -/
def RWord.unpack (w : Word) : RWord :=
  { op := w.extractLsb' 56 8, msk := w.extractLsb' 52 4, minv := w.extractLsb' 51 1, d := w.extractLsb' 44 7,
    a := w.extractLsb' 37 7, b := w.extractLsb' 30 7, c := w.extractLsb' 23 7, fn := w.extractLsb' 16 7,
    imm := w.extractLsb' 0 16 }

/-! ### Field codes -/

/-- Table 2.3. -/
def Opnd.code : Opnd → BitVec 7
  | .reg n => 0#1 ++ n
  | .ix n => 0b1000#4 ++ n
  | .q n => 0b1001#4 ++ n

def Opnd.of (c : BitVec 7) : Option Opnd :=
  if c.extractLsb' 6 1 == 0#1 then some (.reg (c.extractLsb' 0 6))
  else if c.extractLsb' 3 4 == 0b1000#4 then some (.ix (c.extractLsb' 0 3))
  else if c.extractLsb' 3 4 == 0b1001#4 then some (.q (c.extractLsb' 0 3))
  else none

/-- A slot of a file of 8 registers without indirect codes (canvas, index, queue). -/
def code3 (n : BitVec 3) : BitVec 7 := 0#4 ++ n

def of3 (c : BitVec 7) : Option (BitVec 3) :=
  if c.extractLsb' 3 4 == 0#4 then some (c.extractLsb' 0 3) else none

/-- A slot of a file of 16 (manifest, stream). -/
def code4 (n : BitVec 4) : BitVec 7 := 0#3 ++ n

def of4 (c : BitVec 7) : Option (BitVec 4) :=
  if c.extractLsb' 4 3 == 0#3 then some (c.extractLsb' 0 4) else none

def Mk.msk : Mk → BitVec 4
  | .all => 0#4
  | .m n _ => n + 1#4

def Mk.minv : Mk → BitVec 1
  | .all => 0#1
  | .m _ inv => BitVec.ofBool inv

/-- R29: MSK = n names m(n−1). -/
def Mk.of (msk : BitVec 4) (minv : BitVec 1) : Option Mk :=
  if msk == 0#4 then (if minv == 0#1 then some .all else none)
  else some (.m (msk - 1#4) (minv == 1#1))

def Rm.code : Rm → BitVec 3
  | .fctl => 0#3 | .rne => 1#3 | .rtz => 2#3 | .rdn => 3#3 | .rup => 4#3 | .rna => 5#3

def Rm.of (c : BitVec 3) : Option Rm :=
  match c.toNat with
  | 0 => some .fctl | 1 => some .rne | 2 => some .rtz | 3 => some .rdn | 4 => some .rup | 5 => some .rna
  | _ => none

def FTy.code : FTy → BitVec 3
  | .f64 => 0#3 | .f32 => 1#3 | .f16 => 2#3 | .bf16 => 3#3

def FTy.of (c : BitVec 3) : Option FTy :=
  match c.toNat with
  | 0 => some .f64 | 1 => some .f32 | 2 => some .f16 | 3 => some .bf16
  | _ => none

def Scope.code : Scope → BitVec 2
  | .core => 0#2 | .dev => 1#2 | .sys => 2#2

def Scope.of (c : BitVec 2) : Option Scope :=
  match c.toNat with
  | 0 => some .core | 1 => some .dev | 2 => some .sys
  | _ => none

def Ord.code : Ord → BitVec 2
  | .plain => 0#2 | .acq => 1#2 | .rel => 2#2 | .sc => 3#2

def Ord.of (c : BitVec 2) : Ord :=
  match c.toNat with
  | 0 => .plain | 1 => .acq | 2 => .rel
  | _ => .sc

/-- Table 13.2. -/
def Aop.code : Aop → BitVec 4
  | .add => 0#4 | .and => 1#4 | .or => 2#4 | .xor => 3#4 | .min => 4#4 | .max => 5#4 | .minu => 6#4 | .maxu => 7#4
  | .swap => 8#4 | .fadd32 => 9#4 | .fadd64 => 10#4 | .fxadd => 11#4

def Aop.of (c : BitVec 4) : Option Aop :=
  match c.toNat with
  | 0 => some .add | 1 => some .and | 2 => some .or | 3 => some .xor | 4 => some .min | 5 => some .max
  | 6 => some .minu | 7 => some .maxu | 8 => some .swap | 9 => some .fadd32 | 10 => some .fadd64 | 11 => some .fxadd
  | _ => none

/-- KIND in [2:0] and SFMT in [5:3] of IMM16 (R138). -/
def FCvtKind.code : FCvtKind → BitVec 16
  | .flt src => 0#10 ++ src.code ++ 0#3
  | .fromI => 1#16 | .fromN => 2#16 | .toI => 3#16 | .toN => 4#16

def FCvtKind.of (c : BitVec 16) : Option FCvtKind :=
  match (c.extractLsb' 0 3).toNat with
  | 0 => (FTy.of (c.extractLsb' 3 3)).map .flt
  | 1 => some .fromI | 2 => some .fromN | 3 => some .toI | 4 => some .toN
  | _ => none

/-- FN of a memory form: SZ or RM or mode, SCOPE, ORD (Table 2.4). -/
def memFn (hi : BitVec 3) (sc : Scope) (o : Ord) : BitVec 7 := hi ++ sc.code ++ o.code

/-- SCOPE and ORD of a space; SPACE = 1 has SCOPE 0 (R31). -/
def Space.fn (hi : BitVec 3) : Space → BitVec 7
  | .mem sc o => memFn hi sc o
  | .sp o => memFn hi .core o

def Space.bit : Space → BitVec 1
  | .mem _ _ => 0#1
  | .sp _ => 1#1

def Space.of (bit : BitVec 1) (fn : BitVec 7) : Option Space :=
  if bit == 1#1 then some (.sp (Ord.of (fn.extractLsb' 0 2)))
  else (Scope.of (fn.extractLsb' 2 2)).map fun sc => .mem sc (Ord.of (fn.extractLsb' 0 2))

/-- The qualifier field C of the scalar forms: SPACE in C[23] only. -/
def Space.qual (s : Space) : BitVec 7 := 0#6 ++ s.bit

def Qual.fn (hi : BitVec 3) : Qual → BitVec 7
  | .mem sc o => memFn hi sc o
  | .sp o => memFn hi .core o
  | .kb k => hi ++ k

/-- The qualifier field C of the vector loads: SPACE, TRIM and KB in C[25:23] (Table 2.4). -/
def Qual.qual (trim : Bool) : Qual → BitVec 7
  | .mem _ _ => 0#5 ++ BitVec.ofBool trim ++ 0#1
  | .sp _ => 0#5 ++ BitVec.ofBool trim ++ 1#1
  | .kb _ => 0#4 ++ 1#1 ++ BitVec.ofBool trim ++ 1#1

def Qual.of (c fn : BitVec 7) : Option Qual :=
  if c.extractLsb' 2 1 == 1#1 then some (.kb (fn.extractLsb' 0 4))
  else (Space.of (c.extractLsb' 0 1) fn).map fun
    | .mem sc o => .mem sc o
    | .sp o => .sp o

def rmFn (rm : Rm) (lo : BitVec 4 := 0#4) : BitVec 7 := rm.code ++ lo

/-- RM, SAT, WIDE and FN[17:16] of a polymorphic form (R32). -/
def vFn (rm : Rm) (sat wide : Bool) (lo : BitVec 2 := 0#2) : BitVec 7 :=
  rm.code ++ BitVec.ofBool sat ++ BitVec.ofBool wide ++ lo

def fmt16 (f : FmtCode) : BitVec 16 := 0#10 ++ f

/-! ### The encoder's shapes -/

def encInt (op : BitVec 8) (d a : Opnd) : SrcB → RWord
  | .op b => { op, d := d.code, a := a.code, b := b.code }
  | .imm i => { op, d := d.code, a := a.code, fn := 0x40#7, imm := i }

def encI37 (op : BitVec 8) (d a : BitVec 7) (i : BitVec 37) : RWord :=
  { op, d, a, b := i.extractLsb' 30 7, c := i.extractLsb' 23 7, fn := i.extractLsb' 16 7, imm := i.extractLsb' 0 16 }

def encJ (op : BitVec 8) (d : BitVec 7) (i : BitVec 44) : RWord :=
  encI37 op d (i.extractLsb' 37 7) (i.extractLsb' 0 37)

def encF (op : BitVec 8) (t : FTy) (rm : Rm) (d a : Opnd) (b c : BitVec 7 := 0#7) (imm : BitVec 16 := 0#16) : RWord :=
  { op, d := d.code, a := a.code, b, c, fn := rm.code ++ 0#1 ++ t.code, imm }

/-- A vector form with mask field and operands D, A, B, C. -/
def encV (op : BitVec 8) (mk : Mk) (fn : BitVec 7) (d a : Opnd) (b c : BitVec 7 := 0#7) (imm : BitVec 16 := 0#16) :
    RWord :=
  { op, msk := mk.msk, minv := mk.minv, d := d.code, a := a.code, b, c, fn, imm }

/-- A vector form whose B operand is a register or an immediate chosen by FN[16]. -/
def encVImm (op : BitVec 8) (mk : Mk) (hi : BitVec 3) (d a : Opnd) (b : SrcB) : RWord :=
  match b with
  | .op o => encV op mk (hi ++ 0#4) d a o.code
  | .imm i => encV op mk (hi ++ 1#4) d a 0#7 0#7 i

def encShift (op : BitVec 8) (mk : Mk) (d a : Opnd) (b : IdxSel 6) : RWord :=
  match b with
  | .reg o => encV op mk 0#7 d a o.code
  | .imm i => encV op mk 1#7 d a 0#7 0#7 (0#10 ++ i)

def encFmtSel (op : BitVec 8) (d a : BitVec 7) (bit : BitVec 7) (inA : Bool) : FmtSel → RWord
  | .imm f => { op, d, a, fn := if inA then bit else 0#7, imm := fmt16 f }
  | .reg o => if inA then { op, d, a := o.code } else { op, d, a, b := o.code, fn := bit }

/-- The row and column forms (Table 7.3). -/
def encRowCol (op : BitVec 8) (mk : Mk) (fn : BitVec 7) (d a b : BitVec 7) (xInA : Bool) (x : IdxSel 8) (f : FmtCode) :
    RWord :=
  match x with
  | .imm n => { op, msk := mk.msk, minv := mk.minv, d, a := if xInA then 0#7 else a, b := if xInA then b else 0#7,
                fn := fn ||| 1#7, imm := 0#2 ++ n ++ f }
  | .reg o => { op, msk := mk.msk, minv := mk.minv, d, a := if xInA then o.code else a,
                b := if xInA then b else o.code, fn, imm := fmt16 f }

/-- IMM16 of a manifest form: SP in [14] and the low bits. -/
def spImm (s : Space) (lo : BitVec 14) : BitVec 16 := 0#1 ++ s.bit ++ lo

def encCtx (op : BitVec 8) (d : BitVec 7) (fn : BitVec 7) (base : CtxBase) (imm : BitVec 16) : RWord :=
  match base with
  | .ssc => { op, d, fn := fn ||| 1#7, imm }
  | .at a b => { op, d, a := a.code, b := b.code, fn, imm }

/-- The fields of an instruction's word, from the encoding tables of the entries; events have no word. -/
def encodeR : Instr → RWord
  | .add d a b => encInt 0x01#8 d a b | .sub d a b => encInt 0x02#8 d a b | .mul d a b => encInt 0x03#8 d a b
  | .mulh d a b => encInt 0x04#8 d a b | .mulhu d a b => encInt 0x05#8 d a b | .div d a b => encInt 0x06#8 d a b
  | .divu d a b => encInt 0x07#8 d a b | .rem d a b => encInt 0x08#8 d a b | .remu d a b => encInt 0x09#8 d a b
  | .and d a b => encInt 0x0A#8 d a b | .or d a b => encInt 0x0B#8 d a b | .xor d a b => encInt 0x0C#8 d a b
  | .shl d a b => encInt 0x0D#8 d a b | .shr d a b => encInt 0x0E#8 d a b | .sra d a b => encInt 0x0F#8 d a b
  | .slt d a b => encInt 0x10#8 d a b | .sltu d a b => encInt 0x11#8 d a b | .min d a b => encInt 0x12#8 d a b
  | .max d a b => encInt 0x13#8 d a b | .minu d a b => encInt 0x14#8 d a b | .maxu d a b => encInt 0x15#8 d a b
  | .clz d a => { op := 0x16#8, d := d.code, a := a.code }
  | .ctz d a => { op := 0x17#8, d := d.code, a := a.code }
  | .popc d a => { op := 0x18#8, d := d.code, a := a.code }
  | .bfx d a pos len1 sx =>
    { op := 0x19#8, d := d.code, a := a.code, imm := 0#3 ++ BitVec.ofBool sx ++ len1 ++ pos }
  | .bfi d a b pos len1 => { op := 0x1A#8, d := d.code, a := a.code, b := b.code, imm := 0#4 ++ len1 ++ pos }
  | .sel d a b c => { op := 0x1B#8, d := d.code, a := a.code, b := b.code, c := c.code }
  | .li d i => encI37 0x1C#8 d.code 0#7 i
  | .lih d a i => encI37 0x1D#8 d.code a.code (0#10 ++ i)
  | .jmp off => encJ 0x20#8 0#7 off
  | .jal d off => encJ 0x21#8 d.code off
  | .jr d a i => { op := 0x22#8, d := d.code, a := a.code, imm := i }
  | .beq a b off => encI37 0x23#8 a.code b.code off | .bne a b off => encI37 0x24#8 a.code b.code off
  | .blt a b off => encI37 0x25#8 a.code b.code off | .bge a b off => encI37 0x26#8 a.code b.code off
  | .bltu a b off => encI37 0x27#8 a.code b.code off | .bgeu a b off => encI37 0x28#8 a.code b.code off
  | .fadd t rm d a b => encF 0x30#8 t rm d a b.code | .fsub t rm d a b => encF 0x31#8 t rm d a b.code
  | .fmul t rm d a b => encF 0x32#8 t rm d a b.code | .fdiv t rm d a b => encF 0x33#8 t rm d a b.code
  | .fsqrt t rm d a => encF 0x34#8 t rm d a
  | .fma t rm d a b c => encF 0x35#8 t rm d a b.code c.code
  | .fmin t d a b => encF 0x36#8 t .fctl d a b.code | .fmax t d a b => encF 0x37#8 t .fctl d a b.code
  | .fcmp t cond d a b => encF 0x38#8 t .fctl d a b.code 0#7 (0#13 ++ cond)
  | .fcvt t rm kind d a => encF 0x39#8 t rm d a 0#7 0#7 kind.code
  | .fclass t d a => encF 0x3A#8 t .fctl d a
  | .ld sz sp d a b i =>
    { op := 0x40#8, d := d.code, a := a.code, b := b.code, c := sp.qual, fn := sp.fn sz, imm := i }
  | .st sz sp d a b i =>
    { op := 0x41#8, d := d.code, a := a.code, b := b.code, c := sp.qual, fn := sp.fn (0#1 ++ sz), imm := i }
  | .stPatch sc o d a b i => { op := 0x41#8, d := d.code, a := a.code, b := b.code, fn := memFn 7#3 sc o, imm := i }
  | .amo op w8 sp d a b i =>
    { op := 0x42#8, d := d.code, a := a.code, b := b.code, c := 0#2 ++ op.code ++ sp.bit,
      fn := sp.fn (0b01#2 ++ BitVec.ofBool w8), imm := i }
  | .cas w8 sp d a b i =>
    { op := 0x43#8, d := d.code, a := a.code, b := b.code, c := sp.qual, fn := sp.fn (0b01#2 ++ BitVec.ofBool w8),
      imm := i }
  | .fence kind sc => { op := 0x44#8, fn := memFn kind sc .plain }
  | .lsync => { op := 0x45#8 }
  | .flush a b c i => { op := 0x46#8, a := a.code, b := b.code, c := c.code, imm := i }
  | .inval a b c i => { op := 0x47#8, a := a.code, b := b.code, c := c.code, imm := i }
  | .ixset d a => { op := 0x50#8, d := code3 d, a := a.code }
  | .ixget d a => { op := 0x51#8, d := d.code, a := code3 a }
  | .ixadv d n => (match n with
    | .op o => { op := 0x52#8, d := code3 d, a := o.code }
    | .imm i => { op := 0x52#8, d := code3 d, fn := 0x40#7, imm := i })
  | .ixoff d n => (match n with
    | .op o => { op := 0x53#8, d := code3 d, a := o.code }
    | .imm i => { op := 0x53#8, d := code3 d, fn := 0x40#7, imm := i })
  | .crd d n => { op := 0x54#8, d := d.code, imm := 0#4 ++ n }
  | .cwr n a => { op := 0x55#8, a := a.code, imm := 0#4 ++ n }
  | .crsw d n a => { op := 0x56#8, d := d.code, a := a.code, imm := 0#4 ++ n }
  | .vsetl d a f => encFmtSel 0x57#8 d.code a.code 1#7 false f
  | .vgetcap d f => encFmtSel 0x58#8 d.code 0#7 1#7 false f
  | .palsel n => (match n with
    | .imm k => { op := 0x59#8, fn := 0x40#7, imm := 0#12 ++ k }
    | .reg o => { op := 0x59#8, a := o.code })
  | .palrd d a => { op := 0x5A#8, d := d.code, a := a.code }
  | .palwr a b => { op := 0x5B#8, a := a.code, b := b.code }
  | .getid d w => { op := 0x5C#8, d := d.code, imm := 0#12 ++ w }
  | .heartbeat a => { op := 0x5D#8, a := a.code }
  | .vtag zero d f =>
    let r := encFmtSel 0x60#8 d.code 0#7 0x40#7 true f
    { r with fn := r.fn ||| (0#6 ++ BitVec.ofBool zero) }
  | .vgtag w d a => { op := 0x61#8, d := d.code, a := a.code, fn := 0#5 ++ w }
  | .vcvt mk rm d a f => encV 0x62#8 mk (rmFn rm) d a 0#7 0#7 (fmt16 f)
  | .vresc mk rm d a b => encV 0x63#8 mk (rmFn rm) d a b.code
  | .vvalid w d a => { op := 0x64#8, d := d.code, a := a.code, fn := 0#5 ++ w }
  | .vsave sc o a b c i =>
    { op := 0x65#8, a := a.code, b := b.code, c := c.code, fn := memFn 0#3 sc o, imm := i }
  | .vrstr sc o d a b i =>
    { op := 0x66#8, d := d.code, a := a.code, b := b.code, fn := memFn 0#3 sc o, imm := i }
  | .vmov mk rm all d a => encV 0x67#8 mk (rmFn rm (0#3 ++ BitVec.ofBool all)) d a
  | .vsplat mk rm st d a f => encV 0x68#8 mk (rmFn rm (0#2 ++ st)) d a 0#7 0#7 (fmt16 f)
  | .viota mk rm count d f =>
    encV 0x69#8 mk (rmFn rm (0#3 ++ BitVec.ofBool count)) d (.reg 0#6) 0#7 0#7 (fmt16 f)
  | .vext rm d a e => (match e with
    | .imm n => encV 0x6A#8 .all (rmFn rm 1#4) d a 0#7 0#7 (0#6 ++ n)
    | .reg o => encV 0x6A#8 .all (rmFn rm) d a o.code)
  | .vins rm d a e => (match e with
    | .imm n => encV 0x6B#8 .all (rmFn rm 1#4) d a 0#7 0#7 (0#6 ++ n)
    | .reg o => encV 0x6B#8 .all (rmFn rm) d a o.code)
  | .vadd mk rm sat wide d a b => encV 0x70#8 mk (vFn rm sat wide) d a b.code
  | .vsub mk rm sat wide d a b => encV 0x71#8 mk (vFn rm sat wide) d a b.code
  | .vmul mk rm sat wide d a b => encV 0x72#8 mk (vFn rm sat wide) d a b.code
  | .vfma mk rm sat wide d a b c => encV 0x73#8 mk (vFn rm sat wide) d a b.code c.code
  | .vmin mk rm sat d a b => encV 0x74#8 mk (vFn rm sat false) d a b.code
  | .vmax mk rm sat d a b => encV 0x75#8 mk (vFn rm sat false) d a b.code
  | .vabs mk rm sat d a => encV 0x76#8 mk (vFn rm sat false) d a
  | .vneg mk rm sat d a => encV 0x77#8 mk (vFn rm sat false) d a
  | .vdiv mk rm sat d a b => encV 0x78#8 mk (vFn rm sat false) d a b.code
  | .vsqrt mk rm d a => encV 0x79#8 mk (rmFn rm) d a | .vrsqrt mk rm d a => encV 0x7A#8 mk (rmFn rm) d a
  | .vrcp mk rm d a => encV 0x7B#8 mk (rmFn rm) d a | .vexp2 mk rm d a => encV 0x7C#8 mk (rmFn rm) d a
  | .vlog2 mk rm d a => encV 0x7D#8 mk (rmFn rm) d a
  | .vclip mk rm sat d a b c => encV 0x7E#8 mk (vFn rm sat false) d a b.code c.code
  | .vcmp mk cond d a b => encV 0x7F#8 mk 0#7 d a b.code 0#7 (0#13 ++ cond)
  | .vsel mk rm sat d a b c => encV 0x80#8 mk (vFn rm sat false) d a b.code c.code
  | .vand mk d a b => encV 0x81#8 mk 0#7 d a b.code | .vor mk d a b => encV 0x82#8 mk 0#7 d a b.code
  | .vxor mk d a b => encV 0x83#8 mk 0#7 d a b.code | .vnot mk d a => encV 0x84#8 mk 0#7 d a
  | .vshl mk d a b => encShift 0x85#8 mk d a b | .vshr mk d a b => encShift 0x86#8 mk d a b
  | .vsra mk d a b => encShift 0x87#8 mk d a b
  | .vrsum mk rm sat wide d a => encV 0x88#8 mk (vFn rm sat wide) d a
  | .vrmax mk rm sat wide d a => encV 0x89#8 mk (vFn rm sat wide) d a
  | .vrmin mk rm sat wide d a => encV 0x8A#8 mk (vFn rm sat wide) d a
  | .vscan mk rm sat wide op d a => encV 0x8B#8 mk (vFn rm sat wide op) d a
  | .vslup mk rm d a n => encVImm 0x8C#8 mk rm.code d a n | .vsldn mk rm d a n => encVImm 0x8D#8 mk rm.code d a n
  | .vshuf mk rm d a b => encV 0x8E#8 mk (rmFn rm) d a b.code
  | .vcomp mk rm d a => encV 0x8F#8 mk (rmFn rm) d a | .vexpd mk rm d a => encV 0x90#8 mk (rmFn rm) d a
  | .vzip mk rm mode d a b => encV 0x91#8 mk (rmFn rm (0#2 ++ mode)) d a b.code
  | .vunpk mk d a w1 f => encV 0x92#8 mk 0#7 d a 0#7 0#7 (0#4 ++ w1 ++ 0#2 ++ f)
  | .vpack mk sat d a w1 => encV 0x93#8 mk (vFn .fctl sat false) d a 0#7 0#7 (0#4 ++ w1 ++ 0#8)
  | .vlook mk rm d a b => encV 0x94#8 mk (rmFn rm) d a b.code
  | .vtopk mk rm d a c k bs => encV 0x95#8 mk (rmFn rm) d a 0#7 c.code (0#1 ++ bs ++ 0#1 ++ k)
  | .vdot4 mk rm sat d a b => encV 0x96#8 mk (vFn rm sat false) d a b.code
  | .mlog tt d a b => { op := 0x97#8, d := d.code, a := a.code, b := b.code, imm := 0#12 ++ tt }
  | .mpop d a => { op := 0x98#8, d := d.code, a := a.code }
  | .mfirst d a => { op := 0x99#8, d := d.code, a := a.code }
  | .mset d n => (match n with
    | .op o => { op := 0x9A#8, d := d.code, a := o.code }
    | .imm i => { op := 0x9A#8, d := d.code, fn := 1#7, imm := i })
  | .mtov mk rm d a f => encV 0x9B#8 mk (rmFn rm) d a 0#7 0#7 (fmt16 f)
  | .vtom mk d a => encV 0x9C#8 mk 0#7 d a
  | .vld mk rm ql trim d a b i => encV 0xA0#8 mk (ql.fn rm.code) d a b.code (ql.qual trim) i
  | .vlds mk rm ql d a b i => encV 0xA1#8 mk (ql.fn rm.code) d a b.code (ql.qual false) i
  | .vldx mk rm ql d a b i => encV 0xA2#8 mk (ql.fn rm.code) d a b.code (ql.qual false) i
  | .vldf mk rm ql d a b i => encV 0xA3#8 mk (ql.fn rm.code) d a b.code (ql.qual false) i
  | .vldm mk rm sp d h b c =>
    { op := 0xA4#8, msk := mk.msk, minv := mk.minv, d := d.code, a := code4 h, b := b.code, c := c.code,
      fn := sp.fn rm.code, imm := spImm sp 0#14 }
  | .vldg mk rm sp d h b c k =>
    { op := 0xA5#8, msk := mk.msk, minv := mk.minv, d := d.code, a := code4 h, b := b.code, c := c.code,
      fn := sp.fn rm.code, imm := spImm sp (0#10 ++ k) }
  | .vst mk rm sp d a b i => encV 0xA6#8 mk (sp.fn rm.code) d a b.code sp.qual i
  | .vsts mk rm sp d a b i => encV 0xA7#8 mk (sp.fn rm.code) d a b.code sp.qual i
  | .vstx mk rm sp d a b i => encV 0xA8#8 mk (sp.fn rm.code) d a b.code sp.qual i
  | .vstm mk rm sp d h b c =>
    { op := 0xA9#8, msk := mk.msk, minv := mk.minv, d := d.code, a := code4 h, b := b.code, c := c.code,
      fn := sp.fn rm.code, imm := spImm sp 0#14 }
  | .vstg mk rm sp d h b c k =>
    { op := 0xAA#8, msk := mk.msk, minv := mk.minv, d := d.code, a := code4 h, b := b.code, c := c.code,
      fn := sp.fn rm.code, imm := spImm sp (0#10 ++ k) }
  | .vamo mk op noret sp d a b c e =>
    encV 0xAB#8 mk (sp.fn (0#2 ++ BitVec.ofBool noret)) d a b.code c.code (e ++ sp.bit ++ op.code)
  | .mnf d a b i => { op := 0xAC#8, d := code4 d, a := a.code, b := b.code, imm := i }
  | .mnfget d h w => { op := 0xAD#8, d := d.code, a := code4 h, imm := 0#12 ++ w }
  | .mnfset ad d a w =>
    { op := 0xAE#8, d := code4 d, a := a.code, fn := 0#6 ++ BitVec.ofBool ad, imm := 0#12 ++ w }
  | .czero d cf mr => (match mr with
    | .imm n => { op := 0xB0#8, d := code3 d, imm := 0#2 ++ n ++ cf }
    | .reg o => { op := 0xB0#8, d := code3 d, a := o.code, fn := 1#7, imm := fmt16 cf })
  | .cop mk rm d a b =>
    { op := 0xB1#8, msk := mk.msk, minv := mk.minv, d := code3 d, a := a.code, b := b.code, fn := rmFn rm }
  | .copk mk rm d a b k =>
    { op := 0xB2#8, msk := mk.msk, minv := mk.minv, d := code3 d, a := a.code, b := b.code, fn := rmFn rm,
      imm := 0#12 ++ k }
  | .crrow mk rm sat d c x f => encRowCol 0xB3#8 mk (vFn rm sat false) d.code (code3 c) 0#7 false x f
  | .crcol mk rm sat hi d c x f =>
    encRowCol 0xB4#8 mk (vFn rm sat false (BitVec.ofBool hi ++ 0#1)) d.code (code3 c) 0#7 false x f
  | .cwrow mk rm d x b => encRowCol 0xB5#8 mk (rmFn rm) (code3 d) 0#7 b.code true x 0#6
  | .cwcol mk rm hi d x b =>
    encRowCol 0xB6#8 mk (vFn rm false false (BitVec.ofBool hi ++ 0#1)) (code3 d) 0#7 b.code true x 0#6
  | .cld rm atom sp d h b c ncol =>
    { op := 0xB7#8, d := code3 d, a := code4 h, b := b.code, c := c.code, fn := sp.fn rm.code,
      imm := BitVec.ofBool atom ++ sp.bit ++ 0#5 ++ ncol }
  | .cst rm atom sp d h b c ncol =>
    { op := 0xB8#8, d := code3 d, a := code4 h, b := b.code, c := c.code, fn := sp.fn rm.code,
      imm := BitVec.ofBool atom ++ sp.bit ++ 0#5 ++ ncol }
  | .cjoin d j => (match j with
    | .bind a p q => { op := 0xB9#8, d := code3 d, a := a.code, imm := 0#12 ++ q ++ p }
    | .unbind => { op := 0xB9#8, d := code3 d, fn := 1#7 })
  | .cstj rm sc o d h b c =>
    { op := 0xBA#8, d := code3 d, a := code4 h, b := b.code, c := c.code, fn := memFn rm.code sc o }
  | .cadd rm d a b => { op := 0xBB#8, d := code3 d, a := code3 a, b := code3 b, fn := rmFn rm }
  | .cstat d c w => { op := 0xBC#8, d := d.code, a := code3 c, imm := 0#13 ++ w }
  | .cpstart k h b c n => { op := 0xC0#8, d := code4 k, a := code4 h, b := b.code, c := c.code, imm := n }
  | .cpgather mk k h b c n =>
    { op := 0xC1#8, msk := mk.msk, minv := mk.minv, d := code4 k, a := code4 h, b := b.code, c := c.code, imm := n }
  | .cpscatter rm k h b c n =>
    { op := 0xC2#8, d := code4 k, a := code4 h, b := b.code, c := c.code, fn := rmFn rm, imm := n }
  | .cpwait sc part d k => (match part with
    | none => { op := 0xC3#8, d := d.code, a := code4 k, fn := memFn 0#3 sc .plain }
    | some b => { op := 0xC3#8, d := d.code, a := code4 k, b := b.code, fn := memFn 0#3 sc .acq })
  | .cpavail d k w => { op := 0xC4#8, d := d.code, a := code4 k, imm := 0#14 ++ w }
  | .cpresume d k m => { op := 0xC5#8, d := d.code, a := code4 k, imm := 0#14 ++ m }
  | .cpcancel k => { op := 0xC6#8, a := code4 k }
  | .qbind d a => { op := 0xC8#8, d := code3 d, a := a.code }
  | .qclose a => { op := 0xC9#8, a := code3 a }
  | .qstat d a => { op := 0xCA#8, d := d.code, a := code3 a }
  | .launch d a => { op := 0xD0#8, d := d.code, a := a.code }
  | .exit => { op := 0xD1#8 }
  | .yield => { op := 0xD2#8 }
  | .bar id => { op := 0xD3#8, imm := 0#14 ++ id }
  | .waitw cond sc d a b c i =>
    { op := 0xD4#8, d := d.code, a := a.code, b := b.code, c := c.code, fn := memFn cond sc .plain, imm := i }
  | .wake sc a b i => { op := 0xD5#8, a := a.code, b := b.code, fn := memFn 0#3 sc .plain, imm := i }
  | .snext d => { op := 0xD6#8, d := d.code }
  | .xopen d a => { op := 0xE0#8, d := d.code, a := a.code }
  | .xsend d a h c => { op := 0xE1#8, d := d.code, a := a.code, b := code4 h, c := c.code }
  | .xred mode rm d a hb hc =>
    { op := 0xE2#8, d := d.code, a := a.code, b := code4 hb, c := code4 hc, fn := rmFn rm, imm := 0#14 ++ mode }
  | .xwait sc d a b => { op := 0xE3#8, d := d.code, a := a.code, b := b.code, fn := memFn 0#3 sc .plain }
  | .xclose a => { op := 0xE4#8, a := a.code }
  | .trap i => { op := 0xF0#8, imm := i }
  | .tret => { op := 0xF1#8 }
  | .brk i => { op := 0xF2#8, imm := i }
  | .ctxsave vec dirty msks mnfs d base i =>
    encCtx 0xF3#8 d.code
      (0#2 ++ BitVec.ofBool mnfs ++ BitVec.ofBool msks ++ BitVec.ofBool dirty ++ BitVec.ofBool vec ++ 0#1) base i
  | .ctxrstr lzy base i => encCtx 0xF4#8 0#7 (0#4 ++ BitVec.ofBool lzy ++ 0#2) base i
  | .tlbinv ty a b => { op := 0xF5#8, a := a.code, b := b.code, fn := 0#4 ++ ty }
  | .rcstart rm d a b f =>
    { op := 0xF6#8, d := d.code, a := a.code, b := b.code, fn := rmFn rm, imm := fmt16 f }
  | .rcstat d page => { op := 0xF7#8, d := d.code, imm := 0#15 ++ BitVec.ofBool page }
  | .kdsetAssign d a b c | .kdsetNewkey d a b c | .kdsetRetire d a b c =>
    { op := 0xF8#8, d := d.code, a := a.code, b := b.code, c := c.code }
  | .homemap d a b => { op := 0xF9#8, d := d.code, a := a.code, b := b.code }
  | .idle d a => { op := 0xFA#8, d := d.code, a := a.code }
  | _ => { op := 0x00#8 }

/-- The word of an instruction. -/
def encode (i : Instr) : Word := (encodeR i).pack

/-- The instructions that a word names. Events have none; KDSET has one word for its three operations (log 7). -/
def Instr.hasWord (i : Instr) : Bool :=
  match i with
  | .kdsetNewkey _ _ _ _ | .kdsetRetire _ _ _ _ => false
  | _ => (encodeR i).op != 0#8

/-! ### The decoder: reading the fields -/

/-- The operands that a word's fields name; `none` where a field holds a code its type does not have. Fields an
instruction leaves unused are checked by re-encoding (`decode`). -/
def RWord.rm (r : RWord) : Option Rm := Rm.of (r.fn.extractLsb' 4 3)

def RWord.mk? (r : RWord) : Option Mk := Mk.of r.msk r.minv

def RWord.sat (r : RWord) : Bool := r.fn.extractLsb' 3 1 == 1#1

def RWord.wide (r : RWord) : Bool := r.fn.extractLsb' 2 1 == 1#1

def RWord.fn1 (r : RWord) : Bool := r.fn.extractLsb' 1 1 == 1#1

def RWord.fn0 (r : RWord) : Bool := r.fn.extractLsb' 0 1 == 1#1

def RWord.fmt (r : RWord) : FmtCode := r.imm.extractLsb' 0 6

def RWord.imm37 (r : RWord) : BitVec 37 := r.b ++ r.c ++ r.fn ++ r.imm

def RWord.off44 (r : RWord) : BitVec 44 := r.a ++ r.imm37

def RWord.srcB (r : RWord) : Option SrcB :=
  if r.fn == 0x40#7 then some (.imm r.imm) else (Opnd.of r.b).map .op

/-- A source in slot `o` that FN[16] replaces by IMM16 (VSLUP, MSET). -/
def RWord.srcFn0 (r : RWord) (o : BitVec 7) : Option SrcB :=
  if r.fn0 then some (.imm r.imm) else (Opnd.of o).map .op

def RWord.fmtSelB (r : RWord) : Option FmtSel :=
  if r.fn0 then (Opnd.of r.b).map .reg else some (.imm r.fmt)

def RWord.idx10 (r : RWord) : Option (IdxSel 10) :=
  if r.fn0 then some (.imm (r.imm.extractLsb' 0 10)) else (Opnd.of r.b).map .reg

def RWord.shAmt (r : RWord) : Option (IdxSel 6) :=
  if r.fn0 then some (.imm (r.imm.extractLsb' 0 6)) else (Opnd.of r.b).map .reg

def RWord.rowIdx (r : RWord) (o : BitVec 7) : Option (IdxSel 8) :=
  if r.fn0 then some (.imm (r.imm.extractLsb' 6 8)) else (Opnd.of o).map .reg

/-- The space of a scalar form or vector store, with SPACE in C[23]. -/
def RWord.spaceC (r : RWord) : Option Space := Space.of (r.c.extractLsb' 0 1) r.fn

/-- The space of a manifest or tile form, with SP in IMM16[14]. -/
def RWord.spaceI (r : RWord) : Option Space := Space.of (r.imm.extractLsb' 14 1) r.fn

def RWord.scope (r : RWord) : Option Scope := Scope.of (r.fn.extractLsb' 2 2)

def RWord.ord (r : RWord) : Ord := Ord.of (r.fn.extractLsb' 0 2)

def bDAB (k : Opnd → Opnd → SrcB → Instr) (r : RWord) : Option Instr := do
  return k (← Opnd.of r.d) (← Opnd.of r.a) (← r.srcB)

def bDA (k : Opnd → Opnd → Instr) (r : RWord) : Option Instr := do
  return k (← Opnd.of r.d) (← Opnd.of r.a)

def bBr (k : Opnd → Opnd → BitVec 37 → Instr) (r : RWord) : Option Instr := do
  return k (← Opnd.of r.d) (← Opnd.of r.a) r.imm37

def bF2 (k : FTy → Rm → Opnd → Opnd → Opnd → Instr) (r : RWord) : Option Instr := do
  return k (← FTy.of (r.fn.extractLsb' 0 3)) (← r.rm) (← Opnd.of r.d) (← Opnd.of r.a) (← Opnd.of r.b)

/-- Opcodes 0x00–0x1F. -/
def buildInt (r : RWord) : Option Instr :=
  match r.op.toNat with
  | 0x01 => bDAB .add r | 0x02 => bDAB .sub r | 0x03 => bDAB .mul r | 0x04 => bDAB .mulh r | 0x05 => bDAB .mulhu r
  | 0x06 => bDAB .div r | 0x07 => bDAB .divu r | 0x08 => bDAB .rem r | 0x09 => bDAB .remu r | 0x0A => bDAB .and r
  | 0x0B => bDAB .or r | 0x0C => bDAB .xor r | 0x0D => bDAB .shl r | 0x0E => bDAB .shr r | 0x0F => bDAB .sra r
  | 0x10 => bDAB .slt r | 0x11 => bDAB .sltu r | 0x12 => bDAB .min r | 0x13 => bDAB .max r | 0x14 => bDAB .minu r
  | 0x15 => bDAB .maxu r | 0x16 => bDA .clz r | 0x17 => bDA .ctz r | 0x18 => bDA .popc r
  | 0x19 => do
    return .bfx (← Opnd.of r.d) (← Opnd.of r.a) (r.imm.extractLsb' 0 6) (r.imm.extractLsb' 6 6)
      (r.imm.extractLsb' 12 1 == 1#1)
  | 0x1A => do
    return .bfi (← Opnd.of r.d) (← Opnd.of r.a) (← Opnd.of r.b) (r.imm.extractLsb' 0 6) (r.imm.extractLsb' 6 6)
  | 0x1B => do return .sel (← Opnd.of r.d) (← Opnd.of r.a) (← Opnd.of r.b) (← Opnd.of r.c)
  | 0x1C => do return .li (← Opnd.of r.d) r.imm37
  | 0x1D => do return .lih (← Opnd.of r.d) (← Opnd.of r.a) (r.imm37.extractLsb' 0 27)
  | _ => none

/-- Opcodes 0x20–0x3F. -/
def buildCtl (r : RWord) : Option Instr :=
  match r.op.toNat with
  | 0x20 => some (.jmp r.off44)
  | 0x21 => do return .jal (← Opnd.of r.d) r.off44
  | 0x22 => do return .jr (← Opnd.of r.d) (← Opnd.of r.a) r.imm
  | 0x23 => bBr .beq r | 0x24 => bBr .bne r | 0x25 => bBr .blt r | 0x26 => bBr .bge r | 0x27 => bBr .bltu r
  | 0x28 => bBr .bgeu r
  | 0x30 => bF2 .fadd r | 0x31 => bF2 .fsub r | 0x32 => bF2 .fmul r | 0x33 => bF2 .fdiv r
  | 0x34 => do return .fsqrt (← FTy.of (r.fn.extractLsb' 0 3)) (← r.rm) (← Opnd.of r.d) (← Opnd.of r.a)
  | 0x35 => do
    return .fma (← FTy.of (r.fn.extractLsb' 0 3)) (← r.rm) (← Opnd.of r.d) (← Opnd.of r.a) (← Opnd.of r.b)
      (← Opnd.of r.c)
  | 0x36 => bF2 (fun t _ => .fmin t) r | 0x37 => bF2 (fun t _ => .fmax t) r
  | 0x38 => bF2 (fun t _ => .fcmp t (r.imm.extractLsb' 0 3)) r
  | 0x39 => do
    return .fcvt (← FTy.of (r.fn.extractLsb' 0 3)) (← r.rm) (← FCvtKind.of r.imm) (← Opnd.of r.d) (← Opnd.of r.a)
  | 0x3A => do return .fclass (← FTy.of (r.fn.extractLsb' 0 3)) (← Opnd.of r.d) (← Opnd.of r.a)
  | _ => none

/-- Opcodes 0x40–0x5F. -/
def buildMem (r : RWord) : Option Instr :=
  match r.op.toNat with
  | 0x40 => do
    return .ld (r.fn.extractLsb' 4 3) (← r.spaceC) (← Opnd.of r.d) (← Opnd.of r.a) (← Opnd.of r.b) r.imm
  | 0x41 =>
    if r.fn.extractLsb' 4 3 == 7#3 then do
      return .stPatch (← r.scope) r.ord (← Opnd.of r.d) (← Opnd.of r.a) (← Opnd.of r.b) r.imm
    else do
      return .st (r.fn.extractLsb' 4 2) (← r.spaceC) (← Opnd.of r.d) (← Opnd.of r.a) (← Opnd.of r.b) r.imm
  | 0x42 => do
    return .amo (← Aop.of (r.c.extractLsb' 1 4)) (r.fn.extractLsb' 4 1 == 1#1) (← r.spaceC) (← Opnd.of r.d)
      (← Opnd.of r.a) (← Opnd.of r.b) r.imm
  | 0x43 => do
    return .cas (r.fn.extractLsb' 4 1 == 1#1) (← r.spaceC) (← Opnd.of r.d) (← Opnd.of r.a) (← Opnd.of r.b) r.imm
  | 0x44 => do return .fence (r.fn.extractLsb' 4 3) (← r.scope)
  | 0x45 => some .lsync
  | 0x46 => do return .flush (← Opnd.of r.a) (← Opnd.of r.b) (← Opnd.of r.c) r.imm
  | 0x47 => do return .inval (← Opnd.of r.a) (← Opnd.of r.b) (← Opnd.of r.c) r.imm
  | 0x50 => do return .ixset (← of3 r.d) (← Opnd.of r.a)
  | 0x51 => do return .ixget (← Opnd.of r.d) (← of3 r.a)
  | 0x52 => do
    return .ixadv (← of3 r.d) (← if r.fn == 0x40#7 then some (.imm r.imm) else (Opnd.of r.a).map .op)
  | 0x53 => do
    return .ixoff (← of3 r.d) (← if r.fn == 0x40#7 then some (.imm r.imm) else (Opnd.of r.a).map .op)
  | 0x54 => do return .crd (← Opnd.of r.d) (r.imm.extractLsb' 0 12)
  | 0x55 => do return .cwr (r.imm.extractLsb' 0 12) (← Opnd.of r.a)
  | 0x56 => do return .crsw (← Opnd.of r.d) (r.imm.extractLsb' 0 12) (← Opnd.of r.a)
  | 0x57 => do return .vsetl (← Opnd.of r.d) (← Opnd.of r.a) (← r.fmtSelB)
  | 0x58 => do return .vgetcap (← Opnd.of r.d) (← r.fmtSelB)
  | 0x59 => do
    return .palsel (← if r.fn == 0x40#7 then some (.imm (r.imm.extractLsb' 0 4)) else (Opnd.of r.a).map .reg)
  | 0x5A => bDA .palrd r
  | 0x5B => do return .palwr (← Opnd.of r.a) (← Opnd.of r.b)
  | 0x5C => do return .getid (← Opnd.of r.d) (r.imm.extractLsb' 0 4)
  | 0x5D => do return .heartbeat (← Opnd.of r.a)
  | _ => none

/-- Opcodes 0x60–0x6F. -/
def buildTag (r : RWord) : Option Instr :=
  match r.op.toNat with
  | 0x60 => do
    return .vtag r.fn0 (← Opnd.of r.d)
      (← if r.fn.extractLsb' 6 1 == 1#1 then some (.imm r.fmt) else (Opnd.of r.a).map .reg)
  | 0x61 => do return .vgtag (r.fn.extractLsb' 0 2) (← Opnd.of r.d) (← Opnd.of r.a)
  | 0x62 => do return .vcvt (← r.mk?) (← r.rm) (← Opnd.of r.d) (← Opnd.of r.a) r.fmt
  | 0x63 => do return .vresc (← r.mk?) (← r.rm) (← Opnd.of r.d) (← Opnd.of r.a) (← Opnd.of r.b)
  | 0x64 => do return .vvalid (r.fn.extractLsb' 0 2) (← Opnd.of r.d) (← Opnd.of r.a)
  | 0x65 => do return .vsave (← r.scope) r.ord (← Opnd.of r.a) (← Opnd.of r.b) (← Opnd.of r.c) r.imm
  | 0x66 => do return .vrstr (← r.scope) r.ord (← Opnd.of r.d) (← Opnd.of r.a) (← Opnd.of r.b) r.imm
  | 0x67 => do return .vmov (← r.mk?) (← r.rm) r.fn0 (← Opnd.of r.d) (← Opnd.of r.a)
  | 0x68 => do return .vsplat (← r.mk?) (← r.rm) (r.fn.extractLsb' 0 2) (← Opnd.of r.d) (← Opnd.of r.a) r.fmt
  | 0x69 => do return .viota (← r.mk?) (← r.rm) r.fn0 (← Opnd.of r.d) r.fmt
  | 0x6A => do return .vext (← r.rm) (← Opnd.of r.d) (← Opnd.of r.a) (← r.idx10)
  | 0x6B => do return .vins (← r.rm) (← Opnd.of r.d) (← Opnd.of r.a) (← r.idx10)
  | _ => none

def bV3w (k : Mk → Rm → Bool → Bool → Opnd → Opnd → Opnd → Instr) (r : RWord) : Option Instr := do
  return k (← r.mk?) (← r.rm) r.sat r.wide (← Opnd.of r.d) (← Opnd.of r.a) (← Opnd.of r.b)

def bV2w (k : Mk → Rm → Bool → Bool → Opnd → Opnd → Instr) (r : RWord) : Option Instr := do
  return k (← r.mk?) (← r.rm) r.sat r.wide (← Opnd.of r.d) (← Opnd.of r.a)

def bVsh (k : Mk → Opnd → Opnd → IdxSel 6 → Instr) (r : RWord) : Option Instr := do
  return k (← r.mk?) (← Opnd.of r.d) (← Opnd.of r.a) (← r.shAmt)

/-- Opcodes 0x70–0x9F. -/
def buildVec (r : RWord) : Option Instr :=
  match r.op.toNat with
  | 0x70 => bV3w .vadd r | 0x71 => bV3w .vsub r | 0x72 => bV3w .vmul r
  | 0x73 => do
    return .vfma (← r.mk?) (← r.rm) r.sat r.wide (← Opnd.of r.d) (← Opnd.of r.a) (← Opnd.of r.b) (← Opnd.of r.c)
  | 0x74 => bV3w (fun m q s _ => .vmin m q s) r | 0x75 => bV3w (fun m q s _ => .vmax m q s) r
  | 0x76 => bV2w (fun m q s _ => .vabs m q s) r | 0x77 => bV2w (fun m q s _ => .vneg m q s) r
  | 0x78 => bV3w (fun m q s _ => .vdiv m q s) r
  | 0x79 => bV2w (fun m q _ _ => .vsqrt m q) r | 0x7A => bV2w (fun m q _ _ => .vrsqrt m q) r
  | 0x7B => bV2w (fun m q _ _ => .vrcp m q) r | 0x7C => bV2w (fun m q _ _ => .vexp2 m q) r
  | 0x7D => bV2w (fun m q _ _ => .vlog2 m q) r
  | 0x7E => do
    return .vclip (← r.mk?) (← r.rm) r.sat (← Opnd.of r.d) (← Opnd.of r.a) (← Opnd.of r.b) (← Opnd.of r.c)
  | 0x7F => bV3w (fun m _ _ _ => .vcmp m (r.imm.extractLsb' 0 3)) r
  | 0x80 => do
    return .vsel (← r.mk?) (← r.rm) r.sat (← Opnd.of r.d) (← Opnd.of r.a) (← Opnd.of r.b) (← Opnd.of r.c)
  | 0x81 => bV3w (fun m _ _ _ => .vand m) r | 0x82 => bV3w (fun m _ _ _ => .vor m) r
  | 0x83 => bV3w (fun m _ _ _ => .vxor m) r | 0x84 => bV2w (fun m _ _ _ => .vnot m) r
  | 0x85 => bVsh .vshl r | 0x86 => bVsh .vshr r | 0x87 => bVsh .vsra r
  | 0x88 => bV2w .vrsum r | 0x89 => bV2w .vrmax r | 0x8A => bV2w .vrmin r
  | 0x8B => bV2w (fun m q s w => .vscan m q s w (r.fn.extractLsb' 0 2)) r
  | 0x8C => do return .vslup (← r.mk?) (← r.rm) (← Opnd.of r.d) (← Opnd.of r.a) (← r.srcFn0 r.b)
  | 0x8D => do return .vsldn (← r.mk?) (← r.rm) (← Opnd.of r.d) (← Opnd.of r.a) (← r.srcFn0 r.b)
  | 0x8E => bV3w (fun m q _ _ => .vshuf m q) r
  | 0x8F => bV2w (fun m q _ _ => .vcomp m q) r | 0x90 => bV2w (fun m q _ _ => .vexpd m q) r
  | 0x91 => bV3w (fun m q _ _ => .vzip m q (r.fn.extractLsb' 0 2)) r
  | 0x92 => do return .vunpk (← r.mk?) (← Opnd.of r.d) (← Opnd.of r.a) (r.imm.extractLsb' 8 4) r.fmt
  | 0x93 => do return .vpack (← r.mk?) r.sat (← Opnd.of r.d) (← Opnd.of r.a) (r.imm.extractLsb' 8 4)
  | 0x94 => bV3w (fun m q _ _ => .vlook m q) r
  | 0x95 => do
    return .vtopk (← r.mk?) (← r.rm) (← Opnd.of r.d) (← Opnd.of r.a) (← Opnd.of r.c) (r.imm.extractLsb' 0 11)
      (r.imm.extractLsb' 12 3)
  | 0x96 => bV3w (fun m q s _ => .vdot4 m q s) r
  | 0x97 => do return .mlog (r.imm.extractLsb' 0 4) (← Opnd.of r.d) (← Opnd.of r.a) (← Opnd.of r.b)
  | 0x98 => bDA .mpop r | 0x99 => bDA .mfirst r
  | 0x9A => do return .mset (← Opnd.of r.d) (← r.srcFn0 r.a)
  | 0x9B => do return .mtov (← r.mk?) (← r.rm) (← Opnd.of r.d) (← Opnd.of r.a) r.fmt
  | 0x9C => do return .vtom (← r.mk?) (← Opnd.of r.d) (← Opnd.of r.a)
  | _ => none

def bVld (k : Mk → Rm → Qual → Opnd → Opnd → Opnd → BitVec 16 → Instr) (r : RWord) : Option Instr := do
  return k (← r.mk?) (← r.rm) (← Qual.of r.c r.fn) (← Opnd.of r.d) (← Opnd.of r.a) (← Opnd.of r.b) r.imm

def bVst (k : Mk → Rm → Space → Opnd → Opnd → Opnd → BitVec 16 → Instr) (r : RWord) : Option Instr := do
  return k (← r.mk?) (← r.rm) (← r.spaceC) (← Opnd.of r.d) (← Opnd.of r.a) (← Opnd.of r.b) r.imm

def bVm (k : Mk → Rm → Space → Opnd → BitVec 4 → Opnd → Opnd → Instr) (r : RWord) : Option Instr := do
  return k (← r.mk?) (← r.rm) (← r.spaceI) (← Opnd.of r.d) (← of4 r.a) (← Opnd.of r.b) (← Opnd.of r.c)

/-- Opcodes 0xA0–0xAF. -/
def buildVmem (r : RWord) : Option Instr :=
  match r.op.toNat with
  | 0xA0 => bVld (fun m q l => .vld m q l (r.c.extractLsb' 1 1 == 1#1)) r
  | 0xA1 => bVld .vlds r | 0xA2 => bVld .vldx r | 0xA3 => bVld .vldf r
  | 0xA4 => bVm .vldm r
  | 0xA5 => bVm (fun m q s d h b c => .vldg m q s d h b c (r.imm.extractLsb' 0 4)) r
  | 0xA6 => bVst .vst r | 0xA7 => bVst .vsts r | 0xA8 => bVst .vstx r
  | 0xA9 => bVm .vstm r
  | 0xAA => bVm (fun m q s d h b c => .vstg m q s d h b c (r.imm.extractLsb' 0 4)) r
  | 0xAB => do
    return .vamo (← r.mk?) (← Aop.of (r.imm.extractLsb' 0 4)) (r.fn.extractLsb' 4 1 == 1#1)
      (← Space.of (r.imm.extractLsb' 4 1) r.fn) (← Opnd.of r.d) (← Opnd.of r.a) (← Opnd.of r.b) (← Opnd.of r.c)
      (r.imm.extractLsb' 5 11)
  | 0xAC => do return .mnf (← of4 r.d) (← Opnd.of r.a) (← Opnd.of r.b) r.imm
  | 0xAD => do return .mnfget (← Opnd.of r.d) (← of4 r.a) (r.imm.extractLsb' 0 4)
  | 0xAE => do return .mnfset r.fn0 (← of4 r.d) (← Opnd.of r.a) (r.imm.extractLsb' 0 4)
  | _ => none

def bTile (k : Rm → Bool → Space → BitVec 3 → BitVec 4 → Opnd → Opnd → BitVec 9 → Instr) (r : RWord) :
    Option Instr := do
  return k (← r.rm) (r.imm.extractLsb' 15 1 == 1#1) (← r.spaceI) (← of3 r.d) (← of4 r.a) (← Opnd.of r.b)
    (← Opnd.of r.c) (r.imm.extractLsb' 0 9)

/-- Opcodes 0xB0–0xBF. -/
def buildCanvas (r : RWord) : Option Instr :=
  match r.op.toNat with
  | 0xB0 => do
    return .czero (← of3 r.d) r.fmt
      (← if r.fn0 then (Opnd.of r.a).map .reg else some (.imm (r.imm.extractLsb' 6 8)))
  | 0xB1 => do return .cop (← r.mk?) (← r.rm) (← of3 r.d) (← Opnd.of r.a) (← Opnd.of r.b)
  | 0xB2 => do
    return .copk (← r.mk?) (← r.rm) (← of3 r.d) (← Opnd.of r.a) (← Opnd.of r.b) (r.imm.extractLsb' 0 4)
  | 0xB3 => do return .crrow (← r.mk?) (← r.rm) r.sat (← Opnd.of r.d) (← of3 r.a) (← r.rowIdx r.b) r.fmt
  | 0xB4 => do return .crcol (← r.mk?) (← r.rm) r.sat r.fn1 (← Opnd.of r.d) (← of3 r.a) (← r.rowIdx r.b) r.fmt
  | 0xB5 => do return .cwrow (← r.mk?) (← r.rm) (← of3 r.d) (← r.rowIdx r.a) (← Opnd.of r.b)
  | 0xB6 => do return .cwcol (← r.mk?) (← r.rm) r.fn1 (← of3 r.d) (← r.rowIdx r.a) (← Opnd.of r.b)
  | 0xB7 => bTile .cld r
  | 0xB8 => bTile .cst r
  | 0xB9 => do
    return .cjoin (← of3 r.d)
      (← if r.fn0 then some .unbind
         else (Opnd.of r.a).map fun a => .bind a (r.imm.extractLsb' 0 2) (r.imm.extractLsb' 2 2))
  | 0xBA => do
    return .cstj (← r.rm) (← r.scope) r.ord (← of3 r.d) (← of4 r.a) (← Opnd.of r.b) (← Opnd.of r.c)
  | 0xBB => do return .cadd (← r.rm) (← of3 r.d) (← of3 r.a) (← of3 r.b)
  | 0xBC => do return .cstat (← Opnd.of r.d) (← of3 r.a) (r.imm.extractLsb' 0 3)
  | _ => none

/-- Opcodes 0xC0–0xDF. -/
def buildTeam (r : RWord) : Option Instr :=
  match r.op.toNat with
  | 0xC0 => do return .cpstart (← of4 r.d) (← of4 r.a) (← Opnd.of r.b) (← Opnd.of r.c) r.imm
  | 0xC1 => do return .cpgather (← r.mk?) (← of4 r.d) (← of4 r.a) (← Opnd.of r.b) (← Opnd.of r.c) r.imm
  | 0xC2 => do return .cpscatter (← r.rm) (← of4 r.d) (← of4 r.a) (← Opnd.of r.b) (← Opnd.of r.c) r.imm
  | 0xC3 => do
    return .cpwait (← r.scope) (← if r.fn0 then (Opnd.of r.b).map some else some none) (← Opnd.of r.d) (← of4 r.a)
  | 0xC4 => do return .cpavail (← Opnd.of r.d) (← of4 r.a) (r.imm.extractLsb' 0 2)
  | 0xC5 => do return .cpresume (← Opnd.of r.d) (← of4 r.a) (r.imm.extractLsb' 0 2)
  | 0xC6 => do return .cpcancel (← of4 r.a)
  | 0xC8 => do return .qbind (← of3 r.d) (← Opnd.of r.a)
  | 0xC9 => do return .qclose (← of3 r.a)
  | 0xCA => do return .qstat (← Opnd.of r.d) (← of3 r.a)
  | 0xD0 => bDA .launch r
  | 0xD1 => some .exit
  | 0xD2 => some .yield
  | 0xD3 => some (.bar (r.imm.extractLsb' 0 2))
  | 0xD4 => do
    return .waitw (r.fn.extractLsb' 4 3) (← r.scope) (← Opnd.of r.d) (← Opnd.of r.a) (← Opnd.of r.b) (← Opnd.of r.c)
      r.imm
  | 0xD5 => do return .wake (← r.scope) (← Opnd.of r.a) (← Opnd.of r.b) r.imm
  | 0xD6 => do return .snext (← Opnd.of r.d)
  | _ => none

def RWord.ctxBase (r : RWord) : Option CtxBase := do
  if r.fn0 then return .ssc else return .at (← Opnd.of r.a) (← Opnd.of r.b)

/-- Opcodes 0xE0–0xFF. KDSET has one word; it reads as the ASSIGN form, and S[C][11:10] chooses the operation when it
runs (DEDUCED, log 7). -/
def buildSys (r : RWord) : Option Instr :=
  match r.op.toNat with
  | 0xE0 => bDA .xopen r
  | 0xE1 => do return .xsend (← Opnd.of r.d) (← Opnd.of r.a) (← of4 r.b) (← Opnd.of r.c)
  | 0xE2 => do
    return .xred (r.imm.extractLsb' 0 2) (← r.rm) (← Opnd.of r.d) (← Opnd.of r.a) (← of4 r.b) (← of4 r.c)
  | 0xE3 => do return .xwait (← r.scope) (← Opnd.of r.d) (← Opnd.of r.a) (← Opnd.of r.b)
  | 0xE4 => do return .xclose (← Opnd.of r.a)
  | 0xF0 => some (.trap r.imm)
  | 0xF1 => some .tret
  | 0xF2 => some (.brk r.imm)
  | 0xF3 => do
    return .ctxsave r.fn1 r.wide r.sat (r.fn.extractLsb' 4 1 == 1#1) (← Opnd.of r.d) (← r.ctxBase) r.imm
  | 0xF4 => do return .ctxrstr r.wide (← r.ctxBase) r.imm
  | 0xF5 => do return .tlbinv (r.fn.extractLsb' 0 3) (← Opnd.of r.a) (← Opnd.of r.b)
  | 0xF6 => do return .rcstart (← r.rm) (← Opnd.of r.d) (← Opnd.of r.a) (← Opnd.of r.b) r.fmt
  | 0xF7 => do return .rcstat (← Opnd.of r.d) (r.imm.extractLsb' 0 1 == 1#1)
  | 0xF8 => do return .kdsetAssign (← Opnd.of r.d) (← Opnd.of r.a) (← Opnd.of r.b) (← Opnd.of r.c)
  | 0xF9 => do return .homemap (← Opnd.of r.d) (← Opnd.of r.a) (← Opnd.of r.b)
  | 0xFA => do return .idle (← Opnd.of r.d) (← Opnd.of r.a)
  | _ => none

/-- The instruction that the fields name, by opcode (Table 2.5). -/
def build (r : RWord) : Option Instr :=
  match (r.op.extractLsb' 4 4).toNat with
  | 0x0 => buildInt r | 0x1 => buildInt r
  | 0x2 => buildCtl r | 0x3 => buildCtl r
  | 0x4 => buildMem r | 0x5 => buildMem r
  | 0x6 => buildTag r
  | 0x7 => buildVec r | 0x8 => buildVec r | 0x9 => buildVec r
  | 0xA => buildVmem r
  | 0xB => buildCanvas r
  | 0xC => buildTeam r | 0xD => buildTeam r
  | _ => buildSys r

/-- A named opcode (Table 2.5). -/
def opNamed (o : BitVec 8) : Bool :=
  let n := o.toNat
  (0x01 ≤ n && n ≤ 0x1D) || (0x20 ≤ n && n ≤ 0x28) || (0x30 ≤ n && n ≤ 0x3A) || (0x40 ≤ n && n ≤ 0x47)
  || (0x50 ≤ n && n ≤ 0x5D) || (0x60 ≤ n && n ≤ 0x6B) || (0x70 ≤ n && n ≤ 0x9C) || (0xA0 ≤ n && n ≤ 0xAE)
  || (0xB0 ≤ n && n ≤ 0xBC) || (0xC0 ≤ n && n ≤ 0xC6) || (0xC8 ≤ n && n ≤ 0xCA) || (0xD0 ≤ n && n ≤ 0xD6)
  || (0xE0 ≤ n && n ≤ 0xE4) || (0xF0 ≤ n && n ≤ 0xFA)

/-- What a specifier slot of a word is, for the sub-codes 0x3 and 0x4. -/
inductive SlotKind where
  /-- not used: must be 0x00 -/
  | zero
  /-- scalar, with or without queue codes -/
  | s | sNoQ
  /-- vector, vector without queue codes, or the first register of a group of `k` -/
  | v | vNoQ | vGroup (k : Nat) | vGroupNoQ (k : Nat)
  | m
  /-- a file of 8 or of 16 named directly -/
  | f8 | f16
  /-- not a specifier: a qualifier field, checked with FN and IMM16 -/
  | qual
deriving DecidableEq, Repr

def SlotKind.valid (k : SlotKind) (c : BitVec 7) : Bool :=
  match k with
  | .zero | .qual => true
  | .s => (Opnd.of c).isSome
  | .sNoQ => (Opnd.of c).any Opnd.noQ
  | .v => (Opnd.of c).any Opnd.okV
  | .vNoQ => (Opnd.of c).any fun o => o.okV && o.noQ
  | .vGroup n => (Opnd.of c).any (Opnd.okVGroup n)
  | .vGroupNoQ n => (Opnd.of c).any fun o => o.okVGroup n && o.noQ
  | .m => (Opnd.of c).any Opnd.okM
  | .f8 => (of3 c).isSome
  | .f16 => (of4 c).isSome

/-- The slots D, A, B, C of an opcode, and whether it has a mask field (Tables 2.3 and 2.6 and the entries). -/
structure Layout where
  d : SlotKind := .zero
  a : SlotKind := .zero
  b : SlotKind := .zero
  c : SlotKind := .zero
  mask : Bool := false

def sz (used : Bool) (k : SlotKind) : SlotKind := if used then k else .zero

/-- Opcodes 0x00–0x5F. -/
def layoutLow (r : RWord) : Layout :=
  let n := r.op.toNat
  let imm := r.fn.extractLsb' 6 1 == 1#1
  if n ≤ 0x15 then { d := .s, a := .s, b := sz (!imm) .s }
  else if n ≤ 0x19 then { d := .s, a := .s }
  else if n = 0x1A then { d := .s, a := .s, b := .s }
  else if n = 0x1B then { d := .s, a := .s, b := .s, c := .s }
  else if n = 0x1C then { d := .s, b := .qual, c := .qual }
  else if n = 0x1D then { d := .s, a := .s, b := .qual, c := .qual }
  else if n = 0x20 then { a := .qual, b := .qual, c := .qual }
  else if n = 0x21 then { d := .sNoQ, a := .qual, b := .qual, c := .qual }
  else if n = 0x22 then { d := .s, a := .s }
  else if n ≤ 0x28 then { d := .sNoQ, a := .sNoQ, b := .qual, c := .qual }
  else if n = 0x35 then { d := .s, a := .s, b := .s, c := .s }
  else if n = 0x34 || n = 0x39 || n = 0x3A then { d := .s, a := .s }
  else if n ≤ 0x3A then { d := .s, a := .s, b := .s }
  else if n ≤ 0x43 then { d := .s, a := .s, b := .s, c := .qual }
  else if n ≤ 0x45 then {}
  else if n ≤ 0x47 then { a := .s, b := .s, c := .s }
  else if n = 0x50 then { d := .f8, a := .s }
  else if n = 0x51 then { d := .s, a := .f8 }
  else if n ≤ 0x53 then { d := .f8, a := sz (!imm) .s }
  else if n = 0x54 then { d := .s }
  else if n = 0x55 then { a := .s }
  else if n = 0x56 then { d := .s, a := .s }
  else if n = 0x57 then { d := .s, a := .s, b := sz r.fn0 .s }
  else if n = 0x58 then { d := .s, b := sz r.fn0 .s }
  else if n = 0x59 then { a := sz (!imm) .s }
  else if n = 0x5A then { d := .s, a := .s }
  else if n = 0x5B then { a := .s, b := .s }
  else if n = 0x5C then { d := .s }
  else { a := .s }

/-- Opcodes 0x60–0x9F. -/
def layoutVec (r : RWord) : Layout :=
  let n := r.op.toNat
  if n = 0x60 then { d := .v, a := sz (!(r.fn.extractLsb' 6 1 == 1#1)) .s }
  else if n = 0x61 then { d := .s, a := .v }
  else if n = 0x62 then { d := .v, a := .v, mask := true }
  else if n = 0x63 then { d := .v, a := .v, b := .s, mask := true }
  else if n = 0x64 then { d := .m, a := .v }
  else if n = 0x65 then { a := .s, b := .s, c := .v }
  else if n = 0x66 then { d := .v, a := .s, b := .s }
  else if n = 0x67 then { d := .v, a := .v, mask := true }
  else if n = 0x68 then { d := .v, a := .s, mask := true }
  else if n = 0x69 then { d := .v, mask := true }
  else if n = 0x6A then { d := .s, a := .v, b := sz (!r.fn0) .s }
  else if n = 0x6B then { d := .v, a := .s, b := sz (!r.fn0) .s }
  else if n = 0x73 || n = 0x7E then { d := .v, a := .v, b := .v, c := .v, mask := true }
  else if n = 0x76 || n = 0x77 || (0x79 ≤ n && n ≤ 0x7D) || n = 0x84 || (0x88 ≤ n && n ≤ 0x8B) || n = 0x8F || n = 0x90
      || n = 0x92 || n = 0x93 then { d := .v, a := .v, mask := true }
  else if n = 0x7F then { d := .m, a := .v, b := .v, mask := true }
  else if n = 0x80 then { d := .v, a := .v, b := .v, c := .m, mask := true }
  else if 0x85 ≤ n && n ≤ 0x87 then { d := .v, a := .v, b := sz (!r.fn0) .v, mask := true }
  else if n = 0x8C || n = 0x8D then { d := .v, a := .v, b := sz (!r.fn0) .s, mask := true }
  else if n = 0x95 then { d := .vGroup 2, a := .v, c := .v, mask := true }
  else if n = 0x96 then { d := .v, a := .vGroup 4, b := .vGroup 4, mask := true }
  else if n = 0x97 then { d := .m, a := .m, b := .m }
  else if n = 0x98 || n = 0x99 then { d := .s, a := .m }
  else if n = 0x9A then { d := .m, a := sz (!r.fn0) .s }
  else if n = 0x9B then { d := .v, a := .m, mask := true }
  else if n = 0x9C then { d := .m, a := .v, mask := true }
  else { d := .v, a := .v, b := .v, mask := true }

/-- Opcodes 0xA0–0xFF. -/
def layoutHigh (r : RWord) : Layout :=
  let n := r.op.toNat
  let k := (r.imm.extractLsb' 0 4).toNat
  if n = 0xA2 || n = 0xA8 then { d := .v, a := .s, b := .v, c := .qual, mask := true }
  else if n ≤ 0xA3 || n = 0xA6 || n = 0xA7 then { d := .v, a := .s, b := .s, c := .qual, mask := true }
  else if n = 0xA4 || n = 0xA9 then { d := .v, a := .f16, b := .s, c := .s, mask := true }
  else if n = 0xA5 || n = 0xAA then { d := .vGroupNoQ k, a := .f16, b := .s, c := .s, mask := true }
  else if n = 0xAB then { d := .vNoQ, a := .sNoQ, b := .vNoQ, c := .vNoQ, mask := true }
  else if n = 0xAC then { d := .f16, a := .s, b := .s }
  else if n = 0xAD then { d := .s, a := .f16 }
  else if n = 0xAE then { d := .f16, a := .s }
  else if n = 0xB0 then { d := .f8, a := sz r.fn0 .s }
  else if n = 0xB1 then { d := .f8, a := .v, b := .v, mask := true }
  else if n = 0xB2 then { d := .f8, a := .vGroup k, b := .vGroup k, mask := true }
  else if n = 0xB3 || n = 0xB4 then { d := .v, a := .f8, b := sz (!r.fn0) .s, mask := true }
  else if n = 0xB5 || n = 0xB6 then { d := .f8, a := sz (!r.fn0) .s, b := .v, mask := true }
  else if n = 0xB7 || n = 0xB8 || n = 0xBA then { d := .f8, a := .f16, b := .s, c := .s }
  else if n = 0xB9 then { d := .f8, a := sz (!r.fn0) .s }
  else if n = 0xBB then { d := .f8, a := .f8, b := .f8 }
  else if n = 0xBC then { d := .s, a := .f8 }
  else if n = 0xC0 || n = 0xC2 then { d := .f16, a := .f16, b := .s, c := .s }
  else if n = 0xC1 then { d := .f16, a := .f16, b := .v, c := .s, mask := true }
  else if n = 0xC3 then { d := .s, a := .f16, b := sz r.fn0 .s }
  else if n = 0xC4 || n = 0xC5 then { d := .s, a := .f16 }
  else if n = 0xC6 then { a := .f16 }
  else if n = 0xC8 then { d := .f8, a := .s }
  else if n = 0xC9 then { a := .f8 }
  else if n = 0xCA then { d := .s, a := .f8 }
  else if n = 0xD0 || n = 0xE0 || n = 0xFA then { d := .s, a := .s }
  else if n = 0xD4 then { d := .s, a := .s, b := .s, c := .s }
  else if n = 0xD5 then { a := .s, b := .s }
  else if n = 0xD6 || n = 0xF7 then { d := .s }
  else if n = 0xE1 then { d := .s, a := .s, b := .f16, c := .s }
  else if n = 0xE2 then { d := .s, a := .s, b := .f16, c := .f16 }
  else if n = 0xE3 || n = 0xF6 || n = 0xF9 then { d := .s, a := .s, b := .s }
  else if n = 0xE4 then { a := .s }
  else if n = 0xF3 then { d := .s, a := sz (!r.fn0) .s, b := sz (!r.fn0) .s }
  else if n = 0xF4 then { a := sz (!r.fn0) .s, b := sz (!r.fn0) .s }
  else if n = 0xF5 then
    let ty := r.fn.extractLsb' 0 3
    { a := sz (ty == 1#3 || ty == 3#3) .s, b := sz (ty != 4#3) .s }
  else if n = 0xF8 then { d := .s, a := .s, b := .s, c := .s }
  else {}

def layout (r : RWord) : Layout :=
  if r.op.toNat < 0x60 then layoutLow r else if r.op.toNat < 0xA0 then layoutVec r else layoutHigh r

/-- A non-zero zero field of formats I, J and B (sub-code 0x1), IMM37[36:27] in LIH included. -/
def zeroFieldSet (r : RWord) : Bool :=
  let n := r.op.toNat
  ((n = 0x1C || n = 0x1D || n = 0x20 || n = 0x21 || (0x23 ≤ n && n ≤ 0x28)) && (r.msk != 0#4 || r.minv != 0#1))
  || (n = 0x1D && r.imm37.extractLsb' 27 10 != 0#10)

/-- The fields that name no register: the word with its specifiers and mask cleared. Where it decodes, FN, IMM16 and the
qualifier bits are allowed. -/
def clearSpecs (r : RWord) : RWord :=
  let l := layout r
  let z := fun (k : SlotKind) (c : BitVec 7) => if k == .qual then c else 0#7
  { r with msk := 0#4, minv := 0#1, d := z l.d r.d, a := z l.a r.a, b := z l.b r.b, c := z l.c r.c }

/-- The combinations of FN with other fields that an entry forbids under sub-code 0x2: VMOV.all under a mask (R166) and
VAMO.noret with a destination (R331). -/
def badCombination (r : RWord) : Bool :=
  (r.op == 0x67#8 && r.fn0 && (r.msk != 0#4 || r.minv != 0#1))
  || (r.op == 0xAB#8 && r.fn.extractLsb' 4 1 == 1#1 && r.d != 0#7)

/-- An instruction that the fields encode exactly: every field it leaves unused is zero. -/
def exact (r : RWord) : Option Instr :=
  match build r with
  | some i => if i.wf && encodeR i == r then some i else none
  | none => none

/-- The lowest static sub-code of Table 2.2 that applies to a word that is not allowed (R25). -/
def subcode (r : RWord) : Nat :=
  let l := layout r
  let slots := [(l.d, r.d), (l.a, r.a), (l.b, r.b), (l.c, r.c)]
  if !opNamed r.op then 0
  else if zeroFieldSet r then 1
  else if (exact (clearSpecs r)).isNone || badCombination r then 2
  else if slots.any fun p => !p.1.valid p.2 then 3
  else if slots.any fun p => p.1 == .zero && p.2 != 0#7 then 4
  else 5

/-- The instruction of a word, or the sub-code with which it raises ILLEGAL (R25). Total on every word. -/
def decode (w : Word) : Except Nat Instr :=
  match exact (RWord.unpack w) with
  | some i => .ok i
  | none => .error (subcode (RWord.unpack w))

/-- A little-endian number (R4). -/
def leNat : List Byte → Nat
  | [] => 0
  | b :: bs => b.toNat + 256 * leNat bs

/-- The little-endian bytes of a number (R4). -/
def natLe : Nat → Nat → List Byte
  | 0, _ => []
  | n + 1, x => BitVec.ofNat 8 x :: natLe n (x / 256)

/-- The first eight bytes of a stream as an instruction (R22), with the bytes that follow; `none` where there are fewer
than eight. -/
def decodeBytes (bs : List Byte) : Option (Except Nat Instr × List Byte) :=
  if bs.length < 8 then none else some (decode (BitVec.ofNat 64 (leNat (bs.take 8))), bs.drop 8)

/-- The instruction read from a table row's bits: one little-endian 64-bit word, the bits above `nbits` zero. -/
def decodeTableWord (nbits w : Nat) : Option Instr :=
  match decodeBytes (natLe 8 (w % 2 ^ nbits)) with
  | some (.ok i, _) => some i
  | _ => none

end Sys2Proof
end

