-- ==== Sys2Proof/Config.lean ====
section
/-! DEFINITION. What the spec leaves free: constants without a body, applied to the counter of the state or to operands.
Every statement that mentions one holds for each of its values. -/

namespace Sys2Proof

/-- Whether an access that finds a cached translation uses it rather than walking again: both are permitted until a
TLBINV completes (R227). Applied to the state's counter and the VA (log 10). -/
opaque Config.useCached : Nat → Nat → Bool

/-- Cycles of a core beyond the first, and ticks of a die's reference counter, that pass with one step; applied to the
state's counter and the core or die. Timing is not architectural (R105, R120; log 11). -/
opaque Config.extraCycles : Nat → Nat → Nat
opaque Config.refTicks : Nat → Nat → Nat

/-- The side of a floor on which 2^(n/d) or log2 (n/d) falls where 512 bits do not decide it (R160; log 12). -/
opaque Config.hardCase : Nat → Nat → Bool

/-- Whether an access issued just before a device is found unreachable was in flight to it, and whether an atomic in flight
was applied (Table 15.2, both allowed; log 13). -/
opaque Config.lostInFlight : Nat → Bool
opaque Config.lostAtomicApplied : Nat → Bool

/-- The scale and code that a lane-mode operand gives at a position that is not active, for which R124 forms no register
(log 15). Applied to the state's counter and the position. -/
opaque Config.laneHole : Nat → Nat → Nat × Nat

/-- TVAL3[6:4] of a COPY_FAULT whose row meets a device without a route, for which Table 14.5 gives no value (log 22). -/
opaque Config.copyNoRoute : Nat → BitVec 3

/-- A line of a team image beyond its header, whose layout is not architectural (R391; log 24). Applied to the state's
counter and the number of the line. -/
opaque Config.imageLine : Nat → Nat → BitVec 1024

/-- A line of a port's retry window that holds frames, whose layout is not given (R353; log 103). Applied to the state's counter and
the line. -/
opaque Config.windowLine : Nat → Nat → BitVec 1024

/-- How many groups a load has committed when its strand is pre-empted (R390; log 104). Applied to the state's counter and the
strand. -/
opaque Config.loadGroups : Nat → Nat → Nat

/-- What RCSTAT writes for the VA of the page where no page is in progress and none failed (R236; log 25). -/
opaque Config.noPage : Nat → BitVec 64

/-- The value that recoding gives an element of a page whose CFMT is UNT, which has no numeric value (R53, R232; log 25), as
the code of an F64. -/
opaque Config.untElem : Nat → Nat → BitVec 64

/-- The code of an I32 cell whose sum in COP is NaN, which R190 and R192 do not give (log 97), and the charge of a cell update on a
path that R207 does not name (log 98). Applied to the state's counter, and the cell's number. -/
opaque Config.nanCell : Nat → Nat → BitVec 32
opaque Config.copCharge : Nat → Nat

/-- A segment of a packed narrow line whose elements come from segments with different scale bytes, for which R360 gives no
contents (log 30). Applied to the state's counter and the segment's number. -/
opaque Config.mixedSegment : Nat → Nat → BitVec 1024

/-- SRAM rows that a self-repair repaired, whether a self-test passes, and whether MIG finds enough free frames: facts of the
chip, applied to the state's counter and the die (Table 16.6, R411; log 26). -/
opaque Config.repairRows : Nat → Nat → BitVec 8
opaque Config.selfTest : Nat → Nat → Bool
opaque Config.migRoom : Nat → Nat → Bool

/-- Where in each period the cycles withheld from a VI over its power cap fall, applied to the VI; how far the power manager lowers
an island's point, applied to the state's counter and the island; and how many islands it lowers beyond the first, applied to the
counter (R414, R415; log 27). -/
opaque Config.withholdPhase : Nat → Nat
opaque Config.loweredPoint : Nat → Nat → Nat
opaque Config.loweredIslands : Nat → Nat

/-- Whether a fetch goes to its line's home rather than to the core's instruction cache, applied to the state's counter and the DPA
(R373; log 122). -/
opaque Config.fetchMiss : Nat → Nat → Bool

/-- The CDI of a boot image, given by its length and its bytes that are not zero (R410; log 115). -/
opaque Config.cdi : Nat → List (Nat × BitVec 8) → BitVec 384

/-- What a line access adds to STKBYTES and HBMBYTES (7 and 8), which count the memory controllers' traffic behind the LLC, and
what an access over a link adds to LINK0 (9): Table 16.3 gives no amounts (log 31). Applied to the state's counter, the usage
counter's number and its count so far. -/
opaque Config.movedBytes : Nat → Nat → Nat → BitVec 64

end Sys2Proof
end

