-- ==== Sys2Proof/Machine/Flags.lean ====
section
/-! DEFINITION. The sticky flags and the register FCTL that holds them (Table 3.7, R61). -/

namespace Sys2Proof.Machine

/-- The sticky flags NV, DZ, OF, UF, NX, SAT, MIX in bits 0–6, in the order of FCTL[14:8] (Table 3.7). -/
abbrev Flags := BitVec 7

def fNV : Flags := 1#7
def fDZ : Flags := 2#7
def fOF : Flags := 4#7
def fUF : Flags := 8#7
def fNX : Flags := 16#7
def fSAT : Flags := 32#7
def fMIX : Flags := 64#7

/-- A flag raised under a condition. -/
def flagIf (c : Bool) (f : Flags) : Flags := if c then f else 0#7

/-- FCTL with flags added in bits 14–8: instructions only set flags (R61). -/
def fctlRaise (fctl : Word) (f : Flags) : Word := fctl ||| (f.setWidth 64 <<< 8)

/-- A write of FCTL: flags as given; RM of 0, 6 or 7 leaves RM (R61). -/
def fctlWrite (old new : Word) : Word :=
  let rm := new.extractLsb' 0 3
  let rm' := if rm == 0#3 || rm == 6#3 || rm == 7#3 then old.extractLsb' 0 3 else rm
  (new &&& 0x7F00#64) ||| rm'.setWidth 64

end Sys2Proof.Machine
end

