-- ==== Sys2Proof/Machine/Num.lean ====
section
/-! DEFINITION. Exact values, their decoding from element codes, rounding, and the block-encode rule (R9, R50–R69). -/

namespace Sys2Proof.Machine

/-- An exact value (R7 `decode`): a rational with a sign, so that −0 is kept, ±infinity, a NaN, or INVALID. -/
inductive Val where
  | fin (neg : Bool) (num den : Nat)
  | inf (neg : Bool)
  | nan (sig : Bool)
  | invalid
deriving DecidableEq, Repr

/-- A rounding mode in force (R62). -/
inductive RMode where
  | rne | rtz | rdn | rup | rna
deriving DecidableEq, Repr

namespace Val

def zero : Val := .fin false 0 1

def ofNat (n : Nat) : Val := .fin false n 1

def ofInt (x : Int) : Val := .fin (decide (x < 0)) x.natAbs 1

/-- m · 2^e with a sign. -/
def dyad (neg : Bool) (m : Nat) (e : Int) : Val :=
  if 0 ≤ e then .fin neg (m * 2 ^ e.toNat) 1 else .fin neg m (2 ^ (-e).toNat)

def isNum : Val → Bool
  | .fin _ _ _ => true
  | _ => false

def isZero : Val → Bool
  | .fin _ n _ => n == 0
  | _ => false

/-- NaN or INVALID: unordered (R161). -/
def isUnord : Val → Bool
  | .nan _ => true
  | .invalid => true
  | _ => false

def isSig : Val → Bool
  | .nan s => s
  | _ => false

/-- The sign bit; false for NaN and INVALID. -/
def neg : Val → Bool
  | .fin n _ _ => n
  | .inf n => n
  | _ => false

/-- Strictly below zero. -/
def isNeg : Val → Bool
  | .fin n m _ => n && m != 0
  | .inf n => n
  | _ => false

def negate : Val → Val
  | .fin n a b => .fin (!n) a b
  | .inf n => .inf (!n)
  | v => v

def abs : Val → Val
  | .fin _ a b => .fin false a b
  | .inf _ => .inf false
  | v => v

/-- The signed numerator. -/
def snum (neg : Bool) (n : Nat) : Int := if neg then -(Int.ofNat n) else Int.ofNat n

/-- a < b on numbers; −0 = +0. -/
def lt : Val → Val → Bool
  | .fin n1 a1 b1, .fin n2 a2 b2 => decide (snum n1 a1 * Int.ofNat b2 < snum n2 a2 * Int.ofNat b1)
  | .fin _ _ _, .inf n => !n
  | .inf n, .fin _ _ _ => n
  | .inf n, .inf m => n && !m
  | _, _ => false

/-- Numeric equality; −0 = +0. -/
def eq : Val → Val → Bool
  | .fin n1 a1 b1, .fin n2 a2 b2 => decide (snum n1 a1 * Int.ofNat b2 = snum n2 a2 * Int.ofNat b1)
  | .inf n, .inf m => n == m
  | _, _ => false

/-- Order with −0 below +0, for minimum and maximum (Table 5.8, Table 6.4). -/
def below (x y : Val) : Bool := lt x y || (eq x y && x.neg && !y.neg)

end Val

/-- ⌊log2 (n/d)⌋ for n, d > 0. -/
def ilog2 (n d : Nat) : Int :=
  let k : Int := Int.ofNat n.log2 - Int.ofNat d.log2
  let ge := if 0 ≤ k then decide (d * 2 ^ k.toNat ≤ n) else decide (d ≤ n * 2 ^ (-k).toNat)
  if ge then k else k - 1

/-- Whether to round a magnitude up from its floor, given the remainder r of a division by m (R62). -/
def roundUp (rm : RMode) (neg : Bool) (q r m : Nat) : Bool :=
  match rm with
  | .rne => decide (m < 2 * r) || (decide (2 * r = m) && q % 2 == 1)
  | .rtz => false
  | .rdn => neg && r != 0
  | .rup => !neg && r != 0
  | .rna => decide (m ≤ 2 * r)

/-- n/d in units of 2^g, rounded to an integer, and whether that is inexact. -/
def roundGrid (rm : RMode) (neg : Bool) (n d : Nat) (g : Int) : Nat × Bool :=
  let n' := if 0 ≤ g then n else n * 2 ^ (-g).toNat
  let d' := if 0 ≤ g then d * 2 ^ g.toNat else d
  let q := n' / d'
  let r := n' % d'
  (if roundUp rm neg q r d' then q + 1 else q, r != 0)

/-- Exponent bits, fraction bits of a wide floating format (Table 3.2). -/
def floatShape (f : FmtCode) : Nat × Nat :=
  match f.toNat with
  | 0x09 => (8, 7)
  | 0x0A => (5, 10)
  | 0x0B => (8, 23)
  | 0x0C => (11, 52)
  | 0x0D => (4, 3)
  | _ => (5, 2)

def floatBias (f : FmtCode) : Int := 2 ^ ((floatShape f).1 - 1) - 1

/-- The canonical NaN (Table 3.2). -/
def canonNaN (f : FmtCode) : Nat :=
  let (e, m) := floatShape f
  if f == 0x0D#6 then 0x7F else (2 ^ e - 1) * 2 ^ m + 2 ^ (m - 1)

/-- The exact value of a wide floating code (R50). -/
def decodeFloat (f : FmtCode) (code : Nat) : Val :=
  let (e, m) := floatShape f
  let frac := code % 2 ^ m
  let ex := (code / 2 ^ m) % 2 ^ e
  let sg := (code / 2 ^ (m + e)) % 2 == 1
  if f == 0x0D#6 && ex == 15 && frac == 7 then .nan false
  else if f != 0x0D#6 && ex == 2 ^ e - 1 then
    (if frac == 0 then .inf sg else .nan (frac / 2 ^ (m - 1) == 0))
  else if ex == 0 then Val.dyad sg frac (1 - floatBias f - m)
  else Val.dyad sg (2 ^ m + frac) (Int.ofNat ex - floatBias f - m)

/-- A finite number rounded to a wide floating format under a mode, with the flags of IEEE 754 (R62) and of R67. -/
def roundFloat (f : FmtCode) (rm : RMode) (neg : Bool) (n d : Nat) : Nat × Flags :=
  let (eb, m) := floatShape f
  let sbit := if neg then 2 ^ (eb + m) else 0
  if n = 0 then (sbit, 0#7)
  else
    let emin : Int := 1 - floatBias f
    let e := ilog2 n d
    let g := (if e < emin then emin else e) - m
    let (q, ix) := roundGrid rm neg n d g
    -- q < 2^m: subnormal; q = 2^(m+1) carries into the next exponent
    let code := if q < 2 ^ m then q else
      (g + m + floatBias f).toNat * 2 ^ m + (q - 2 ^ m)
    let big := if f == 0x0D#6 then decide (0x7E < code) else decide ((2 ^ eb - 1) * 2 ^ m ≤ code)
    if big then
      if f == 0x0D#6 then (sbit + 0x7E, fOF ||| fNX)
      else
        let toInf := match rm with
          | .rne | .rna => true
          | .rtz => false
          | .rdn => neg
          | .rup => !neg
        (sbit + (if toInf then (2 ^ eb - 1) * 2 ^ m else (2 ^ eb - 1) * 2 ^ m - 1), fOF ||| fNX)
    else
      let tiny := decide (e < emin) &&
        !(decide (e = emin - 1) && (roundGrid rm neg n d (e - m)).1 == 2 ^ (m + 1))
      (sbit + code, flagIf ix fNX ||| flagIf (ix && tiny) fUF)

/-- `round_to` of R7 for a wide floating format: NaN and INVALID become the canonical NaN (R51, R64); E4M3 has no
infinity (R67). -/
def roundTo (f : FmtCode) (rm : RMode) : Val → Nat × Flags
  | .fin neg n d => roundFloat f rm neg n d
  | .inf neg =>
    let (eb, m) := floatShape f
    let sbit := if neg then 2 ^ (eb + m) else 0
    if f == 0x0D#6 then (sbit + 0x7E, fOF ||| fNX) else (sbit + (2 ^ eb - 1) * 2 ^ m, 0#7)
  | _ => (canonNaN f, 0#7)

/-- A magnitude rounded to an integer. -/
def roundInt (rm : RMode) (neg : Bool) (n d : Nat) : Int × Bool :=
  let (q, ix) := roundGrid rm neg n d 0
  (Val.snum neg q, ix)

def intMin (f : FmtCode) : Int := if isSInt f then -(2 ^ (elemBits f - 1)) else 0

def intMax (f : FmtCode) : Int := if isSInt f then 2 ^ (elemBits f - 1) - 1 else 2 ^ elemBits f - 1

/-- The code of an integer in w bits, modulo 2^w. -/
def wrapTo (w : Nat) (x : Int) : Nat := (x % (2 ^ w : Int)).toNat

/-- A wide-integer result of an operation (R157): rounded, then wrapping, or clamped under SAT. -/
def intResult (f : FmtCode) (rm : RMode) (sat : Bool) : Val → Nat × Flags
  | .fin neg n d =>
    let (x, ix) := roundInt rm neg n d
    let fl := flagIf ix fNX
    if x < intMin f then (if sat then (wrapTo (elemBits f) (intMin f), fl ||| fSAT) else (wrapTo (elemBits f) x, fl))
    else if intMax f < x then
      (if sat then (wrapTo (elemBits f) (intMax f), fl ||| fSAT) else (wrapTo (elemBits f) x, fl))
    else (wrapTo (elemBits f) x, fl)
  | .inf neg => (wrapTo (elemBits f) (if neg then intMin f else intMax f), fNV)
  | _ => (0, fNV)

/-- A conversion to a wide integer (Table 3.8): clamping, with SAT from an integer source and NV from any other. -/
def intConvert (f : FmtCode) (rm : RMode) (srcInt : Bool) : Val → Nat × Flags
  | .fin neg n d =>
    let (x, ix) := roundInt rm neg n d
    let out := if srcInt then fSAT else fNV
    if x < intMin f then (wrapTo (elemBits f) (intMin f), out)
    else if intMax f < x then (wrapTo (elemBits f) (intMax f), out)
    else (wrapTo (elemBits f) x, flagIf ix fNX)
  | .inf neg => (wrapTo (elemBits f) (if neg then intMin f else intMax f), fNV)
  | _ => (0, fNV)

/-! ### Block-scaled formats -/

/-- Mantissa bits, bias and largest magnitude in units of 2^(1 − bias − M) of a minifloat (Table 3.3). -/
def miniShape (f : FmtCode) : Nat × Int × Nat :=
  if f == 0x30#6 then (1, 1, 12)        -- 6.0 = 12 · 2^−1
  else if f == 0x31#6 then (3, 1, 60)   -- 7.5 = 60 · 2^−3
  else (2, 3, 448)                      -- 28.0 = 448 · 2^−4

/-- The element value of a narrow code, without its block factor (R55). -/
def decodeElem (f : FmtCode) (code : Nat) : Val :=
  let w := elemBits f
  if isZ f then Val.ofNat code
  else if isB f then
    if w = 1 then Val.ofInt (if code = 0 then 1 else -1)
    else Val.ofInt (if code < 2 ^ (w - 1) then Int.ofNat code else Int.ofNat code - 2 ^ w)
  else
    let (m, bias, _) := miniShape f
    let sg := code / 2 ^ (w - 1) == 1
    let ex := (code % 2 ^ (w - 1)) / 2 ^ m
    let fr := code % 2 ^ m
    if ex = 0 then Val.dyad (sg && fr != 0) fr (1 - bias - m)
    else Val.dyad sg (2 ^ m + fr) (Int.ofNat ex - bias - m)

/-- A value times 2^k. -/
def Val.scale2 (k : Int) : Val → Val
  | .fin neg n d => if 0 ≤ k then .fin neg (n * 2 ^ k.toNat) d else .fin neg n (d * 2 ^ (-k).toNat)
  | v => v

/-- `decode` of R7: the exact value of a code, with the scale of its block in a narrow format. UNT counts as its byte. -/
def decodeCode (f : FmtCode) (scale code : Nat) : Val :=
  if isNarrow f then
    if scale = 0xFF then .invalid else (decodeElem f code).scale2 (Int.ofNat scale - 127)
  else if isSInt f then
    let w := elemBits f
    Val.ofInt (if code < 2 ^ (w - 1) then Int.ofNat code else Int.ofNat code - 2 ^ w)
  else if isUInt f || f == 0#6 then Val.ofNat code
  else decodeFloat f code

/-- x / 2^(s − 127) rounded to the element's grid: its magnitude in the grid's units, and whether that is inexact. For
minifloats the unit is 2^(1 − bias − M) and the mantissa is M + 1 bits (R65 step 5). -/
def elemRound (f : FmtCode) (rm : RMode) (s : Int) (neg : Bool) (n d : Nat) : Nat × Bool :=
  if isMini f then
    let (m, bias, _) := miniShape f
    let e := ilog2 n d - (s - 127)
    let g := (if e < 1 - bias then 1 - bias else e) - m
    let (q, ix) := roundGrid rm neg n d (g + (s - 127))
    (q * 2 ^ (g - (1 - bias - m)).toNat, ix)
  else roundGrid rm neg n d (s - 127)

/-- The largest magnitude a code holds, in the grid's units (R65 step 5). -/
def elemLimit (f : FmtCode) (neg : Bool) : Nat :=
  if isMini f then (miniShape f).2.2
  else if isZ f then (if neg then 0 else 2 ^ elemBits f - 1)
  else 2 ^ (elemBits f - 1) - 1

/-- The code of a signed magnitude in the grid's units; a zero has code 0. -/
def elemCode (f : FmtCode) (neg : Bool) (q : Nat) : Nat :=
  let w := elemBits f
  if q = 0 then 0
  else if isMini f then
    let (m, _, _) := miniShape f
    let k := q.log2
    let body := if q < 2 ^ m then q else (k - m + 1) * 2 ^ m + (q / 2 ^ (k - m) - 2 ^ m)
    (if neg then 2 ^ (w - 1) else 0) + body
  else if neg then 2 ^ w - q
  else q

/-- Whether every value of a block fits under scale s. -/
def blockFits (f : FmtCode) (rm : RMode) (s : Int) (xs : List Val) : Bool :=
  xs.all fun
    | .fin neg n d => n == 0 || decide ((elemRound f rm s neg n d).1 ≤ elemLimit f neg)
    | _ => true

/-- The smallest scale from t up to 254 under which a block fits. -/
def findScale (f : FmtCode) (rm : RMode) (xs : List Val) : Nat → Nat → Option Nat
  | 0, _ => none
  | fuel + 1, t => if 254 < t then none else if blockFits f rm t xs then some t else findScale f rm xs fuel (t + 1)

/-- The largest exponent of a block's non-zero values. -/
def maxExp (xs : List Val) : Option Int :=
  xs.foldl (fun acc x => match x with
    | .fin _ n d => if n = 0 then acc else
      let e := ilog2 n d
      (match acc with | none => some e | some a => some (if a < e then e else a))
    | _ => acc) none

/-- `encode_block` of R7 by the steps of R65 and R66: the scale byte, the codes and the flags. -/
def encodeBlock (f : FmtCode) (rm : RMode) (xs0 : List Val) : Nat × List Nat × Flags :=
  if xs0.any fun x => !x.isNum then (0xFF, xs0.map fun _ => 0, 0#7)
  else
    let sat := isZ f && xs0.any Val.isNeg
    let xs := if isZ f then xs0.map fun x => if x.isNeg then Val.zero else x else xs0
    let fl0 := flagIf sat fSAT
    match maxExp xs with
    | none => (0, xs.map fun _ => 0, fl0)
    | some e =>
      if isB f && elemBits f == 1 then
        let s0 := e + 127
        let s : Int := if s0 < 0 then 0 else if 254 < s0 then 254 else s0
        let exact := xs.all fun x => x.abs.eq (Val.dyad false 1 (s - 127))
        (s.toNat, xs.map fun x => if x.isNeg then 1 else 0, fl0 ||| flagIf (s != s0) fOF ||| flagIf (!exact) fNX)
      else
        -- below this scale the largest value certainly does not fit
        let k : Int := if f == 0x32#6 then 5 else if isMini f then 3 else Int.ofNat (elemBits f)
        let lo := e - k - 1 + 127
        let found := findScale f rm xs 12 (if lo < 0 then 0 else lo.toNat)
        let s := found.getD 254
        let q := fun (x : Val) => match x with
          | .fin neg n d => if n = 0 then ((0 : Nat), false, false, neg, false) else
            let (m, ix) := elemRound f rm s neg n d
            let lim := elemLimit f neg
            let big := decide (lim < m)
            let m' := if big then lim else m
            (m', ix || big, big, neg, m' == 0)
          | _ => (0, false, false, false, false)
        let rs := xs.map q
        (s, rs.map fun r => elemCode f r.2.2.2.1 r.1,
          fl0 ||| flagIf (rs.any fun r => r.2.1) fNX ||| flagIf (rs.any fun r => r.2.2.1) fOF
            ||| flagIf (rs.any fun r => r.2.2.2.2) fUF)

end Sys2Proof.Machine
end

