-- ==== Sys2Proof/Machine/Arith.lean ====
section
/-! DEFINITION. Exact arithmetic on values with its IEEE 754 special cases (R131–R139, R159, R160). An irrational result is
given as a rational that rounds as it does in every mode: the floor at a fine grid with a half unit above it. -/

namespace Sys2Proof.Machine

/-- NV for a signalling NaN among the operands (R51). -/
def sigNV (xs : List Val) : Flags := flagIf (xs.any Val.isSig) fNV

/-- The result where an operand is NaN or INVALID: INVALID if one is, else a quiet NaN (R51, R64). -/
def nanOf (xs : List Val) : Val := if xs.any fun x => x == Val.invalid then .invalid else .nan false

/-- a + b; an exact zero sum of unlike signs is −0 under RDN only (R62). -/
def addV (rm : RMode) (x y : Val) : Val × Flags :=
  match x, y with
  | .fin n1 a1 b1, .fin n2 a2 b2 =>
    let s := if b1 = b2 then Val.snum n1 a1 + Val.snum n2 a2
      else Val.snum n1 a1 * Int.ofNat b2 + Val.snum n2 a2 * Int.ofNat b1
    let d := if b1 = b2 then b1 else b1 * b2
    if s = 0 then (.fin (if n1 == n2 then n1 else rm == .rdn) 0 1, 0#7)
    else (.fin (decide (s < 0)) s.natAbs d, 0#7)
  | .inf n, .fin _ _ _ => (.inf n, 0#7)
  | .fin _ _ _, .inf n => (.inf n, 0#7)
  | .inf n, .inf m => if n == m then (.inf n, 0#7) else (.nan false, fNV)
  | _, _ => (nanOf [x, y], sigNV [x, y])

def subV (rm : RMode) (x y : Val) : Val × Flags := addV rm x y.negate

def mulV (x y : Val) : Val × Flags :=
  match x, y with
  | .fin n1 a1 b1, .fin n2 a2 b2 => (.fin (n1 != n2) (a1 * a2) (b1 * b2), 0#7)
  | .inf n, .fin m a _ => if a = 0 then (.nan false, fNV) else (.inf (n != m), 0#7)
  | .fin m a _, .inf n => if a = 0 then (.nan false, fNV) else (.inf (n != m), 0#7)
  | .inf n, .inf m => (.inf (n != m), 0#7)
  | _, _ => (nanOf [x, y], sigNV [x, y])

/-- a·b + c, exact: the one rounding follows (Table 5.8, Table 6.4). -/
def fmaV (rm : RMode) (x y z : Val) : Val × Flags :=
  let (p, f1) := mulV x y
  let (r, f2) := addV rm p z
  (r, f1 ||| f2)

def divV (x y : Val) : Val × Flags :=
  match x, y with
  | .fin n1 a1 b1, .fin n2 a2 b2 =>
    if a2 = 0 then (if a1 = 0 then (.nan false, fNV) else (.inf (n1 != n2), fDZ))
    else (.fin (n1 != n2) (a1 * b2) (b1 * a2), 0#7)
  | .inf n, .fin m _ _ => (.inf (n != m), 0#7)
  | .fin m _ _, .inf n => (.fin (n != m) 0 1, 0#7)
  | .inf _, .inf _ => (.nan false, fNV)
  | _, _ => (nanOf [x, y], sigNV [x, y])

/-- ⌊√n⌋ by its bits from 2^k down. -/
def isqrtFrom (n : Nat) : Nat → Nat → Nat
  | 0, r => r
  | k + 1, r =>
    let r' := r + 2 ^ k
    isqrtFrom n k (if r' * r' ≤ n then r' else r)

def isqrt (n : Nat) : Nat := isqrtFrom n (n.log2 / 2 + 1) 0

/-- √(n·d)·2^200 over t·2^200, with a half unit where it is not exact. -/
def sqrtOver (nd t : Nat) : Val :=
  let x := nd * 4 ^ 200
  let r := isqrt x
  if r * r = x then .fin false r (t * 2 ^ 200) else .fin false (2 * r + 1) (t * 2 ^ 201)

def sqrtV (x : Val) : Val × Flags :=
  match x with
  | .fin n a b => if a = 0 then (x, 0#7) else if n then (.nan false, fNV) else (sqrtOver (a * b) b, 0#7)
  | .inf n => if n then (.nan false, fNV) else (x, 0#7)
  | _ => (nanOf [x], sigNV [x])

/-- 1/√a; ±0 gives ±∞ and DZ (R160). -/
def rsqrtV (x : Val) : Val × Flags :=
  match x with
  | .fin n a b => if a = 0 then (.inf n, fDZ) else if n then (.nan false, fNV) else (sqrtOver (a * b) a, 0#7)
  | .inf n => if n then (.nan false, fNV) else (Val.zero, 0#7)
  | _ => (nanOf [x], sigNV [x])

def rcpV (x : Val) : Val × Flags := divV (.fin false 1 1) x

/-! ### 2^x and log2 x in fixed point -/

/-- Σ y^n/n! in units of 2^p, for y below 1 in the same units: the partial sums from a term on. -/
def expSum (p y : Nat) : Nat → Nat → Nat → Nat → Nat
  | 0, _, _, s => s
  | fuel + 1, k, t, s =>
    let t' := t * y / 2 ^ p / k
    if t' = 0 then s else expSum p y fuel (k + 1) t' (s + t')

/-- Σ z^(2k+1)/(2k+1) in units of 2^p: `pw` is the current power of z, `zz` its square. -/
def atanhSum (p zz : Nat) : Nat → Nat → Nat → Nat → Nat
  | 0, _, _, s => s
  | fuel + 1, k, pw, s =>
    if pw = 0 then s else atanhSum p zz fuel (k + 2) (pw * zz / 2 ^ p) (s + pw / k)

/-- ln 2 = 2·atanh(1/3) in units of 2^p, low by at most p units. -/
def ln2Fix (p : Nat) : Nat := 2 * atanhSum p (2 ^ p / 9) p 1 (2 ^ p / 3) 0

/-- The midpoint of the unit interval of 2^(−k) that holds a value known to lie in [lo, hi] units of 2^(−p). -/
def midpoint (n d : Nat) (p k : Nat) (lo hi : Int) : Val :=
  let cut : Int := 2 ^ (p - k)
  let a := lo / cut
  let b := hi / cut
  let r := if a = b then a else if Config.hardCase n d then b else a
  let m := 2 * r + 1
  .fin (decide (m < 0)) m.natAbs (2 ^ (k + 1))

/-- 2^x (R160): exact for an integer x; beyond every format's range it is a value that overflows or underflows. -/
def exp2V (x : Val) : Val × Flags :=
  match x with
  | .inf n => (if n then Val.zero else .inf false, 0#7)
  | .fin neg a b =>
    let v := Val.snum neg a
    let fl := v / Int.ofNat b
    if (8192 : Int) < fl then (Val.dyad false 1 8192, 0#7)
    else if fl < -8192 then (Val.dyad false 1 (-8192), 0#7)
    else if v % Int.ofNat b = 0 then (Val.dyad false 1 fl, 0#7)
    else
      -- 2^frac in [1, 2) at 512 fractional bits, then the floor at 320
      let p := 512
      let fr := (v % Int.ofNat b).toNat
      let y := (fr * 2 ^ p / b) * ln2Fix p / 2 ^ p
      let s := expSum p y 400 1 (2 ^ p) (2 ^ p)
      let hi := Int.ofNat s + 2 ^ 20
      -- 2^frac is strictly below 2
      let m := midpoint a b p 320 (Int.ofNat s) (if hi < 2 ^ (p + 1) then hi else 2 ^ (p + 1) - 1)
      (m.scale2 fl, 0#7)
  | _ => (nanOf [x], sigNV [x])

/-- log2 x (R160). -/
def log2V (x : Val) : Val × Flags :=
  match x with
  | .inf n => if n then (.nan false, fNV) else (x, 0#7)
  | .fin neg a b =>
    if a = 0 then (.inf true, fDZ)
    else if neg then (.nan false, fNV)
    else
      let e := ilog2 a b
      -- x = 2^e · (a'/b')
      let a' := if 0 ≤ e then a else a * 2 ^ (-e).toNat
      let b' := if 0 ≤ e then b * 2 ^ e.toNat else b
      if a' = b' then (Val.ofInt e, 0#7)
      else
        let p := 512
        let z := (a' - b') * 2 ^ p / (a' + b')
        let l := 2 * atanhSum p (z * z / 2 ^ p) p 1 z 0
        let q := l * 2 ^ p / ln2Fix p
        let v := e * 2 ^ p + Int.ofNat q
        (midpoint a b p 320 (v - 2 ^ 20) (v + 2 ^ 20), 0#7)
  | _ => (nanOf [x], sigNV [x])

/-! ### Choice and comparison -/

/-- NV of a minimum or maximum: a signalling NaN. -/
def minV (x y : Val) : Val × Flags :=
  if x.isUnord || y.isUnord then (nanOf [x, y], sigNV [x, y]) else (if y.below x then y else x, 0#7)

def maxV (x y : Val) : Val × Flags :=
  if x.isUnord || y.isUnord then (nanOf [x, y], sigNV [x, y]) else (if x.below y then y else x, 0#7)

/-- min(max(a, b), c) (Table 6.4). -/
def clipV (x y z : Val) : Val × Flags :=
  let (p, f1) := maxV x y
  let (r, f2) := minV p z
  (r, f1 ||| f2)

/-- COND of VCMP, of which FCMP has the first five (R137, R161), with NV. -/
def cmpV (cond : Nat) (x y : Val) : Bool × Flags :=
  let un := x.isUnord || y.isUnord
  let r := match cond with
    | 0 => !un && x.eq y
    | 1 => un || !x.eq y
    | 2 => !un && x.lt y
    | 3 => !un && (x.lt y || x.eq y)
    | 4 => un
    | 5 => !un && y.lt x
    | _ => !un && (y.lt x || x.eq y)
  let ordered := cond == 2 || cond == 3 || cond == 5 || cond == 6
  (r, if ordered then flagIf un fNV else sigNV [x, y])

end Sys2Proof.Machine
end

