-- ==== Sys2Proof/Machine/State.lean ====
section
/-! DEFINITION. The state of the W4: strands, teams, caravans, virtual interfaces, memory and the units beside them, as
plain data, and the state right after reset. -/

namespace Sys2Proof.Machine

/-- A line as read at one point of its coherence order (R279): data, tag, and what TVAL1 a POISON_CONSUMED of it has: 1 expired,
2 lost in flight (R242). -/
structure LineV where
  data : Nat
  tag : BitVec 16
  why : Nat := 0
deriving DecidableEq, Repr

/-! ### Registers of a strand -/

/-- A vector register image (R59). VALID and the VCLS summary follow from these fields by R60; `zero3` records that the
summary is 3, from reset or the zero form of VTAG. -/
structure VReg where
  fmt : FmtCode := 0#6
  zero3 : Bool := true
  data : BitVec 8192 := 0#8192
  scale : BitVec 512 := 0#512
  psn : BitVec 64 := 0#64
deriving DecidableEq, Repr

/-- A manifest record (Table 10.1). -/
structure Manifest where
  base : Word := 0#64
  fmt : Byte := 0#8
  rank : Byte := 0#8
  flags : BitVec 16 := 0#16
  dims : List (BitVec 32) := []
  strides : List Word := []
deriving DecidableEq, Repr

/-- The registers of a handler level (R381). -/
structure TrapRegs where
  pc : Word := 0#64
  cause : Word := 0#64
  v0 : Word := 0#64
  v1 : Word := 0#64
  v2 : Word := 0#64
  v3 : Word := 0#64
  vec : Word := 0#64
  stat : Word := 0#64
deriving DecidableEq, Repr

/-- The trap causes (Table 17.2). -/
inductive Cause where
  | illegal | privilege | bound | overlap | tagForbidden | tagMismatch | tagConflict | capacity | noLanes | misaligned
  | pageLoad | pageStore | pageFetch | access | execOnly | poisonConsumed | vabsent | copyFault | exchangeFault
  | tileFootprint | queueEnd | homeOffline | watchdog | breakpoint | trapcall | contextIncompatible | preempt
deriving DecidableEq, Repr

/-- A trap as it is raised: its cause and values (R7 `fault`). -/
structure Trap where
  cause : Cause
  v0 : Word := 0#64
  v1 : Word := 0#64
  v2 : Word := 0#64
  v3 : Word := 0#64
deriving DecidableEq, Repr

/-- An asynchronous cause pending at a strand (R386); COPY_FAULT names its stream. -/
structure Pend where
  trap : Trap
  stream : Nat := 0
  second : Bool := false
deriving DecidableEq, Repr

/-- Why a strand does not issue (Table 4.1), and in which state it is otherwise. -/
inductive Run where
  | active
  /-- PARKED at barrier `id` -/
  | parkBar (id : Nat)
  /-- PARKED in the WAITW `i`, whose word lies in line `line` -/
  | parkWaitw (i : Instr) (line : Nat)
  /-- PARKED in the IDLE `i` -/
  | parkIdle (i : Instr)
  /-- waiting in a tile instruction for tile `tile` to complete (R205, R308) -/
  | tile (tile : Nat)
  /-- a member's CSTJ waiting for the other members (R205) -/
  | joint (i : Instr)
  | exited
  /-- stopped with its state held: no level can take its trap (R384) -/
  | stopped
deriving DecidableEq, Repr

/-- A plain load from memory that later instructions of its strand may have passed (R282): the instruction, its destination, the
registers that it read, its lines as they are performed so far, those that may still be performed at a later point of their order,
and FCTL after it. -/
structure LateLoad where
  i : Instr
  vec : Bool
  d : Nat
  k : Nat := 1
  s : Tab Word
  ix : Tab Word
  v : Tab VReg
  m : Tab (BitVec 1024)
  tstart : Word
  fctl : Word
  lines : Tab LineV
  left : List Nat
  raised : Word
deriving DecidableEq, Repr

/-- A strand: its registers, control registers and run state (R116, R117, R143, R381). -/
structure Strand where
  team : Nat := 0
  idx : Nat := 0
  run : Run := .active
  pc : Word := 0#64
  priv : Priv := .user
  s : Tab Word := []
  i : Tab Word := []
  v : Tab VReg := []
  m : Tab (BitVec 1024) := []
  h : Tab Manifest := []
  vl : Word := 0#64
  vfmt : Word := 0#64
  vpad : Word := 0#64
  tstart : Word := 0#64
  mstep : Word := 0#64
  fctl : Word := 1#64
  palsel : Word := 0#64
  vdirty : Word := 0#64
  vpresent : Word := 0xFFFF_FFFF_FFFF#64
  progress : Word := 0#64
  ut : TrapRegs := {}
  st : TrapRegs := {}
  mt : TrapRegs := {}
  sscratch : Word := 0#64
  mscratch : Word := 0#64
  vicur : Word := 0#64
  /-- watchdog ticks remaining (R399) and whether the window expired since the last HEARTBEAT -/
  wdrem : Nat := 0
  /-- the window that the count last started from; a count of 0 does not run -/
  wdwin : Nat := 0
  wdExpired : Bool := false
  pend : List Pend := []
  /-- the level that single-steps this strand after TRET (R400) -/
  sstep : Option Priv := none
  /-- lane groups held now (R103, R104) -/
  lanes : Nat := 0
  /-- the strand's slot on its core (R92) -/
  slot : Nat := 0
  /-- how long the strand has been eligible without issuing (R100) -/
  waited : Nat := 0
  /-- the largest number of strands of its class or higher that were eligible during that wait (R101) -/
  nmax : Nat := 0
  /-- the last number of an XWAIT's channel when the XWAIT that the strand waits in issued (R364) -/
  xlast : Option Nat := none
  /-- lines that a load of several lines has performed while its other lines are held (R311), by line number -/
  got : Tab LineV := []
  /-- plain loads that may still be performed later than the instructions after them (R282), the oldest first -/
  late : List LateLoad := []
  /-- the instruction that the strand is parked in, or waits in for a tile, is charged already (R101) -/
  charged : Bool := false
  /-- lines that a load of several lines leaves for a later step (R311): the agenda's choice, for one issue -/
  shun : List Nat := []
  /-- request entries that an access holds while it waits at translation (R229) -/
  reqs : Nat := 0
  /-- the home set that the strand's HOMEMAP is moving, while it waits for the old slice (R379) -/
  homing : Option Nat := none
deriving DecidableEq, Repr

/-! ### Resources of a team -/

/-- A canvas (Table 7.1). Cell (r, c) is entry 256·r + c. JB holds handle and position. -/
structure Canvas where
  cf : FmtCode := 0x0B#6
  mr : Nat := 256
  cells : Tab Word := []
  psn : BitVec 256 := 0#256
  jb : Option (Word × Nat × Nat) := none
deriving DecidableEq, Repr

/-- A queue entry (R208). -/
inductive QEntry where
  | sc (w : Word)
  | ve (v : VReg)
deriving DecidableEq, Repr

/-- A bound queue (R208). -/
structure Queue where
  vec : Bool := false
  depth : Nat := 1
  prod : BitVec 16 := 0#16
  cons : BitVec 16 := 0#16
  pclosed : BitVec 16 := 0#16
  entries : List QEntry := []
deriving DecidableEq, Repr

/-- STATE of a copy stream (Table 14.2). -/
inductive CpState where
  | idle | active | faulted | done
deriving DecidableEq, Repr

/-- KIND of a copy stream's transfer (Table 14.2). -/
inductive CpKind where
  | start | gather | scatter
deriving DecidableEq, Repr

/-- An interlock entry of a transfer (R293): a range of whole lines of the scratchpad or of VAs, `hi` excluded, and
whether it is a destination. -/
structure Interlock where
  sp : Bool
  dst : Bool
  lo : Nat
  hi : Nat
deriving DecidableEq, Repr

/-- A copy stream and the record of its transfer (Table 14.2, R333). -/
structure Stream where
  state : CpState := .idle
  kind : CpKind := .start
  /-- the strand that issued the transfer, and whether it did so at user privilege (R275) -/
  issuer : Nat := 0
  user : Bool := true
  req : Nat := 0
  avail : Nat := 0
  rowlen : Nat := 0
  dest : Nat := 0
  man : Manifest := {}
  mslot : Nat := 0
  fmt : FmtCode := 0#6
  rm : Rm := .rne
  x0 : Nat := 0
  ncol : Nat := 0
  /-- the row coordinates y_r -/
  rows : List Nat := []
  /-- rows requested and not yet complete, and completed rows -/
  flight : List Nat := []
  doneRows : List Nat := []
  /-- the recorded failure: row and the values of its COPY_FAULT; and the ranges of VAs that its lines in memory lie in -/
  fail : Option (Nat × Trap) := none
  failLines : List (Nat × Nat) := []
  il : List Interlock := []
deriving DecidableEq, Repr

/-- The fields of a waybill that its caravan keeps (Table 4.3). -/
structure Waybill where
  entry : Word := 0#64
  args : Word := 0#64
  teams : Nat := 1
  strands : Nat := 1
  canvases : Nat := 0
  queues : Nat := 0
  kstreams : Nat := 0
  cls : Nat := 0
  laneWeight : Nat := 0
  roles : BitVec 16 := 0#16
  persist : Bool := false
  gang : Bool := false
  spbytes : Nat := 0
  diemask : BitVec 4 := 0#4
  donescope : Nat := 0
  jr : Nat := 0
  jc : Nat := 0
  lo : Word := 0#64
  hi : Word := 0#64
  strip : Word := 0#64
  doneaddr : Word := 0#64
  wake : Word := 0#64
deriving DecidableEq, Repr

/-- A line of a tile in flight (Table 12.2): its VA and number (DPA / 128), what its page says, and its elements by
position: a cell's code for a store, the cell's number 256·i + j for a load, with the poison of a stored cell. `upd` are
the A and D bits that its use sets. -/
structure TileLine where
  va : Word
  ln : Nat
  eph : Bool := false
  ten : Bool := false
  cfmt : FmtCode := 0#6
  dem : Bool := false
  upd : List (Nat × Nat) := []
  els : List (Nat × Nat × Bool) := []
deriving DecidableEq, Repr

/-- What an instruction contributes to a tile in flight: a CLD, a CST, or one member's CSTJ (R205, R308). The queue entries
that the instruction reads stay at the heads of their queues until it completes (R28). -/
structure TilePart where
  sid : Nat
  vi : Nat := 0
  i : Instr
  team : Nat := 0
  canvas : Nat := 0
  ix : Tab Nat := []
  pops : Tab Nat := []
  /-- the format of the elements in memory, the canvas's CF, and the rounding mode -/
  fmt : FmtCode := 0#6
  cf : FmtCode := 0#6
  rm : Rm := .rne
  /-- rows and columns that the part covers -/
  rows : Nat := 0
  cols : Nat := 0
  /-- the member's position (R204) -/
  p : Nat := 0
  q : Nat := 0
  lines : List TileLine := []
  /-- flags of the conversions made at the commit point -/
  flags : BitVec 7 := 0#7
deriving DecidableEq, Repr

/-- A caravan (R84, R90, R97). -/
structure Caravan where
  vi : Nat := 0
  handle : Word := 0#64
  wb : Waybill := {}
  /-- the strip counter (R97) -/
  counter : Word := 0#64
  /-- the position of its LAUNCH in the order of launches (R91) -/
  seq : Nat := 0
  /-- started at monitor privilege (R86), or a monitor LAUNCH -/
  service : Bool := false
  monPriv : Bool := false
  teams : List Nat := []
  complete : Bool := false
  /-- the members that wait in their CSTJ for the others (R205) -/
  joint : List TilePart := []
deriving DecidableEq, Repr

/-- A team: where it is placed, its strands and the resources it holds (R84, R86, R92). -/
structure Team where
  caravan : Nat := 0
  idx : Nat := 0
  /-- the core, 0–255 in physical numbering; none while PENDING -/
  core : Option Nat := none
  strands : List Nat := []
  canv : Tab Canvas := []
  queues : Tab Queue := []
  streams : Tab Stream := []
  spBase : Nat := 0
  spLen : Nat := 0
  /-- where the window lies in the core's scratchpad -/
  spPhys : Nat := 0
  sp : Tab Byte := []
  spTags : Tab (BitVec 16) := []
  /-- admissions so far, and the moment of the last one (R93) -/
  places : Nat := 0
  admitted : Nat := 0
  /-- the save slot that holds the team image while it is PENDING after pre-emption (R391) -/
  saved : Option Word := none
  /-- treated as no victim until a TRET from PREEMPT or an exit (R392) -/
  noVictim : Bool := false
  reclaimed : Bool := false
deriving DecidableEq, Repr

/-! ### Virtual interfaces -/

/-- STATE of a recode job (Table 9.8). -/
inductive RcState where
  | idle | running | done | failed
deriving DecidableEq, Repr

/-- A VI's recode job (R232, R235). -/
structure Recode where
  state : RcState := .idle
  err : Nat := 0
  flags : Word := 0#64
  pages : Nat := 0
  va : Word := 0#64
  count : Nat := 0
  fmt : FmtCode := 0#6
  rm : Rm := .rne
  /-- the page in progress has passed step 1 of R232 -/
  busy : Bool := false
deriving DecidableEq, Repr

/-- What an exchange operation does (R359, R361). -/
inductive XopKind where
  | send (dst : Nat) (off : Nat)
  | red (mode : Nat)
deriving DecidableEq, Repr

/-- An operation of a channel. -/
structure Xop where
  seq : Nat
  kind : XopKind
  src : Manifest := {}
  dst : Manifest := {}
  fmt : FmtCode := 0#6
  g : FmtCode := 0#6
  rm : Rm := .rne
  elems : Nat := 0
  bytes : Nat := 0
  /-- the strand that issued it, and whether at user privilege -/
  sid : Nat := 0
  user : Bool := true
  /-- ranks whose landing lines are performed and acknowledged -/
  landed : List Nat := []
  reduced : Bool := false
  complete : Bool := false
  /-- failure: sub-cause and TVAL3; whether XWAIT reported it -/
  failed : Option (Nat × Word) := none
  /-- ranks to which its lines have gone ahead of an earlier send (R368) -/
  early : List Nat := []
  /-- bytes of its message to a rank that have left in frames (R353) -/
  sent : Tab Nat := []
  reported : Bool := false
  flags : Word := 0#64
  status : Word := 0#64
  flagsRaised : Bool := false
  il : List Interlock := []
deriving DecidableEq, Repr

/-- A channel endpoint (Table 15.5). -/
structure Chan where
  group : Word := 0#64
  nrank : Nat := 2
  rank : Nat := 0
  ether : Bool := false
  level : Nat := 0
  comp : Bool := false
  portmask : Nat := 0
  rxbase : Word := 0#64
  rxlen : Word := 0#64
  arrive : Word := 0#64
  tmo : Nat := 1
  peers : List (List Byte) := []
  /-- ranks known to have opened their endpoints -/
  open_ : List Nat := []
  last : Nat := 0
  /-- the last send of each rank that landed here -/
  recv : Tab Nat := []
  ops : List Xop := []
  failed : Bool := false
  /-- the sequence number and TVAL3 of a failed send of a peer -/
  heard : Option (Nat × Word) := none
deriving DecidableEq, Repr

/-- An entry of an event queue (R374). -/
structure Event where
  ty : Nat
  a : Word := 0#64
  b : Word := 0#64
  c : Word := 0#64
  vec : Nat := 0
deriving DecidableEq, Repr

/-- A virtual interface: its quota record (Table 16.2), per-VI control registers (R382), counters (Table 16.3) and
event queue (R374, R375). -/
structure Vi where
  q0 : Word := 0#64
  q1 : Word := 0#64
  /-- word 0x10: CHAN, PALGR with bit 8 reading 1, MAXCLS, ISSUEW = 1, DIES = 0xF -/
  q2 : Word := 0xF01_0000_0100#64
  q3 : Word := 0x0101_0101_0101#64
  q4 : Word := 0#64
  en : Bool := false
  flrBusy : Bool := false
  flrDone : Bool := false
  stvec : Word := 0#64
  vtbase : Word := 0#64
  s2base : Word := 0#64
  kdcur : Word := 0#64
  savebase : Word := 0#64
  wdwin : Word := 0#64
  evqbase : Word := 0#64
  launched : Nat := 0
  counters : Tab Word := []
  snaps : Tab Word := []
  evqTail : Nat := 0
  evqHead : Nat := 0
  reserve : List Event := []
  lost : Nat := 0
  ovf : Bool := false
  evqErr : Bool := false
  /-- an entry has faulted and waits for a write of EVQBASE (R375) -/
  evqWait : Bool := false
  msixPend : BitVec 64 := 0#64
  /-- the vectors masked in the MSI-X table -/
  msixMask : BitVec 64 := 0#64
  chans : Tab Chan := []
  rc : Recode := {}
  /-- frames backed for the VI by recoding (R234), counted against FRAMES -/
  backed : List Nat := []
  /-- the fraction of cycles withheld from its strands: its power estimate over its cap, of the estimate (R415) -/
  withheld : Nat × Nat := (0, 1)
deriving DecidableEq, Repr

/-! ### Memory and its units -/

/-- A line of host or CXL memory that the LLC holds (R243). -/
structure HostLine where
  data : List Byte
  tag : BitVec 16
  dirty : Bool
deriving DecidableEq, Repr

/-- A store performed at CORE and not yet at its home (R277): its core, strand, VI and track, the bytes it writes, with the tag
where it writes a whole line, and what its mapping said of the page: EPH, TEN and CFMT. `readBy` are the strands whose loads
returned it; the loads, or the stores, of the last two lists' strands wait for it at a FENCE (R290). -/
structure Buffered where
  core : Nat
  sid : Nat
  vi : Nat := 0
  track : Nat
  pa : Nat
  va : Word
  data : List Byte
  tag : Option (BitVec 16) := none
  eph : Bool := false
  ten : Bool := false
  cfmt : FmtCode := 0#6
  /-- a line written in part, whose tag no other agent changes until it is performed (R271) -/
  part : Bool := false
  readBy : List Nat := []
  beforeLoads : List Nat := []
  beforeStores : List Nat := []
deriving DecidableEq, Repr

/-- A cached translation (R227): of a VI, a stage and a page. -/
structure TlbEntry where
  vi : Nat
  /-- first VA or IA of the page and its size in bytes -/
  va : Nat
  size : Nat
  /-- the stage-1 leaf, and the stage-2 leaf where there is a stage 2, with their levels and addresses -/
  leaf1 : Word
  leaf2 : Option Word
  lvl1 : Nat
  lvl2 : Nat := 4
  at1 : Nat := 0
  at2 : Nat := 0
  ia : Nat
  pa : Nat
deriving DecidableEq, Repr

/-- STATE of DCTL (Table 16.6). -/
inductive DieState where
  | online | drained | quiesced | resetting | testing | ready | failed
deriving DecidableEq, Repr

/-- The command a DCTL has in progress (R447). -/
inductive DieCmd where
  | drain | wb | mig | quiesce | rst | retrain
deriving DecidableEq, Repr

/-- An array die: DCTL, reference counter and whether it is in service (Table 16.6, R411). -/
structure Die where
  admits : Bool := true
  state : DieState := .online
  busy : Bool := false
  cmd : Option DieCmd := none
  err : Bool := false
  errc : Nat := 0
  repair : Nat := 0
  /-- RST has completed since the die entered RESETTING -/
  rstDone : Bool := false
  /-- the home sets that were mapped to it when QUIESCE was written and still are (R378) -/
  kept : List Nat := []
  /-- MIG has moved the frames of its memory that are not ephemeral to other dies -/
  migrated : Bool := false
  refcnt : Word := 0#64
  inServ : Bool := true
deriving DecidableEq, Repr

/-- A tile transfer in flight (Table 12.2). -/
structure Tile where
  store : Bool := false
  parts : List TilePart := []
  /-- its lines in reservation order (R307) -/
  order : List Nat := []
  granted : Bool := false
  /-- lines reserved so far, and the arrival of its request for the next one in the order of all such requests -/
  bound : Nat := 0
  since : Nat := 0
  committed : Bool := false
  /-- staged lines that an uncorrectable soft error struck (Table 12.3) -/
  hit : List Nat := []
  /-- the device whose coordinator started it, for a tile of another W4, and its staged writes here -/
  ext : Option Nat := none
  staged : List (Nat × Nat × List Byte × BitVec 16) := []
deriving DecidableEq, Repr

/-- Where the boot stands (Table 18.1, Table 18.2). -/
structure Boot where
  stage : Nat := 0
  fail : Nat := 0
  dieok : BitVec 4 := 0#4
  retry : Nat := 0
  svn : Nat := 0
  /-- consecutive retries, the PUF reads that failed, waiting for the back-off timer, and halted -/
  consec : Nat := 0
  pufFails : Nat := 0
  waiting : Bool := false
  halted : Bool := false
  /-- sub-step within stage 1 done: the UDS exists until stage 6 -/
  uds : Bool := false
  /-- the image that the CDI is formed of, with the UDS of the device (R410) -/
  cdi : Option BootFile := none
  /-- the image that the boot works on, in on-stack DRAM of AD0, its security version and its configuration block (R417, Table 18.1,
  Table 18.3) -/
  image : BootFile := {}
  imgSvn : Nat := 0
  config : List Byte := []
deriving DecidableEq, Repr

/-- An Ethernet port's long-haul registers and retry window (Table 15.3). -/
structure Port where
  up : Bool := false
  lhen : Bool := false
  lherr : Bool := false
  rttus : Nat := 0
  winfr : Nat := 0
  lhbase : Word := 0#64
  /-- bytes of frames sent in long-haul mode, and those not yet acknowledged; window lines that a soft error struck -/
  sent : Nat := 0
  unacked : Nat := 0
  lost : List Nat := []
deriving DecidableEq, Repr

/-- A palette slot: its holder and its entries (R70, R75). Unlisted entries are those of P0. -/
structure Palette where
  holder : Option Nat := none
  entries : Tab Byte := []
deriving DecidableEq, Repr

/-- Deficit round-robin of one issue slot and class of a core (R100): the pointer and the deficits, by VI. -/
structure Drr where
  ptr : Nat := 0
  deficit : Tab Nat := []
deriving DecidableEq, Repr

/-- What the device sends outward: completions of inbound requests and messages (R348, R374, R408). -/
inductive Reply where
  | data (bytes : List Byte) (poisoned : Bool)
  | ack
  | unsupported
  /-- the completion of a CXL.mem request: of a read, its bytes and whether a line of them is poisoned -/
  | cxl (tag : Nat) (data : Option (List Byte × Bool))
  | retryStatus
  | msix (vi vec : Nat)
  | priRequest (pasid page : Nat)
  | weatre (dst : Nat) (bytes : List Byte) (tag : BitVec 16)
  | reserved (dst tile : Nat)
  | staged (dst tile : Nat)
  | tileConflict (dst tile : Nat) (fmt : FmtCode) (line : Nat)
  | flipped (dst tile : Nat)
  | wake (dst line : Nat)
  | atomic (old : Word) (poisoned : Bool)
  /-- lines of a send for a rank; `count` says that its arrival word counts it now -/
  | xlanding (vi chan seq rank : Nat) (lines : List (List Byte × BitVec 16)) (count : Bool)
  /-- a send failed before it left (R360) -/
  | xfail (vi chan seq rank sub : Nat)
  /-- this rank's part of an XRED, or its failure -/
  | xpart (vi chan seq : Nat) (els : List XEl) (fail : Option (Nat × Word))
  /-- the answer to a send of rank `src` that landed, or did not, here -/
  | xanswer (vi chan src seq : Nat) (fail : Option (Nat × Word))
  | xopened (vi chan : Nat)
  | xclosed (vi chan : Nat)
  | resend (link : Nat)
  | portResend (port : Nat)
  | endToEnd (port : Nat)
deriving DecidableEq, Repr

/-- What happens next: a strand issues, an event occurs, memory outside the W4 changes, or time passes. The agenda is
the model's own field: which of the enabled things comes first is not the spec's to fix. -/
inductive Act where
  | issue (sid : Nat)
  /-- a strand issues, and a load of several lines leaves these lines for later (R311) -/
  | issueBut (sid : Nat) (lines : List Nat)
  | event (i : Instr)
  | outside (pa : Nat) (data : List Byte)
  | time (cycles ticks : Nat)
  /-- the monitor sets a routing table entry, the CXL tag-shadow base or a VI's PASID; the host masks MSI-X vectors: by means
  that the spec does not place -/
  | route (dev : Nat) (mask : BitVec 16)
  | shadowBase (base : Option Nat)
  | pasid (vi pasid : Nat)
  | msixMask (vi : Nat) (mask : BitVec 64)
deriving DecidableEq, Repr

/-- The reasons the machine can stop with a fault. -/
inductive Fault where
  /-- Raised by an access through VI0, which has no stage 2, to a DPA that Table 9.1 leaves unassigned (log 63).
  Safe: the run ends where the hardware goes on. -/
  | unassignedDpa (pa : Nat)
deriving DecidableEq, Repr

/-- The reasons the model refuses. -/
inductive Refusal where
  /-- An operation without a meaning in this model, by its mnemonic. Safe: the run ends. -/
  | notModelled (mnemonic : String)
deriving DecidableEq, Repr

/-- The machine. -/
structure State where
  strands : Tab Strand := []
  teams : Tab Team := []
  caravans : Tab Caravan := []
  nextSid : Nat := 0
  nextTeam : Nat := 0
  nextCaravan : Nat := 0
  /-- order of launches and of admissions (R91, R93) -/
  launchSeq : Nat := 0
  admitSeq : Nat := 0
  /-- the model's own: the strand that issues when the agenda is empty, what happens next, and a counter that the free
  values of Config are applied to -/
  cur : Nat := 0
  /-- the model's own: the issue slot that was served last, as 4·core + slot -/
  turnAt : Nat := 1023
  /-- the model's own: the strands that were eligible when the cycle of that slot's core began, and have not issued in it (R212) -/
  cyc : List Nat := []
  agenda : List Act := []
  /-- events that are held, for a recode, a reservation or a page request, in the order of their arrival -/
  deferred : List Instr := []
  tick : Nat := 0
  /-- device, host, CXL and domain memory by DPA; an unlisted byte is zero -/
  mem : Tab Byte := []
  /-- line tags by DPA / 128; an unlisted line has the reset tag 0x00C0 (Table 3.5) -/
  tags : Tab (BitVec 16) := []
  /-- REFCNT deadlines of lines of ephemeral frames (R242), and the lines that expired -/
  eph : Tab Nat := []
  expired : List Nat := []
  /-- frames assigned to a key domain other than KD0 (R238); none: no live domain -/
  frameKd : Tab (Option Nat) := []
  /-- key domains with a live key; KD0's is always live -/
  kds : List Nat := []
  /-- unbacked frames (R234), frames being copied to the other tier and frames in the HBM tier (R237) -/
  unbacked : List Nat := []
  moving : List Nat := []
  hbm : List Nat := []
  hostLines : Tab HostLine := []
  storeQ : List Buffered := []
  tlb : List TlbEntry := []
  /-- the PASID of each VI (Table 15.1); unlisted: the VI's number -/
  pasids : Tab Nat := []
  /-- host I/O pages, by PASID and page, whose ATS translation is cached: granted or refused (R244) -/
  ats : Tab Bool := []
  /-- pages, by PASID and page, whose PRI request awaits its response -/
  priPending : List Nat := []
  palettes : Tab Palette := []
  vis : Tab Vi := []
  dies : Tab Die := []
  /-- CYCLE of each core (Table 5.3) -/
  cycles : Tab Word := []
  /-- CUR and OPMAX of each core island (Table 18.5); unlisted: 7 -/
  points : Tab Nat := []
  /-- islands that R414 or R415 throttled, and when: REFCNT of AD0 (THR) -/
  throttled : Tab Nat := []
  /-- the power of the device in the windows of 1 ms before, the last first (R414) -/
  powers : List Nat := []
  opmax : Tab Nat := []
  /-- the home map: slices that differ from LSh (R379) -/
  homes : Tab Nat := []
  tiles : Tab Tile := []
  nextTile : Nat := 0
  tileSeq : Nat := 0
  capFifo : List Nat := []
  /-- issue selection, by core, slot and class -/
  drr : Tab Drr := []
  mevt : Word := 0#64
  boot : Boot := {}
  /-- from the configuration block (Table 18.3) -/
  devid : Nat := 0
  dplim : Nat := 1000
  opInit : Nat := 7
  memBytes : Nat := 0xA0_0000_0000
  /-- the routing table, links that are up, and devices found unreachable (R350, R351) -/
  routes : Tab (BitVec 16) := []
  linksUp : BitVec 16 := 0#16
  unreachable : List Nat := []
  ports : Tab Port := []
  /-- the CXL tag-shadow region's base, where the monitor configured one (R245) -/
  shadow : Option Nat := none
  thermal : Bool := false
  /-- other words of PF0 BAR0 (R223) -/
  regs : Tab Word := []
  out : List Reply := []
deriving DecidableEq, Repr

/-- The state right after power-on or device reset: the boot has reached no stage and no strand exists (R408). -/
def State.reset : State :=
  { dies := [(0, {}), (1, {}), (2, {}), (3, {})], cycles := (List.range 256).map fun c => (c, 0#64) }

end Sys2Proof.Machine
end

