-- ==== Sys2Proof/Machine/Ops.lean ====
section
/-! DEFINITION. The shared operations over registers, teams and virtual interfaces: reading and writing them, raising
flags, taking a trap and returning from one, lane allocation, and a VI's reset. -/

namespace Sys2Proof

open Machine

def Priv.num : Priv → Nat
  | .user => 0 | .sup => 1 | .mon => 2

def Priv.ofNum : Nat → Priv
  | 0 => .user | 1 => .sup | _ => .mon

def Priv.max (a b : Priv) : Priv := if a.num < b.num then b else a

def Priv.min (a b : Priv) : Priv := if a.num < b.num then a else b

/-- The mode that an RM value other than `fctl` names. -/
def Rm.toMode : Rm → RMode
  | .rtz => .rtz | .rdn => .rdn | .rup => .rup | .rna => .rna
  | _ => .rne

end Sys2Proof

namespace Sys2Proof.Machine

/-! ### The acting strand, its team, caravan and VI -/

/-- The strand that acts. -/
def State.me (s : State) : Strand := Tab.get {} s.strands s.cur

def State.setMe (s : State) (st : Strand) : State := { s with strands := Tab.put s.strands s.cur st }

def State.strand (s : State) (sid : Nat) : Strand := Tab.get {} s.strands sid

def State.setStrand (s : State) (sid : Nat) (st : Strand) : State := { s with strands := Tab.put s.strands sid st }

def State.team (s : State) (t : Nat) : Team := Tab.get {} s.teams t

def State.setTeam (s : State) (t : Nat) (tm : Team) : State := { s with teams := Tab.put s.teams t tm }

def State.myTeam (s : State) : Team := s.team s.me.team

def State.setMyTeam (s : State) (tm : Team) : State := s.setTeam s.me.team tm

def State.car (s : State) (c : Nat) : Caravan := Tab.get {} s.caravans c

def State.setCar (s : State) (c : Nat) (x : Caravan) : State := { s with caravans := Tab.put s.caravans c x }

def State.carOf (s : State) (st : Strand) : Caravan := s.car (s.team st.team).caravan

def State.myCar (s : State) : Caravan := s.carOf s.me

/-- The VI of a strand. -/
def State.viNo (s : State) (st : Strand) : Nat := (s.carOf st).vi

def State.vi (s : State) (n : Nat) : Vi := Tab.get {} s.vis n

def State.setVi (s : State) (n : Nat) (x : Vi) : State := { s with vis := Tab.put s.vis n x }

def State.myVi (s : State) : Nat := s.viNo s.me

def State.die (s : State) (d : Nat) : Die := Tab.get {} s.dies d

def State.setDie (s : State) (d : Nat) (x : Die) : State := { s with dies := Tab.put s.dies d x }

/-- The core of a strand's team, 64 to a die (R369); 0 while it has none. -/
def State.coreOf (s : State) (st : Strand) : Nat := (s.team st.team).core.getD 0

def State.dieOf (s : State) (st : Strand) : Nat := s.coreOf st / 64

/-! ### Registers -/

/-- s0 reads as zero (R116). -/
def Strand.getS (st : Strand) (n : Nat) : Word := if n = 0 then 0#64 else Tab.get 0#64 st.s n

/-- A write to s0 is discarded (R116). -/
def Strand.setS (st : Strand) (n : Nat) (w : Word) : Strand :=
  if n = 0 then st else { st with s := Tab.set 0#64 st.s n w }

def Strand.getI (st : Strand) (n : Nat) : Word := Tab.get 0#64 st.i n

def Strand.setI (st : Strand) (n : Nat) (w : Word) : Strand := { st with i := Tab.set 0#64 st.i n w }

def Strand.getV (st : Strand) (n : Nat) : VReg := Tab.get {} st.v n

/-- A commit to v_n sets VDIRTY bit n (R398). -/
def Strand.setV (st : Strand) (n : Nat) (r : VReg) : Strand :=
  { st with v := Tab.set {} st.v n r, vdirty := st.vdirty ||| BitVec.ofNat 64 (2 ^ n) }

def Strand.getM (st : Strand) (n : Nat) : BitVec 1024 := Tab.get 0#1024 st.m n

def Strand.setM (st : Strand) (n : Nat) (x : BitVec 1024) : Strand := { st with m := Tab.set 0#1024 st.m n x }

def Strand.getH (st : Strand) (n : Nat) : Option Manifest := Tab.find st.h n

def Strand.setH (st : Strand) (n : Nat) (x : Manifest) : Strand := { st with h := Tab.put st.h n x }

/-- Sticky flags into FCTL[14:8] (R61). -/
def Strand.raise (st : Strand) (f : Flags) : Strand := { st with fctl := fctlRaise st.fctl f }

/-- The rounding mode in force: the RM field, or FCTL.RM (R32, R62). -/
def Strand.rmode (st : Strand) (rm : Rm) : RMode :=
  match rm with
  | .rne => .rne | .rtz => .rtz | .rdn => .rdn | .rup => .rup | .rna => .rna
  | .fctl =>
    match (st.fctl.extractLsb' 0 3).toNat with
    | 2 => .rtz | 3 => .rdn | 4 => .rup | 5 => .rna
    | _ => .rne

/-- The mode as an RM value, for a transfer that runs later. -/
def RMode.toRm : RMode → Rm
  | .rne => .rne | .rtz => .rtz | .rdn => .rdn | .rup => .rup | .rna => .rna

/-! ### Charges -/

/-- A charge to a VI's counter i (R373), for what its strands do: none of them is left while the VI is in reset. -/
def State.charge (s : State) (vi i n : Nat) : State :=
  let v := s.vi vi
  s.setVi vi { v with counters := Tab.set 0#64 v.counters i (Tab.get 0#64 v.counters i + BitVec.ofNat 64 n) }

/-! ### Bit fields -/

def bits (w : Word) (lo n : Nat) : Nat := (w.toNat / 2 ^ lo) % 2 ^ n

def bitAt (w : Word) (k : Nat) : Bool := (w.toNat / 2 ^ k) % 2 == 1

def w64 (n : Nat) : Word := BitVec.ofNat 64 n

def setBits (w : Word) (lo n v : Nat) : Word :=
  w64 (w.toNat - bits w lo n * 2 ^ lo + (v % 2 ^ n) * 2 ^ lo)

/-! ### Traps (chapter 17) -/

/-- The codes of Table 17.2. -/
def Cause.code : Cause → Nat
  | .illegal => 0x01 | .privilege => 0x02 | .bound => 0x03 | .overlap => 0x04 | .tagForbidden => 0x05
  | .tagMismatch => 0x06 | .tagConflict => 0x07 | .capacity => 0x08 | .noLanes => 0x09 | .misaligned => 0x0A
  | .pageLoad => 0x0B | .pageStore => 0x0C | .pageFetch => 0x0D | .access => 0x0E | .execOnly => 0x0F
  | .poisonConsumed => 0x10 | .vabsent => 0x11 | .copyFault => 0x12 | .exchangeFault => 0x13
  | .tileFootprint => 0x14 | .queueEnd => 0x15 | .homeOffline => 0x16 | .watchdog => 0x17 | .breakpoint => 0x18
  | .trapcall => 0x19 | .contextIncompatible => 0x1A | .preempt => 0x1B

/-- The lowest level that takes a cause raised at a privilege (Table 17.2, R228). `second` marks the second expiry of the
watchdog; `atLvl` is the level that set SSTEP. -/
def baseLevel (t : Trap) (p : Priv) (second : Bool) (atLvl : Option Priv) : Priv :=
  match atLvl with
  | some l => l
  | none =>
    let b : Priv :=
      match t.cause with
      | .bound | .overlap | .tagForbidden | .tagMismatch | .tagConflict | .capacity | .copyFault | .queueEnd
      | .breakpoint => .user
      | .pageLoad | .pageStore | .pageFetch => if t.v1 == 6#64 then .mon else .sup
      | .watchdog => if second then .mon else .sup
      | .trapcall => if p == .user then .sup else .mon
      | _ => .sup
    Priv.max b p

/-- The registers of a level; STVEC is the VI's (R382). -/
def State.lvlRegs (s : State) (st : Strand) : Priv → TrapRegs
  | .user => st.ut
  | .sup => { st.st with vec := (s.vi (s.viNo st)).stvec }
  | .mon => st.mt

def TrapRegs.hnd (t : TrapRegs) : Bool := bitAt t.stat 0

/-- The level that takes a trap and whether by escalation; none where no handler can run (R384). An asynchronous cause
does not escalate for HND. -/
def State.takingLevel (s : State) (st : Strand) (base : Priv) (async : Bool) : Option (Priv × Bool) :=
  let blocked := fun p => (s.lvlRegs st p).vec == 0#64 || (!async && (s.lvlRegs st p).hnd)
  match base with
  | .user =>
    if !blocked .user then some (.user, false)
    else if !blocked .sup then some (.sup, true)
    else if !blocked .mon then some (.mon, true)
    else none
  | .sup => if !blocked .sup then some (.sup, false) else if !blocked .mon then some (.mon, true) else none
  | .mon => if !blocked .mon then some (.mon, false) else none

def Strand.setLvl (st : Strand) (l : Priv) (t : TrapRegs) : Strand :=
  match l with
  | .user => { st with ut := { t with vec := st.ut.vec } }
  | .sup => { st with st := { t with vec := st.st.vec } }
  | .mon => { st with mt := { t with vec := st.mt.vec } }

/-- What delivery makes of xSTAT (R385): HND, ASYNC, PPRIV, ESC, RSTART and RMSTEP; SSTEP keeps. In TSTAT, PPRIV, ESC
and SSTEP are RZ. -/
def statAtDelivery (old : Word) (l : Priv) (async esc : Bool) (pp : Priv) (tstart mstep : Word) : Word :=
  let lo := 1 + (if async then 2 else 0)
  let up := if l == .user then 0
    else pp.num * 4 + (if esc then 16 else 0) + (if bitAt old 5 then 32 else 0)
  w64 (lo + up + bits tstart 0 10 * 2 ^ 16 + bits mstep 0 2 * 2 ^ 32)

/-- Delivery to a level as one step at the boundary (R385). -/
def State.deliverAt (s : State) (sid : Nat) (t : Trap) (async esc : Bool) (l : Priv) : State :=
  let st := s.strand sid
  let x := s.lvlRegs st l
  let x' : TrapRegs :=
    { pc := if t.cause == .trapcall then st.pc + 8#64 else st.pc
      cause := w64 t.cause.code
      v0 := t.v0, v1 := t.v1, v2 := t.v2, v3 := t.v3
      vec := x.vec
      stat := statAtDelivery x.stat l async esc st.priv st.tstart st.mstep }
  let st' := st.setLvl l x'
  s.setStrand sid { st' with tstart := 0#64, mstep := 0#64, priv := Priv.max st.priv l, pc := x.vec, sstep := none,
                             run := .active, xlast := none, got := [], late := [], shun := [], reqs := 0, charged := false,
                             homing := none }

/-! ### Lane allocation (R103, R104) -/

/-- A strand's claim in the lane allocation table. -/
structure Claim where
  sid : Nat
  demand : Nat
  weight : Nat
  cls : Nat
  slot : Nat
  got : Nat

/-- The demand of a strand (R103). -/
def State.demand (s : State) (st : Strand) : Nat :=
  if (s.carOf st).service || st.vl == 0#64 then 0
  else
    let c := cap (st.vfmt.extractLsb' 0 6)
    (16 * st.vl.toNat + c - 1) / c

/-- The strands that hold a slot on a core. -/
def State.residents (s : State) (core : Nat) : List (Nat × Strand) :=
  s.strands.filter fun p => (s.team p.2.team).core == some core && p.2.run != .exited

def Claim.open_ (c : Claim) : Bool := decide (c.got < c.demand)

/-- One lane group more for each of the `n` best claims by fractional share, class, then slot (R104 step 3). -/
def giveOne (l sum : Nat) : Nat → List Claim → List Claim
  | 0, cs => cs
  | n + 1, cs =>
    let frac := fun (c : Claim) => (l * c.weight) % sum
    let better := fun (a b : Claim) =>
      decide (frac b < frac a) || (frac a == frac b && (decide (b.cls < a.cls) || (a.cls == b.cls && decide (a.slot < b.slot))))
    let best := cs.foldl (fun acc c => if !c.open_ then acc else
      match acc with | none => some c | some b => if better c b then some c else some b) none
    match best with
    | none => cs
    | some b =>
      -- a claim served in this step is not served again in it
      let rest := cs.filter fun c => c.sid != b.sid
      ({ b with got := b.got + 1 } : Claim) :: giveOne l sum n rest

/-- The rounds of R104. -/
def apportion : Nat → Nat → List Claim → List Claim
  | 0, _, cs => cs
  | fuel + 1, l, cs =>
    let u := cs.filter Claim.open_
    if l = 0 || u.isEmpty then cs
    else
      let sum := u.foldl (fun a c => a + c.weight) 0
      let give := fun (c : Claim) => if c.open_ then Nat.min (l * c.weight / sum) (c.demand - c.got) else 0
      let given := u.foldl (fun a c => a + give c) 0
      if given = 0 then giveOne l sum l u ++ cs.filter fun c => !c.open_
      else apportion fuel (l - given) (cs.map fun c => { c with got := c.got + give c })

/-- Recompute the lane allocation table of a core. -/
def State.realloc (s : State) (core : Nat) : State :=
  let cs : List Claim := (s.residents core).map fun (sid, st) =>
    let c := s.carOf st
    { sid, demand := s.demand st, weight := (c.wb.cls + 1) * c.wb.laneWeight, cls := c.wb.cls, slot := st.slot,
      got := 0 }
  let total : Nat := cs.foldl (fun a c => a + c.demand) 0
  let done : List Claim :=
    if total ≤ 16 then cs.map fun c => { c with got := c.demand }
    else
      let one := cs.map fun c => { c with got := Nat.min 1 c.demand }
      apportion 20 (16 - one.foldl (fun a c => a + c.got) 0) one
  done.foldl (fun s c => s.setStrand c.sid { s.strand c.sid with lanes := c.got }) s

/-- Recompute the table of the acting strand's core. -/
def State.reallocMine (s : State) : State := s.realloc (s.coreOf s.me)

/-! ### VI reset (R376) -/

def Palette.release (p : Palette) (vi : Nat) : Palette :=
  if p.holder == some vi then {} else p

/-- A tile that has begun to reserve (step 3 of Table 12.2). -/
def Tile.begun (t : Tile) : Bool := t.bound != 0

/-- A tile that holds no line yet is discarded with its VI (Table 12.3). -/
def State.dropTiles (s : State) (vi : Nat) : State :=
  let keep := s.tiles.filter fun p => !(p.2.parts.any fun w => w.vi == vi) || p.2.begun
  { s with tiles := keep, capFifo := s.capFifo.filter fun t => keep.any fun p => p.1 == t }

/-- Steps 1 to 4 of Table 16.5. Steps 5 and 6 are the event VI_RESET_COMPLETE, which follows the tiles that complete (R318). A
reset under way absorbs another. -/
def State.viReset (s : State) (n : Nat) : State :=
  let v := s.vi n
  if n = 0 || v.flrBusy then s
  else
    let mine := fun (t : Team) => (s.car t.caravan).vi == n
    let dead := fun (sid : Nat) => (Tab.find s.strands sid).any fun st => mine (s.team st.team)
    let cores := (s.teams.filter fun p => mine p.2).filterMap fun p => p.2.core
    let s1 := s.dropTiles n
    let s2 := { s1 with
      strands := s1.strands.filter fun p => !dead p.1
      teams := s1.teams.filter fun p => !mine p.2
      caravans := s1.caravans.filter fun p => p.2.vi != n
      out := s1.out ++ v.chans.map fun (p : Nat × Chan) => Reply.xclosed n p.1 }
    let s3 := s2.setVi n { v with
      en := false, flrBusy := true, chans := [], rc := {}, reserve := [], evqTail := 0, evqHead := 0, lost := 0
      ovf := false, evqErr := false, evqWait := false, msixPend := 0#64, withheld := (0, 1) }
    cores.foldl (fun s c => s.realloc c) s3

/-- Step 5 of Table 16.5: the domain that CR.KDCUR names for the VI is retired, unless it is the monitor's, and its grants and
quotas in use return to zero. No value that the VI's holder wrote is left to its next one (R16): S2BASE, KDCUR and the quota are the
monitor's. -/
def State.viRevoke (s : State) (n : Nat) : State :=
  let v := s.vi n
  let kd := v.kdcur.toNat % 1024
  let retired : Tab (Option Nat) := s.frameKd.map fun (p : Nat × Option Nat) => (p.1, if p.2 == some kd && kd != 0 then none else p.2)
  { s with
    kds := s.kds.filter fun k => k != kd || kd == 0
    frameKd := retired
    palettes := s.palettes.map fun (p : Nat × Palette) => (p.1, p.2.release n)
    regs := s.regs.filter fun (p : Nat × Word) => p.1 / 2 ^ 24 != n || n == 0
    tlb := s.tlb.filter fun t => t.vi != n }.setVi n
    { v with backed := [], q2 := v.q2 &&& 0xFFFF_FFFF_FF00_01FF#64, stvec := 0#64, vtbase := 0#64, savebase := 0#64
             wdwin := 0#64, evqbase := 0#64, msixMask := 0#64 }

/-- Raise a trap at a strand's boundary: to the level R384 gives, or stop the strand where no level can take it, with a
VI reset for VI1–VI255. -/
def State.deliver (s : State) (sid : Nat) (t : Trap) (async : Bool := false) (second : Bool := false)
    (atLvl : Option Priv := none) : State :=
  let st := s.strand sid
  match s.takingLevel st (baseLevel t st.priv second atLvl) async with
  | some (l, esc) => s.deliverAt sid t async esc l
  | none =>
    let vi := s.viNo st
    let s1 := s.setStrand sid { st with run := .stopped }
    if vi = 0 then s1 else s1.viReset vi

/-- TRET's step (R402): none where HND of the level is 0. -/
def State.tret (s : State) : Option State :=
  let st := s.me
  let l := st.priv
  let x := s.lvlRegs st l
  if !x.hnd then none
  else
    let pp := bits x.stat 2 2
    let p' := if l == .user then Priv.user else Priv.min (Priv.ofNum pp) l
    let stat' := setBits (setBits (setBits x.stat 0 1 0) 16 10 0) 32 2 0
    let st' := st.setLvl l { x with stat := stat' }
    -- words lie at multiples of 8 (R22): the low bits of xPC name none (log 92)
    let st'' := { st' with pc := x.pc &&& ~~~7#64, tstart := w64 (bits x.stat 16 10), mstep := w64 (bits x.stat 32 2), priv := p',
                           sstep := if l != .user && bitAt x.stat 5 then some l else none }
    let s1 := s.setMe st''
    -- a TRET from a PREEMPT handler makes the team, and its gang, a victim again (R392)
    if l != .user && x.cause == w64 Cause.preempt.code then
      let c := (s.team st.team).caravan
      let gang := (s.car c).wb.gang
      some { s1 with teams := s1.teams.map fun (p : Nat × Team) =>
        if p.1 == st.team || (gang && p.2.caravan == c) then (p.1, { p.2 with noVictim := false }) else p }
    else some s1

/-! ### Pending asynchronous causes (R386) -/

/-- The order of R386: PREEMPT, WATCHDOG, HOME_OFFLINE, COPY_FAULT by stream number. -/
def Pend.rank (p : Pend) : Nat :=
  match p.trap.cause with
  | .preempt => 0 | .watchdog => 1 | .homeOffline => 2
  | _ => 3 + p.stream

/-- Whether the level of a pending cause can take it now: one with HND = 1 keeps it pending (R386), except that the
second expiry of the watchdog goes to the monitor whatever STSTAT.HND holds (R399). -/
def State.canTake (s : State) (st : Strand) (p : Pend) : Bool :=
  match s.takingLevel st (baseLevel p.trap st.priv p.second none) true with
  | some (l, _) => !(s.lvlRegs st l).hnd
  | none => true

/-- The first pending cause that its level can take. -/
def State.firstPend (s : State) (st : Strand) : Option Pend :=
  (st.pend.filter (s.canTake st)).foldl (fun acc p =>
    match acc with
    | none => some p
    | some q => if p.rank < q.rank then some p else some q) none

/-- Take a pending cause at the boundary. A COPY_FAULT taken is no longer pending. -/
def State.takePend (s : State) (sid : Nat) (p : Pend) : State :=
  let st := s.strand sid
  (s.setStrand sid { st with pend := st.pend.erase p }).deliver sid p.trap true p.second

/-- Make a cause pending at a strand. -/
def State.addPend (s : State) (sid : Nat) (p : Pend) : State :=
  let st := s.strand sid
  s.setStrand sid { st with pend := st.pend ++ [p] }

/-- Lines that a test selects are not reused or read again for loads that a strand has begun: a load that reads them again performs
them anew, and one that has completed stays as it is performed. -/
def State.forget (s : State) (p : Nat → Bool) : State :=
  { s with strands := s.strands.map fun (e : Nat × Strand) =>
      if e.2.got.isEmpty && e.2.late.isEmpty then e
      else (e.1, { e.2 with got := e.2.got.filter fun g => !p g.1
                            late := e.2.late.map fun l => { l with left := l.left.filter fun n => !p n } }) }

end Sys2Proof.Machine
end

