-- ==== Sys2Proof/Machine/Mem.lean ====
section
/-! DEFINITION. Memory: the address map, lines and their tags, homes and reservations, store queues, ephemeral lines and
the two-stage translation (chapters 9, 11, 12). -/

namespace Sys2Proof.Machine

/-- How an operation ends without completing. -/
inductive Stop where
  /-- a trap, with nothing of the instruction performed -/
  | trap (t : Trap)
  /-- a trap after the part of the instruction that its entry lets it perform -/
  | trapIn (t : Trap) (s : State)
  /-- the instruction waits, and issues again later -/
  | stall
  /-- the instruction does not complete, and leaves this state: parked, waiting for a tile, or its strand gone -/
  | hold (s : State)
  /-- the access waits at translation with its request entries, one per line: for a host page request (R244), or for a page that is
  held for recoding (R229, R233) -/
  | pri (page : Nat) (n : Nat := 1)
  | page (n : Nat := 1)
  | fault (f : Fault)

abbrev Res (α : Type) := Except Stop α

/-- What an access of n lines answers: one that waits at translation does so with n request entries (R229). -/
def ofLines {α : Type} (n : Unit → Nat) : Res α → Res α
  | .error (.pri p _) => .error (.pri p (n ()))
  | .error (.page _) => .error (.page (n ()))
  | r => r

/-- `fault` of R7. -/
def raise {α : Type} (c : Cause) (v0 v1 v2 v3 : Word := 0#64) : Res α := .error (.trap { cause := c, v0, v1, v2, v3 })

/-- Raise a fault unless a condition holds. -/
def ensure (c : Bool) (k : Cause) (v0 v1 v2 v3 : Word := 0#64) : Res Unit :=
  if c then .ok () else raise k v0 v1 v2 v3

/-! ### The device physical address map (Table 9.1) -/

inductive Region where
  | dev
  | regs (off : Nat)
  | host
  | cxl
  | remote (id : Nat)
  | none
deriving DecidableEq, Repr

def State.region (s : State) (pa : Nat) : Region :=
  let hi := pa / 2 ^ 48
  if hi = 0 then (if pa < s.memBytes then .dev else .none)
  else if hi = 1 then .regs (pa % 2 ^ 48)
  else if hi = 2 then .host
  else if hi = 3 then .cxl
  else if hi < 8 then
    if pa % 2 ^ 40 < 0xA0_0000_0000 then .remote ((pa / 2 ^ 40) % 2 ^ 10) else .none
  else .none

/-! ### Charges of lines (Table 16.3) -/

/-- A counter after an amount that the spec leaves open (log 31). -/
def openCount (tick i : Nat) (c : Tab Word) : Tab Word :=
  let old := Tab.get 0#64 c i
  Tab.put c i (old + Config.movedBytes tick i old.toNat)

/-- New counters of a VI; a reset freezes them, while a tile or a buffered store may still be on its way (R373). -/
def State.count (s : State) (vi : Nat) (f : Tab Word → Tab Word) : State :=
  let v := s.vi vi
  s.setVi vi { v with counters := if v.flrBusy then v.counters else f v.counters }

/-- LLCBYTES grows by n. -/
def llcCount (n : Nat) (c : Tab Word) : Tab Word := Tab.set 0#64 c 6 (Tab.get 0#64 c 6 + BitVec.ofNat 64 n)

/-- Bytes at the home slices of this device, and what they move at the memory controllers behind them: it depends on what the
LLC holds (log 31). -/
def State.chargeLlc (s : State) (vi n : Nat) : State :=
  s.count vi fun c => openCount s.tick 8 (openCount s.tick 7 (llcCount n c))

/-- An access to a line: at its home slice here, or over a link in class 0. -/
def State.chargeLine (s : State) (vi pa : Nat) : State :=
  s.count vi fun c => match s.region pa with
    | .remote _ => openCount s.tick 9 c
    | _ => openCount s.tick 8 (openCount s.tick 7 (llcCount 128 c))

/-- A line of a tile footprint: LLCBYTES counts it wherever it is homed. -/
def State.chargeTileLine (s : State) (vi pa : Nat) : State :=
  s.count vi fun c => match s.region pa with
    | .remote _ => openCount s.tick 9 (llcCount 128 c)
    | _ => openCount s.tick 8 (openCount s.tick 7 (llcCount 128 c))

/-- A domain address with the W4's own device id names its own device memory (R223). -/
def State.ownPa (s : State) (pa : Nat) : Nat :=
  if 4 ≤ pa / 2 ^ 48 && (pa / 2 ^ 40) % 2 ^ 10 = s.devid then pa % 2 ^ 40 else pa

/-- The home set of a line (chapter 16, die warm reset): DPA[10:7] + 16·H. -/
def homeSet (pa : Nat) : Nat :=
  let fld := fun k => (pa / 2 ^ (3 * k + 11)) % 8
  let h := (List.range 13).foldl (fun a k => a ^^^ fld k) 0
  (pa / 128) % 16 + 16 * (h ^^^ ((pa / 2 ^ 50) % 2))

/-- The home map at boot: a die out of service has its sets on the lowest die in service (R411). -/
def State.homeOf (s : State) (h : Nat) : Nat := Tab.get h s.homes h

/-- A die is offline from the write of QUIESCE until STATE is ONLINE again (R378). A READY die that was only held out,
or put back to use by HOMEMAP alone, answers at the slices mapped to it (R379, R411). -/
def Die.offline (d : Die) : Bool :=
  match d.state with
  | .quiesced | .resetting | .testing | .failed => true
  | .ready => d.rstDone
  | _ => d.cmd == some .quiesce

/-- The die whose memory holds a frame, for its deadlines and its loss: the die of the slice that its first line is homed
at after boot (DESIGN CHOICE, log 14). -/
def frameDie (pa : Nat) : Nat := homeSet (pa / 0x10000 * 0x10000) / 32

/-- A home set is mapped to a die that is offline; on a READY die, one moved there since QUIESCE answers (R378, R379). -/
def State.setOffline (s : State) (h : Nat) : Bool :=
  let d := s.die (s.homeOf h / 32)
  d.offline && (d.state != .ready || d.kept.contains h)

/-- The home of a line does not answer: its home set's, or the memory that its frame is in, where it is ephemeral or was not moved.
`eph` says that a mapping of it has EPH = 1. No die that is not in service has frames (R378, R411). -/
def State.homeOffline (s : State) (eph : Bool) (pa : Nat) : Bool :=
  s.setOffline (homeSet pa)
  || (let d := s.die (frameDie pa)
      d.inServ && d.offline && (eph || (Tab.find s.eph (pa / 128)).isSome || !d.migrated))

/-! ### Lines -/

def tagFmt (t : BitVec 16) : FmtCode := t.extractLsb' 0 6
def tagCls (t : BitVec 16) : Nat := (t.extractLsb' 6 2).toNat
def tagDem (t : BitVec 16) : Bool := t.extractLsb' 8 1 == 1#1
def mkTag (f : FmtCode) (cls : Nat) (dem : Bool) : BitVec 16 := 0#7 ++ BitVec.ofBool dem ++ BitVec.ofNat 2 cls ++ f

/-- The tag of a line in a fresh frame, on a byte page (Table 3.5). -/
def tagReset : BitVec 16 := 0x00C0#16

/-- A tag that a line may carry (R58, R246). -/
def tagAllowed (t : BitVec 16) : Bool :=
  !fmtReserved (tagFmt t) && t.extractLsb' 9 7 == 0#7 && (isNarrow (tagFmt t) || tagCls t != 1)

/-- The bits of a line that a format's layout uses: the bits above read as zero and are stored as zero (R57). -/
def lineBits (f : FmtCode) : Nat := if isNarrow f then (8 + 16 * elemBits f) * segs (elemBits f) else 1024

def LineV.clip (l : LineV) : LineV := { l with data := l.data % 2 ^ lineBits (tagFmt l.tag) }

/-- A line from its data bits and tag: one of VCLS zero reads as zero. -/
def viewOf (data : Nat) (tag : BitVec 16) : LineV :=
  if tagCls tag == 3 then { data := 0, tag } else ({ data, tag } : LineV).clip

def LineV.fmt (l : LineV) : FmtCode := tagFmt l.tag
def LineV.cls (l : LineV) : Nat := tagCls l.tag

/-- n bits of a number from bit lo. -/
def nbits (x lo n : Nat) : Nat := (x / 2 ^ lo) % 2 ^ n

/-- A number with n bits from lo replaced. -/
def setNbits (x lo n v : Nat) : Nat := x - nbits x lo n * 2 ^ lo + (v % 2 ^ n) * 2 ^ lo

/-- A segment scale of a narrow line is 0xFF (R58). -/
def partialLine (f : FmtCode) (data : Nat) : Bool :=
  isNarrow f && (List.range (segs (elemBits f))).any fun k => nbits data ((8 + 16 * elemBits f) * k) 8 == 0xFF

/-- A scalar store into a line (R257): the bytes change, FMT and DEM stay, a zero line becomes zero data, and VCLS is
recomputed unless the line is poisoned. -/
def stLine (l : LineV) (off n v : Nat) : LineV :=
  let base := if l.cls == 3 then 0 else l.data
  let d := setNbits base (8 * off) (8 * n) v
  let cls := if l.cls == 2 then 2 else if partialLine l.fmt d then 1 else 0
  { l with data := d, tag := mkTag l.fmt cls (tagDem l.tag) }

def bytesNat (t : Tab Byte) (pa n : Nat) : Nat := leNat ((List.range n).map fun k => Tab.get 0#8 t (pa + k))

def putBytes (t : Tab Byte) (pa : Nat) : List Byte → Tab Byte
  | [] => t
  | b :: bs => putBytes (Tab.set 0#8 t pa b) (pa + 1) bs

def State.refcnt (s : State) (d : Nat) : Nat := (s.die d).refcnt.toNat

/-- A line past its deadline (R242). -/
def State.isExpired (s : State) (ln : Nat) : Bool :=
  s.expired.contains ln || (match Tab.find s.eph ln with
    | some dl => decide (dl ≤ s.refcnt (frameDie (128 * ln)))
    | none => false)

/-- A line at its home. The data of a zero line reads as zero, as do the bits past a narrow layout; an expired line is poisoned. -/
def State.homeLine (s : State) (ln : Nat) : LineV :=
  let t := Tab.get tagReset s.tags ln
  let e := s.isExpired ln
  { data := (viewOf (bytesNat s.mem (128 * ln) 128) t).data, tag := if e then mkTag (tagFmt t) 2 (tagDem t) else t, why := if e then 1 else 0 }

/-- The place of a line's tag in the shadow region (R245). -/
def shadowAt (base pa : Nat) : Nat := base + 2 * (pa % 2 ^ 48 / 128)

/-- A line of host or CXL memory as it comes in: FMT of the page, clean; with a shadow region, the shadow tag (R243, R245). A
shadow tag that R58 forbids, which only another agent can have written, counts as none (log 87). -/
def State.hostFill (s : State) (ln : Nat) (cfmt : FmtCode) : LineV :=
  let pa := 128 * ln
  let d := bytesNat s.mem pa 128
  let plain := viewOf d (mkTag cfmt 0 false)
  match s.region pa, s.shadow with
  | .cxl, some b =>
    let t := BitVec.ofNat 16 (bytesNat s.mem (shadowAt b pa) 2)
    if tagAllowed t then viewOf d t else plain
  | _, _ => plain

/-- A line as memory beyond the cores holds it: at its home, or for host and CXL memory in the LLC or outside (R243). An access
with NC = 1 finds a dirty copy in the LLC (R281; log 88). -/
def State.homeView (s : State) (nc : Bool) (cfmt : FmtCode) (ln : Nat) : LineV :=
  match s.region (128 * ln) with
  | .host | .cxl =>
    (match Tab.find s.hostLines ln with
    | some h =>
      if nc && !h.dirty then s.hostFill ln cfmt
      -- without a shadow region these lines carry no tags
      else viewOf (leNat h.data) (match s.region (128 * ln), s.shadow with
          | .cxl, some _ => h.tag
          | _, _ => mkTag cfmt 0 false)
    | none => s.hostFill ln cfmt)
  | _ => s.homeLine ln

/-- A line never written, on a tensor page, has the FMT of the page (Table 3.5). -/
def freshLine (ten : Bool) (cfmt : FmtCode) (l : LineV) : LineV :=
  if ten && l.tag == tagReset then { l with tag := mkTag cfmt 3 false } else l

/-- Strands parked in a WAITW on a line re-evaluate after a write to it, where it is a line of device or domain memory, and after a
WAKE (R109); a caravan's increment of DONEADDR in host or CXL memory is no exception (DEDUCED, log 127). -/
def State.notify (s : State) (ln : Nat) : State :=
  let ws := s.strands.filterMap fun p => match p.2.run with
    | .parkWaitw _ l => if l == ln then some (Act.event (.evWaitwReevaluate p.1)) else none
    | _ => none
  { s with agenda := s.agenda ++ ws }

/-- Write a line of host or CXL memory: into the LLC, or through a mapping with NC = 1 to its home, which then holds the
newest contents (R243, R281; log 88). Host memory drops the tag; CXL memory has it in the shadow region. -/
def State.writeHost (s : State) (nc : Bool) (ln : Nat) (l : LineV) : State :=
  let pa := 128 * ln
  if nc then
    let m := putBytes s.mem pa (natLe 128 l.data)
    { s with
      mem := match s.region pa, s.shadow with
        | .cxl, some b => putBytes m (shadowAt b pa) (natLe 2 l.tag.toNat)
        | _, _ => m
      hostLines := Tab.del s.hostLines ln }
  else { s with hostLines := Tab.put s.hostLines ln { data := natLe 128 l.data, tag := l.tag, dirty := true } }

/-- The deadline of a line after a write through a mapping with EPH = 1, with its frame in the on-stack tier (R237, R242). -/
def State.stamp (s : State) (whole : Bool) (ln : Nat) : State :=
  { s with
    eph := Tab.put s.eph ln (s.refcnt (frameDie (128 * ln)) + 0x100_0000)
    expired := if whole then s.expired.filter (· != ln)
      else if s.isExpired ln && !s.expired.contains ln then ln :: s.expired else s.expired
    moving := s.moving.filter (· != ln / 512), hbm := s.hbm.filter (· != ln / 512) }

/-- A whole-line write through another mapping makes an expired line readable again, without a deadline (log 89). -/
def State.revive (s : State) (whole : Bool) (ln : Nat) : State :=
  if whole && s.isExpired ln then { s with eph := Tab.del s.eph ln, expired := s.expired.filter (· != ln) } else s

/-- Write a line at its home: tag and data together (R58). `eph` marks a mapping with EPH = 1: the line gets a new
deadline, and one past its deadline is readable again only after a whole-line write (R242). -/
def State.writeLine (s : State) (nc eph whole : Bool) (ln : Nat) (l : LineV) : State :=
  match s.region (128 * ln) with
  | .host | .cxl => s.writeHost nc ln l.clip
  | _ =>
    let s1 := if eph then s.stamp whole ln else s.revive whole ln
    ({ s1 with mem := putBytes s1.mem (128 * ln) (natLe 128 l.clip.data), tags := Tab.set tagReset s1.tags ln l.tag }).notify ln

/-! ### Reservations (chapter 12) -/

/-- The home slice of a line. -/
def State.sliceOf (s : State) (ln : Nat) : Nat := s.homeOf (homeSet (128 * ln))

/-- The footprint lines of a tile that are homed at a slice of this device: d_s of R304. -/
def State.needAt (s : State) (t : Tile) (slice : Nat) : Nat :=
  (t.order.filter fun ln => s.region (128 * ln) == .dev && s.sliceOf ln == slice).length

/-- A tile holds a slice of this device wholesale, from its first line there on (R304). -/
def State.wholesale (s : State) (t : Tile) (slice : Nat) : Bool :=
  decide (2048 < s.needAt t slice) && (t.order.take t.bound).any fun k => s.region (128 * k) == .dev && s.sliceOf k == slice

/-- A line that a tile holds: bound, or homed at a slice that it holds wholesale. -/
def State.tileHolds (s : State) (t : Tile) (ln : Nat) : Bool :=
  (t.order.take t.bound).contains ln || (s.region (128 * ln) == .dev && s.wholesale t (s.sliceOf ln))

/-- A tile holds a line of a frame. Every frame of device memory has lines of each home set. -/
def State.tileInFrame (s : State) (t : Tile) (f : Nat) : Bool :=
  (t.order.take t.bound).any (fun ln => ln / 512 == f)
  || (s.region (0x10000 * f) == .dev && (List.range 128).any fun h => s.wholesale t (s.homeOf h))

/-- Whether a reservation conflicts with an access to its line: an exclusive one with a load, either with a write (R309). -/
def State.reserved (s : State) (write : Bool) (ln : Nat) : Bool :=
  s.tiles.any fun p => (write || p.2.store) && s.tileHolds p.2 ln

/-- A line that a store writes in part and has checked: until it is performed no other write comes between (R271). -/
def State.locked (s : State) (ln : Nat) : Bool := s.storeQ.any fun b => b.part && b.pa / 128 == ln

/-- Whether an access is held at a line. -/
def State.held (s : State) (write : Bool) (ln : Nat) : Bool := s.reserved write ln || (write && s.locked ln)

/-! ### Store queues (R277, R282) -/

/-- The track value of an address within its destination. -/
def trackOf (pa : Nat) : Nat := (pa / 128) % 16 + 16 * (pa / 2 ^ 40)

/-- A line after a buffered store: bytes as a scalar store, or a whole line with its tag. -/
def Buffered.over (b : Buffered) (l : LineV) : LineV :=
  match b.tag with
  | some t => { data := leNat b.data, tag := t }
  | none => stLine (freshLine b.ten b.cfmt l) (b.pa % 128) b.data.length (leNat b.data)

/-- Perform one buffered store at its line's home. -/
def State.performBuffered (s : State) (b : Buffered) : State :=
  let ln := b.pa / 128
  (s.chargeLine b.vi b.pa).writeLine false b.eph (b.tag.isSome && !b.part) ln (b.over (s.homeLine ln))

/-- A queued store waits at its home: for a reservation of its line, or for another store that has checked it. -/
def State.waitsAt (s : State) (b : Buffered) : Bool :=
  s.reserved true (b.pa / 128) || (!b.part && s.locked (b.pa / 128))

/-- Perform, oldest first, the buffered stores that a test selects; wait where a home holds one. -/
def drainWhere (p : Buffered → Bool) : List Buffered → State → Res State
  | [], s => .ok s
  | b :: bs, s =>
    if p b then
      if s.waitsAt b then .error .stall
      else drainWhere p bs ({ s with storeQ := s.storeQ.erase b }.performBuffered b)
    else drainWhere p bs s

/-- The stores of a core that a test selects are at their homes, with the core's other stores of their tracks, whose order
they keep (R282). -/
def State.drainTracks (s : State) (core : Nat) (p : Buffered → Bool) : Res State :=
  let ts := (s.storeQ.filter fun b => b.core == core && p b).map fun b => b.track
  drainWhere (fun b => b.core == core && ts.contains b.track) s.storeQ s

/-- Every store of a core is performed at DEV (R286, R290, R294). -/
def State.drainCore (s : State) (core : Nat) : Res State :=
  drainWhere (fun b => b.core == core) s.storeQ s

/-- Lines that a row of a copy stream in flight has requests for: those that its packed row takes (log 90). -/
def rowLines (rowlen : Nat) : Nat := (rowlen + 127) / 128

/-- The parts of the tiles in flight and of the joint stores that gather (R205). -/
def State.parts (s : State) : List TilePart :=
  (s.tiles.flatMap fun p => p.2.parts) ++ s.caravans.flatMap fun p => p.2.joint

/-- The entries that the parts of tiles take at a core: one of more lines than there are entries takes them all. -/
def State.tileRequests (s : State) (core : Nat) : Nat :=
  (s.parts.map fun (w : TilePart) =>
    if (Tab.find s.strands w.sid).any fun st => s.coreOf st == core then Nat.min w.lines.length 8192 else 0).sum

/-- Outstanding requests of a core (Table 9.6): one per store not yet at its home, one per line of a row and of a tile in flight, and
those of accesses that wait at translation (R229). -/
def State.outstanding (s : State) (core : Nat) : Nat :=
  s.storeQ.countP (fun b => b.core == core)
    + ((s.teams.filter fun p => p.2.core == some core).flatMap fun p => p.2.streams.map fun k =>
        k.2.flight.length * rowLines k.2.rowlen).sum
    + s.tileRequests core
    + (s.strands.map fun p => if s.coreOf p.2 == core then p.2.reqs else 0).sum

/-- A core has request entries for an access of n lines; one of more lines than there are entries takes them all in turn. -/
def State.hasRequests (s : State) (core n : Nat) : Bool := decide (s.outstanding core + Nat.min n 8192 ≤ 8192)

/-! ### Translation (chapter 9) -/

/-- The kinds of access that the permission checks tell apart (R226). -/
inductive AccKind where
  | load | store | atomic | fetch | patch
deriving DecidableEq, Repr

/-- On whose behalf an access is translated. -/
structure Who where
  vi : Nat
  user : Bool
  core : Nat
deriving DecidableEq, Repr

def State.who (s : State) (st : Strand) : Who := { vi := s.viNo st, user := st.priv == .user, core := s.coreOf st }

/-- A finished translation: the address, the page's attributes and the updates it makes (R226, R227). -/
structure Xlat where
  pa : Nat
  va : Nat
  nc : Bool := false
  eph : Bool := false
  ten : Bool := false
  ps : Bool := false
  nfmt : FmtCode := 0#6
  cfmt : FmtCode := 0#6
  spol : Nat := 0
  lvl1 : Nat := 4
  /-- the page's leaf has RCB = 1 (R232) -/
  rcb : Bool := false
  /-- the combined page's first VA and size -/
  pgVa : Nat := 0
  pgSize : Nat := 0x10000
  /-- leaves whose A, and for a store D, must be set: address and bits -/
  upd : List (Nat × Nat) := []
  fill : Option TlbEntry := none
deriving DecidableEq, Repr

/-- R222. -/
def canonical (va : Word) : Bool := va.extractLsb' 55 9 == 0#9 || va.extractLsb' 55 9 == 0x1FF#9

/-- Table 9.2: the index of a level and the size of the page it maps. -/
def lvlShift (l : Nat) : Nat := match l with | 0 => 48 | 1 => 39 | 2 => 30 | 3 => 21 | _ => 16

def lvlBits (l : Nat) : Nat := match l with | 0 => 8 | 4 => 5 | _ => 9

def entR (e : Word) : Bool := bitAt e 1
def entW (e : Word) : Bool := bitAt e 2
def entX (e : Word) : Bool := bitAt e 3
def entU (e : Word) : Bool := bitAt e 4
def entSize (e : Word) : Nat := bits e 8 2
def entPa (e : Word) : Nat := bits e 29 35 * 2 ^ 16

/-- A malformed pointer or leaf entry of a stage (R225). -/
def entMalformed (stage2 : Bool) (lvl : Nat) (e : Word) : Bool :=
  if entSize e == 3 then lvl == 4 || bits e 51 13 != 0 || bits e 10 2 != 0 || bits e 1 7 != 0
  else
    let n := entSize e
    let nf : FmtCode := e.extractLsb' 12 6
    let cf : FmtCode := e.extractLsb' 18 6
    let sp := bits e 24 2
    let ten := bitAt e 10
    n + lvl != 4
    || entPa e % 2 ^ lvlShift lvl != 0
    || (entX e && entW e) || (entW e && !entR e)
    || (if stage2 then
          bits e 4 2 != 0 || ten || bits e 12 15 != 0 || bitAt e 28
        else
          bitAt e 11 || (ten && (n != 1 || sp == 0)) || sp == 3 || fmtReserved nf || fmtReserved cf
          || (ten && (nf == 0#6 || decide (eln cf < eln nf))))

/-- A fault found in stage 2: level and kind (R228); or the DPA of an entry that cannot be read now. -/
structure S2Fault where
  lvl : Nat
  kind : Nat
  ia : Nat
  shut : Option Nat := none

/-- Read a table entry at a DPA, as its home or the LLC holds it. -/
def State.entry (s : State) (pa : Nat) : Word :=
  let ln := pa / 128
  match s.region pa with
  | .host | .cxl => w64 (nbits (s.homeView false 0#6 ln).data (8 * (pa % 128)) 64)
  | _ =>
    let t := Tab.get tagReset s.tags ln
    if tagCls t == 3 then 0#64
    else if isNarrow (tagFmt t) then w64 (nbits (viewOf (bytesNat s.mem (128 * ln) 128) t).data (8 * (pa % 128)) 64)
    else BitVec.ofNat 64 (bytesNat s.mem pa 8)

/-- The frame of an address belongs to a live key domain (R240). -/
def State.frameLive (s : State) (pa : Nat) : Bool :=
  match s.region pa with
  | .dev => (match Tab.find s.frameKd (pa / 0x10000) with
    | some none => false
    | some (some k) => k == 0 || s.kds.contains k
    | none => true)
  | _ => true

/-- The PASID of a VI, which the monitor sets (Table 15.1); the VI's number until then (log 91). -/
def State.pasid (s : State) (vi : Nat) : Nat := Tab.get vi s.pasids vi

/-- A host I/O page under a PASID, as the ATS caches and the page requests name it (R244, Table 15.1). -/
def atsName (pasid page : Nat) : Nat := pasid * 2 ^ 32 + page

/-- The name of the host page of an address, for a VI. -/
def State.atsKey (s : State) (vi pa : Nat) : Nat := atsName (s.pasid vi) (pa % 2 ^ 48 / 0x10000)

def pageCause (k : AccKind) : Cause :=
  match k with
  | .fetch => .pageFetch
  | .load => .pageLoad
  | _ => .pageStore

/-- Checks on the address that two stages gave: the key domain, ATS for host addresses, and routes of the domain. -/
def State.checkPa (s : State) (vi : Nat) (k : AccKind) (va : Word) (pa : Nat) : Res Unit :=
  match s.region pa with
  | .dev => if s.frameLive pa then .ok () else raise .access va 5#64
  | .host =>
    (match Tab.find s.ats (s.atsKey vi pa) with
    | some true => .ok ()
    | some false => raise (pageCause k) va 4#64
    | none => .error (.pri (s.atsKey vi pa)))
  | .remote d => if Tab.get 0#16 s.routes d == 0#16 then raise .access va 9#64 else .ok ()
  | .none => .error (.fault (.unassignedDpa pa))
  | _ => .ok ()

/-- The home of a translated line answers: HOME_OFFLINE, or an unreachable device (R378, Table 15.2). -/
def State.answersAt (s : State) (va : Word) (eph : Bool) (pa : Nat) : Res Unit :=
  match s.region pa with
  | .dev => if s.homeOffline eph pa then raise .homeOffline va 0#64 else .ok ()
  | .remote d =>
    if s.unreachable.contains d then raise .homeOffline va 1#64
    -- no link is up: the request waits until one is, or until the device is found unreachable
    else if Tab.get 0#16 s.routes d &&& s.linksUp == 0#16 then .error .stall
    else .ok ()
  | _ => .ok ()

/-- A walker's read of a table entry, for a VI's access to a VA: it waits and faults as a load there would (R240, R244, R275, R309,
R378; log 116). An entry at an unassigned DPA reads as zero. -/
def State.entryOpen (s : State) (vi : Nat) (k : AccKind) (va : Word) (pa : Nat) : Res Unit := do
  if s.region pa == .none then return
  s.checkPa vi k va pa
  s.answersAt va false pa
  if s.held false (pa / 128) then throw .stall

/-- Stage 2 of a VI from a level on: the leaf, its address and level. -/
def State.walk2From (s : State) (vi ia : Nat) : Nat → Nat → Nat → Except S2Fault (Word × Nat × Nat)
  | 0, lvl, _ => .error { lvl, kind := 1, ia }
  | fuel + 1, lvl, table =>
    let pa := s.ownPa (table + 8 * ((ia / 2 ^ lvlShift lvl) % 2 ^ lvlBits lvl))
    match s.entryOpen vi .load 0#64 pa with
    | .error _ => .error { lvl, kind := 0, ia, shut := some pa }
    | .ok _ =>
      let e := s.entry pa
      if !bitAt e 0 then .error { lvl, kind := 0, ia }
      else if entMalformed true lvl e then .error { lvl, kind := 1, ia }
      else if entSize e == 3 then s.walk2From vi ia fuel (lvl + 1) (bits e 12 39 * 2 ^ 12)
      else .ok (e, pa, lvl)

/-- Whether a stage-2 leaf names an address it may not (R223): unassigned, or the register range. -/
def State.leafBad (s : State) (pa : Nat) : Bool :=
  match s.region (s.ownPa pa) with
  | .none => true
  | .regs _ => true
  | _ => false

/-- An IA of a VI to a DPA, with the stage-2 leaf and its address; VI0 has no stage 2 (R224). `need` is the permission the
leaf must give. -/
def State.stage2 (s : State) (vi : Nat) (need : Word → Bool) (ia : Nat) :
    Except S2Fault (Nat × Option (Word × Nat × Nat)) :=
  if vi = 0 then .ok (s.ownPa ia, none)
  else
    match s.walk2From vi ia 5 0 (bits (s.vi vi).s2base 12 39 * 2 ^ 12) with
    | .error f => .error f
    | .ok (e, pa, lvl) =>
      let dpa := entPa e + ia % 2 ^ lvlShift lvl
      if s.leafBad dpa then .error { lvl, kind := 1, ia }
      else if !need e then .error { lvl, kind := 2, ia }
      else .ok (s.ownPa dpa, some (e, pa, lvl))

/-- What a fault found in stage 2 is to an access: a trap (R228), or what keeps the walker from an entry. -/
def State.s2Trap {α : Type} (s : State) (vi : Nat) (k : AccKind) (va : Word) (f : S2Fault) : Res α := do
  match f.shut with
  | some pa => s.entryOpen vi k va pa
  | none => pure ()
  raise (pageCause k) va 6#64 (w64 (f.lvl + 256 * f.kind)) (w64 f.ia)

/-- What the use of a leaf has still to set of the bits `b` of its entry (R227): A on its first use, D on the first store. -/
def toSet (e : Word) (pa b : Nat) : List (Nat × Nat) := if b &&& (255 - bits e 0 8) = 0 then [] else [(pa, b)]

/-- Stage 1 from a level on: the leaf, its DPA and level, and what the stage-2 leaves used have to set. Tables lie at IAs. -/
def State.walk1From (s : State) (vi : Nat) (k : AccKind) (va : Word) :
    Nat → Nat → Nat → Res (Word × Nat × Nat × List (Nat × Nat))
  | 0, lvl, _ => raise (pageCause k) va 1#64 (w64 lvl)
  | fuel + 1, lvl, table =>
    let ia := table + 8 * ((va.toNat / 2 ^ lvlShift lvl) % 2 ^ lvlBits lvl)
    match s.stage2 vi entR ia with
    | .error f => s.s2Trap vi k va f
    | .ok (pa, leaf2) => do
      s.entryOpen vi k va pa
      let e := s.entry pa
      let us := match leaf2 with | some (e2, p2, _) => toSet e2 p2 0x40 | none => []
      if !bitAt e 0 then raise (pageCause k) va 0#64 (w64 lvl)
      else if entMalformed false lvl e then raise (pageCause k) va 1#64 (w64 lvl)
      else if entSize e == 3 then do
        let (e', pa', lvl', us') ← s.walk1From vi k va fuel (lvl + 1) (bits e 12 39 * 2 ^ 12)
        return (e', pa', lvl', us ++ us')
      else return (e, pa, lvl, us)

/-- The stage-1 permissions of a leaf (R226, R258). -/
def permit1 (k : AccKind) (user : Bool) (va : Word) (lvl : Nat) (e : Word) : Res Unit :=
  let refuse : Res Unit := raise .access va 2#64 (w64 lvl)
  if user && !entU e then refuse
  else match k with
    | .fetch => if entX e then .ok () else refuse
    | .patch => if entX e then .ok () else refuse
    | _ =>
      if entX e && !entR e && !entW e then raise .execOnly va
      else match k with
        | .load => if entR e then .ok () else refuse
        | .store => if entW e then .ok () else refuse
        | _ => if entR e && entW e then .ok () else refuse

/-- What a stage-2 leaf must permit for a kind of access. -/
def need2 (k : AccKind) (e : Word) : Bool :=
  match k with
  | .fetch => entX e
  | .load => entR e
  | .store => entW e
  | .atomic => entR e && entW e
  | .patch => entX e

/-- A cached translation that covers a VA. -/
def State.cached (s : State) (vi : Nat) (va : Nat) : Option TlbEntry :=
  s.tlb.find? fun t => t.vi == vi && decide (t.va ≤ va) && decide (va < t.va + t.size)

/-- The attributes of a translation from its leaves. -/
def mkXlat (va pa : Nat) (e1 : Word) (lvl1 : Nat) (leaf2 : Option (Word × Nat × Nat)) : Xlat :=
  let e2 := (leaf2.map fun x => x.1).getD 0#64
  let sz1 := 2 ^ lvlShift lvl1
  let sz := match leaf2 with | some (_, _, l2) => Nat.min sz1 (2 ^ lvlShift l2) | none => sz1
  { pa, va, nc := bitAt e1 27 || bitAt e2 27, eph := bitAt e2 11, ten := bitAt e1 10, ps := bitAt e1 28,
    nfmt := e1.extractLsb' 12 6, cfmt := e1.extractLsb' 18 6, lvl1,
    spol := bits e1 24 2, pgVa := va / sz * sz, pgSize := sz }

/-- A use of a leaf writes its entry at its home, and waits while a reservation holds the entry's line (R227, R309). -/
def State.leavesFree (s : State) (upd : List (Nat × Nat)) : Res Unit :=
  if upd.any fun p => s.held true (p.1 / 128) then .error .stall else .ok ()

/-- Bits of A and D that a kind of access sets. -/
def usedBits (k : AccKind) : Nat := if k == .load || k == .fetch then 0x40 else 0xC0

/-- An entry with the bits that a use sets. -/
def marked (e : Word) (b : Nat) : Word := e ||| w64 b

/-- The walk of both stages, in the order of the checks of R226: the stage-1 walk, the stage-1 leaf, stage 2. -/
def State.walked (s : State) (w : Who) (k : AccKind) (va : Word) : Res Xlat := do
  let v := va.toNat % 2 ^ 56
  let (e1, pa1, lvl1, us) ← s.walk1From w.vi k va 5 0 (bits (s.vi w.vi).vtbase 12 39 * 2 ^ 12)
  permit1 k w.user va lvl1 e1
  let ia := entPa e1 + v % 2 ^ lvlShift lvl1
  match s.stage2 w.vi (need2 k) ia with
  | .error f => s.s2Trap w.vi k va f
  | .ok (pa, leaf2) =>
    let b := usedBits k
    let x := mkXlat va.toNat pa e1 lvl1 leaf2
    let base := v / x.pgSize * x.pgSize
    return { x with
      rcb := bitAt e1 26
      upd := us ++ toSet e1 pa1 b ++ (match leaf2 with | some (e2, p2, _) => toSet e2 p2 b | none => [])
      fill := some { vi := w.vi, va := base, size := x.pgSize, leaf1 := marked e1 b, lvl1, at1 := pa1
                     leaf2 := leaf2.map fun y => marked y.1 b, at2 := (leaf2.map fun y => y.2.1).getD 0
                     lvl2 := (leaf2.map fun y => y.2.2).getD 4
                     ia := ia / x.pgSize * x.pgSize, pa := pa / x.pgSize * x.pgSize } }

/-- A translation through a cached one: the permissions of its leaves, and D where the first store comes (R227). -/
def TlbEntry.through (t : TlbEntry) (w : Who) (k : AccKind) (va : Word) : Res Xlat := do
  let off := va.toNat % 2 ^ 56 - t.va
  permit1 k w.user va t.lvl1 t.leaf1
  ensure (match t.leaf2 with | some e2 => need2 k e2 | none => true) (pageCause k) va 6#64 (w64 (t.lvl2 + 512)) (w64 (t.ia + off))
  let b := usedBits k
  let x := mkXlat va.toNat (t.pa + off) t.leaf1 t.lvl1 (t.leaf2.map fun e => (e, t.at2, t.lvl2))
  return { x with
    pgVa := va.toNat / t.size * t.size, pgSize := t.size
    upd := toSet t.leaf1 t.at1 b ++ (match t.leaf2 with | some e2 => toSet e2 t.at2 b | none => [])
    fill := some { t with leaf1 := marked t.leaf1 b, leaf2 := t.leaf2.map fun e => marked e b } }

/-- What a VA translates to in two stages (R222, R226). An access that finds a cached translation may use it (R227). -/
def State.target (s : State) (w : Who) (k : AccKind) (va : Word) : Res Xlat := do
  ensure (canonical va) .access va 3#64
  match s.cached w.vi (va.toNat % 2 ^ 56) with
  | none => s.walked w k va
  | some t => if Config.useCached s.tick va.toNat then t.through w k va else s.walked w k va

/-- The translation of an access: the key domain, ATS and routes come after it (R226, R244). A page with RCB = 1 holds the access
(R233). -/
def State.xlat (s : State) (w : Who) (k : AccKind) (va : Word) : Res Xlat := do
  let x ← s.target w k va
  s.checkPa w.vi k va x.pa
  if x.rcb then throw .page
  s.leavesFree x.upd
  return x

/-- The DPAs of the entries that stage 2 reads for an IA of a VI, and the DPA that the IA names. -/
def State.path2 (s : State) (vi ia : Nat) : List Nat :=
  let rec go : Nat → Nat → Nat → List Nat
    | 0, _, _ => []
    | fuel + 1, lvl, table =>
      let pa := s.ownPa (table + 8 * ((ia / 2 ^ lvlShift lvl) % 2 ^ lvlBits lvl))
      let e := s.entry pa
      if !bitAt e 0 then [pa]
      else if entSize e == 3 then pa :: go fuel (lvl + 1) (bits e 12 39 * 2 ^ 12)
      else [pa, s.ownPa (entPa e + ia % 2 ^ lvlShift lvl)]
  if vi = 0 then [s.ownPa ia] else go 5 0 (bits (s.vi vi).s2base 12 39 * 2 ^ 12)

/-- The DPAs that the translation of a VA of a VI reads and gives, in order. -/
def State.path1 (s : State) (vi : Nat) (va : Word) : List Nat :=
  let rec go : Nat → Nat → Nat → List Nat
    | 0, _, _ => []
    | fuel + 1, lvl, table =>
      let ps := s.path2 vi (table + 8 * ((va.toNat / 2 ^ lvlShift lvl) % 2 ^ lvlBits lvl))
      let e := s.entry (ps.getLast?.getD 0)
      if !bitAt e 0 then ps
      else if entSize e == 3 then ps ++ go fuel (lvl + 1) (bits e 12 39 * 2 ^ 12)
      else ps ++ s.path2 vi (entPa e + va.toNat % 2 ^ 56 % 2 ^ lvlShift lvl)
  go 5 0 (bits (s.vi vi).vtbase 12 39 * 2 ^ 12)

/-- A refusal of the host has given its answer to one of the addresses (R244): the next access to the page asks again. -/
def State.spendAt (s : State) (vi : Nat) (pas : List Nat) : State :=
  match (pas.filter fun pa => s.region pa == .host).find? fun pa => Tab.find s.ats (s.atsKey vi pa) == some false with
  | some pa => { s with ats := Tab.del s.ats (s.atsKey vi pa) }
  | none => s

/-- A refusal of the host has raised its fault for a VA of a VI, through its tables or a cached translation. -/
def State.spend (s : State) (vi : Nat) (va : Word) : State :=
  let v := va.toNat % 2 ^ 56
  s.spendAt vi (s.path1 vi va ++ ((s.cached vi v).map fun t => t.pa + (v - t.va)).toList)

/-- The fault of a refused host translation, sub-cause 4 of Table 9.5. -/
def Trap.refusedHost (t : Trap) : Bool :=
  t.v1 == 4#64 && (t.cause == .pageLoad || t.cause == .pageStore || t.cause == .pageFetch)

/-- A or D of an entry is set at its home, or in the LLC: one event of its line (R227, R279), by the rule of a store of its byte
(R257). -/
def State.orByte (s : State) (p : Nat × Nat) : State :=
  let ln := p.1 / 128
  match s.region p.1 with
  | .host | .cxl =>
    let l := s.homeView false 0#6 ln
    let off := p.1 % 128
    s.writeHost false ln (stLine l off 1 (nbits l.data (8 * off) 8 ||| p.2))
  | _ =>
    let t := Tab.get tagReset s.tags ln
    let b := 8 * (p.1 % 128)
    let s1 : State :=
      if isNarrow (tagFmt t) || tagCls t == 3 then
        -- a cached leaf's line may have another layout since
        let v := viewOf (bytesNat s.mem (128 * ln) 128) t
        let l := stLine v (p.1 % 128) 1 (nbits v.data b 8 ||| p.2)
        { s with mem := putBytes s.mem (128 * ln) (natLe 128 l.clip.data), tags := Tab.set tagReset s.tags ln l.tag }
      else { s with mem := Tab.set 0#8 s.mem p.1 (Tab.get 0#8 s.mem p.1 ||| BitVec.ofNat 8 p.2) }
    s1.notify ln

/-- A frame mapped with EPH = 1 is in the on-stack tier of its die (R237). -/
def State.keepOnStack (s : State) (x : Xlat) : State :=
  if x.eph then { s with moving := s.moving.filter (· != x.pa / 0x10000), hbm := s.hbm.filter (· != x.pa / 0x10000) } else s

/-- Set A and D of the leaves used and remember the translation (R227). -/
def State.used (s : State) (x : Xlat) : State :=
  let s1 := (x.upd.foldl State.orByte s).keepOnStack x
  { s1 with tlb := match x.fill with
      | some t => t :: s1.tlb.filter fun u => !(u.vi == t.vi && u.va == t.va)
      | none => s1.tlb }

/-- The home of a translated line answers. -/
def State.checkHome (s : State) (va : Word) (x : Xlat) : Res Unit := s.answersAt va x.eph x.pa

/-- An access inside a line: translated, with the checks of its kind. The register range takes only LD and ST of 4 or 8
bytes with NC = 1 (R223): `regsOk` says that this may be one. An unbacked frame takes no store (R230). ST.PATCH needs PS
(R258). `extra` is a form's own check. -/
def State.reachAny (s : State) (w : Who) (k : AccKind) (va : Word) (regsOk : Bool := false)
    (extra : Xlat → Res Unit := fun _ => .ok ()) : Res Xlat := do
  let x ← s.xlat w k va
  ensure (!((k == .store || k == .atomic || k == .patch) && s.unbacked.contains (x.pa / 0x10000))) .pageStore va 0#64 3#64
  match s.region x.pa with
  | .regs off => ensure (regsOk && x.nc && decide (off < 2 ^ 24)) .access va 2#64 (w64 x.lvl1)
  | _ => pure ()
  ensure (k != .patch || x.ps) .access va 2#64 (w64 x.lvl1)
  extra x
  return x

/-- An access inside a line whose home then answers (R378). -/
def State.reach (s : State) (w : Who) (k : AccKind) (va : Word) (regsOk : Bool := false)
    (extra : Xlat → Res Unit := fun _ => .ok ()) : Res Xlat := do
  let x ← s.reachAny w k va regsOk extra
  s.checkHome va x
  return x

/-- The line of a translated address beyond the store queues. A and D of its own leaves are set before it (R227). -/
def State.lineAt (s : State) (x : Xlat) : LineV :=
  let s1 := x.upd.foldl State.orByte s
  freshLine x.ten x.cfmt (s1.homeView x.nc x.cfmt (x.pa / 128))

/-- Read the line of a translated address, waiting where a reservation holds it. -/
def State.loadLine (s : State) (x : Xlat) : Res LineV :=
  if s.held false (x.pa / 128) then .error .stall else .ok (s.lineAt x)

/-- Cache a line of host or CXL memory that was read (R243); a clean copy gives way to what an access with NC = 1 read. -/
def State.fillHost (s : State) (x : Xlat) : State :=
  match s.region x.pa with
  | .host | .cxl =>
    if x.nc then
      -- an access with NC = 1 leaves no copy older than what it read (R281)
      (if (Tab.find s.hostLines (x.pa / 128)).any fun h => !h.dirty then { s with hostLines := Tab.del s.hostLines (x.pa / 128) }
       else s)
    else if (Tab.find s.hostLines (x.pa / 128)).isSome then s
    else
      let l := s.hostFill (x.pa / 128) x.cfmt
      { s with hostLines := Tab.put s.hostLines (x.pa / 128) { data := natLe 128 l.data, tag := l.tag, dirty := false } }
  | _ => s

end Sys2Proof.Machine
end

