-- ==== Sys2Proof/Machine/EventQueue.lean ====
section
/-! DEFINITION. Stores by engines and by the event queue, the monitor event register, and a VI's event queue (R374, R375). -/

namespace Sys2Proof.Machine

/-- Send a PRI page request, unless one awaits its response (R244). -/
def State.askPri (s : State) (page : Nat) : State :=
  if s.priPending.contains page then s
  else { s with out := s.out ++ [.priRequest (page / 2 ^ 32) (page % 2 ^ 32)], priPending := page :: s.priPending }

/-- A refused host translation that raises its fault for a VI is spent (R244). -/
def State.spendBy (s : State) (vi : Nat) (t : Trap) : State := if t.refusedHost then s.spend vi t.v0 else s

/-- Store bytes that lie in one line, at its home, as a scalar store does (R257), for a VI at no core: translated, its home
answering, waiting where a reservation holds the line, and charged to the VI. A poisoned line stays poisoned. -/
def State.storeFor (s : State) (w : Who) (k : AccKind) (va : Word) (data : List Byte) : Res (State × Xlat) := do
  let x ← s.reach w k va
  if s.held true (x.pa / 128) then throw .stall
  let ln := x.pa / 128
  let l := s.lineAt x
  return (((s.used x).chargeLine w.vi x.pa).writeLine x.nc x.eph false ln (stLine l (x.pa % 128) data.length (leNat data)), x)

/-- Set bits of MEVT: the monitor strands parked in IDLE look again (R380). -/
def State.setMevt (s : State) (k : Nat) : State :=
  let wake := s.strands.filterMap fun (p : Nat × Strand) => match p.2.run with
    | .parkIdle _ => some (Act.event (.evIdleWake p.1))
    | _ => none
  { s with mevt := s.mevt ||| w64 (2 ^ k), agenda := s.agenda ++ wake }

/-- Signal an MSI-X vector, or set its pending bit where it is masked (R374). -/
def State.signal (s : State) (n vec : Nat) : State :=
  let v := s.vi n
  if nbits v.msixMask.toNat vec 1 == 1 then
    s.setVi n { v with msixPend := v.msixPend ||| BitVec.ofNat 64 (2 ^ vec) }
  else { s with out := s.out ++ [.msix n vec] }

/-- The 32 bytes of entry s of a ring of 2^k entries (R374). -/
def Event.bytes (e : Event) (s k : Nat) : List Byte :=
  let phase := 1 - s / 2 ^ k % 2
  natLe 8 (e.ty + 256 * phase + 65536 * e.vec) ++ natLe 8 e.a.toNat ++ natLe 8 e.b.toNat ++ natLe 8 e.c.toNat

/-- LOG2SZ of a queue that is enabled (Table 16.4). -/
def Vi.evqLog (v : Vi) : Option Nat :=
  let k := bits v.evqbase 0 5
  if 6 ≤ k && k ≤ 16 then some k else none

/-- BASE of Table 16.4: VA[55:12], with VA[63:56] copying bit 55. -/
def baseVa (w : Word) (lo : Nat) : Word := ((w.toNat / 2 ^ lo % 2 ^ (56 - lo) * 2 ^ lo : Nat) |> BitVec.ofNat 56).signExtend 64

/-- What becomes of the first reserved entry: there is none, or no space for it; it is written; the access waits, for a
reservation or for the host's page; or it faults. -/
inductive EvqRes where
  | idle
  | wrote (s : State)
  | waits (s : State)
  | faults (s : State)

/-- Write the first reserved entry where the ring has space. -/
def State.writeEvent (s : State) (n : Nat) : EvqRes :=
  let v := s.vi n
  match v.reserve, v.evqLog with
  | e :: rest, some k =>
    if 2 ^ k ≤ (v.evqTail + 2 ^ 32 - v.evqHead) % 2 ^ 32 then .idle
    else
      let va := baseVa v.evqbase 12 + w64 (32 * (v.evqTail % 2 ^ k))
      match s.storeFor { vi := n, user := false, core := 0 } .store va (e.bytes v.evqTail k) with
      | .ok (s1, _) =>
        let v1 := s1.vi n
        .wrote ((s1.setVi n { v1 with reserve := rest, evqTail := (v.evqTail + 1) % 2 ^ 32 }).signal n e.vec)
      | .error (.trap t) => .faults (s.spendBy n t)
      | .error (.pri page _) => .waits (s.askPri page)
      | .error _ => .waits s
  | _, _ => .idle

/-- Write reserved entries, in order, while there is space. One that faults sets ERR, and waits with the entries after it for a
CWR or CRSW of EVQBASE (R375). -/
def State.drainEvents (n : Nat) : Nat → State → State
  | 0, s => s
  | fuel + 1, s => match s.writeEvent n with
    | .idle => s
    | .wrote s1 => State.drainEvents n fuel s1
    | .waits s1 => s1
    | .faults s1 => s1.setVi n { s1.vi n with evqErr := true, evqWait := true }

/-- Write what can be written; `retry` is a CWR or CRSW of EVQBASE. -/
def State.flushEvents (s : State) (n : Nat) (retry : Bool) : State :=
  if (s.vi n).evqWait && !retry then s
  else State.drainEvents n 65 (s.setVi n { s.vi n with evqWait := false })

/-- An entry that waited can be written now, or asks the host for its page. -/
def State.eventReady (s : State) (n : Nat) : Bool :=
  !(s.vi n).evqWait && (match s.writeEvent n with
    | .idle => false
    | .waits s1 => s1.priPending != s.priPending
    | _ => true)

/-- Post an event to a VI (R374): written, kept in the reserve of 64, or counted as lost (R375). -/
def State.postEvent (s : State) (n : Nat) (e : Event) : State :=
  let v := s.vi n
  if v.reserve.length < 64 then (s.setVi n { v with reserve := v.reserve ++ [e] }).flushEvents n false
  else (s.setVi n { v with lost := Nat.min 0xFFFF (v.lost + 1), ovf := true }).setMevt 4

/-- EVQSTAT: tail count, OVF, ERR and LOST (R375). -/
def Vi.evqStat (v : Vi) : Word :=
  w64 (v.evqTail + (if v.ovf then 2 ^ 32 else 0) + (if v.evqErr then 2 ^ 33 else 0) + v.lost * 2 ^ 48)

end Sys2Proof.Machine
end

