-- ==== Sys2Proof/Machine/Operands.lean ====
section
/-! DEFINITION. Operand forms: resolving the specifiers of an instruction (R37 steps 4 and 5, R122–R128, R210), reading
operands, and writing scalar, mask and vector results (R146–R150). -/

namespace Sys2Proof.Machine

/-! ### What an instruction does with its slots -/

/-- The file of a slot that has indirect codes (Table 2.3). -/
inductive OFile where
  | s | v | m
deriving DecidableEq, Repr

def OFile.num : OFile → Nat
  | .s => 0 | .v => 1 | .m => 2

/-- N(F) of R122. -/
def OFile.size : OFile → Nat
  | .s => 64 | .v => 48 | .m => 12

/-- One slot of an instruction: its specifier, its file, whether it is read and written, the length of its register group,
and whether it names a whole register (R124). `late` leaves VABSENT to the steps of VDOT4 (R406). -/
structure Use where
  slot : Slot
  o : Opnd
  file : OFile := .s
  rd : Bool := true
  wr : Bool := false
  grp : Nat := 1
  isGrp : Bool := false
  late : Bool := false
  whole : Bool := false
deriving DecidableEq, Repr

def Slot.num : Slot → Nat
  | .a => 0 | .b => 1 | .c => 2 | .d => 3

def rdS (sl : Slot) (o : Opnd) : Use := { slot := sl, o }
def wrS (o : Opnd) : Use := { slot := .d, o, rd := false, wr := true }
def rdV (sl : Slot) (o : Opnd) : Use := { slot := sl, o, file := .v }
def wrV (o : Opnd) : Use := { slot := .d, o, file := .v, rd := false, wr := true }
def rdM (sl : Slot) (o : Opnd) : Use := { slot := sl, o, file := .m }
def wrM (o : Opnd) : Use := { slot := .d, o, file := .m, rd := false, wr := true }

def srcBUse : SrcB → List Use
  | .op o => [rdS .b o]
  | .imm _ => []

def fmtUse : FmtSel → List Use
  | .imm _ => []
  | .reg o => [rdS .b o]

def idxUse {w : Nat} (sl : Slot) : IdxSel w → List Use
  | .imm _ => []
  | .reg o => [rdS sl o]

/-- What a slot was resolved to. A lane-mode slot lists the register of each active element. -/
inductive Tgt where
  | none
  | reg (n : Nat)
  | pop (q k : Nat)
  | push (q : Nat)
  | lane (base : Nat) (regs : Tab Nat)
deriving DecidableEq, Repr

/-- Register k of the group that a slot was resolved to (R153), or entry k of those that a queue gives for it (R26, log 6). -/
def Tgt.plus (t : Tgt) (k : Nat) : Tgt :=
  match t with
  | .reg n => .reg (n + k)
  | .pop q j => .pop q (j + k)
  | t => t

/-- An instruction with its operands resolved. -/
structure Ctx where
  s : State
  i : Instr
  mask : Mk := .all
  ta : Tgt := .none
  tb : Tgt := .none
  tc : Tgt := .none
  td : Tgt := .none
  /-- where a comparand in D is popped from (CAS) -/
  tdRd : Tgt := .none
  /-- the offsets that auto-increment writes at completion -/
  ix : Tab Nat := []
  /-- entries popped at completion, by queue -/
  pops : Tab Nat := []
  /-- the instruction's slots -/
  us : List Use := []

def Ctx.me (c : Ctx) : Strand := c.s.me

/-- The specifier of a slot. -/
def Ctx.opnd (c : Ctx) (sl : Slot) : Opnd := ((c.us.find? fun u => u.slot == sl).map fun u => u.o).getD (.reg 0#6)

def Ctx.tgt (c : Ctx) : Slot → Tgt
  | .a => c.ta | .b => c.tb | .c => c.tc | .d => c.td

def Ctx.setTgt (c : Ctx) (sl : Slot) (t : Tgt) : Ctx :=
  match sl with
  | .a => { c with ta := t }
  | .b => { c with tb := t }
  | .c => { c with tc := t }
  | .d => { c with td := t }

/-- The word of an instruction, as TVAL0 reports it. -/
def wordOf (i : Instr) : Word := encode i

/-! ### Elements of registers -/

/-- The code of element j under a format's layout in a register (R59). -/
def VReg.code (r : VReg) (j : Nat) : Nat := nbits r.data.toNat (elemBits r.fmt * j) (elemBits r.fmt)

def VReg.scaleAt (r : VReg) (g : Nat) : Nat := nbits r.scale.toNat (8 * g) 8

def VReg.psnAt (r : VReg) (g : Nat) : Bool := nbits r.psn.toNat g 1 == 1

/-- Group g holds valid data (R60). -/
def VReg.validAt (r : VReg) (g : Nat) : Bool := !isNarrow r.fmt || r.scaleAt g != 0xFF

def VReg.groups (r : VReg) : Nat := cap r.fmt / 16

/-- VALID (R60). -/
def VReg.valid (r : VReg) : Word :=
  w64 ((List.range r.groups).foldl (fun a g => if r.validAt g then a + 2 ^ g else a) 0)

/-- The VCLS summary (R60). -/
def VReg.vcls (r : VReg) : Nat :=
  if r.zero3 then 3
  else if r.psn != 0#64 then 2
  else if (List.range r.groups).any fun g => !r.validAt g then 1
  else 0

/-- The TAG word of the image (Table 3.6). -/
def VReg.tag (r : VReg) : Word := w64 (r.fmt.toNat + 64 * r.vcls)

/-- `elem` of R7. A register of VCLS summary 3 reads as zero elements (R170). -/
def VReg.elem (r : VReg) (j : Nat) : Val :=
  if r.zero3 then Val.zero else decodeCode r.fmt (r.scaleAt (j / 16)) (r.code j)

/-- A vector operand as it is read: per element, code, scale and poison. `bad` is the mismatch of a lane-mode read (R125). -/
structure VOp where
  fmt : FmtCode
  code : Nat → Nat
  scale : Nat → Nat
  psn : Nat → Bool
  zero : Nat → Bool := fun _ => false
  bad : Option (FmtCode × FmtCode × Nat) := none
  img : VReg := {}
  /-- the specifier as POISON_CONSUMED reports it (R151) -/
  spec : Nat → Nat := fun _ => 0

def VOp.elem (v : VOp) (j : Nat) : Val := if v.zero j then Val.zero else decodeCode v.fmt (v.scale j) (v.code j)

def VOp.ofReg (r : VReg) (spec : Nat := 0) : VOp :=
  { fmt := r.fmt, code := r.code, scale := fun j => r.scaleAt (j / 16), psn := fun j => r.psnAt (j / 16),
    zero := fun _ => r.zero3, img := r, spec := fun _ => spec }

/-! ### Element classes (R146) -/

/-- CR.VL, and the first padding element L − Q. -/
def Strand.vlen (st : Strand) : Nat := st.vl.toNat

def Strand.padFrom (st : Strand) : Nat := st.vl.toNat - Nat.min st.vpad.toNat st.vl.toNat

/-- Whether the mask field makes an element active (R29). -/
def Strand.maskBit (st : Strand) (mk : Mk) (j : Nat) : Bool :=
  match mk with
  | .all => true
  | .m n inv => (nbits (st.getM n.toNat).toNat j 1 == 1) != inv

/-- The active elements. Lengths beyond every capacity count as 1,024 elements: an operation on them raises CAPACITY. -/
def Strand.actives (st : Strand) (mk : Mk) : List Nat :=
  (List.range (Nat.min st.padFrom 1024)).filter (st.maskBit mk)

def Ctx.actives (c : Ctx) : List Nat := c.me.actives c.mask

/-! ### Resolution (R122–R128) -/

/-- VABSENT for a register of a slot (R398). -/
def checkPresent (st : Strand) (sl : Slot) (n : Nat) : Res Unit :=
  ensure (bitAt st.vpresent n) .vabsent (w64 n) (w64 (Slot.num sl))

/-- The low bits of an integer as a 64-bit value. -/
def wInt (x : Int) : Word := BitVec.ofInt 64 x

/-- Sign extension of an n-bit field. -/
def sextN (n v : Nat) : Int := if v < 2 ^ (n - 1) then Int.ofNat v else Int.ofNat v - 2 ^ n

/-- A resolved index register: window base and length, offset, new offset (with AUTO), WRAP, LANE and LSRC. -/
structure IxRes where
  base : Nat
  b : Nat
  o : Nat
  new : Option Nat
  wrap : Bool
  lane : Bool
  lsrc : Nat

/-- The steps of R122 for one use of index register n. -/
def resolveIx (st : Strand) (i : Instr) (f : OFile) (sl : Slot) (n : Nat) : Res IxRes := do
  let x := st.getI n
  let file := bits x 25 2
  let auto := bits x 22 2
  ensure (bits x 34 30 == 0 && file != 3 && auto != 3 && file == f.num) .illegal (wordOf i) 6#64 (w64 n)
  let b := if bits x 6 6 = 0 then 64 else bits x 6 6
  let base := bits x 0 6
  let t0 := w64 (n + 16 * Slot.num sl)
  ensure (base + b ≤ f.size) .bound t0 (w64 (base + b)) 1#64
  let lane := bitAt x 27
  ensure (!lane || f == .v) .bound t0 0#64 3#64
  let step := sextN 4 (bits x 18 4)
  let wrap := bitAt x 24
  let o0 : Int := Int.ofNat (bits x 12 6) + (if auto = 2 then step else 0)
  ensure (wrap || (decide (0 ≤ o0) && decide (o0 < b))) .bound t0 (wInt o0) 0#64
  let o := if wrap then (o0 % (b : Int)).toNat else o0.toNat
  let n0 : Int := Int.ofNat o + step
  ensure (auto != 1 || wrap || (decide (0 ≤ n0) && decide (n0 ≤ Nat.min b 63))) .bound t0 (wInt n0) 2#64
  let new := if auto = 1 then some (if wrap then (n0 % (b : Int)).toNat else n0.toNat)
    else if auto = 2 then some o else none
  return { base, b, o, new, wrap, lane, lsrc := bits x 28 6 }

/-- The registers of a lane-mode slot, element by element (R124). -/
def laneRegs (r : IxRes) (v : VReg) (t0 : Word) : List Nat → Tab Nat → Res (Tab Nat)
  | [], acc => .ok acc.reverse
  | j :: js, acc =>
    if v.psnAt (j / 16) then raise .poisonConsumed (w64 j)
    else
      let e : Int := match v.elem j with | .fin neg n _ => Val.snum neg n | _ => 0
      let k : Int := Int.ofNat r.o + e
      if r.wrap then laneRegs r v t0 js ((j, r.base + (k % (r.b : Int)).toNat) :: acc)
      else if k < 0 || (r.b : Int) ≤ k then raise .bound t0 (w64 j) 0#64
      else laneRegs r v t0 js ((j, r.base + k.toNat) :: acc)

/-- Check registers one after another. -/
def forEach {α : Type} (f : α → Res Unit) : List α → Res Unit
  | [] => .ok ()
  | x :: xs => do f x; forEach f xs

/-- The registers of a lane-mode slot, without repetition. -/
def laneSet (regs : Tab Nat) : List Nat := (List.range 48).filter fun n => regs.any fun p => p.2 == n

/-- The registers of a micro-step of VDOT4 that are checked before its destination: its A, then its B (R406). -/
def presentBefore (c : Ctx) : Res Unit :=
  let k := c.me.mstep.toNat
  let chk := fun (sl : Slot) => match c.tgt sl with | .reg n => checkPresent c.me sl (n + k) | _ => .ok ()
  do chk .a; chk .b

/-- The registers of the micro-step of VDOT4 that is next, its destination after its A and B (R106, R406). -/
def stepPresent (c : Ctx) : Res Unit := do
  presentBefore c
  forEach (checkPresent c.me (if c.me.mstep == 0#64 then .d else .c)) (match c.td with
    | .reg n => [n]
    | .lane _ regs => laneSet regs
    | _ => [])

/-- VABSENT of a lane-mode slot's offset register; of VDOT4's D, at the micro-step that is next (R124, R406). -/
def lanePresent (c : Ctx) (u : Use) (l : Nat) : Res Unit :=
  if !u.late then checkPresent c.me u.slot l
  else if bitAt c.me.vpresent l then .ok ()
  else do
    presentBefore c
    checkPresent c.me (if c.me.mstep == 0#64 then u.slot else .c) l

/-- Lane mode of a slot: the checks of R124 in order, then VABSENT of the touched registers (R128): the lowest register number of
those absent is named (log 93). -/
def resolveLane (c : Ctx) (u : Use) (n : Nat) (r : IxRes) : Res Tgt := do
  let st := c.me
  let t0 := w64 (n + 16 * Slot.num u.slot)
  ensure (!(u.isGrp || u.whole)) .bound t0 0#64 6#64
  ensure (r.lsrc < 48) .bound t0 0#64 4#64
  lanePresent c u r.lsrc
  let v := st.getV r.lsrc
  ensure (isWInt v.fmt) .bound t0 0#64 5#64
  ensure (st.vlen ≤ cap v.fmt) .capacity st.vl (v.fmt.setWidth 64)
  let regs ← laneRegs r v t0 c.actives []
  if !u.late then forEach (checkPresent st u.slot) (laneSet regs)
  return .lane (r.base + r.o) regs

/-- The queue of a slot: bound, held by the team and of the slot's kind (R210 check 1). -/
def queueOf (c : Ctx) (f : OFile) (q : Nat) : Res Queue :=
  match Tab.find c.s.myTeam.queues q with
  | some x =>
    if q < c.s.myCar.wb.queues && x.vec == (f == .v) then .ok x else raise .illegal (wordOf c.i) 7#64 (w64 q)
  | none => raise .illegal (wordOf c.i) 7#64 (w64 q)

/-- A slot with a queue specifier: a read takes the next entries not yet taken by this instruction, one for each register of its
group (R28). -/
def resolveQueue (c : Ctx) (u : Use) (q : Nat) : Res Ctx := do
  let _ ← queueOf c u.file q
  let k := Tab.get 0 c.pops q
  let c1 := if u.rd then { c with pops := Tab.put c.pops q (k + u.grp) } else c
  return if u.wr then { c1.setTgt u.slot (.push q) with tdRd := if u.rd then .pop q k else .none }
    else c1.setTgt u.slot (.pop q k)

/-- One slot by step 4 of R37. BOUND of a group that an index register names past v47 reports the first register beyond it
(R153; log 95). -/
def resolveUse (c : Ctx) (u : Use) : Res Ctx := do
  let st := c.me
  match u.o with
  | .q q => resolveQueue c u q.toNat
  | .reg n =>
    if u.file == .v && !u.late then forEach (checkPresent st u.slot) ((List.range u.grp).map fun k => n.toNat + k)
    return c.setTgt u.slot (.reg n.toNat)
  | .ix n =>
    let r ← resolveIx st c.i u.file u.slot n.toNat
    let c1 := match r.new with | some o => { c with ix := Tab.put c.ix n.toNat o } | none => c
    if r.lane then
      return c1.setTgt u.slot (← resolveLane c u n.toNat r)
    ensure (u.file != .v || r.base + r.o + u.grp ≤ 48) .bound (w64 (n.toNat + 16 * Slot.num u.slot))
      (w64 (r.base + r.o + u.grp)) 1#64
    if u.file == .v && !u.late then forEach (checkPresent st u.slot) ((List.range u.grp).map fun k => r.base + r.o + k)
    return c1.setTgt u.slot (.reg (r.base + r.o))

def resolveAll (c : Ctx) : List Use → Res Ctx
  | [] => .ok c
  | u :: us => do resolveAll (← resolveUse c u) us

/-- A queue is CLOSED when every strand of PROD has closed it or has EXITED (R208). -/
def State.queueClosed (s : State) (tm : Team) (x : Queue) : Bool :=
  (List.range 16).all fun i => nbits x.prod.toNat i 1 == 0 || nbits x.pclosed.toNat i 1 == 1
    || tm.strands.any fun sid => (s.strand sid).idx == i && (s.strand sid).run == .exited

/-- Checks 2 to 4 of R210 for one slot. -/
def queueFault (c : Ctx) (u : Use) : Res Unit :=
  match u.o with
  | .q qn => do
    let q := qn.toNat
    let st := c.me
    let x := Tab.get {} c.s.myTeam.queues q
    let inMask := fun (m : BitVec 16) => nbits m.toNat st.idx 1 == 1
    ensure (!u.wr || inMask x.prod) .access (w64 q) 2#64
    ensure (!u.rd || inMask x.cons) .access (w64 q) 3#64
    ensure (!u.wr || !inMask x.pclosed) .queueEnd (w64 q) (w64 (Slot.num u.slot)) 1#64
    let k := match (if u.wr then c.tdRd else c.tgt u.slot) with | .pop _ k => k | _ => 0
    let closed := c.s.queueClosed c.s.myTeam x
    ensure (!(u.rd && closed && decide (x.entries.length < k + u.grp))) .queueEnd (w64 q) (w64 (Slot.num u.slot)) 0#64
  | _ => .ok ()

/-- An instruction of another strand of the team waits for its tile with entries of the queue: they stay at its head until that
instruction completes (R28), and no other pop takes them or passes them. -/
def State.queueTaken (s : State) (q : Nat) : Bool :=
  s.parts.any fun w => w.team == s.me.team && w.sid != s.cur && Tab.get 0 w.pops q != 0

/-- Whether a slot pushes onto a queue. -/
def Use.pushes (u : Use) : Bool := u.wr && (match u.o with | .q _ => true | _ => false)

/-- Entries that the slots push onto a queue. -/
def pushCount (us : List Use) (q : BitVec 3) : Nat := ((us.filter fun u => u.wr && u.o == .q q).map fun u => u.grp).sum

/-- Whether every queue can serve the instruction now (R28). -/
def queuesReady (c : Ctx) (us : List Use) : Bool :=
  us.all fun u => match u.o with
    | .q qn =>
      let x := Tab.get {} c.s.myTeam.queues qn.toNat
      let p := Tab.get 0 c.pops qn.toNat
      decide (p ≤ x.entries.length) && (!u.wr || decide (x.entries.length - p + pushCount us qn ≤ x.depth))
        && !(u.rd && c.s.queueTaken qn.toNat)
    | _ => true

/-! ### Reading operands -/

/-- An entry of a queue, as stored (R211). -/
def Ctx.entry (c : Ctx) (q k : Nat) : Option QEntry := (Tab.get {} c.s.myTeam.queues q).entries[k]?

def Ctx.readS (c : Ctx) (t : Tgt) : Word :=
  match t with
  | .reg n => c.me.getS n
  | .pop q k => (match c.entry q k with | some (.sc w) => w | _ => 0#64)
  | _ => 0#64

/-- S of a slot. -/
def Ctx.s_ (c : Ctx) (sl : Slot) : Word := c.readS (c.tgt sl)

/-- The comparand or data that D supplies. -/
def Ctx.sD (c : Ctx) : Word :=
  match c.tdRd with
  | .pop q k => c.readS (.pop q k)
  | _ => c.readS c.td

/-- S[B] or the sign-extended immediate. -/
def Ctx.sB (c : Ctx) : SrcB → Word
  | .op _ => c.s_ .b
  | .imm i => i.signExtend 64

def Ctx.m_ (c : Ctx) (sl : Slot) : BitVec 1024 :=
  match c.tgt sl with
  | .reg n => c.me.getM n
  | _ => 0#1024

/-- The index of the register that a slot names, for the forms that name a whole register or a group. -/
def Ctx.rnum (c : Ctx) (sl : Slot) : Nat :=
  match c.tgt sl with
  | .reg n => n
  | _ => 0

/-- A lane-mode operand (R125): the FMT of the lowest active element's register; elsewhere a free value (log 15). -/
def laneOp (c : Ctx) (base : Nat) (regs : Tab Nat) : VOp :=
  let st := c.me
  let first := match regs with | [] => base | p :: _ => p.2
  let f := (st.getV first).fmt
  let bad := (regs.find? fun p => (st.getV p.2).fmt != f).map fun p => (f, (st.getV p.2).fmt, p.1)
  let hole := fun (j : Nat) => Config.laneHole c.s.tick j
  { fmt := f
    code := fun j => match Tab.find regs j with
      | some n => (st.getV n).code j
      | none => (hole j).2 % 2 ^ elemBits f
    scale := fun j => match Tab.find regs j with
      | some n => (st.getV n).scaleAt (j / 16)
      | none => (hole j).1 % 256
    psn := fun j => regs.any fun p => p.1 / 16 == j / 16 && (st.getV p.2).psnAt (j / 16)
    zero := fun j => match Tab.find regs j with
      | some n => (st.getV n).zero3
      | none => false
    bad, img := st.getV first, spec := fun j => Tab.get 0 regs j }

/-- V of what a slot was resolved to. -/
def Ctx.readV (c : Ctx) (t : Tgt) : VOp :=
  match t with
  | .reg n => VOp.ofReg (c.me.getV n) n
  | .pop q k => (match c.entry q k with | some (.ve v) => VOp.ofReg v (0x48 + q) | _ => VOp.ofReg {})
  | .lane b regs => laneOp c b regs
  | _ => VOp.ofReg {}

/-- V of a slot. -/
def Ctx.v_ (c : Ctx) (sl : Slot) : VOp := c.readV (c.tgt sl)

/-! ### Writing results -/

/-- Append an entry to a queue of the acting team (R28, R212). -/
def State.pushQ (s : State) (q : Nat) (e : QEntry) : State :=
  let tm := s.myTeam
  s.setMyTeam { tm with queues := Tab.modify tm.queues q fun x => { x with entries := x.entries ++ [e] } }

/-- Write a scalar result to D. -/
def Ctx.putS (c : Ctx) (s : State) (w : Word) : State :=
  match c.td with
  | .reg n => s.setMe (s.me.setS n w)
  | .push q => s.pushQ q (.sc w)
  | _ => s

/-- Write a mask result to D. -/
def Ctx.putM (c : Ctx) (s : State) (x : BitVec 1024) : State :=
  match c.td with
  | .reg n => s.setMe (s.me.setM n x)
  | _ => s

def State.raise (s : State) (f : Flags) : State := s.setMe (s.me.raise f)

/-- A result element: an exact value with the flags of its computation, or a code, under a scale in a narrow format. -/
inductive El where
  | val (v : Val) (fl : Flags)
  | raw (code scale : Nat) (fl : Flags := 0#7)

/-- A vector result before it is committed. -/
structure VW where
  fmt : FmtCode
  /-- the elements that the instruction writes, the others that become zero, and those whose zeros raise no flag: the padding
  elements (R147) -/
  act : Nat → Bool
  pad : Nat → Bool
  hush : Nat → Bool := fun _ => false
  el : Nat → El
  /-- whether an element is fed from a poisoned group (R150) -/
  feed : Nat → Bool
  rm : RMode
  /-- encoding of a value in a wide format -/
  enc : Val → Nat × Flags
  /-- the first group performed (R156) -/
  g0 : Nat := 0

/-- The encoding of an operation's result in a wide format (R157). -/
def encArith (f : FmtCode) (rm : RMode) (sat : Bool) (v : Val) : Nat × Flags :=
  if isWInt f then intResult f rm sat v else roundTo f rm v

/-- The encoding of a conversion into a wide format (R69). -/
def encConv (f : FmtCode) (rm : RMode) (srcInt : Bool) (v : Val) : Nat × Flags :=
  if isWInt f then intConvert f rm srcInt v else roundTo f rm v

/-- A group as committed: scale, codes as one number, poison and flags. -/
structure Grp where
  scale : Nat
  data : Nat
  psn : Bool
  fl : Flags

/-- Codes of w bits joined, the first lowest. -/
def joinCodes (w : Nat) : List Nat → Nat
  | [] => 0
  | c :: cs => c + 2 ^ w * joinCodes w cs

/-- The final element j of a group as an exact value (R68). -/
def finalVal (old : VReg) (w : VW) (same : Bool) (j : Nat) : Val × Flags :=
  if w.act j then
    match w.el j with
    | .val v fl => (v, fl)
    | .raw c s fl => (decodeCode w.fmt s c, fl)
  else if w.pad j then (Val.zero, 0#7)
  else if same then (old.elem j, 0#7)
  else (Val.zero, 0#7)

/-- The scale under which a whole narrow group is copied bit for bit: every element loaded as a code, all under one scale
(R263). -/
def rawScale (w : VW) (js : List Nat) : Option Nat :=
  match w.el (js.headD 0) with
  | .raw _ s _ =>
    if js.all fun j => w.act j && (match w.el j with | .raw _ s' _ => s' == s | _ => false) then some s else none
  | _ => none

def rawCode (w : VW) (j : Nat) : Nat := match w.el j with | .raw c _ _ => c | _ => 0

/-- The flags of a block's encoding. The zeros of padding elements raise none (R147): only in B1, which has no code for zero, would
they. -/
def blockFlags (w : VW) (js : List Nat) (xs : List Val) (fl : Flags) : Flags :=
  if isB w.fmt && elemBits w.fmt == 1 then
    (encodeBlock w.fmt w.rm (((js.zip xs).filter fun p => !w.hush p.1).map fun p => p.2)).2.2
  else fl

/-- Commit one group (R147, R150). A group kept bit for bit keeps SCALE too, in a wide format as well. -/
def commitGroup (old : VReg) (w : VW) (g : Nat) : Grp :=
  let same := old.fmt == w.fmt
  let bitsW := elemBits w.fmt
  let js := (List.range 16).map fun k => 16 * g + k
  let touched := js.any fun j => w.act j || w.pad j
  let fed := js.any fun j => w.act j && w.feed j
  let keep : Grp :=
    { scale := old.scaleAt g, data := nbits old.data.toNat (16 * bitsW * g) (16 * bitsW),
      psn := old.psnAt g, fl := 0#7 }
  if g < w.g0 then keep
  else if !touched then (if same then keep else { scale := 0, data := 0, psn := false, fl := 0#7 })
  else
    let whole := !same || js.all fun j => w.act j || w.pad j
    let psn := if whole then fed else old.psnAt g || fed
    if isNarrow w.fmt then
      match rawScale w js with
      | some s => { scale := s, data := joinCodes bitsW (js.map (rawCode w)), psn, fl := 0#7 }
      | none =>
        let xs := js.map (finalVal old w same)
        let (s, cs, fl) := encodeBlock w.fmt w.rm (xs.map fun x => x.1)
        { scale := s, data := joinCodes bitsW cs, psn
          fl := xs.foldl (fun a x => a ||| x.2) (blockFlags w js (xs.map fun x => x.1) fl) }
    else
      let one := fun (j : Nat) =>
        if w.act j then
          (match w.el j with
          | .val v fl => let (c, f2) := w.enc v; (c, fl ||| f2)
          | .raw c _ fl => (c, fl))
        else if w.pad j then (0, 0#7)
        else if same then (old.code j, 0#7)
        else (0, 0#7)
      let cs := js.map one
      { scale := 0, data := joinCodes bitsW (cs.map fun x => x.1), psn, fl := cs.foldl (fun a x => a ||| x.2) 0#7 }

/-- A register after a result is written to it, and the flags of the groups committed (R147, R63). -/
def commit (old : VReg) (w : VW) : VReg × Flags :=
  let gs := (List.range (cap w.fmt / 16)).map (commitGroup old w)
  ({ fmt := w.fmt, zero3 := false
     data := BitVec.ofNat 8192 (joinCodes (16 * elemBits w.fmt) (gs.map fun x => x.data))
     scale := BitVec.ofNat 512 (joinCodes 8 (gs.map fun x => x.scale))
     psn := BitVec.ofNat 64 (joinCodes 1 (gs.map fun x => if x.psn then 1 else 0)) },
   gs.foldl (fun a x => a ||| x.fl) 0#7)

/-- Commit to one touched register of a lane-mode destination (R126): no element but those of the window is written. A result at a
position for which R124 forms no register is dropped (log 94). -/
def commitLane (regs : Tab Nat) (n : Nat) (old : VReg) (w : VW) : VReg × Flags :=
  commit old { w with act := fun j => Tab.find regs j == some n && w.act j, pad := fun _ => false }

/-- R126: every touched register of a lane-mode destination has the result FMT or is VCLS 3; the lowest register number that has
neither is named (log 93). -/
def laneConflict (c : Ctx) (f : FmtCode) (t : Tgt) : Res Unit :=
  match t with
  | .lane _ regs => forEach (fun n =>
      let r := c.me.getV n
      ensure (r.fmt == f || r.zero3) .tagConflict (r.fmt.setWidth 64) (f.setWidth 64) (w64 n)) (laneSet regs)
  | _ => .ok ()

/-- Write a vector result to a destination, with its flags. A pushed image is that of a fresh register (R211). -/
def putVAt (s : State) (t : Tgt) (w : VW) : State :=
  match t with
  | .reg n =>
    let (r, fl) := commit (s.me.getV n) w
    s.setMe ((s.me.setV n r).raise fl)
  | .push q =>
    let (r, fl) := commit {} { w with g0 := 0 }
    (s.raise fl).pushQ q (.ve r)
  | .lane _ regs => (laneSet regs).foldl (fun s n =>
      let (r, fl) := commitLane regs n (s.me.getV n) w
      s.setMe ((s.me.setV n r).raise fl)) s
  | _ => s

/-- Write a vector result to D. -/
def Ctx.putV (c : Ctx) (s : State) (w : VW) : State := putVAt s c.td w

/-- Write a whole image to D. -/
def Ctx.putImg (c : Ctx) (s : State) (r : VReg) : State :=
  match c.td with
  | .reg n => s.setMe (s.me.setV n r)
  | .push q => s.pushQ q (.ve r)
  | _ => s

/-- The image that D holds before a whole-register write. -/
def Ctx.oldD (c : Ctx) : VReg :=
  match c.td with
  | .reg n => c.me.getV n
  | _ => {}

/-- A mask result (R148): bits of active elements, kept bits of inactive ones below L, zero elsewhere. -/
def maskResult (st : Strand) (mk : Mk) (old : BitVec 1024) (p : Nat → Bool) : BitVec 1024 :=
  let bit := fun (j : Nat) =>
    if j < st.padFrom then (if st.maskBit mk j then p j else nbits old.toNat j 1 == 1) else false
  BitVec.ofNat 1024 (joinCodes 1 ((List.range 1024).map fun j => if bit j then 1 else 0))

/-! ### Checks common to vector forms (R154–R156) -/

/-- CAPACITY of the formats in order (R154). -/
def capCheck (c : Ctx) (fs : List FmtCode) : Res Unit :=
  forEach (fun f => ensure (c.me.vlen ≤ cap f) .capacity c.me.vl (f.setWidth 64)) fs

/-- TAG_MISMATCH of lane-mode operands (R125). -/
def laneMismatch (vs : List VOp) : Res Unit :=
  forEach (fun v => match v.bad with
    | some (f, g, j) => raise .tagMismatch (f.setWidth 64) (g.setWidth 64) (w64 j)
    | none => .ok ()) vs

/-- The first group that an elementwise form performs, with TAG_CONFLICT on a restart (R156); a queue destination ignores
CR.TSTART (R211). A register of a lane-mode D that is VCLS 3 takes the result FMT by R126, whatever CR.TSTART holds (log 117). -/
def restart (c : Ctx) (f : FmtCode) : Res Nat := do
  laneConflict c f c.td
  match c.td with
  | .push _ => return 0
  | .reg n =>
    let r := c.me.getV n
    ensure (c.me.tstart == 0#64 || r.fmt == f) .tagConflict (r.fmt.setWidth 64) (f.setWidth 64)
    return c.me.tstart.toNat / 16
  | _ => return c.me.tstart.toNat / 16

/-- Element j is active, or padding (R146). -/
def Ctx.isAct (c : Ctx) (j : Nat) : Bool := decide (j < c.me.padFrom) && c.me.maskBit c.mask j

def Ctx.isPad (c : Ctx) (j : Nat) : Bool := decide (c.me.padFrom ≤ j) && decide (j < c.me.vlen)

/-- An elementwise result: each active element j from `el j`, fed by the sources' elements j (R147, R150). -/
def Ctx.vw (c : Ctx) (f : FmtCode) (m : RMode) (enc : Val → Nat × Flags) (vs : List VOp) (el : Nat → El)
    (g0 : Nat := 0) : VW :=
  { fmt := f, act := c.isAct, pad := c.isPad, hush := c.isPad, el, feed := fun j => vs.any fun v => v.psn j, rm := m, enc, g0 }

/-- TAG_FORBIDDEN of class 3 (R72). -/
def forbid3 {α : Type} (fa fb : FmtCode) (v1 : Word := 0#64) : Res α :=
  raise .tagForbidden (w64 (3 + 256 * fa.toNat + 65536 * fb.toNat)) v1

/-- POISON_CONSUMED for an element carried out of the vector file (R151). -/
def consume (v : VOp) (js : List Nat) : Res Unit :=
  match js.find? v.psn with
  | some j => raise .poisonConsumed (w64 j) (w64 (v.spec j))
  | none => .ok ()

/-- The same where the specifier of the word is reported (R332, R335). -/
def consumeAs (o : Opnd) (v : VOp) (js : List Nat) : Res Unit := consume { v with spec := fun _ => o.code.toNat } js

end Sys2Proof.Machine
end

