-- ==== Sys2Proof/Machine/Issue.lean ====
section
/-! DEFINITION. The issue of an instruction: its faults in the order of R37, its stalls, and what completion does for every
instruction (R28, R122, R389). -/

namespace Sys2Proof.Machine

/-- OP of an instruction. -/
def opOf (i : Instr) : Nat := (encodeR i).op.toNat

/-- The least privilege of an instruction (Table 2.6), by control register number for CRD, CWR and CRSW (R142). -/
def privOk (i : Instr) (p : Priv) : Bool :=
  match i with
  | .stPatch _ _ _ _ _ _ | .palwr _ _ | .ctxsave _ _ _ _ _ _ _ | .ctxrstr _ _ _ | .tlbinv _ _ _
  | .rcstart _ _ _ _ _ | .rcstat _ _ => p != .user
  | .kdsetAssign _ _ _ _ | .kdsetNewkey _ _ _ _ | .kdsetRetire _ _ _ _ | .homemap _ _ _ | .idle _ _ => p == .mon
  | .crd _ n => crAccess n.toNat p != .none
  | .cwr n _ => crAccess n.toNat p == .rw
  | .crsw _ n _ => crAccess n.toNat p == .rw
  | _ => true

/-- The opcodes that raise NO_LANES in a service strand (R106). -/
def needsLanes (op : Nat) : Bool :=
  (0x60 ≤ op && op ≤ 0x9C) || (0xA0 ≤ op && op ≤ 0xAB) || (0xB0 ≤ op && op ≤ 0xBC)

/-- The counter of issues of an opcode's slot: S, V or M (Table 2.6, Table 16.3). -/
def slotCounter (op : Nat) : Nat :=
  if op ≤ 0x3A || (0x50 ≤ op && op ≤ 0x5A) || op == 0x5C || (0xF0 ≤ op && op ≤ 0xF2) then 1
  else if (0x60 ≤ op && op ≤ 0x9C && op != 0x65 && op != 0x66) || (0xB0 ≤ op && op ≤ 0xB6) || op == 0xBB || op == 0xBC
  then 2
  else 3

/-- What the body of an instruction answers when it completes: the state with its results, where the pc goes (the next word
where nothing is said), whether it wrote TSTART and MSTEP itself, and of a plain load or store the lines of memory that it accessed,
as the load read them. -/
structure Done where
  s : State
  pc : Option Word := none
  keepT : Bool := false
  lines : Option (Tab LineV) := none

def done (s : State) : Res Done := .ok { s }

/-- The entries that an instruction popped leave their queues (R28). -/
def State.popAll (s : State) (pops : Tab Nat) : State :=
  pops.foldl (fun s p =>
    let tm := s.myTeam
    s.setMyTeam { tm with queues := Tab.modify tm.queues p.1 fun x => { x with entries := x.entries.drop p.2 } }) s

/-- Auto-increments take effect (R122). -/
def Strand.advanceIx (st : Strand) (ix : Tab Nat) : Strand :=
  ix.foldl (fun st p => st.setI p.1 (setBits (st.getI p.1) 12 6 p.2)) st

/-- An issue is charged to the VI's counter of issues of its slot, once (R101). -/
def State.chargeIssue (s : State) (i : Instr) : State :=
  if s.me.charged then s.setMe { s.me with charged := false } else s.charge s.myVi (slotCounter (opOf i)) 1

/-- A strand that waits otherwise than by stalling. -/
def Run.waits : Run → Bool
  | .parkBar _ | .parkWaitw _ _ | .parkIdle _ | .tile _ | .joint _ => true
  | _ => false

/-- An instruction that parks, or waits for a tile, was issued. -/
def State.chargeWait (s : State) (i : Instr) : State :=
  if s.me.run.waits && !s.me.charged then
    let s1 := s.chargeIssue i
    s1.setMe { s1.me with charged := true }
  else s

/-! ### Plain loads that later instructions pass (R282, R284) -/

/-- Whether a plain access is one of memory; none for another order. -/
def spacePlain : Space → Option Bool
  | .mem _ .plain => some true
  | .sp .plain => some false
  | _ => none

def qualPlain : Qual → Option Bool
  | .mem _ .plain => some true
  | .sp .plain => some false
  | _ => none

/-- A plain load or store: whether it stores, and whether it is one of memory. -/
def plainMem : Instr → Option (Bool × Bool)
  | .ld _ sp _ _ _ _ | .vldm _ _ sp _ _ _ _ | .vldg _ _ sp _ _ _ _ _ => (spacePlain sp).map fun m => (false, m)
  | .vld _ _ ql false _ _ _ _ | .vlds _ _ ql _ _ _ _ | .vldx _ _ ql _ _ _ _ => (qualPlain ql).map fun m => (false, m)
  | .st _ sp _ _ _ _ | .vst _ _ sp _ _ _ _ | .vsts _ _ sp _ _ _ _ | .vstx _ _ sp _ _ _ _ | .vstm _ _ sp _ _ _ _
  | .vstg _ _ sp _ _ _ _ _ => (spacePlain sp).map fun m => (true, m)
  | _ => none

/-- An operation on registers alone: the scalar and vector arithmetic, moves and masks, and branches and jumps. -/
def onRegisters (op : Nat) : Bool :=
  (1 ≤ op && op ≤ 0x1D) || (0x20 ≤ op && op ≤ 0x28) || (0x30 ≤ op && op ≤ 0x3A) || (0x60 ≤ op && op ≤ 0x9C && op != 0x65 && op != 0x66)

/-- The track of a line (R282). -/
def lineTrack (ln : Nat) : Nat := trackOf (128 * ln)

/-- An instruction reads or writes the destination of a late load. -/
def LateLoad.touched (l : LateLoad) (c : Ctx) : Bool :=
  c.us.any fun u => (u.file == .v) == l.vec && u.file != .m && (match c.tgt u.slot with
    | .reg n => decide (n < l.d + l.k) && decide (l.d < n + u.grp)
    | .none => false
    | _ => true)

/-- A late load that an instruction passes: plain accesses of one track keep their order, as do those to one line, a scalar load is
performed before a store, and what uses its result comes after it. -/
def LateLoad.passedBy (l : LateLoad) (c : Ctx) (d : Done) : Bool :=
  c.pops.isEmpty && !c.us.any Use.pushes && !l.touched c && (match plainMem c.i, d.lines with
    | some (store, _), some ls =>
      (l.vec || !store) && !ls.any fun p => l.left.any fun n => lineTrack n == lineTrack p.1
    | _, _ => onRegisters (opOf c.i))

/-- The record of a plain load of memory into registers. -/
def lateOf (c : Ctx) (d : Done) (fctl : Word) : List LateLoad :=
  match plainMem c.i, d.lines, c.td, c.us.find? fun u => u.wr with
  | some (false, true), some ls, .reg n, some u =>
    if ls.isEmpty || !c.pops.isEmpty then []
    else [{ i := c.i, vec := u.file == .v, d := n, k := u.grp, s := c.me.s, ix := c.me.i, v := c.me.v, m := c.me.m
            tstart := c.me.tstart, fctl := c.me.fctl, lines := ls, left := ls.map fun p => p.1, raised := fctl }]
  | _, _, _, _ => []

/-- Completion: pops, auto-increments, TSTART and MSTEP, the pc, and the step breakpoint of R400. -/
def complete (c : Ctx) (d : Done) : State :=
  let s1 := d.s.popAll c.pops
  let st := s1.me.advanceIx c.ix
  let st1 := if d.keepT then st else { st with tstart := 0#64, mstep := 0#64 }
  let late := (st1.late.filter fun l => l.passedBy c d) ++ lateOf c d st1.fctl
  let s2 := s1.setMe { st1 with pc := d.pc.getD (c.me.pc + 8#64), got := [], late, reqs := 0, homing := none }
  let s3 := s2.chargeIssue c.i
  match c.me.sstep with
  | some l =>
    (s3.setMe { s3.me with sstep := none }).deliver s3.cur { cause := .breakpoint, v0 := 0x1_0000#64 } true false (some l)
  | none => s3

/-- A refused host translation that raises its fault is spent. -/
def State.spendFor (s : State) (t : Trap) : State := s.spendBy (s.viNo s.me) t

/-- An access that waits at translation holds request entries, where its core has them (R229, R99). -/
def State.holdRequests (s : State) (n : Nat) : State :=
  let s0 := s.setMe { s.me with reqs := 0 }
  if s0.hasRequests (s.coreOf s.me) n then s.setMe { s.me with reqs := Nat.min n 8192 } else s

/-- What the machine does when an instruction does not complete. -/
def stopState (s : State) : Stop → Host.Outcome State Fault Refusal
  | .trap t => .next ((s.spendFor t).deliver s.cur t)
  | .trapIn t s' => .next ((s'.spendFor t).deliver s'.cur t)
  | .stall => .next s
  | .hold s' => .next s'
  | .pri p n => .next ((s.askPri p).holdRequests n)
  | .page n => .next (s.holdRequests n)
  | .fault f => .fault f

/-- NO_LANES of a service strand; VABSENT of the slots that VDOT4 checks at its steps comes first (R106). -/
def lanesHeld (i : Instr) (us : List Use) (c : Ctx) : Res Unit := do
  if needsLanes (opOf i) && c.s.myCar.service then
    if us.any fun u => u.late then stepPresent c
    raise .noLanes (wordOf i)

/-- The checks that precede an instruction's own: PRIVILEGE, the specifiers, NO_LANES, OVERLAP, the queues; then the stall
of R28. -/
def ready (i : Instr) (s : State) (us : List Use) (mk : Mk) (overlap : Ctx → Res Unit) : Res Ctx := do
  ensure (privOk i s.me.priv) .privilege (wordOf i)
  let c ← resolveAll { s, i, mask := mk, us } us
  lanesHeld i us c
  overlap c
  forEach (queueFault c) us
  if queuesReady c us then return c else throw .stall

/-- An instruction with a queue destination that traps leaves CR.TSTART at zero (R211). -/
def State.dropTstart (s : State) (us : List Use) : State :=
  if us.any Use.pushes then s.setMe { s.me with tstart := 0#64 } else s

/-- What the machine does when an instruction with these slots does not complete: one that traps was issued (R101). -/
def stopIssue (i : Instr) (s : State) (us : List Use) (e : Stop) : Host.Outcome State Fault Refusal :=
  match e with
  | .trap _ => stopState ((s.dropTstart us).chargeIssue i) e
  | .trapIn t s' => stopState s (.trapIn t ((s'.dropTstart us).chargeIssue i))
  | .hold s' => stopState s (.hold (s'.chargeWait i))
  | _ => stopState s e

/-- Issue an instruction of the acting strand. -/
def issue (i : Instr) (s : State) (us : List Use) (body : Ctx → Res Done) (mk : Mk := .all)
    (overlap : Ctx → Res Unit := fun _ => .ok ()) : Host.Outcome State Fault Refusal :=
  match ready i s us mk overlap with
  | .error e => stopIssue i s us e
  | .ok c =>
    match body c with
    | .error e => stopIssue i s us e
    | .ok d => .next (complete c d)

/-- The registers that a slot names, as groups: first register and length; a lane-mode slot's registers are groups of one. -/
def groupsOf (t : Tgt) (n : Nat) : List (Nat × Nat) :=
  match t with
  | .reg x => [(x, n)]
  | .lane _ regs => (laneSet regs).map fun x => (x, 1)
  | _ => []

/-- The destination group and a source group are identical or disjoint (R153), by the registers resolved at issue. -/
def overlapCheck (c : Ctx) (ds : Slot) (dn : Nat) (sl : Slot) (sn : Nat) : Res Unit :=
  forEach (fun d => forEach (fun (e : Nat × Nat) =>
    ensure (d == e || decide (d.1 + d.2 ≤ e.1) || decide (e.1 + e.2 ≤ d.1)) .overlap (w64 (d.1 + 256 * d.2))
      (w64 (e.1 + 256 * e.2))) (groupsOf (c.tgt sl) sn)) (groupsOf (c.tgt ds) dn)

end Sys2Proof.Machine
end

