-- ==== Sys2Proof/Machine/Palettes.lean ====
section
/-! DEFINITION. Palettes: P0, lookups, and the instructions that select, read and write slots (R70–R76, R81–R83). -/

namespace Sys2Proof.Machine

/-- The result of P0's ADD and MUL classes, or none for TRAP: the rules of R73 in order. -/
def p0Arith (fa fb : FmtCode) : Option FmtCode :=
  let n := fun (f : FmtCode) => elemBits f
  if fa == 0#6 || fb == 0#6 || fmtReserved fa || fmtReserved fb then none
  else if fa == 0x0C#6 || fb == 0x0C#6 then (if fa == fb then some fa else none)
  else if isWInt fa != isWInt fb then none
  else if isWInt fa then
    if isSInt fa == isSInt fb then some (if n fa < n fb then fb else fa)
    else
      let i := if isSInt fa then fa else fb
      let u := if isSInt fa then fb else fa
      let w := Nat.min 64 (Nat.max (n i) (2 * n u))
      some (if w = 16 then 0x02#6 else if w = 32 then 0x03#6 else 0x04#6)
  else
    let a := if isStorage fa then 0x09#6 else fa
    let b := if isStorage fb then 0x09#6 else fb
    if isIeee a && isIeee b then some (if a == b then a else 0x0B#6)
    else if isIeee a then some a
    else if isIeee b then some b
    else if isB a && isB b then some (if n a < n b then b else a)
    else if isZ a && isZ b then some (if n a < n b then b else a)
    else if isZ a && isB b then some (0x10#6 + BitVec.ofNat 6 (Nat.min 16 (Nat.max (n a + 1) (n b)) - 1))
    else if isB a && isZ b then some (0x10#6 + BitVec.ofNat 6 (Nat.min 16 (Nat.max (n b + 1) (n a)) - 1))
    else if isMini a && isMini b then
      if a == b then some a
      else if a == 0x30#6 then some b
      else if b == 0x30#6 then some a
      else some 0x09#6
    else some 0x0B#6

/-- The result of P0's MAT class, or none for TRAP (R74). -/
def p0Mat (fa fb : FmtCode) : Option FmtCode :=
  let small := fun (f : FmtCode) => f == 0x01#6 || f == 0x02#6 || f == 0x05#6 || f == 0x06#6
  let fl := fun (f : FmtCode) => isNarrow f || isStorage f || f == 0x09#6 || f == 0x0A#6 || f == 0x0B#6
  if fa == 0x0C#6 && fb == 0x0C#6 then some 0x0C#6
  else if small fa && small fb then some 0x03#6
  else if fl fa && fl fb then some 0x0B#6
  else none

/-- An entry of P0 (R73, R74). -/
def p0Entry (cls : Nat) (fa fb : FmtCode) : Byte :=
  match (if cls = 2 then p0Mat fa fb else p0Arith fa fb) with
  | some f => f.setWidth 8
  | none => 0x40#8

/-- The place of an entry (R70). -/
def palIndex (cls : Nat) (fa fb : FmtCode) : Nat := cls * 4096 + fa.toNat * 64 + fb.toNat

/-- An entry as stored. -/
def State.palEntry (s : State) (slot cls : Nat) (fa fb : FmtCode) : Byte :=
  if slot = 0 then p0Entry cls fa fb
  else Tab.get (p0Entry cls fa fb) (Tab.get {} s.palettes slot).entries (palIndex cls fa fb)

def State.setPalEntry (s : State) (slot cls : Nat) (fa fb : FmtCode) (e : Byte) : State :=
  let p := Tab.get {} s.palettes slot
  let k := palIndex cls fa fb
  let es := if e == p0Entry cls fa fb then Tab.del p.entries k else Tab.put p.entries k e
  { s with palettes := Tab.put s.palettes slot { p with entries := es } }

/-- P0, a slot granted to the strand's VI, or any slot at monitor privilege (R71, R81). -/
def State.granted (s : State) (slot : Nat) : Bool :=
  slot == 0 || s.me.priv == .mon || (Tab.get {} s.palettes slot).holder == some s.myVi

/-- Whether an entry reads as TRAP (R70). -/
def entryTraps (cls : Nat) (e : Byte) : Bool :=
  let f : FmtCode := e.extractLsb' 0 6
  let act := (e.extractLsb' 6 2).toNat
  act == 1 || act == 3 || f == 0#6 || fmtReserved f || (cls == 2 && f != 0x03#6 && f != 0x0B#6 && f != 0x0C#6)

/-- `palette` of R7: the result format of a lookup, and MIX where the entry has action 2 (R71, R72). -/
def palette (s : State) (cls : Nat) (fa fb : FmtCode) : Res (FmtCode × Flags) := do
  let slot := bits s.me.palsel 0 4
  ensure (s.granted slot) .access (w64 slot)
  let e := s.palEntry slot cls fa fb
  ensure (!entryTraps cls e) .tagForbidden (w64 (cls + 256 * fa.toNat + 65536 * fb.toNat + 2 ^ 24 * slot))
    (e.setWidth 64)
  return (e.extractLsb' 0 6, flagIf (e.extractLsb' 6 2 == 2#2) fMIX)

/-- The checks of R81 and the new CR.PALSEL. -/
def palselCheck (s : State) (w : Word) : Res Unit := do
  ensure (w.toNat < 16) .access w
  ensure (s.granted w.toNat) .access w

def execPalsel (n : IdxSel 4) (s : State) : Host.Outcome State Fault Refusal :=
  issue (.palsel n) s (idxUse .a n) fun c => do
    let w := match n with | .imm k => k.setWidth 64 | .reg _ => c.s_ .a
    palselCheck c.s w
    done (c.s.setMe { c.me with palsel := w })

/-- A palette index of R82: slot, class, FA and FB, or BOUND. -/
def palArgs (w : Word) : Res (Nat × Nat × FmtCode × FmtCode) := do
  ensure (bits w 18 46 == 0 && bits w 12 2 != 3 && bits w 0 3 == 0) .bound w
  return (bits w 14 4, bits w 12 2, w.extractLsb' 6 6, w.extractLsb' 0 6)

/-- R82. -/
def execPalrd (d a : Opnd) (s : State) : Host.Outcome State Fault Refusal :=
  issue (.palrd d a) s [rdS .a a, wrS d] fun c => do
    let (slot, cls, fa, fb) ← palArgs (c.s_ .a)
    ensure (c.s.granted slot) .access (w64 slot)
    let v := joinCodes 8 ((List.range 8).map fun i => (c.s.palEntry slot cls fa (fb + BitVec.ofNat 6 i)).toNat)
    done (c.putS c.s (w64 v))

/-- R83: the eight entries change as one. -/
def execPalwr (a b : Opnd) (s : State) : Host.Outcome State Fault Refusal :=
  issue (.palwr a b) s [rdS .a a, rdS .b b] fun c => do
    let (slot, cls, fa, fb) ← palArgs (c.s_ .a)
    ensure (slot != 0 && c.s.granted slot) .access (w64 slot)
    let v := c.s_ .b
    done ((List.range 8).foldl (fun s i =>
      s.setPalEntry slot cls fa (fb + BitVec.ofNat 6 i) (v.extractLsb' (8 * i) 8)) c.s)

end Sys2Proof.Machine
end

