-- ==== Sys2Proof/Machine/VecBasic.lean ====
section
/-! DEFINITION. Register tags, conversions, moves, splats and single elements: 0x60–0x64 and 0x67–0x6B (R77–R80, R166–R171). -/

namespace Sys2Proof.Machine

/-- A vector result and its extra flags, to D. -/
def putDone (c : Ctx) (w : VW) (fl : Flags := 0#7) : Res Done := done ((c.putV c.s w).raise fl)

/-- The bits of a number below bit n. -/
def lowBits (x n : Nat) : Nat := x % 2 ^ n

/-- The image of a register under another format (R77). -/
def retag (r : VReg) (f : FmtCode) (zero : Bool) : VReg :=
  if zero then { fmt := f }
  else
    let wo := elemBits r.fmt
    let wf := elemBits f
    let meets := fun (g h : Nat) => decide (16 * wf * g < 16 * wo * (h + 1)) && decide (16 * wo * h < 16 * wf * (g + 1))
    let psn := fun (g : Nat) => (List.range r.groups).any fun h => r.psnAt h && meets g h
    { fmt := f, zero3 := false, scale := r.scale
      data := BitVec.ofNat 8192 (lowBits r.data.toNat (wf * cap f))
      psn := BitVec.ofNat 64 (joinCodes 1 ((List.range (cap f / 16)).map fun g => if psn g then 1 else 0)) }

/-- R77. -/
def execVtag (zero : Bool) (d : Opnd) (f : FmtSel) (s : State) : Host.Outcome State Fault Refusal :=
  let ua := match f with | .imm _ => [] | .reg o => [rdS .a o]
  issue (.vtag zero d f) s (ua ++ [{ wrV d with whole := true }]) fun c => do
    let f' ← (match f with
      | .imm k => .ok k
      | .reg _ => do
        let w := c.s_ .a
        ensure (w.toNat < 64 && !fmtReserved (w.extractLsb' 0 6)) .tagForbidden 3#64 w
        return w.extractLsb' 0 6)
    done (c.putImg c.s (retag c.oldD f' zero))

/-- R78. -/
def execVgtag (sel : BitVec 2) (d a : Opnd) (s : State) : Host.Outcome State Fault Refusal :=
  issue (.vgtag sel d a) s [{ rdV .a a with whole := true }, wrS d] fun c =>
    let v := (c.v_ .a).img
    done (c.putS c.s (match sel.toNat with | 0 => v.tag | 1 => v.valid | _ => v.psn))

/-- NV of a converted element: a signalling NaN into a wide format (R51, R69). -/
def convFlags (f : FmtCode) (v : Val) : Flags := if isNarrow f then 0#7 else sigNV [v]

/-- R79. -/
def execVcvt (mk : Mk) (rm : Rm) (d a : Opnd) (f : FmtCode) (s : State) : Host.Outcome State Fault Refusal :=
  issue (.vcvt mk rm d a f) s [rdV .a a, wrV d] (mk := mk) fun c => do
    let v := c.v_ .a
    if v.fmt == 0#6 then forbid3 0#6 f
    laneMismatch [v]
    capCheck c [v.fmt, f]
    laneConflict c f c.td
    let m := c.me.rmode rm
    putDone c (c.vw f m (encConv f m (isWInt v.fmt)) [v] fun j => .val (v.elem j) (convFlags f (v.elem j)))

/-- R80. Beyond ±8,192 every format overflows or underflows alike. -/
def execVresc (mk : Mk) (rm : Rm) (d a b : Opnd) (s : State) : Host.Outcome State Fault Refusal :=
  issue (.vresc mk rm d a b) s [rdV .a a, rdS .b b, wrV d] (mk := mk) fun c => do
    let v := c.v_ .a
    if v.fmt == 0#6 || isWInt v.fmt then forbid3 v.fmt 0#6
    laneMismatch [v]
    capCheck c [v.fmt]
    laneConflict c v.fmt c.td
    let n := (c.s_ .b).toInt
    let n' : Int := if n < -8192 then -8192 else if 8192 < n then 8192 else n
    let m := c.me.rmode rm
    putDone c (c.vw v.fmt m (roundTo v.fmt m) [v] fun j => .val ((v.elem j).scale2 n') (sigNV [v.elem j]))

/-- R171. -/
def execVvalid (sel : BitVec 2) (d a : Opnd) (s : State) : Host.Outcome State Fault Refusal :=
  issue (.vvalid sel d a) s [{ rdV .a a with whole := true }, wrM d] fun c =>
    let v := (c.v_ .a).img
    let ok := fun (g : Nat) => decide (g < v.groups) && v.validAt g
    let bit := fun (j : Nat) =>
      let g := j / 16
      match sel.toNat with | 0 => ok g && !v.psnAt g | 1 => v.psnAt g | _ => !ok g
    let n := Nat.min c.me.vlen 1024
    done (c.putM c.s (BitVec.ofNat 1024 (joinCodes 1 ((List.range n).map fun j => if bit j then 1 else 0))))

/-- An element moved as a value, a byte of UNT as it stands. -/
def moveEl (v : VOp) (j : Nat) : El := if v.fmt == 0#6 then .raw (v.code j) 0 else .val (v.elem j) 0#7

/-- R166. The whole image is copied, SCALE included, in a wide format as well (log 96). -/
def execVmov (mk : Mk) (rm : Rm) (all : Bool) (d a : Opnd) (s : State) : Host.Outcome State Fault Refusal :=
  issue (.vmov mk rm all d a) s [{ rdV .a a with whole := all }, { wrV d with whole := all }] (mk := mk) fun c => do
    let v := c.v_ .a
    if all then done (c.putImg c.s v.img)
    else do
      laneMismatch [v]
      capCheck c [v.fmt]
      let g0 ← restart c v.fmt
      let m := c.me.rmode rm
      putDone c (c.vw v.fmt m (encConv v.fmt m true) [v] (moveEl v) g0)

/-- The value of a scalar as ST states (R167). -/
def splatVal (st : Nat) (w : Word) : Val :=
  match st with
  | 0 => Val.ofInt w.toInt
  | 1 => Val.ofNat w.toNat
  | 2 => decodeFloat 0x0C#6 w.toNat
  | _ => decodeFloat 0x0B#6 (w.toNat % 2 ^ 32)

/-- R167. -/
def execVsplat (mk : Mk) (rm : Rm) (st : BitVec 2) (d a : Opnd) (f : FmtCode) (s : State) :
    Host.Outcome State Fault Refusal :=
  issue (.vsplat mk rm st d a f) s [rdS .a a, wrV d] (mk := mk) fun c => do
    capCheck c [f]
    let g0 ← restart c f
    let w := c.s_ .a
    let m := c.me.rmode rm
    let v := splatVal st.toNat w
    let el : El := if f == 0#6 then .raw (w.toNat % 256) 0 else .val v (convFlags f v)
    putDone c (c.vw f m (encConv f m (decide (st.toNat < 2))) [] (fun _ => el) g0)

/-- R168. -/
def execViota (mk : Mk) (rm : Rm) (count : Bool) (d : Opnd) (f : FmtCode) (s : State) :
    Host.Outcome State Fault Refusal :=
  issue (.viota mk rm count d f) s [wrV d] (mk := mk) fun c => do
    capCheck c [f]
    let g0 ← restart c f
    let m := c.me.rmode rm
    let below := fun (j : Nat) => ((List.range j).filter c.isAct).length
    putDone c (c.vw f m (encConv f m true) [] (fun j => .val (Val.ofNat (if count then below j else j)) 0#7) g0)

/-- The element index of VEXT and VINS with its check (R169). -/
def elemIndex (c : Ctx) (f : FmtCode) (e : IdxSel 10) : Res Nat := do
  let w : Word := match e with | .imm n => n.setWidth 64 | .reg _ => c.s_ .b
  ensure (w.toNat < cap f) .bound 0xFF#64 w 7#64
  return w.toNat

/-- R169. -/
def execVext (rm : Rm) (d a : Opnd) (e : IdxSel 10) (s : State) : Host.Outcome State Fault Refusal :=
  issue (.vext rm d a e) s ([{ rdV .a a with whole := true }] ++ idxUse .b e ++ [wrS d]) fun c => do
    let v := c.v_ .a
    let j ← elemIndex c v.fmt e
    consume v [j]
    let f := v.fmt
    if isStorage f || isNarrow f then
      let (code, fl) := roundTo 0x0B#6 (c.me.rmode rm) (v.elem j)
      done ((c.putS c.s (w64 code)).raise (sigNV [v.elem j] ||| fl))
    else
      let x := v.code j
      let w := if isSInt f && x / 2 ^ (elemBits f - 1) == 1 then w64 (x + 2 ^ 64 - 2 ^ elemBits f) else w64 x
      done (c.putS c.s w)

/-- R170: PSN stays as it is. A queue destination is written as a fresh register is (R211, log 20). -/
def execVins (rm : Rm) (d a : Opnd) (e : IdxSel 10) (s : State) : Host.Outcome State Fault Refusal :=
  issue (.vins rm d a e) s ([rdS .a a] ++ idxUse .b e ++ [{ wrV d with whole := true }]) fun c => do
    let old := c.oldD
    let j ← elemIndex c old.fmt e
    let f := old.fmt
    let w := (c.s_ .a).toNat
    let m := c.me.rmode rm
    let v := decodeFloat 0x0B#6 (w % 2 ^ 32)
    let el : El := if isStorage f || isNarrow f then .val v (convFlags f v) else .raw (w % 2 ^ elemBits f) 0
    let (r, fl) := commit old { fmt := f, act := fun k => k == j, pad := fun _ => false, el := fun _ => el,
                                feed := fun _ => false, rm := m, enc := roundTo f m }
    done ((c.putImg c.s { r with psn := old.psn }).raise fl)

end Sys2Proof.Machine
end

