-- ==== Sys2Proof/Machine/VecElem.lean ====
section
/-! DEFINITION. Elementwise operations, logic and shifts (R156–R163, Tables 6.3 and 6.4), and VDOT4 (R406). -/

namespace Sys2Proof.Machine

/-- The result format of a lookup under WIDE (R158). -/
def widened (wide : Bool) (p : FmtCode) : FmtCode := if wide then widen p else p

/-- The checks R155 gives in common, after the lookups: the first group to perform. -/
def vecChecks (c : Ctx) (vs : List VOp) (p : FmtCode) : Res Nat := do
  laneMismatch vs
  capCheck c (vs.map (fun v => v.fmt) ++ [p])
  restart c p

/-- A form with two sources (Table 6.4): the lookup in class `cls`, the value of each active element. -/
def vecBin (c : Ctx) (cls : Nat) (rm : Rm) (sat wide : Bool) (f : FmtCode → RMode → VOp → VOp → Nat → El) : Res State := do
  let va := c.v_ .a
  let vb := c.v_ .b
  let (p0, mix) ← palette c.s cls va.fmt vb.fmt
  let p := widened wide p0
  let g0 ← vecChecks c [va, vb] p
  let m := c.me.rmode rm
  return (c.putV c.s (c.vw p m (encArith p m sat) [va, vb] (f p m va vb) g0)).raise mix

/-- A form with one source, looked up with itself. -/
def vecUn (c : Ctx) (cls : Nat) (rm : Rm) (sat : Bool) (noInt : Bool) (f : Val → Val × Flags) : Res State := do
  let va := c.v_ .a
  let (p, mix) ← palette c.s cls va.fmt va.fmt
  let slot := bits c.me.palsel 0 4
  -- the correctly rounded functions have no wide-integer result (R160)
  ensure (!(noInt && isWInt p)) .tagForbidden (w64 (cls + 256 * va.fmt.toNat + 65536 * va.fmt.toNat + 2 ^ 24 * slot))
    ((c.s.palEntry slot cls va.fmt va.fmt).setWidth 64)
  let g0 ← vecChecks c [va] p
  let m := c.me.rmode rm
  return (c.putV c.s (c.vw p m (encArith p m sat) [va]
    (fun j => let (v, fl) := f (va.elem j); .val v fl) g0)).raise mix

/-- A form with three sources: the lookup of the first two in class `cls`, then of its result and the third in ADD. -/
def vecTri (c : Ctx) (cls : Nat) (rm : Rm) (sat wide : Bool) (f : RMode → Val → Val → Val → Val × Flags) : Res State := do
  let va := c.v_ .a
  let vb := c.v_ .b
  let vc := c.v_ .c
  let (q, mix1) ← palette c.s cls va.fmt vb.fmt
  let (p0, mix2) ← palette c.s 0 q vc.fmt
  let p := widened wide p0
  let g0 ← vecChecks c [va, vb, vc] p
  let m := c.me.rmode rm
  return (c.putV c.s (c.vw p m (encArith p m sat) [va, vb, vc]
    (fun j => let (v, fl) := f m (va.elem j) (vb.elem j) (vc.elem j); .val v fl) g0)).raise (mix1 ||| mix2)

/-- An element of a form whose value depends on its operands' values alone. -/
def plain2 (f : RMode → Val → Val → Val × Flags) (_ : FmtCode) (m : RMode) (va vb : VOp) (j : Nat) : El :=
  let (v, fl) := f m (va.elem j) (vb.elem j)
  .val v fl

/-- An element of VDIV: integer division where the result and both operands are wide integers (R160). -/
def divEl (p : FmtCode) (_ : RMode) (va vb : VOp) (j : Nat) : El :=
  let a := va.elem j
  let b := vb.elem j
  if isWInt p && isWInt va.fmt && isWInt vb.fmt then
    match a, b with
    | .fin n1 x _, .fin n2 y _ =>
      if y = 0 then .raw (2 ^ elemBits p - 1) 0 fDZ else .val (Val.ofInt ((Val.snum n1 x).tdiv (Val.snum n2 y))) 0#7
    | _, _ => .val .invalid 0#7
  else let (v, fl) := divV a b; .val v fl

/-- The body of an elementwise form, completed. -/
def finishV (r : Res State) : Res Done := do done (← r)

def execVadd (mk : Mk) (rm : Rm) (sat wide : Bool) (d a b : Opnd) (s : State) : Host.Outcome State Fault Refusal :=
  issue (.vadd mk rm sat wide d a b) s [rdV .a a, rdV .b b, wrV d] (mk := mk) fun c =>
    finishV (vecBin c 0 rm sat wide (plain2 addV))

def execVsub (mk : Mk) (rm : Rm) (sat wide : Bool) (d a b : Opnd) (s : State) : Host.Outcome State Fault Refusal :=
  issue (.vsub mk rm sat wide d a b) s [rdV .a a, rdV .b b, wrV d] (mk := mk) fun c =>
    finishV (vecBin c 0 rm sat wide (plain2 subV))

def execVmul (mk : Mk) (rm : Rm) (sat wide : Bool) (d a b : Opnd) (s : State) : Host.Outcome State Fault Refusal :=
  issue (.vmul mk rm sat wide d a b) s [rdV .a a, rdV .b b, wrV d] (mk := mk) fun c =>
    finishV (vecBin c 1 rm sat wide (plain2 fun _ => mulV))

def execVmin (mk : Mk) (rm : Rm) (sat : Bool) (d a b : Opnd) (s : State) : Host.Outcome State Fault Refusal :=
  issue (.vmin mk rm sat d a b) s [rdV .a a, rdV .b b, wrV d] (mk := mk) fun c =>
    finishV (vecBin c 0 rm sat false (plain2 fun _ => minV))

def execVmax (mk : Mk) (rm : Rm) (sat : Bool) (d a b : Opnd) (s : State) : Host.Outcome State Fault Refusal :=
  issue (.vmax mk rm sat d a b) s [rdV .a a, rdV .b b, wrV d] (mk := mk) fun c =>
    finishV (vecBin c 0 rm sat false (plain2 fun _ => maxV))

def execVdiv (mk : Mk) (rm : Rm) (sat : Bool) (d a b : Opnd) (s : State) : Host.Outcome State Fault Refusal :=
  issue (.vdiv mk rm sat d a b) s [rdV .a a, rdV .b b, wrV d] (mk := mk) fun c =>
    finishV (vecBin c 1 rm sat false divEl)

def execVfma (mk : Mk) (rm : Rm) (sat wide : Bool) (d a b x : Opnd) (s : State) : Host.Outcome State Fault Refusal :=
  issue (.vfma mk rm sat wide d a b x) s [rdV .a a, rdV .b b, rdV .c x, wrV d] (mk := mk) fun c =>
    finishV (vecTri c 1 rm sat wide fmaV)

def execVclip (mk : Mk) (rm : Rm) (sat : Bool) (d a b x : Opnd) (s : State) : Host.Outcome State Fault Refusal :=
  issue (.vclip mk rm sat d a b x) s [rdV .a a, rdV .b b, rdV .c x, wrV d] (mk := mk) fun c =>
    finishV (vecTri c 0 rm sat false fun _ => clipV)

def execVabs (mk : Mk) (rm : Rm) (sat : Bool) (d a : Opnd) (s : State) : Host.Outcome State Fault Refusal :=
  issue (.vabs mk rm sat d a) s [rdV .a a, wrV d] (mk := mk) fun c => finishV (vecUn c 0 rm sat false fun v => (v.abs, 0#7))

def execVneg (mk : Mk) (rm : Rm) (sat : Bool) (d a : Opnd) (s : State) : Host.Outcome State Fault Refusal :=
  issue (.vneg mk rm sat d a) s [rdV .a a, wrV d] (mk := mk) fun c => finishV (vecUn c 0 rm sat false fun v => (v.negate, 0#7))

def execVsqrt (mk : Mk) (rm : Rm) (d a : Opnd) (s : State) : Host.Outcome State Fault Refusal :=
  issue (.vsqrt mk rm d a) s [rdV .a a, wrV d] (mk := mk) fun c => finishV (vecUn c 1 rm false true sqrtV)

def execVrsqrt (mk : Mk) (rm : Rm) (d a : Opnd) (s : State) : Host.Outcome State Fault Refusal :=
  issue (.vrsqrt mk rm d a) s [rdV .a a, wrV d] (mk := mk) fun c => finishV (vecUn c 1 rm false true rsqrtV)

def execVrcp (mk : Mk) (rm : Rm) (d a : Opnd) (s : State) : Host.Outcome State Fault Refusal :=
  issue (.vrcp mk rm d a) s [rdV .a a, wrV d] (mk := mk) fun c => finishV (vecUn c 1 rm false true rcpV)

def execVexp2 (mk : Mk) (rm : Rm) (d a : Opnd) (s : State) : Host.Outcome State Fault Refusal :=
  issue (.vexp2 mk rm d a) s [rdV .a a, wrV d] (mk := mk) fun c => finishV (vecUn c 1 rm false true exp2V)

def execVlog2 (mk : Mk) (rm : Rm) (d a : Opnd) (s : State) : Host.Outcome State Fault Refusal :=
  issue (.vlog2 mk rm d a) s [rdV .a a, wrV d] (mk := mk) fun c => finishV (vecUn c 1 rm false true log2V)

/-- VSEL: fed by the chosen operand alone (Table 6.4). -/
def execVsel (mk : Mk) (rm : Rm) (sat : Bool) (d a b x : Opnd) (s : State) : Host.Outcome State Fault Refusal :=
  issue (.vsel mk rm sat d a b x) s [rdV .a a, rdV .b b, rdM .c x, wrV d] (mk := mk) fun c => do
    let va := c.v_ .a
    let vb := c.v_ .b
    let (p, mix) ← palette c.s 0 va.fmt vb.fmt
    let g0 ← vecChecks c [va, vb] p
    let m := c.me.rmode rm
    let pick := fun (j : Nat) => if nbits (c.m_ .c).toNat j 1 == 1 then va else vb
    let w := c.vw p m (encArith p m sat) [] (fun j => .val ((pick j).elem j) 0#7) g0
    putDone c { w with feed := fun j => (pick j).psn j } mix

/-- VCMP (R161). Groups below TSTART keep their bits (R156). -/
def execVcmp (mk : Mk) (cond : BitVec 3) (d a b : Opnd) (s : State) : Host.Outcome State Fault Refusal :=
  issue (.vcmp mk cond d a b) s [rdV .a a, rdV .b b, wrM d] (mk := mk) fun c => do
    let va := c.v_ .a
    let vb := c.v_ .b
    let (_, mix) ← palette c.s 0 va.fmt vb.fmt
    laneMismatch [va, vb]
    capCheck c [va.fmt, vb.fmt]
    let lo := 16 * (c.me.tstart.toNat / 16)
    let js := c.actives.filter fun j => decide (lo ≤ j)
    match js.find? fun j => va.psn j || vb.psn j with
    | some j => consume (if va.psn j then va else vb) [j]
    | none => pure ()
    let r := fun (j : Nat) => cmpV cond.toNat (va.elem j) (vb.elem j)
    let old := c.me.getM (c.rnum .d)
    let x := maskResult c.me mk old fun j => if j < lo then nbits old.toNat j 1 == 1 else (r j).1
    let keep := lowBits old.toNat lo
    let x' := BitVec.ofNat 1024 (x.toNat - lowBits x.toNat lo + keep)
    done ((c.putM c.s x').raise (js.foldl (fun f j => f ||| (r j).2) mix))

/-- A logic form (R162): no lookup, UNT or equal wide integers. -/
def logic (c : Ctx) (vs : List VOp) (f : List Nat → Nat) : Res Done := do
  let fa := (vs.headD (VOp.ofReg {})).fmt
  let fb := (vs.map fun v => v.fmt).getLastD fa
  if !(fa == 0#6 || isWInt fa) || fa != fb then forbid3 fa (if vs.length = 1 then 0#6 else fb)
  let g0 ← vecChecks c vs fa
  let m := c.me.rmode .fctl
  putDone c (c.vw fa m (encConv fa m true) vs
    (fun j => .raw (f (vs.map fun v => v.code j) % 2 ^ elemBits fa) 0) g0)

def execVand (mk : Mk) (d a b : Opnd) (s : State) : Host.Outcome State Fault Refusal :=
  issue (.vand mk d a b) s [rdV .a a, rdV .b b, wrV d] (mk := mk) fun c =>
    logic c [c.v_ .a, c.v_ .b] fun xs => xs.headD 0 &&& xs.getLastD 0

def execVor (mk : Mk) (d a b : Opnd) (s : State) : Host.Outcome State Fault Refusal :=
  issue (.vor mk d a b) s [rdV .a a, rdV .b b, wrV d] (mk := mk) fun c =>
    logic c [c.v_ .a, c.v_ .b] fun xs => xs.headD 0 ||| xs.getLastD 0

def execVxor (mk : Mk) (d a b : Opnd) (s : State) : Host.Outcome State Fault Refusal :=
  issue (.vxor mk d a b) s [rdV .a a, rdV .b b, wrV d] (mk := mk) fun c =>
    logic c [c.v_ .a, c.v_ .b] fun xs => xs.headD 0 ^^^ xs.getLastD 0

def execVnot (mk : Mk) (d a : Opnd) (s : State) : Host.Outcome State Fault Refusal :=
  issue (.vnot mk d a) s [rdV .a a, wrV d] (mk := mk) fun c => logic c [c.v_ .a] fun xs => 2 ^ 64 - 1 - xs.headD 0

/-- A shift form (R163): `f` takes the width, the code and the amount. -/
def shiftV (c : Ctx) (b : IdxSel 6) (f : Nat → Nat → Nat → Nat) : Res Done := do
  let va := c.v_ .a
  let vb := c.v_ .b
  let fa := va.fmt
  let reg := match b with | .imm _ => false | .reg _ => true
  if !isWInt fa || (reg && !isWInt vb.fmt) then forbid3 fa (if reg then vb.fmt else 0#6)
  let vs := if reg then [va, vb] else [va]
  let g0 ← vecChecks c vs fa
  let w := elemBits fa
  let amt := fun (j : Nat) => (match b with | .imm n => n.toNat | .reg _ => vb.code j) % w
  let m := c.me.rmode .fctl
  putDone c (c.vw fa m (encConv fa m true) vs (fun j => .raw (f w (va.code j) (amt j) % 2 ^ w) 0) g0)

def execVshl (mk : Mk) (d a : Opnd) (b : IdxSel 6) (s : State) : Host.Outcome State Fault Refusal :=
  issue (.vshl mk d a b) s ([rdV .a a] ++ (match b with | .imm _ => [] | .reg o => [rdV .b o]) ++ [wrV d]) (mk := mk)
    fun c => shiftV c b fun _ x n => x * 2 ^ n

def execVshr (mk : Mk) (d a : Opnd) (b : IdxSel 6) (s : State) : Host.Outcome State Fault Refusal :=
  issue (.vshr mk d a b) s ([rdV .a a] ++ (match b with | .imm _ => [] | .reg o => [rdV .b o]) ++ [wrV d]) (mk := mk)
    fun c => shiftV c b fun _ x n => x / 2 ^ n

def execVsra (mk : Mk) (d a : Opnd) (b : IdxSel 6) (s : State) : Host.Outcome State Fault Refusal :=
  issue (.vsra mk d a b) s ([rdV .a a] ++ (match b with | .imm _ => [] | .reg o => [rdV .b o]) ++ [wrV d]) (mk := mk)
    fun c => shiftV c b fun w x n => if x / 2 ^ (w - 1) == 1 then x / 2 ^ n + 2 ^ w - 2 ^ (w - n) else x / 2 ^ n

/-! ### VDOT4 -/

/-- One micro-step of VDOT4 (R406): VMUL at step 0, VFMA with D after it. The registers of the step are checked at its own
issue. -/
def dotStep (c : Ctx) (rm : Rm) (sat : Bool) (k : Nat) : Res State := do
  stepPresent c
  let ck := { c with ta := c.ta.plus k, tb := c.tb.plus k, tc := c.td }
  if k = 0 then vecBin ck 1 rm sat false (plain2 fun _ => mulV) else vecTri ck 1 rm sat false fmaV

/-- The micro-steps from k on. A fault keeps the results of the steps before it, with MSTEP at its step. -/
def dotSteps (c : Ctx) (rm : Rm) (sat : Bool) : Nat → Nat → Res State
  | 0, _ => .ok c.s
  | fuel + 1, k =>
    let s1 := c.s.setMe { c.me with mstep := w64 k }
    match dotStep { c with s := s1 } rm sat k with
    | .ok s2 => dotSteps { c with s := s2.setMe { s2.me with tstart := 0#64 } } rm sat fuel (k + 1)
    | .error (.trap t) => .error (.trapIn t s1)
    | .error e => .error e

/-- VDOT4 into a queue: all its steps or none, on the image of a fresh register (R211). -/
def dotQueue (c : Ctx) (rm : Rm) (sat : Bool) (q : Nat) : Res Done := do
  -- register 48 of the strand does not exist; it stands for the image that is pushed
  let st0 := { c.me with v := Tab.set {} c.me.v 48 {}, vpresent := c.me.vpresent ||| 0x1_0000_0000_0000#64, tstart := 0#64 }
  match dotSteps { c with s := c.s.setMe st0, td := .reg 48 } rm sat 4 0 with
  | .ok s1 =>
    let st1 := s1.me
    let img := st1.getV 48
    let st2 := { st1 with v := Tab.del st1.v 48, vpresent := c.me.vpresent, vdirty := c.me.vdirty }
    done ((s1.setMe st2).pushQ q (.ve img))
  | .error (.trapIn t _) => .error (.trapIn t (c.s.setMe { c.me with tstart := 0#64, mstep := 0#64 }))
  | .error e => .error e

def execVdot4 (mk : Mk) (rm : Rm) (sat : Bool) (d a b : Opnd) (s : State) : Host.Outcome State Fault Refusal :=
  issue (.vdot4 mk rm sat d a b) s
    [{ rdV .a a with grp := 4, isGrp := true, late := true }, { rdV .b b with grp := 4, isGrp := true, late := true },
     { wrV d with late := true }] (mk := mk)
    (overlap := fun c => do overlapCheck c .d 1 .a 4; overlapCheck c .d 1 .b 4)
    fun c => match c.td with
      | .push q => dotQueue c rm sat q
      | _ =>
        let k := c.me.mstep.toNat
        finishV (dotSteps c rm sat (4 - k) k)

end Sys2Proof.Machine
end

