-- ==== Sys2Proof/Machine/CanvasOps.lean ====
section
/-! DEFINITION. Canvases as registers: CZERO, COP, COPK, CRROW, CRCOL, CWROW, CWCOL, CADD and CSTAT (R183–R198, R207). -/

namespace Sys2Proof.Machine

/-! ### Cells -/

/-- NC (R183). -/
def Canvas.nc (cv : Canvas) : Nat := if cv.cf == 0x0C#6 then 128 else 256

def Canvas.cell (cv : Canvas) (i j : Nat) : Word := Tab.get 0#64 cv.cells (256 * i + j)

def Canvas.val (cv : Canvas) (i j : Nat) : Val := decodeCode cv.cf 0 (cv.cell i j).toNat

def Canvas.setCell (cv : Canvas) (i j code : Nat) : Canvas :=
  { cv with cells := Tab.set 0#64 cv.cells (256 * i + j) (w64 code) }

/-- The poison bit of the subtile that holds a cell. -/
def subtile (i j : Nat) : Nat := 16 * (i / 16) + j / 16

def Canvas.poisoned (cv : Canvas) (i j : Nat) : Bool := nbits cv.psn.toNat (subtile i j) 1 == 1

def Canvas.poison (cv : Canvas) (i j : Nat) : Canvas := { cv with psn := cv.psn ||| BitVec.ofNat 256 (2 ^ subtile i j) }

/-- A value written to a cell: I32 cells round and clamp with SAT, the others round once (R190, R195, R200). -/
def cellCode (cf : FmtCode) (m : RMode) (v : Val) : Nat × Flags := if cf == 0x03#6 then intResult cf m true v else roundTo cf m v

/-- The mask of canvases that CR.CANVMASK holds. -/
def Ctx.canvMask (c : Ctx) : Word := lowMask' c.s.myCar.wb.canvases
where
  lowMask' (n : Nat) : Word := w64 (2 ^ n - 1)

/-- A tile load in flight writes a canvas as one event between its issue and its completion (R186): other instructions of
the team wait for it. -/
def State.canvasBusy (s : State) (team n : Nat) : Bool :=
  s.tiles.any fun p => !p.2.store && p.2.parts.any fun w => w.team == team && w.canvas == n

/-- A canvas of the team, or ACCESS (R184). -/
def Ctx.canvas (c : Ctx) (n : BitVec 3) : Res Canvas := do
  ensure (n.toNat < c.s.myCar.wb.canvases) .access (n.setWidth 64) c.canvMask
  if c.s.canvasBusy c.me.team n.toNat then throw .stall
  return Tab.get {} c.s.myTeam.canv n.toNat

def State.setCanvas (s : State) (n : BitVec 3) (cv : Canvas) : State :=
  let tm := s.myTeam
  s.setMyTeam { tm with canv := Tab.put tm.canv n.toNat cv }

/-! ### CZERO -/

def execCzero (d : BitVec 3) (cf : FmtCode) (mr : IdxSel 8) (s : State) : Host.Outcome State Fault Refusal :=
  issue (.czero d cf mr) s (idxUse .a mr) fun c => do
    let cv ← c.canvas d
    let n := match mr with | .imm k => k.toNat + 1 | .reg _ => (c.s_ .a).toNat
    ensure (1 ≤ n && n ≤ 256) .capacity (w64 n) (cf.setWidth 64)
    done (c.s.setCanvas d { cv with cf, mr := n, cells := [], psn := 0#256 })

/-! ### COP and COPK (R187–R193) -/

/-- A canvas of F64 with more than 128 rows takes A as a group of two (R191). -/
def Canvas.pair (cv : Canvas) : Bool := cv.cf == 0x0C#6 && decide (128 < cv.mr)

/-- An operand in a COP: NaN and INVALID make the sum NaN and set no flag of their own (R192). -/
def quiet (v : Val) : Val := if v.isUnord then .nan false else v

/-- One step's operands: V[A], the elements of the rows and whether they are poisoned, and V[B]. -/
structure CopStep where
  va : VOp
  fa : FmtCode := va.fmt
  row : Nat → Val
  rowPsn : Nat → Bool
  vb : VOp
  /-- the FMT of the second register under R191 -/
  fa2 : Option FmtCode := none

def CopStep.of (va vb : VOp) (va2 : Option VOp) : CopStep :=
  { va, vb
    row := fun i => match va2 with
      | some v => if i < 128 then va.elem i else v.elem (i - 128)
      | none => va.elem i
    rowPsn := fun i => match va2 with
      | some v => if i < 128 then va.psn i else v.psn (i - 128)
      | none => va.psn i
    fa2 := va2.map fun v => v.fmt }

/-- The charge of a cell update, by the paths of Table 7.6 (R207); on another path a free value (log 98). -/
def bitProd (tick : Nat) (cf fa fb : FmtCode) : Nat :=
  match imageWidth fa, imageWidth fb with
  | some a, some b => a * b
  | _, _ =>
    if fa == 0x0B#6 || fb == 0x0B#6 then 1024
    else if cf == 0x0B#6 then 256
    else if fa == 0x0C#6 && fb == 0x0C#6 && cf == 0x0C#6 then 4096
    else Config.copCharge tick

/-- The cell of a sum in COP: an infinite sum clamps in an I32 cell as any other that is out of range, and no NaN sets a flag of
its own (R190, R192; log 97). -/
def copCode (tick k : Nat) (cf : FmtCode) (m : RMode) (v : Val) : Nat × Flags :=
  if cf == 0x03#6 then
    match v with
    | .fin _ _ _ => cellCode cf m v
    | .inf neg => (if neg then 2 ^ 31 else 2 ^ 31 - 1, fSAT)
    | _ => ((Config.nanCell tick k).toNat, 0#7)
  else cellCode cf m v

/-- One step into a canvas: cells, flags (R190, R192). -/
def copStep (tick : Nat) (m : RMode) (cols : List Nat) (a : Canvas × Flags) (st : CopStep) : Canvas × Flags :=
  (List.range a.1.mr).foldl (fun z i =>
    let x := quiet (st.row i)
    let rp := st.rowPsn i
    cols.foldl (fun (z : Canvas × Flags) j =>
      let (v, fl) := fmaV m x (quiet (st.vb.elem j)) (quiet (z.1.val i j))
      let (code, f2) := copCode tick (256 * i + j) z.1.cf m v
      let cv := z.1.setCell i j code
      (if rp || st.vb.psn j then cv.poison i j else cv, z.2 ||| fl ||| f2)) z) a

/-- The steps of COP and COPK with their checks, category by category (R188, R193). -/
def accumulate (c : Ctx) (d : BitVec 3) (rm : Rm) (steps : List CopStep) : Res Done := do
  let cv ← c.canvas d
  let ps ← steps.foldlM (fun (acc : List (FmtCode × Flags)) st => do
    return acc ++ [← palette c.s 2 st.fa st.vb.fmt]) []
  forEach (fun (st : CopStep) => match st.fa2 with
    | some f => do
      ensure (st.fa == 0x0C#6) .tagMismatch 0x0C#64 (st.fa.setWidth 64) 128#64
      ensure (f == 0x0C#6) .tagMismatch 0x0C#64 (f.setWidth 64) 128#64
    | none => .ok ()) steps
  laneMismatch (steps.flatMap fun st => [st.va, st.vb])
  forEach (fun (st : CopStep) => do
    ensure (c.me.vlen ≤ cv.nc) .capacity c.me.vl (cv.cf.setWidth 64)
    ensure (cv.mr ≤ (if cv.pair then 2 else 1) * cap st.fa) .capacity (w64 cv.mr) (st.fa.setWidth 64)
    ensure (c.me.vlen ≤ cap st.vb.fmt) .capacity c.me.vl (st.vb.fmt.setWidth 64)) steps
  forEach (fun (p : FmtCode × Flags) => ensure (p.1 == cv.cf) .tagConflict (cv.cf.setWidth 64) (p.1.setWidth 64)) ps
  let cols := c.actives
  let (cv', fl) := steps.foldl (copStep c.s.tick (c.me.rmode rm) cols) (cv, 0#7)
  let cost := steps.foldl (fun n st => n + bitProd c.s.tick cv.cf st.fa st.vb.fmt * (cv.mr * cols.length)) 0
  let mix := ps.foldl (fun a p => a ||| p.2) 0#7
  done (((c.s.setCanvas d cv').charge c.s.myVi 5 cost).raise (fl ||| mix))

/-- Whether the canvas takes A in pairs, as the strand finds it at issue. -/
def State.copPair (s : State) (d : BitVec 3) : Bool := (Tab.get {} s.myTeam.canv d.toNat).pair

/-- A slot that R191 makes a group: ILLEGAL 0x3 where it runs past v47 (R26). -/
def groupFits (o : Opnd) (n : Nat) : Bool :=
  match o with
  | .reg r => decide (r.toNat + n ≤ 48)
  | .ix _ | .q _ => true

def execCop (mk : Mk) (rm : Rm) (d : BitVec 3) (a b : Opnd) (s : State) : Host.Outcome State Fault Refusal :=
  let i : Instr := .cop mk rm d a b
  let pair := s.copPair d
  if pair && !groupFits a 2 then stopIssue i s [] (.trap { cause := .illegal, v0 := wordOf i, v1 := 3#64 })
  else issue i s [if pair then { rdV .a a with grp := 2, isGrp := true } else rdV .a a, rdV .b b] (mk := mk) fun c =>
    let second := if pair then some (c.readV (c.ta.plus 1)) else none
    accumulate c d rm [CopStep.of (c.v_ .a) (c.v_ .b) second]

def execCopk (mk : Mk) (rm : Rm) (d : BitVec 3) (a b : Opnd) (k : BitVec 4) (s : State) :
    Host.Outcome State Fault Refusal :=
  let i : Instr := .copk mk rm d a b k
  let pair := s.copPair d
  let ka := if pair then 2 * k.toNat else k.toNat
  if !groupFits a ka then stopIssue i s [] (.trap { cause := .illegal, v0 := wordOf i, v1 := 3#64 })
  else issue i s [{ rdV .a a with grp := ka, isGrp := true }, { rdV .b b with grp := k.toNat, isGrp := true }] (mk := mk)
    fun c =>
    let a := fun (t : Nat) => c.readV (c.ta.plus t)
    let b := fun (t : Nat) => c.readV (c.tb.plus t)
    accumulate c d rm ((List.range k.toNat).map fun t =>
      if pair then CopStep.of (a (2 * t)) (b t) (some (a (2 * t + 1))) else CopStep.of (a t) (b t) none)

/-! ### Rows and columns (R194, R195) -/

/-- Row or column number. -/
def Ctx.lineNo (c : Ctx) (sl : Slot) (x : IdxSel 8) : Nat :=
  match x with
  | .imm n => n.toNat
  | .reg _ => (c.s_ sl).toNat

/-- The cell of element j: of row x, or of column x from row `lo`. -/
def cellAt (col hi : Bool) (x j : Nat) : Nat × Nat :=
  if col then ((if hi then 128 else 0) + j, x) else (x, j)

/-- CAPACITY and BOUND of the row and column forms, with the TAG_CONFLICT of a lane-mode destination between them. -/
def lineChecks (c : Ctx) (cv : Canvas) (col hi : Bool) (f : FmtCode) (x : Nat) (conflict : Res Unit) : Res Unit := do
  ensure (c.me.vlen ≤ cap f) .capacity c.me.vl (f.setWidth 64)
  ensure (c.me.vlen ≤ (if col then (if hi then 128 else 256) else cv.nc)) .capacity c.me.vl (cv.cf.setWidth 64)
  conflict
  ensure (x < (if col then cv.nc else 256)) .bound 0xFF#64 (w64 x) 7#64

/-- CRROW and CRCOL. -/
def readLineOf (c : Ctx) (rm : Rm) (sat col hi : Bool) (cn : BitVec 3) (x : IdxSel 8) (f : FmtCode) : Res Done := do
  let cv ← c.canvas cn
  let n := c.lineNo .b x
  lineChecks c cv col hi f n (laneConflict c f c.td)
  let m := c.me.rmode rm
  let at' := cellAt col hi n
  putDone c { fmt := f, act := c.isAct, pad := c.isPad, hush := c.isPad, rm := m, enc := encArith f m sat
              el := fun j => .val (cv.val (at' j).1 (at' j).2) 0#7
              feed := fun j => cv.poisoned (at' j).1 (at' j).2 }

def execCrrow (mk : Mk) (rm : Rm) (sat : Bool) (d : Opnd) (cn : BitVec 3) (x : IdxSel 8) (f : FmtCode) (s : State) :
    Host.Outcome State Fault Refusal :=
  issue (.crrow mk rm sat d cn x f) s (idxUse .b x ++ [wrV d]) (mk := mk) fun c => readLineOf c rm sat false false cn x f

def execCrcol (mk : Mk) (rm : Rm) (sat hi : Bool) (d : Opnd) (cn : BitVec 3) (x : IdxSel 8) (f : FmtCode) (s : State) :
    Host.Outcome State Fault Refusal :=
  issue (.crcol mk rm sat hi d cn x f) s (idxUse .b x ++ [wrV d]) (mk := mk) fun c => readLineOf c rm sat true hi cn x f

/-- CWROW and CWCOL. -/
def writeLineOf (c : Ctx) (rm : Rm) (col hi : Bool) (d : BitVec 3) (x : IdxSel 8) : Res Done := do
  let cv ← c.canvas d
  let v := c.v_ .b
  if v.fmt == 0#6 then forbid3 0#6 v.fmt
  laneMismatch [v]
  let n := c.lineNo .a x
  lineChecks c cv col hi v.fmt n (.ok ())
  let m := c.me.rmode rm
  let (cv', fl) := c.actives.foldl (fun (z : Canvas × Flags) j =>
    let (i, k) := cellAt col hi n j
    let e := v.elem j
    let (code, f1) := cellCode cv.cf m e
    let z1 := z.1.setCell i k code
    (if v.psn j then z1.poison i k else z1, z.2 ||| f1 ||| (if cv.cf == 0x03#6 then 0#7 else convFlags cv.cf e))) (cv, 0#7)
  done ((c.s.setCanvas d cv').raise fl)

def execCwrow (mk : Mk) (rm : Rm) (d : BitVec 3) (x : IdxSel 8) (b : Opnd) (s : State) :
    Host.Outcome State Fault Refusal :=
  issue (.cwrow mk rm d x b) s (idxUse .a x ++ [rdV .b b]) (mk := mk) fun c => writeLineOf c rm false false d x

def execCwcol (mk : Mk) (rm : Rm) (hi : Bool) (d : BitVec 3) (x : IdxSel 8) (b : Opnd) (s : State) :
    Host.Outcome State Fault Refusal :=
  issue (.cwcol mk rm hi d x b) s (idxUse .a x ++ [rdV .b b]) (mk := mk) fun c => writeLineOf c rm true hi d x

/-! ### CADD and CSTAT (R197, R198) -/

def execCadd (rm : Rm) (d a b : BitVec 3) (s : State) : Host.Outcome State Fault Refusal :=
  issue (.cadd rm d a b) s [] fun c => do
    let x ← c.canvas a
    let y ← c.canvas b
    let z ← c.canvas d
    ensure (x.cf == y.cf) .tagMismatch (x.cf.setWidth 64) (y.cf.setWidth 64)
    let m := c.me.rmode rm
    let (cells, fl) := (List.range 256).foldl (fun acc i => (List.range x.nc).foldl (fun (acc : Tab Word × Flags) j =>
      let (v, f1) := addV m (x.val i j) (y.val i j)
      let (code, f2) := cellCode x.cf m v
      (if code = 0 then acc.1 else (256 * i + j, w64 code) :: acc.1, acc.2 ||| f1 ||| f2)) acc) (([] : Tab Word), 0#7)
    done ((c.s.setCanvas d { z with cf := x.cf, mr := x.mr, cells := cells.reverse, psn := x.psn ||| y.psn }).raise fl)

/-- Table 7.4. -/
def Canvas.summary (cv : Canvas) : Word :=
  let n := ((List.range 256).filter fun k => nbits cv.psn.toNat k 1 == 1).length
  let j := match cv.jb with | some (_, p, q) => 2 ^ 27 + p % 4 * 2 ^ 28 + q % 4 * 2 ^ 30 | none => 0
  w64 (cv.cf.toNat + cv.mr * 2 ^ 8 + (if cv.psn != 0#256 then 2 ^ 17 else 0) + n * 2 ^ 18 + j)

def execCstat (d : Opnd) (cn : BitVec 3) (sel : BitVec 3) (s : State) : Host.Outcome State Fault Refusal :=
  issue (.cstat d cn sel) s [wrS d] fun c => do
    let cv ← c.canvas cn
    done (c.putS c.s (if sel == 0#3 then cv.summary else cv.psn.extractLsb' (64 * (sel.toNat - 1)) 64))

end Sys2Proof.Machine
end

