-- ==== Sys2Proof/Machine/Access.lean ====
section
/-! DEFINITION. Accesses to places in lines: memory at its home or in the store queue, the scratchpad, the interlocks of
engine transfers, the order that SCOPE and ORD ask for, and the atomic operations (R218, R277–R297, R319–R329). -/

namespace Sys2Proof

def Space.isSp : Space → Bool
  | .mem _ _ => false
  | .sp _ => true

end Sys2Proof

namespace Sys2Proof.Machine

/-- A trap raised in a definition about the state. -/
def fail {α : Type} (c : Cause) (v0 v1 v2 v3 : Word := 0#64) : Res α := raise c v0 v1 v2 v3

/-! ### The scratchpad (R217–R220) -/

/-- A line of a team's scratchpad. -/
def Team.spLine (tm : Team) (ln : Nat) : LineV :=
  let t := Tab.get tagReset tm.spTags ln
  viewOf (bytesNat tm.sp (128 * ln) 128) t

def Team.setSpLine (tm : Team) (ln : Nat) (l : LineV) : Team :=
  { tm with sp := putBytes tm.sp (128 * ln) (natLe 128 l.clip.data), spTags := Tab.set tagReset tm.spTags ln l.tag }

/-- The first of n bytes from a that lies outside the team's window (R218). -/
def Team.outside (tm : Team) (a n : Nat) : Option Nat :=
  if n = 0 then none
  else if a < tm.spBase || tm.spBase + tm.spLen ≤ a then some a
  else if tm.spBase + tm.spLen < a + n then some (tm.spBase + tm.spLen)
  else none

/-! ### Places -/

/-- A place in a line: a translated address, or a team address of the scratchpad. -/
inductive Loc where
  | mem (x : Xlat)
  | sp (a : Nat)

def Loc.line : Loc → Nat
  | .mem x => x.pa / 128
  | .sp a => a / 128

def Loc.off : Loc → Nat
  | .mem x => x.pa % 128
  | .sp a => a % 128

/-- The lines of memory at places, as `seen` gives them. -/
def memLines {α : Type} (ls : List (α × Loc)) (seen : α → LineV) : Tab LineV :=
  ls.foldl (fun t q => match q.2 with | .mem x => Tab.put t (x.pa / 128) (seen q.1) | .sp _ => t) []

/-- The line of a scalar access. -/
def Loc.accessed (l : Loc) : Tab LineV := memLines [((), l)] fun _ => { data := 0, tag := tagReset }

/-- Find the place of n bytes within a line: in the window (R218), or translated and answered by its home. -/
def State.locate (s : State) (sp : Bool) (k : AccKind) (va : Word) (n : Nat) (regsOk : Bool := false)
    (extra : Xlat → Res Unit := fun _ => .ok ()) : Res Loc :=
  if sp then
    match s.myTeam.outside va.toNat n with
    | some a => fail .access (w64 a) 4#64
    | none => .ok (.sp va.toNat)
  else do return .mem (← s.reach (s.who s.me) k va regsOk extra)

/-- Wait while a reservation holds an access to a line (R309). -/
def State.notHeld (s : State) (write : Bool) : Loc → Res Unit
  | .mem x => if s.held write (x.pa / 128) then .error .stall else .ok ()
  | .sp _ => .ok ()

/-- The line of a place as the acting strand sees it. -/
def State.lineOf (s : State) : Loc → LineV
  | .mem x => s.lineAt x
  | .sp a => s.myTeam.spLine (a / 128)

/-- A load or atomic of a place is in flight to a device that the next event finds unreachable, and is lost (Table 15.2): the
spec says which accesses may be in flight, not which are (log 13). -/
def State.lost (s : State) : Loc → Bool
  | .mem x => (match s.region x.pa with
    | .remote d => s.agenda.head? == some (.event (.evDeviceUnreachable d)) && Config.lostInFlight s.tick
    | _ => false)
  | .sp _ => false

/-- The line of a place as a load of the acting strand receives it. -/
def State.seen (s : State) (l : Loc) : LineV :=
  let x := s.lineOf l
  if s.lost l then { x with tag := mkTag x.fmt 2 (tagDem x.tag), why := 2 } else x

/-- What an access leaves behind it besides its data: A and D, the cached translation, the cached host line, and the
charge of its line. -/
def State.touch (s : State) : Loc → State
  | .mem x => ((s.used x).fillHost x).chargeLine s.myVi x.pa
  | .sp _ => s

/-- Write the line of a place. `whole` says that every byte is written. -/
def State.putLine (s : State) (whole : Bool) (l : LineV) : Loc → State
  | .mem x => ((s.used x).chargeLine s.myVi x.pa).writeLine x.nc x.eph whole (x.pa / 128) l
  | .sp a => s.setMyTeam (s.myTeam.setSpLine (a / 128) l)

/-- A store or an atomic at a place comes after the stores of its track that its core has queued, and after those that a FENCE
put before it (R282, R290). -/
def State.inOrder (s : State) (l : Loc) : Res State :=
  s.drainTracks (s.coreOf s.me) fun b => b.beforeStores.contains s.cur || (match l with
    | .mem x => b.track == trackOf x.pa
    | .sp _ => false)

/-- A load at a place comes after the strand's own earlier stores of its track and after those that a FENCE put before it, and
finds the stores to its line that its core has queued at the home, so that it reads one point of the line's order (R277, R279,
R282, R290). -/
def State.loadOrder (s : State) (l : Loc) : Res State :=
  s.drainTracks (s.coreOf s.me) fun b => b.beforeLoads.contains s.cur || (match l with
    | .mem x => b.pa / 128 == x.pa / 128 || (b.sid == s.cur && b.track == trackOf x.pa)
    | .sp _ => false)

/-! ### Interlocks (R293–R297) -/

/-- A stream in FAULTED does not hold its issuer at the lines of the recorded row (R341). -/
def Stream.excuses (x : Stream) (sp : Bool) (line : Nat) : Bool :=
  match x.state, x.fail with
  | .faulted, some (r, _) =>
    if sp then decide (x.dest + r * x.rowlen < line + 128) && decide (line < x.dest + (r + 1) * x.rowlen)
    else x.failLines.any fun p => decide (p.1 ≤ line) && decide (line < p.2)
  | _, _ => false

/-- Every line of a range of n bytes from lo is one of the recorded row. -/
def Stream.excusesAll (x : Stream) (sp : Bool) (lo n : Nat) : Bool :=
  match x.state, x.fail with
  | .faulted, some _ =>
    (List.range ((lo % 128 + n + 127) / 128)).all fun k => x.excuses sp (lo / 128 * 128 + 128 * k)
  | _, _ => false

/-- The interlock entries that may hold an access to a range: those of the in-flight transfers that a strand issued, which are
its copy streams that are ACTIVE or FAULTED and its exchange operations not yet complete. `kb` is the stream that a load is
bound to, behind whose arrival it chains (R295). -/
def State.transfers (s : State) (sid : Nat) (sp : Bool) (lo n : Nat) (kb : Option Nat := none) : List Interlock :=
  let st := s.strand sid
  let cp := ((s.team st.team).streams.filter fun (p : Nat × Stream) =>
    p.2.issuer == sid && (p.2.state == .active || p.2.state == .faulted) && !(kb == some p.1) && !p.2.excusesAll sp lo n).flatMap
      fun p => p.2.il
  let ex := (s.vi (s.viNo st)).chans.flatMap fun (p : Nat × Chan) =>
    (p.2.ops.filter fun o => o.sid == sid && !o.complete).flatMap fun o => o.il
  cp ++ ex

/-- Interlock entries that a strand's transfers hold. -/
def State.heldEntries (s : State) (sid : Nat) : List Interlock :=
  let st := s.strand sid
  let cp := ((s.team st.team).streams.filter fun (p : Nat × Stream) =>
    p.2.issuer == sid && (p.2.state == .active || p.2.state == .faulted)).flatMap fun p => p.2.il
  let ex := (s.vi (s.viNo st)).chans.flatMap fun (p : Nat × Chan) =>
    (p.2.ops.filter fun o => o.sid == sid && !o.complete).flatMap fun o => o.il
  cp ++ ex

/-- R295: a load of a destination range, or a store to any range, waits. -/
def interlocked (es : List Interlock) (write sp : Bool) (lo n : Nat) : Bool :=
  es.any fun e => e.sp == sp && (write || e.dst) && decide (lo < e.hi) && decide (e.lo < lo + n)

/-- An access within one line, or of a range, is free of the interlock. -/
def State.free (s : State) (write sp : Bool) (va : Word) (n : Nat) (kb : Option Nat := none) : Res Unit :=
  if interlocked (s.transfers s.cur sp va.toNat n kb) write sp va.toNat n then .error .stall else .ok ()

/-! ### SCOPE and ORD (R285–R292) -/

/-- A release or a sequentially consistent access beyond CORE finds every store of its core at its home, among them those
that the strand's loads returned (R286, R288). An acquire asks for nothing before it: an access of this model is performed before
the next one issues (R285). -/
def State.order (s : State) : Space → Res State
  | .mem .core _ => .ok s
  | .mem _ .plain | .mem _ .acq => .ok s
  | .mem _ _ => s.drainCore (s.coreOf s.me)
  | .sp _ => .ok s

/-- Request entries for n lines at the acting strand's core (R99, Table 9.6). -/
def State.requests (s : State) (n : Nat) : Res Unit := if s.hasRequests (s.coreOf s.me) n then .ok () else .error .stall

/-! ### Loads of several lines (R273, R279, R311) -/

/-- What a load of several lines has performed so far: the state, the lines it read, and whether it must wait for others. -/
structure Gather where
  s : State
  lines : Tab LineV := []
  waits : Bool := false

/-- One line more: read at one point of its order, or left for later where a reservation holds it or the agenda has it so. A line
that an earlier attempt of the same instruction has performed is not read again. -/
def Gather.add (g : Gather) (l : Loc) : Gather :=
  let k := l.line
  match l with
  | .sp _ => g
  | .mem _ =>
    match (Tab.find g.lines k).orElse fun _ => Tab.find g.s.me.got k with
    | some v => { g with lines := Tab.put g.lines k v }
    | none =>
      if g.s.me.shun.contains k then { g with waits := true }
      else match g.s.notHeld false l, g.s.loadOrder l with
      | .ok _, .ok s1 => { g with s := s1, lines := Tab.put g.lines k (s1.seen l) }
      | _, _ => { g with waits := true }

/-- A load of several lines performs each of its lines before that line's reservation or after its release (R311): the lines
that are free are performed, and the instruction waits while others are held. `pre` are lines that it has performed already. -/
def State.gather (s : State) (ls : List Loc) (pre : Tab LineV := []) : Res (State × Tab LineV) :=
  let g := ls.foldl Gather.add { s, lines := pre }
  if g.waits then
    .error (if g.lines.isEmpty then .stall else .hold (g.s.setMe { g.s.me with got := g.lines }))
  else do
    -- scratchpad lines, and the stores before a FENCE
    let s1 ← g.s.loadOrder (.sp 0)
    return (s1, g.lines)

/-- The line of a place among the lines that a load gathered. -/
def State.gathered (s : State) (ls : Tab LineV) (l : Loc) : LineV :=
  match l with
  | .mem _ => (Tab.find ls l.line).getD (s.lineOf l)
  | .sp _ => s.lineOf l

/-! ### Scalar loads and stores (R256, R257) -/

/-- Read n bytes of a line that is not poisoned. -/
def lineBytes (l : LineV) (va : Word) (off n : Nat) : Res Nat := do
  ensure (l.cls != 2) .poisonConsumed va (w64 l.why)
  return nbits l.data (8 * off) (8 * n)

/-- A line as its core sees it: with the stores to it that the core has queued. -/
def State.coreLine (s : State) (x : Xlat) : LineV :=
  (s.storeQ.filter fun b => b.core == s.coreOf s.me && b.pa / 128 == x.pa / 128).foldl (fun l b => (b.over l).clip) (s.lineAt x)

/-- The store that a scalar load finds in its core's store queue (R277): the last one to its line, which covers all its bytes
and is another strand's, in a line that is not poisoned. An acquire beyond CORE does not take it from there (R285). -/
def State.forwarded (s : State) (sp : Space) (x : Xlat) (n : Nat) : Option Buffered :=
  match sp with
  | .sp _ | .mem .dev .acq | .mem .dev .sc | .mem .sys .acq | .mem .sys .sc => none
  | _ =>
    match (s.storeQ.filter fun b => b.core == s.coreOf s.me && b.pa / 128 == x.pa / 128).getLast? with
    | some b =>
      if b.pa ≤ x.pa && x.pa + n ≤ b.pa + b.data.length && b.sid != s.cur && b.tag.isNone && !b.beforeLoads.contains s.cur
          && (s.coreLine x).cls != 2
          && !s.storeQ.any (fun o => o.core == s.coreOf s.me && (o.beforeLoads.contains s.cur
              || (o.sid == s.cur && o.track == trackOf x.pa))) then some b
      else none
    | none => none

/-- The strand's load returned a queued store. -/
def State.markRead (s : State) (b : Buffered) : State :=
  { s with storeQ := s.storeQ.map fun o => if o == b then { o with readBy := s.cur :: o.readBy } else o }

/-- Load n bytes at a place, after the checks of the place. -/
def State.loadAt (s : State) (sp : Space) (va : Word) (n : Nat) (l : Loc) : Res (State × Nat) := do
  s.free false sp.isSp va n
  s.requests 1
  let s0 ← s.order sp
  let home : Unit → Res (State × Nat) := fun _ => do
    s0.notHeld false l
    let s1 ← s0.loadOrder l
    let v ← lineBytes (s1.seen l) va l.off n
    return (s1.touch l, v)
  match l with
  | .mem x =>
    (match s0.forwarded sp x n with
    | some b => return ((s0.markRead b).touch l, nbits (s0.coreLine x).data (8 * l.off) (8 * n))
    | none => home ())
  | .sp _ => home ()

/-- Whether a store waits in its core's store queue: to device or domain memory, cached, and not sequentially consistent beyond
CORE (R277, R288). -/
def queues (s : State) (sp : Space) (x : Xlat) : Bool :=
  !x.nc && (match s.region x.pa with | .dev | .remote _ => true | _ => false) && (match sp with
    | .mem .core _ | .mem _ .plain | .mem _ .rel => true
    | _ => false)

/-- A store of the acting strand enters its core's store queue: it is performed at CORE. -/
def State.enqueue (s : State) (x : Xlat) (va : Word) (data : List Byte) (tag : Option (BitVec 16)) (part : Bool := false) : State :=
  let b : Buffered := { core := s.coreOf s.me, sid := s.cur, vi := s.myVi, track := trackOf x.pa, pa := x.pa, va, data, tag
                        eph := x.eph, ten := x.ten, cfmt := x.cfmt, part }
  let s1 := s.used x
  ({ s1 with storeQ := s1.storeQ ++ [b] }).notify (x.pa / 128)

/-- A store at its home: it waits where a reservation holds its line, and comes after its track's earlier stores. -/
def State.storeHome (s : State) (n v : Nat) (l : Loc) : Res State := do
  s.notHeld true l
  let s1 ← s.inOrder l
  return s1.putLine false (stLine (s1.lineOf l) l.off n v) l

/-- The stores that a FENCE puts before the strand's later stores are at their homes (R290). -/
def State.fenced (s : State) : Res State := s.drainTracks (s.coreOf s.me) fun b => b.beforeStores.contains s.cur

/-- Store the low n bytes of v at a place, after the checks of the place: into the store queue, or at its home. `now` is
ST.PATCH, which completes only when fetches see the word (R47). -/
def State.storeAt (s : State) (sp : Space) (va : Word) (n v : Nat) (l : Loc) (now : Bool := false) : Res State := do
  s.free true sp.isSp va n
  s.requests 1
  let s1 ← s.order sp
  match l with
  | .mem x =>
    if queues s1 sp x && !now then
      let s2 ← s1.fenced
      return s2.enqueue x va (natLe n v) none
    else s1.storeHome n v l
  | .sp _ => s1.storeHome n v l

/-! ### Atomics (R319–R329) -/

/-- R326: q for an operand, or none for NaN and the infinities. -/
def fxTerm (e : Int) (x : Val) : Option (Int × Bool) :=
  match x.scale2 (-e) with
  | .fin neg n d => some (roundInt .rne neg n d)
  | _ => none

/-- The new value of a word of 8·n bits and the flags (Table 13.2). `e` is the exponent of FXADD. -/
def atomicNew (op : Aop) (n : Nat) (e : Int) (old v : Nat) : Nat × Flags :=
  let w := 8 * n
  let sg := fun (x : Nat) => sextN w x
  match op with
  | .add => ((old + v) % 2 ^ w, 0#7)
  | .and => (old &&& v, 0#7)
  | .or => (old ||| v, 0#7)
  | .xor => (old ^^^ v, 0#7)
  | .min => (if sg v < sg old then v else old, 0#7)
  | .max => (if sg old < sg v then v else old, 0#7)
  | .minu => (Nat.min old v, 0#7)
  | .maxu => (Nat.max old v, 0#7)
  | .swap => (v, 0#7)
  | .fadd32 =>
    let (x, fl) := addV .rne (decodeCode 0x0B#6 0 old) (decodeCode 0x0B#6 0 v)
    let (c, f2) := roundTo 0x0B#6 .rne x
    (c, fl ||| f2)
  | .fadd64 =>
    let (x, fl) := addV .rne (decodeCode 0x0C#6 0 old) (decodeCode 0x0C#6 0 v)
    let (c, f2) := roundTo 0x0C#6 .rne x
    (c, fl ||| f2)
  | .fxadd =>
    match fxTerm e (decodeCode 0x0C#6 0 v) with
    | none => (old, fNV)
    | some (q, inexact) =>
      let t := sextN 64 old + q
      let nx := flagIf inexact fNX
      if 2 ^ 63 ≤ t then (2 ^ 63 - 1, nx ||| fSAT)
      else if t < -(2 ^ 63) then (2 ^ 63, nx ||| fSAT)
      else ((t % 2 ^ 64).toNat, nx)

/-- R319: the atomics that an NC mapping of host or CXL memory does not take. -/
def State.atomicAllowed (s : State) (cas : Bool) (op : Aop) (x : Xlat) : Bool :=
  match s.region x.pa with
  | .host => !x.nc || cas || op == .add || op == .swap
  | .cxl => !x.nc
  | _ => true

/-- A failed CAS sets no dirty bit (R329). -/
def Xlat.noDirty (x : Xlat) : Xlat :=
  { x with
    upd := x.upd.map fun p => (p.1, 0x40)
    fill := x.fill.map fun t => { t with leaf1 := t.leaf1 &&& ~~~0x80#64, leaf2 := t.leaf2.map fun e => e &&& ~~~0x80#64 } }

/-- Apply an atomic at a place as one event: `f` gives the new word and flags, or none where nothing is written. None where
the line is poisoned (R323), where it is unchanged, or where the answer is lost (Table 15.2): applied once or not at all. -/
def State.atomicAt (s : State) (cas : Bool) (n : Nat) (f : Nat → Option Nat × Flags) (l : Loc) : State × Option (Nat × Flags) :=
  -- a CAS compares before its store sets D of the leaf that it goes through (R329)
  let clean := match l with | .mem y => Loc.mem y.noDirty | o => o
  let x := s.lineOf (if cas then clean else l)
  if x.cls == 2 then (s, none)
  else
    let old := nbits x.data (8 * l.off) (8 * n)
    let r : State × Option (Nat × Flags) :=
      match f old with
      | (some new, fl) => (s.putLine false (stLine (s.lineOf l) l.off n new) l, some (old, fl))
      | (none, fl) => (s.touch clean, some (old, fl))
    if s.lost l then (if Config.lostAtomicApplied s.tick then r.1 else s, none) else r

/-- A scalar atomic, after the operands are read: the faults of R328, the order, the event. -/
def State.scalarAtomic (s : State) (sp : Space) (cas : Bool) (op : Aop) (va : Word) (n : Nat)
    (f : Nat → Option Nat × Flags) : Res (State × Nat × Flags) := do
  ensure (va.toNat % n == 0) .misaligned va
  let l ← s.locate sp.isSp .atomic va n (extra := fun x => ensure (s.atomicAllowed cas op x) .access va 7#64)
  s.notHeld true l
  s.free true sp.isSp va n
  s.requests 1
  let s0 ← s.order sp
  let s1 ← s0.inOrder l
  let s2 ← s1.loadOrder l
  match s2.atomicAt cas n f l with
  | (s3, some (old, fl)) => return (s3.raise fl, old, fl)
  | (s3, none) =>
    let t : Trap := { cause := .poisonConsumed, v0 := va, v1 := w64 (s2.seen l).why }
    throw (if s2.lost l then .trapIn t s3 else .trap t)

end Sys2Proof.Machine
end

