-- ==== Sys2Proof/Machine/ControlRegs.lean ====
section
/-! DEFINITION. Control registers (R117–R121, R142, R387), index register instructions (R140, R141), GETID, HEARTBEAT, VSETL
and VGETCAP (R113, R114, R144, R145). -/

namespace Sys2Proof.Machine

/-- The VI whose stage-2 root and key domain a strand reaches: at monitor privilege the one VICUR names (R224, log 18). -/
def State.viOfCr (s : State) (st : Strand) : Nat := if st.priv == .mon then st.vicur.toNat % 256 else s.viNo st

/-- A mask with the low n bits set: units are named from 0 upward (R86). -/
def lowMask (n : Nat) : Word := w64 (2 ^ n - 1)

/-- A value register of a level by its offset from the level's PC (Table 5.2). -/
def TrapRegs.get (t : TrapRegs) : Nat → Word
  | 0 => t.pc | 1 => t.cause | 2 => t.v0 | 3 => t.v1 | 4 => t.v2 | 5 => t.v3 | 6 => t.vec | _ => t.stat

/-- The bits of xSTAT that are not RZ (Table 17.1). -/
def statMask (l : Priv) : Word := if l == .user then 0x3_03FF_0003#64 else 0x3_03FF_003F#64

/-- A write to a register of a level (R119); one of xPC clears RSTART and RMSTEP (R387). -/
def TrapRegs.write (t : TrapRegs) (l : Priv) (k : Nat) (w : Word) : TrapRegs :=
  match k with
  | 0 => { t with pc := w, stat := t.stat &&& ~~~0x3_03FF_0000#64 }
  | 1 => { t with cause := w &&& 0xFF#64 }
  | 2 => { t with v0 := w } | 3 => { t with v1 := w } | 4 => { t with v2 := w } | 5 => { t with v3 := w }
  | 6 => { t with vec := w &&& ~~~7#64 }
  | _ => { t with stat := w &&& statMask l }

/-- The value of a control register (Table 5.2). -/
def State.crRead (s : State) (n : Nat) : Word :=
  let st := s.me
  let v := s.vi (s.viNo st)
  let wb := s.myCar.wb
  match n with
  | 0x00 => st.vl | 0x01 => st.vfmt | 0x02 => st.tstart | 0x03 => st.mstep | 0x04 => st.fctl | 0x05 => st.palsel
  | 0x06 => st.vdirty | 0x07 => st.vpresent
  | 0x08 | 0x09 | 0x0A | 0x0B | 0x0C | 0x0D | 0x0E | 0x0F => st.ut.get (n - 0x08)
  | 0x10 => Tab.get 0#64 s.cycles (s.coreOf st)
  | 0x11 => (s.die (s.dieOf st)).refcnt
  | 0x12 => st.progress
  | 0x13 => w64 s.myTeam.spBase | 0x14 => w64 s.myTeam.spLen
  | 0x15 => lowMask wb.canvases | 0x16 => lowMask wb.queues | 0x17 => lowMask wb.kstreams
  | 0x18 => st.vpad | 0x19 => 0xFF#64
  | 0x20 | 0x21 | 0x22 | 0x23 | 0x24 | 0x25 | 0x27 => st.st.get (n - 0x20)
  | 0x26 => v.stvec
  | 0x28 => v.vtbase | 0x29 => (s.vi (s.viOfCr st)).kdcur | 0x2A => v.savebase | 0x2B => v.wdwin
  | 0x2C => v.evqbase | 0x2D => st.sscratch
  | 0x40 | 0x41 | 0x42 | 0x43 | 0x44 | 0x45 | 0x46 | 0x47 => st.mt.get (n - 0x40)
  | 0x48 => (s.vi (s.viOfCr st)).s2base | 0x49 => st.vicur | 0x4A => st.mscratch
  | _ => 0#64

/-- A write of VTBASE drops the VI's cached stage-1 translations that come from entries with G = 0 (R227). -/
def State.dropStage1 (s : State) (vi : Nat) : State :=
  { s with tlb := s.tlb.filter fun t => !(t.vi == vi && !bitAt t.leaf1 5) }

/-- A write to a control register (R119): its checks, and the bits that are not RZ. TSTART and MSTEP keep what is written
to them (log 19). -/
def State.crWrite (s : State) (n : Nat) (w : Word) : Res State :=
  let st := s.me
  let vn := s.viNo st
  let v := s.vi vn
  match n with
  | 0x00 => .ok (s.setMe { st with vl := w }).reallocMine
  | 0x01 => do
    ensure (w.toNat < 64 && !fmtReserved (w.extractLsb' 0 6)) .tagForbidden 3#64 w
    return (s.setMe { st with vfmt := w }).reallocMine
  | 0x02 => .ok (s.setMe { st with tstart := w, mstep := 0#64 })
  | 0x03 => .ok (s.setMe { st with mstep := w, tstart := 0#64 })
  | 0x04 => .ok (s.setMe { st with fctl := fctlWrite st.fctl w })
  | 0x05 => do
    palselCheck s w
    return s.setMe { st with palsel := w }
  | 0x06 => .ok (s.setMe { st with vdirty := w &&& 0xFFFF_FFFF_FFFF#64 })
  | 0x07 => .ok (s.setMe { st with vpresent := w &&& 0xFFFF_FFFF_FFFF#64 })
  | 0x08 | 0x09 | 0x0A | 0x0B | 0x0C | 0x0D | 0x0E | 0x0F => .ok (s.setMe { st with ut := st.ut.write .user (n - 0x08) w })
  | 0x12 => .ok (s.setMe { st with progress := w })
  | 0x18 => .ok (s.setMe { st with vpad := w }).reallocMine
  | 0x20 | 0x21 | 0x22 | 0x23 | 0x24 | 0x25 | 0x27 => .ok (s.setMe { st with st := st.st.write .sup (n - 0x20) w })
  | 0x26 => .ok (s.setVi vn { v with stvec := w &&& ~~~7#64 })
  | 0x28 => .ok ((s.setVi vn { v with vtbase := w &&& 0x7_FFFF_FFFF_F000#64 }).dropStage1 vn)
  | 0x29 => .ok (s.setVi (s.viOfCr st) { s.vi (s.viOfCr st) with kdcur := w })
  | 0x2A => .ok (s.setVi vn { v with savebase := w &&& 0xFF_FFFF_FF80_FFFF#64 &&& ~~~0x7F_0000#64 })
  | 0x2B => .ok (s.setVi vn { v with wdwin := w &&& 0xFFFF_FFFF#64 })
  | 0x2C => .ok ((s.setVi vn { v with evqbase := w &&& 0xFF_FFFF_FFFF_F01F#64 }).flushEvents vn true)
  | 0x2D => .ok (s.setMe { st with sscratch := w })
  | 0x40 | 0x41 | 0x42 | 0x43 | 0x44 | 0x45 | 0x46 | 0x47 => .ok (s.setMe { st with mt := st.mt.write .mon (n - 0x40) w })
  | 0x48 => .ok (s.setVi (s.viOfCr st) { s.vi (s.viOfCr st) with s2base := w &&& 0x7_FFFF_FFFF_F000#64 })
  | 0x49 => .ok (s.setMe { st with vicur := w })
  | 0x4A => .ok (s.setMe { st with mscratch := w })
  | _ => .ok s

/-- TSTART and MSTEP, which completion does not clear when they are written. -/
def crKeeps (n : Nat) : Bool := n == 0x02 || n == 0x03

def execCrd (d : Opnd) (n : BitVec 12) (s : State) : Host.Outcome State Fault Refusal :=
  issue (.crd d n) s [wrS d] fun c => done (c.putS c.s (c.s.crRead n.toNat))

def execCwr (n : BitVec 12) (a : Opnd) (s : State) : Host.Outcome State Fault Refusal :=
  issue (.cwr n a) s [rdS .a a] fun c => do
    let s1 ← c.s.crWrite n.toNat (c.s_ .a)
    .ok { s := s1, keepT := crKeeps n.toNat }

def execCrsw (d : Opnd) (n : BitVec 12) (a : Opnd) (s : State) : Host.Outcome State Fault Refusal :=
  issue (.crsw d n a) s [rdS .a a, wrS d] fun c => do
    let s1 ← c.s.crWrite n.toNat (c.s_ .a)
    .ok { s := c.putS s1 (c.s.crRead n.toNat), keepT := crKeeps n.toNat }

/-! ### Index registers (R140, R141) -/

def execIxset (d : BitVec 3) (a : Opnd) (s : State) : Host.Outcome State Fault Refusal :=
  issue (.ixset d a) s [rdS .a a] fun c => done (c.s.setMe (c.me.setI d.toNat (c.s_ .a)))

def execIxget (d : Opnd) (a : BitVec 3) (s : State) : Host.Outcome State Fault Refusal :=
  issue (.ixget d a) s [wrS d] fun c => done (c.putS c.s (c.me.getI a.toNat))

/-- A new offset v under R141; `wrapAdd` for IXADV, which reduces modulo the window. -/
def ixMove (c : Ctx) (d : BitVec 3) (v : Int) (wrapAdd : Bool) : Res Done := do
  let x := c.me.getI d.toNat
  let b := if bits x 6 6 = 0 then 64 else bits x 6 6
  let wrap := bitAt x 24
  let v' : Int := if wrap && wrapAdd then v % (b : Int) else v
  let ok := decide (0 ≤ v') && (if wrap then decide (v' < b) else decide (v' ≤ Nat.min b 63))
  ensure ok .bound (w64 (d.toNat + 48)) (wInt v) 2#64
  done (c.s.setMe (c.me.setI d.toNat (setBits x 12 6 v'.toNat)))

/-- The uses of IXADV and IXOFF, whose amount stands in slot A. -/
def srcAUse : SrcB → List Use
  | .op o => [rdS .a o]
  | .imm _ => []

def Ctx.sAmt (c : Ctx) : SrcB → Int
  | .op _ => (c.s_ .a).toInt
  | .imm i => i.toInt

def execIxadv (d : BitVec 3) (n : SrcB) (s : State) : Host.Outcome State Fault Refusal :=
  issue (.ixadv d n) s (srcAUse n) fun c =>
    ixMove c d (Int.ofNat (bits (c.me.getI d.toNat) 12 6) + c.sAmt n) true

def execIxoff (d : BitVec 3) (n : SrcB) (s : State) : Host.Outcome State Fault Refusal :=
  issue (.ixoff d n) s (srcAUse n) fun c => ixMove c d (c.sAmt n) false

/-! ### Length, identity and progress -/

/-- The format of VSETL and VGETCAP (R144). -/
def fmtArg (c : Ctx) : FmtSel → Res FmtCode
  | .imm f => .ok f
  | .reg _ => do
    let w := c.s_ .b
    ensure (w.toNat < 64 && !fmtReserved (w.extractLsb' 0 6)) .tagForbidden 3#64 w
    return w.extractLsb' 0 6

/-- R144. -/
def execVsetl (d a : Opnd) (f : FmtSel) (s : State) : Host.Outcome State Fault Refusal :=
  issue (.vsetl d a f) s ([rdS .a a] ++ fmtUse f ++ [wrS d]) fun c => do
    let f' ← fmtArg c f
    let n := Nat.min (c.s_ .a).toNat (cap f')
    let g := if isNarrow f' then 16 * ((n + 15) / 16) else n
    let s1 := c.s.setMe { c.me with vl := w64 g, vfmt := f'.setWidth 64, vpad := w64 (g - n) }
    done (c.putS s1.reallocMine (w64 g))

/-- R145. -/
def execVgetcap (d : Opnd) (f : FmtSel) (s : State) : Host.Outcome State Fault Refusal :=
  issue (.vgetcap d f) s (fmtUse f ++ [wrS d]) fun c => do
    let f' ← fmtArg c f
    done (c.putS c.s (w64 (cap f')))

/-- The dies a VI sees, in ascending physical order (R369). -/
def State.seenDies (s : State) (vi : Nat) : List Nat :=
  (List.range 4).filter fun d => vi == 0 || bitAt (s.vi vi).q2 (40 + d)

/-- A physical die number in a VI's numbering. -/
def State.virtDie (s : State) (vi d : Nat) : Nat := ((s.seenDies vi).filter fun k => decide (k < d)).length

/-- The value of GETID (Table 4.8). -/
def State.identity (s : State) (sel : Nat) : Nat :=
  let st := s.me
  let tm := s.myTeam
  let c := s.myCar
  let phys := s.coreOf st
  let die := if st.priv == .mon then phys / 64 else s.virtDie c.vi (phys / 64)
  match sel with
  | 0 => st.idx
  | 1 => tm.idx
  | 2 => c.handle.toNat
  | 3 => 64 * die + phys % 64
  | 4 => die
  | 5 => st.slot
  | 6 => nbits c.wb.roles.toNat st.idx 1
  | 7 => c.wb.cls
  | 8 => st.lanes
  | _ => tm.places

/-- R114. -/
def execGetid (d : Opnd) (sel : BitVec 4) (s : State) : Host.Outcome State Fault Refusal :=
  issue (.getid d sel) s [wrS d] fun c => done (c.putS c.s (w64 (c.s.identity sel.toNat)))

/-- R113, R399: PROGRESS grows, and the window of a PERSIST strand starts again. -/
def execHeartbeat (a : Opnd) (s : State) : Host.Outcome State Fault Refusal :=
  issue (.heartbeat a) s [rdS .a a] fun c =>
    let st := { c.me with progress := c.me.progress + c.s_ .a }
    let win := bits (c.s.vi c.s.myVi).wdwin 0 32
    done (c.s.setMe (if c.s.myCar.wb.persist then { st with wdrem := win, wdwin := win, wdExpired := false } else st))

end Sys2Proof.Machine
end

