-- ==== Sys2Proof/Machine/Mmio.lean ====
section
/-! DEFINITION. The registers of PF0 BAR0 and of the VFs' BAR0s (R223, R369–R375, R447, Tables 15.3, 16.2–16.6, 18.2, 18.5): reading and writing
them, and what their writes do. The events of these writes share the functions. -/

namespace Sys2Proof.Machine

/-! ### Quota records (Table 16.2) -/

/-- The bits of the words of a quota record that are not RZ. -/
def quotaMask : Nat → Word
  | 0x00 => 0x0FFF_1FFF_0FFF_1FFF#64
  | 0x08 => 0x0003_FFFF_00FF_FFFF#64
  | 0x10 => 0x0000_0FFF_03FF_FF7F#64
  | 0x18 => 0x0000_FFFF_FFFF_FFFF#64
  | 0x20 => 0xFFFF#64
  | _ => 0#64

/-- A word of a quota record. -/
def Vi.quota (v : Vi) : Nat → Word
  | 0x00 => v.q0 | 0x08 => v.q1 | 0x10 => v.q2 | 0x18 => v.q3 | 0x20 => v.q4
  | _ => w64 ((if v.en then 1 else 0) + (if v.flrBusy then 4 else 0) + (if v.flrDone then 8 else 0))

/-- Word 0x10 as stored: bit 8 reads 1, and an ISSUEW of 0 stores 1. -/
def storeQ2 (w : Word) : Word :=
  let x := w &&& quotaMask 0x10 ||| 0x100#64
  if bits x 32 8 = 0 then setBits x 32 8 1 else x

/-- The slots that a PALGR field grants, P0 apart. -/
def grants (q2 : Word) (k : Nat) : Bool := k != 0 && bitAt q2 (8 + k)

/-- Withdraw a slot from the VI that holds it (R75). A slot granted to no VI holds P0's entries (log 102). -/
def State.withdraw (s : State) (k : Nat) : State :=
  match (Tab.get {} s.palettes k).holder with
  | some n =>
    let v := s.vi n
    { s.setVi n { v with q2 := setBits v.q2 (8 + k) 1 0 } with palettes := Tab.del s.palettes k }
  | none => s

/-- Grants follow a new PALGR field of a VI (R75): a slot that enters a grant holds a copy of P0. -/
def State.regrant (s : State) (n : Nat) (q2 : Word) : State :=
  (List.range 16).foldl (fun s k =>
    let mine := (Tab.get {} s.palettes k).holder == some n
    if grants q2 k then
      (if mine then s else
        let s1 := s.withdraw k
        { s1 with palettes := Tab.put s1.palettes k { holder := some n } })
    else if mine then s.withdraw k
    else s) s

/-- A write to a word of VI n's quota record (R370, R371, R75). The quota of VI0 is ignored: its PALGR takes no slot. -/
def State.writeQuota (s : State) (n off : Nat) (w : Word) : State :=
  let v := s.vi n
  match off with
  | 0x00 => s.setVi n { v with q0 := w &&& quotaMask 0x00 }
  | 0x08 => s.setVi n { v with q1 := w &&& quotaMask 0x08 }
  | 0x10 =>
    let s1 := if n = 0 then s else s.regrant n w
    s1.setVi n { s1.vi n with q2 := storeQ2 w }
  | 0x18 => s.setVi n { v with q3 := w &&& quotaMask 0x18 }
  | 0x20 => s.setVi n { v with q4 := w &&& quotaMask 0x20 }
  | 0x28 =>
    -- a write while a reset is in progress does not enable the VI: the reset's step 1 has cleared EN (R377); no VF is enabled
    -- before the boot is done (R408)
    let s1 := s.setVi n { v with en := bitAt w 0 && !v.flrBusy && (n == 0 || 8 ≤ s.boot.stage), flrDone := v.flrDone && !bitAt w 3 }
    if bitAt w 1 then s1.viReset n else s1
  | _ => s

/-! ### Counters (R373) -/

/-- The frames of device memory that the valid stage-2 leaves below a table name, where a leaf passes a test. -/
def State.framesBelow (s : State) (p : Word → Bool) : Nat → Nat → Nat → List Nat
  | 0, _, _ => []
  | fuel + 1, lvl, table =>
    (List.range (2 ^ lvlBits lvl)).flatMap fun i =>
      let e := s.entry (s.ownPa (table + 8 * i))
      if !bitAt e 0 || entMalformed true lvl e then []
      else if entSize e == 3 then s.framesBelow p fuel (lvl + 1) (bits e 12 39 * 2 ^ 12)
      else if !p e then []
      else (List.range (2 ^ lvlShift lvl / 0x10000)).map (entPa e / 0x10000 + ·)

/-- Frames mapped or backed for a VI now: those that its stage-2 tables map and that are not unbacked. VI0 has no stage 2. -/
def State.framesHeld (s : State) (n : Nat) : Nat :=
  let all := if n = 0 then (s.vi 0).backed else s.framesBelow (fun _ => true) 5 0 (bits (s.vi n).s2base 12 39 * 2 ^ 12)
  (all.eraseDups.filter fun f => s.region (f * 0x10000) == .dev && !s.unbacked.contains f).length

/-- The frames that a leaf of some VI maps with EPH = 1 (R237, R242). -/
def State.ephFrames (s : State) : List Nat :=
  (s.vis.filter fun (p : Nat × Vi) => p.1 != 0).flatMap fun (p : Nat × Vi) =>
    s.framesBelow (fun e => bitAt e 11) 5 0 (bits p.2.s2base 12 39 * 2 ^ 12)

/-- A line that a leaf with EPH = 1 maps, or that has a deadline (R242). -/
def State.ephLine (s : State) (ln : Nat) : Bool := (Tab.find s.eph ln).isSome || s.ephFrames.contains (ln / 512)

/-- A counter of a VI. -/
def State.counter (s : State) (n i : Nat) : Word :=
  if i = 13 then w64 (s.framesHeld n) else Tab.get 0#64 (s.vi n).counters i

def State.snapshot (s : State) (n : Nat) : State :=
  let v := s.vi n
  s.setVi n { v with snaps := (List.range 17).foldl (fun t i => Tab.set 0#64 t i (s.counter n i)) v.snaps }

/-- Clearing is ignored while EN = 1. -/
def State.clearCounters (s : State) (n : Nat) : State :=
  let v := s.vi n
  if v.en then s else s.setVi n { v with counters := [] }

/-! ### EVQHEAD and EVQSTAT (R375) -/

def State.writeEvqhead (s : State) (n : Nat) (w : Word) : State :=
  (s.setVi n { s.vi n with evqHead := bits w 0 32 }).flushEvents n false

def State.writeEvqstat (s : State) (n : Nat) (w : Word) : State :=
  let v := s.vi n
  let v1 := if bitAt w 32 then { v with ovf := false, lost := 0 } else v
  s.setVi n (if bitAt w 33 then { v1 with evqErr := false } else v1)

/-! ### MSI-X (R369, R374) -/

/-- The vectors masked from here on: a pending vector that is masked no longer is signalled. -/
def State.setMsixMask (s : State) (n : Nat) (m : BitVec 64) : State :=
  let v := s.vi n
  let free := (List.range 64).filter fun k => nbits v.msixPend.toNat k 1 == 1 && nbits m.toNat k 1 == 0
  { s.setVi n { v with msixMask := m, msixPend := v.msixPend &&& m } with out := s.out ++ free.map fun k => .msix n k }

/-- The place of a word of a VI's MSI-X table, and of other words of its BAR0, among the registers of the state. -/
def barKey (n off : Nat) : Nat := 2 ^ 24 * n + off

/-- Word k of the MSI-X table: of each vector's 16 bytes the message address, then its data and its vector control, whose bit 0 is
the mask (PRESUMED: the layout of PCI Express; log 105). -/
def State.msixWord (s : State) (n k : Nat) : Word := Tab.get 0#64 s.regs (barKey n (0x1000 + 8 * k))

def State.writeMsix (s : State) (n k : Nat) (w : Word) : State :=
  let s1 := { s with regs := Tab.set 0#64 s.regs (barKey n (0x1000 + 8 * k)) w }
  if k % 2 = 0 then s1
  else
    let b := BitVec.ofNat 64 (2 ^ (k / 2))
    let m := (s.vi n).msixMask
    s1.setMsixMask n (if bitAt w 32 then m ||| b else m &&& ~~~b)

/-! ### DCTL (Table 16.6, R447) -/

def DieState.num : DieState → Nat
  | .online => 0 | .drained => 1 | .quiesced => 2 | .resetting => 3 | .testing => 4 | .ready => 5 | .failed => 6

def Die.word (d : Die) : Word :=
  w64 ((if d.admits then 1 else 0) + d.state.num * 2 ^ 8 + (if d.busy then 2 ^ 11 else 0) + (if d.err then 2 ^ 12 else 0)
    + d.errc % 8 * 2 ^ 13 + d.repair % 256 * 2 ^ 16)

/-- The VIs that see a die, as enabled VFs and the monitor. -/
def State.seers (s : State) (d : Nat) : List Nat :=
  (s.vis.filter fun (p : Nat × Vi) => p.1 == 0 || (p.2.en && bitAt p.2.q2 (40 + d))).map fun p => p.1

/-- TYPE 3 and TYPE 4 events to every VI that sees a die (R374, Table 16.7). -/
def State.postDie (s : State) (d ty : Nat) : State :=
  (s.seers d).foldl (fun s n => s.postEvent n { ty, a := w64 (s.virtDie n d) }) s

/-- A write of ADMIT: stored, a READY die becomes ONLINE, and the die events of steps 1 and 9 of Table 16.7. -/
def State.dctlAdmit (s : State) (d : Nat) (a : Bool) : State :=
  let x := s.die d
  let s1 := s.setDie d (if a && x.state == .ready then { x with admits := a, state := .online, migrated := false, kept := [] }
    else { x with admits := a })
  if a && x.state == .ready then s1.postDie d 4
  else if !a && x.admits && x.state == .online then s1.postDie d 3
  else s1

/-- The command bits of a write, [6:1]. -/
def dctlCmds (w : Word) : List DieCmd :=
  (if bitAt w 1 then [.drain] else []) ++ (if bitAt w 2 then [.wb] else []) ++ (if bitAt w 3 then [.mig] else [])
    ++ (if bitAt w 4 then [.quiesce] else []) ++ (if bitAt w 5 then [.rst] else []) ++ (if bitAt w 6 then [.retrain] else [])

/-- Whether a command is accepted in the state of a die (R447). ADMIT is as the same write leaves it. -/
def Die.accepts (x : Die) : DieCmd → Bool
  | .drain => x.state == .online && !x.admits
  | .wb | .mig => x.state == .drained
  | .quiesce => x.state == .drained
  | .rst => x.state == .quiesced
  | .retrain => x.state == .resetting && x.rstDone

/-- RST of a die: the lines of its ephemeral frames expire, those never written among them (R242). A die left out at the boot holds
no device memory (R411). -/
def State.expireDie (s : State) (d : Nat) : State :=
  if !(s.die d).inServ then s else
  let frames := s.ephFrames.eraseDups.filter fun f => s.region (f * 0x10000) == .dev && frameDie (f * 0x10000) == d
  let lines := s.eph.map (fun p => p.1) ++ frames.flatMap fun f => (List.range 512).map (512 * f + ·)
  { s with expired := (lines.filter fun ln => frameDie (128 * ln) == d && !s.expired.contains ln).eraseDups ++ s.expired }

/-- The reset of a die and of its core islands: REFCNT and CYCLE start from 0 (Table 5.3). -/
def State.zeroDie (s : State) (d : Nat) : State :=
  { s.setDie d { s.die d with refcnt := 0#64 } with
    cycles := s.cycles.map fun (p : Nat × Word) => (p.1, if p.1 / 64 = d then 0#64 else p.2) }

/-- A command write: performed, or refused with ERRC 2 (R447). The command ends with DCTL_COMMAND_DONE, or at once where it
is refused. -/
def State.dctlCommand (s : State) (d : Nat) (c : DieCmd) : State :=
  let x := s.die d
  if x.busy then s
  else if !x.accepts c then (s.setDie d { x with err := true, errc := 2 }).setMevt 2
  else
    let y : Die := { x with busy := true, cmd := some c }
    match c with
    | .rst => ((s.setDie d { y with state := .resetting, rstDone := false }).expireDie d).zeroDie d
    | .quiesce => s.setDie d { y with kept := (List.range 128).filter fun h => s.homeOf h / 32 == d }
    | .retrain => s.setDie d { y with state := .testing }
    | _ => s.setDie d y

/-- A write of DCTL. -/
def State.writeDctl (s : State) (d : Nat) (w : Word) : State :=
  let busy := (s.die d).busy
  let s1 := s.dctlAdmit d (bitAt w 0)
  if busy then s1
  else match dctlCmds w with
    | [] => s1
    | [c] => s1.dctlCommand d c
    | _ => (s1.setDie d { s1.die d with err := true, errc := 2 }).setMevt 2

/-! ### Ports and islands -/

/-- LHCFG (R353, R354): ignored while the port is up; an enable with too small a window is refused. A WINFR above 4,096 is stored
and is the window's size (log 101). -/
def State.writeLhcfg (s : State) (p : Nat) (w : Word) : State :=
  let x := Tab.get {} s.ports p
  if x.up then s
  else
    let rtt := bits w 16 16
    let win := bits w 32 13
    let bad := bitAt w 0 && decide (win * 65536 < 200000 * rtt)
    { s with ports := Tab.put s.ports p { x with lhen := bitAt w 0 && !bad, lherr := if bitAt w 0 then bad else x.lherr,
                                                 rttus := rtt, winfr := win, sent := 0, unacked := 0, lost := [] } }

def Port.lhcfg (x : Port) : Word :=
  w64 ((if x.lhen then 1 else 0) + (if x.lherr then 2 else 0) + x.rttus % 2 ^ 16 * 2 ^ 16 + x.winfr % 2 ^ 13 * 2 ^ 32)

def State.writeLhbase (s : State) (p : Nat) (w : Word) : State :=
  let x := Tab.get {} s.ports p
  if x.up then s else { s with ports := Tab.put s.ports p { x with lhbase := w &&& 0x7_FFFF_FFFF_0000#64 } }

/-- A strand holds its slot and waits for nothing that R84 calls parked. -/
def Run.isActive : Run → Bool
  | .active | .tile _ | .joint _ => true
  | _ => false

/-- A core with a strand parked in IDLE and no ACTIVE one drops to its lowest point, until one is ACTIVE again (R380). -/
def State.idleCore (s : State) (core : Nat) : Bool :=
  let rs := s.residents core
  rs.any (fun p => match p.2.run with | .parkIdle _ => true | _ => false) && !rs.any fun p => p.2.run.isActive

/-- CUR of a core island. -/
def State.point (s : State) (i : Nat) : Nat := if s.idleCore i then 0 else Tab.get 7 s.points i

/-- Ticks of REFCNT in 1 ms (R120). -/
def ticksPerMs : Nat := 100000

/-- THR of an island: the power manager lowered its point in the last 1 ms (R414), or withholds issue from a strand of its core
(R415). -/
def State.throttledNow (s : State) (i : Nat) : Bool :=
  (match Tab.find s.throttled i with
    | some t => decide (((s.die 0).refcnt - w64 t).toNat < ticksPerMs)
    | none => false)
    || (s.residents i).any fun p => (s.vi (s.viNo p.2)).withheld.1 != 0

/-- ISLAND (Table 18.5): non-core islands run at their one point, with OPMAX RZ. -/
def State.island (s : State) (i : Nat) : Word :=
  let thr := if s.throttledNow i then 64 else 0
  if i < 256 then w64 (s.point i % 8 + Tab.get s.opInit s.opmax i % 8 * 8 + thr) else w64 (7 + thr)

/-- A write of OPMAX lowers the point where it lies above (R414). -/
def State.writeIsland (s : State) (i : Nat) (w : Word) : State :=
  if i < 256 then
    let m := bits w 3 3
    let s1 := { s with opmax := Tab.put s.opmax i m }
    if m < Tab.get 7 s.points i then { s1 with points := Tab.put s.points i m } else s1
  else s

/-- BSTAT (Table 18.2). -/
def State.bstat (s : State) : Word :=
  let b := s.boot
  w64 (b.stage % 16 + b.fail % 16 * 2 ^ 4 + b.dieok.toNat * 2 ^ 8 + Nat.min 0xFFFF b.retry * 2 ^ 16 + b.svn % 2 ^ 16 * 2 ^ 32)

/-! ### The register file by offset -/

/-- Which register an offset names, as the number of its array and its index. -/
inductive Reg where
  | cap (n off : Nat) | evqhead (n : Nat) | evqstat (n : Nat) | pba (n : Nat) | msix (n k : Nat)
  | quota (n off : Nat) | counter (n i : Nat) | snap (n i : Nat) | command (n : Nat)
  | lhcfg (p : Nat) | lhbase (p : Nat) | dctl (d : Nat) | mevt | home (h : Nat) | bstat | island (i : Nat)
  | other (off : Nat)
deriving DecidableEq, Repr

/-- The registers that the monitor alone reaches, through the translations of VI0 and not by the host port (R370, Table 18.5; log 123). -/
def Reg.monitorOnly : Reg → Bool
  | .quota _ _ | .island _ => true
  | _ => false

/-- The registers that every function's BAR0 has, at 8-byte-aligned offsets (R369). -/
def viReg (n off : Nat) : Option Reg :=
  if off < 0x28 then some (.cap n off)
  else if off = 0x100 then some (.evqhead n)
  else if off = 0x108 then some (.evqstat n)
  else if 0x200 ≤ off && off < 0x288 then some (.counter n ((off - 0x200) / 8))
  else if 0x1000 ≤ off && off < 0x1400 then some (.msix n ((off - 0x1000) / 8))
  else if off = 0x1800 then some (.pba n)
  else none

/-- The register of an 8-byte-aligned offset of PF0. A register without a rule of its own stores its value. -/
def pfReg (off : Nat) : Reg :=
  if 0x1_0000 ≤ off && off < 0x2_0000 && off % 0x100 < 0x30 then .quota (off / 0x100 % 0x100) (off % 0x100)
  else if 0x2_0000 ≤ off && off < 0x3_0000 then
    (if off % 0x100 = 0xF8 then .command (off / 0x100 % 0x100) else .counter (off / 0x100 % 0x100) (off % 0x100 / 8))
  else if 0x8_0000 ≤ off && off < 0x9_0000 then .snap (off / 0x100 % 0x100) (off % 0x100 / 8)
  else if 0x3_0000 ≤ off && off < 0x3_0100 && off % 0x40 = 0 then .lhcfg (off / 0x40 % 4)
  else if 0x3_0000 ≤ off && off < 0x3_0100 && off % 0x40 = 8 then .lhbase (off / 0x40 % 4)
  else if 0x4_0000 ≤ off && off < 0x4_0100 && off % 0x40 = 0 then .dctl (off / 0x40 % 4)
  else if off = 0x5_0000 then .mevt
  else if 0x6_0000 ≤ off && off < 0x6_0400 then .home ((off - 0x6_0000) / 8)
  else if off = 0x7_0000 then .bstat
  else if 0x7_1000 ≤ off && off < 0x7_2000 then .island ((off - 0x7_1000) / 8)
  else .other off

/-- The register of an offset of a function's BAR0: of PF0, or of a VF, which has no others (R369). -/
def barReg (n off : Nat) : Reg := (viReg n off).getD (if n = 0 then pfReg off else .other (barKey n off))

/-- The registers of PF0's BAR0, which the cores reach (R223). -/
def regAt (off : Nat) : Reg := barReg 0 off

/-- The value of a register. The capability block of a function gives its VI's quota (log 59). -/
def State.regRead (s : State) : Reg → Word
  | .cap n off => (s.vi n).quota off
  | .evqhead n => w64 (s.vi n).evqHead
  | .evqstat n => (s.vi n).evqStat
  | .pba n => (s.vi n).msixPend
  | .msix n k => s.msixWord n k
  | .quota n off => (s.vi n).quota off
  | .counter n i => if i < 17 then s.counter n i else 0#64
  | .snap n i => if i < 17 then Tab.get 0#64 (s.vi n).snaps i else 0#64
  | .command _ => 0#64
  | .lhcfg p => (Tab.get {} s.ports p).lhcfg
  | .lhbase p => (Tab.get {} s.ports p).lhbase
  | .dctl d => (s.die d).word
  | .mevt => s.mevt
  | .home h => w64 (s.homeOf h)
  | .bstat => s.bstat
  | .island i => s.island i
  | .other off => Tab.get 0#64 s.regs off

/-- The bits of a register that a write of its other half keeps: those a program may write and read back. -/
def regKeep : Reg → Word
  | .quota _ 0x28 => 1#64
  | .quota _ off => quotaMask off
  | .lhcfg _ => 0x1FFF_FFFF_0001#64
  | .lhbase _ => 0x7_FFFF_FFFF_0000#64
  | .dctl _ => 1#64
  | .evqhead _ => 0xFFFF_FFFF#64
  | .island _ => 0x38#64
  | .msix _ _ => 0xFFFF_FFFF_FFFF_FFFF#64
  | .other _ => 0xFFFF_FFFF_FFFF_FFFF#64
  | _ => 0#64

/-- A write of a register. RO registers ignore it. -/
def State.regWrite (s : State) (r : Reg) (w : Word) : State :=
  match r with
  | .evqhead n => s.writeEvqhead n w
  | .evqstat n => s.writeEvqstat n w
  | .msix n k => s.writeMsix n k w
  | .quota n off => s.writeQuota n off w
  | .command n => if w == 1#64 then s.snapshot n else if w == 2#64 then s.clearCounters n else s
  | .lhcfg p => s.writeLhcfg p w
  | .lhbase p => s.writeLhbase p w
  | .dctl d => s.writeDctl d w
  | .mevt => { s with mevt := s.mevt &&& ~~~w }
  | .island i => s.writeIsland i w
  | .other off => { s with regs := Tab.set 0#64 s.regs off w }
  | _ => s

/-- A load of 4 or 8 bytes of a register (R223). -/
def State.regLoad (s : State) (off n : Nat) : Nat :=
  nbits (s.regRead (regAt (off / 8 * 8))).toNat (8 * (off % 8)) (8 * n)

/-- A store of 4 or 8 bytes to a register: the other half of a word keeps what it holds. -/
def State.regStore (s : State) (off n v : Nat) : State :=
  let r := regAt (off / 8 * 8)
  if n = 8 then s.regWrite r (w64 v)
  else s.regWrite r (w64 (setNbits (s.regRead r &&& regKeep r).toNat (8 * (off % 8)) 32 v))

end Sys2Proof.Machine
end

