-- ==== Sys2Proof/Machine/ScalarMem.lean ====
section
/-! DEFINITION. Scalar memory: LD, ST, ST.PATCH, AMO, CAS, FENCE, LSYNC, FLUSH and INVAL (R247, R256–R259, R290–R292,
R327–R329). -/

namespace Sys2Proof.Machine

/-- VA = S[A] + S[B] + sext(IMM16). -/
def Ctx.address (c : Ctx) (imm : BitVec 16) : Word := c.s_ .a + c.s_ .b + imm.signExtend 64

/-- The value that LD writes (R256). -/
def ldExtend (sz : BitVec 3) (v : Nat) : Word :=
  match sz.toNat with
  | 4 => wInt (sextN 8 v)
  | 5 => wInt (sextN 16 v)
  | 6 => wInt (sextN 32 v)
  | _ => w64 v

/-- Bytes of an access: SZ of Table 2.4. -/
def accBytes (sz : Nat) : Nat := 2 ^ (sz % 4)

/-- A place that is a register of PF0 BAR0 (R223). -/
def State.regOff (s : State) : Loc → Option Nat
  | .mem x => (match s.region x.pa with | .regs off => some off | _ => none)
  | .sp _ => none

def execLd (sz : BitVec 3) (sp : Space) (d a b : Opnd) (imm : BitVec 16) (s : State) : Host.Outcome State Fault Refusal :=
  issue (.ld sz sp d a b imm) s [rdS .a a, rdS .b b, wrS d] fun c => do
    let va := c.address imm
    let n := accBytes sz.toNat
    ensure (va.toNat % n == 0) .misaligned va
    let l ← c.s.locate sp.isSp .load va n (regsOk := n == 4 || n == 8)
    match c.s.regOff l with
    | some off =>
      let s1 ← c.s.order sp
      let s2 ← s1.loadOrder l
      done (c.putS (s2.touch l) (ldExtend sz (s2.regLoad off n)))
    | none =>
      let (s1, v) ← c.s.loadAt sp va n l
      return { s := c.putS s1 (ldExtend sz v), lines := some l.accessed }

def execSt (sz : BitVec 2) (sp : Space) (d a b : Opnd) (imm : BitVec 16) (s : State) : Host.Outcome State Fault Refusal :=
  issue (.st sz sp d a b imm) s [rdS .a a, rdS .b b, rdS .d d] fun c => do
    let va := c.address imm
    let n := accBytes sz.toNat
    ensure (va.toNat % n == 0) .misaligned va
    let l ← c.s.locate sp.isSp .store va n (regsOk := n == 4 || n == 8)
    let v := (c.s_ .d).toNat % 2 ^ (8 * n)
    match c.s.regOff l with
    | some off =>
      let s1 ← c.s.order sp
      let s2 ← s1.inOrder l
      done ((s2.touch l).regStore off n v)
    | none => return { s := ← c.s.storeAt sp va n v l, lines := some l.accessed }

/-- ST.PATCH (R258): the word goes to its home, where fetches see it (R47). -/
def execStPatch (sc : Scope) (o : Ord) (d a b : Opnd) (imm : BitVec 16) (s : State) :
    Host.Outcome State Fault Refusal :=
  issue (.stPatch sc o d a b imm) s [rdS .a a, rdS .b b, rdS .d d] fun c => do
    let va := c.address imm
    ensure (va.toNat % 8 == 0) .misaligned va
    let l ← c.s.locate false .patch va 8
    done (← c.s.storeAt (.mem sc o) va 8 (c.s_ .d).toNat l (now := true))

/-- A scalar slot that an instruction reads and writes: the D of AMO and CAS (R327, R329). -/
def rwS (o : Opnd) : Use := { slot := .d, o, rd := true, wr := true }

/-- The exponent of FXADD: IMM16[10:0], signed (Table 13.1). -/
def fxExp (imm : BitVec 16) : Int := (imm.extractLsb' 0 11).toInt

/-- The address of AMO and CAS: S[A], with the offset but for FXADD (R30). -/
def Ctx.atomicVa (c : Ctx) (op : Aop) (imm : BitVec 16) : Word :=
  if op == .fxadd then c.s_ .a else c.s_ .a + imm.signExtend 64

/-- R327. S[D] is read, so a queue there gives an entry (R28), and its value is not used. -/
def execAmo (op : Aop) (w8 : Bool) (sp : Space) (d a b : Opnd) (imm : BitVec 16) (s : State) :
    Host.Outcome State Fault Refusal :=
  issue (.amo op w8 sp d a b imm) s [rdS .a a, rdS .b b, rwS d] fun c => do
    let n := if w8 then 8 else 4
    let v := (c.s_ .b).toNat % 2 ^ (8 * n)
    let (s1, old, _) ← c.s.scalarAtomic sp false op (c.atomicVa op imm) n fun old =>
      let (new, fl) := atomicNew op n (fxExp imm) old v
      (some new, fl)
    done (c.putS s1 (w64 old))

def execCas (w8 : Bool) (sp : Space) (d a b : Opnd) (imm : BitVec 16) (s : State) : Host.Outcome State Fault Refusal :=
  issue (.cas w8 sp d a b imm) s [rdS .a a, rdS .b b, rwS d] fun c => do
    let n := if w8 then 8 else 4
    let cmp := c.sD.toNat % 2 ^ (8 * n)
    let v := (c.s_ .b).toNat % 2 ^ (8 * n)
    let (s1, old, _) ← c.s.scalarAtomic sp true .swap (c.atomicVa .swap imm) n fun old =>
      (if old = cmp then some v else none, 0#7)
    done (c.putS s1 (w64 old))

/-- E and L of a FENCE kind (Table 11.3): whether earlier stores are in E, and whether later loads and later stores are in L. -/
def fenceSets (kind : BitVec 3) : Bool × Bool × Bool :=
  match kind.toNat with
  | 0 => (true, true, true) | 1 => (false, true, false) | 2 => (false, false, true) | 3 => (true, true, false)
  | _ => (true, false, true)

/-- A FENCE's mark on the queued stores in its E, or returned by the strand's earlier loads: they are performed before the strand's
later accesses in L. -/
def State.fence (s : State) (kind : BitVec 3) : State :=
  let (e, ll, ls) := fenceSets kind
  { s with storeQ := s.storeQ.map fun b =>
      if b.core == s.coreOf s.me && ((e && b.sid == s.cur) || b.readBy.contains s.cur) then
        { b with beforeLoads := if ll && !b.beforeLoads.contains s.cur then s.cur :: b.beforeLoads else b.beforeLoads
                 beforeStores := if ls && !b.beforeStores.contains s.cur then s.cur :: b.beforeStores else b.beforeStores }
      else b }

/-- FENCE (R290). Every access of a strand is performed at CORE as it issues, and everything but the stores of its core's store
queue at its home; so a FENCE at CORE orders by doing nothing, and one beyond it puts those stores before the accesses in L.
Accesses outside L do not wait. -/
def execFence (kind : BitVec 3) (sc : Scope) (s : State) : Host.Outcome State Fault Refusal :=
  issue (.fence kind sc) s [] fun c => done (if sc == .core then c.s else c.s.fence kind)

/-- LSYNC (R292): every earlier access is performed at CORE already. -/
def execLsync (s : State) : Host.Outcome State Fault Refusal :=
  issue .lsync s [] fun c => done c.s

/-! ### FLUSH and INVAL (R247) -/

/-- Write a dirty cached line of host or CXL memory back, with its shadow tag (R243, R245). -/
def State.writeBackHost (s : State) (ln : Nat) : State :=
  match Tab.find s.hostLines ln with
  | some h =>
    if h.dirty then
      let pa := 128 * ln
      let m := putBytes s.mem pa h.data
      let m1 := match s.region pa, s.shadow with
        | .cxl, some b => putBytes m (shadowAt b pa) (natLe 2 h.tag.toNat)
        | _, _ => m
      { s with mem := m1, hostLines := Tab.put s.hostLines ln { h with dirty := false } }
    else s
  | none => s

/-- How far a VA is from the end of the block of a size that holds it. -/
def toEnd (va : Word) (size : Nat) : Nat := size - va.toNat % size

/-- The pages of the range of `len` bytes from `va` on, from offset `off`: the translation and the bytes of each. Pages with
no valid entry, in either stage, are skipped. -/
def State.rangePages (s : State) (w : Who) (va : Word) (len : Nat) : Nat → Nat → Res (List (Xlat × Nat))
  | 0, _ => .ok []
  | fuel + 1, off =>
    if len ≤ off then .ok []
    else
      let v := va + w64 off
      match s.xlat w .load v with
      | .ok x =>
        let n := toEnd v x.pgSize
        (match s.rangePages w va len fuel (off + n) with
        | .ok xs => .ok ((x, Nat.min n (len - off)) :: xs)
        | .error e => .error e)
      | .error (.trap t) =>
        if t.cause == .pageLoad && t.v1 == 0#64 then
          s.rangePages w va len fuel (off + toEnd v (2 ^ lvlShift t.v2.toNat))
        else if t.cause == .pageLoad && t.v1 == 6#64 && t.v2.toNat / 256 == 0 then
          s.rangePages w va len fuel (off + toEnd v 0x10000)
        else .error (.trap t)
      | .error e => .error e

/-- Write back the cached lines that meet the bytes of a page, and drop them for INVAL. -/
def State.flushPage (drop : Bool) (s : State) (p : Xlat × Nat) : State :=
  let lo := p.1.pa / 128
  let hi := (p.1.pa + p.2 - 1) / 128
  let s1 := s.used p.1
  let lns := (s1.hostLines.filter fun e => decide (lo ≤ e.1) && decide (e.1 ≤ hi)).map fun e => e.1
  let s2 := lns.foldl (fun s ln => s.writeBackHost ln) s1
  if drop then { s2 with hostLines := s2.hostLines.filter fun e => !lns.contains e.1 } else s2

/-- The first VA at which the range of `len` bytes from `va` on leaves canonical space (R222, R247), modulo 2^64. -/
def leavesCanonical (va : Word) (len : Nat) : Option Word :=
  if len = 0 then none
  else if !canonical va then some va
  else
    let edge := if va.toNat < 2 ^ 55 then 2 ^ 55 else 2 ^ 64
    if edge < va.toNat + len then some (w64 edge) else none

/-- FLUSH, and INVAL with `drop`. -/
def flushRange (c : Ctx) (imm : BitVec 16) (drop : Bool) : Res Done := do
  let va := c.address imm
  let len := (c.s_ .c).toNat
  match leavesCanonical va len with
  | some v => raise .access v 3#64
  | none => pure ()
  let ps ← c.s.rangePages (c.s.who c.me) va len (2 ^ 48) 0
  c.s.free true false va len
  let s1 ← c.s.fenced
  done (ps.foldl (State.flushPage drop) s1)

def execFlush (a b e : Opnd) (imm : BitVec 16) (s : State) : Host.Outcome State Fault Refusal :=
  issue (.flush a b e imm) s [rdS .a a, rdS .b b, rdS .c e] fun c => flushRange c imm false

def execInval (a b e : Opnd) (imm : BitVec 16) (s : State) : Host.Outcome State Fault Refusal :=
  issue (.inval a b e imm) s [rdS .a a, rdS .b b, rdS .c e] fun c => flushRange c imm true

end Sys2Proof.Machine
end

