-- ==== Sys2Proof/Machine/Manifests.lean ====
section
/-! DEFINITION. Manifests: records, their validation, coordinates and element places (R230, R249–R252), and MNF, MNFGET and
MNFSET (R253–R255). -/

namespace Sys2Proof.Machine

/-! ### Records -/

def Manifest.fmtCode (m : Manifest) : FmtCode := m.fmt.extractLsb' 0 6

/-- FMT 0x3F takes the format from memory or the register. -/
def Manifest.anyFmt (m : Manifest) : Bool := m.fmt == 0x3F#8

def Manifest.ten (m : Manifest) : Bool := m.flags.extractLsb' 0 1 == 1#1

def Manifest.pad (m : Manifest) : Bool := m.flags.extractLsb' 1 1 == 1#1

def Manifest.dim (m : Manifest) (d : Nat) : Nat := (m.dims.getD d 0#32).toNat

def Manifest.stride (m : Manifest) (d : Nat) : Int := (m.strides.getD d 0#64).toInt

/-- The extent along a dimension: at or above RANK only coordinate zero (R249). -/
def Manifest.extent (m : Manifest) (d : Nat) : Nat := if d < m.rank.toNat then m.dim d else 1

/-- DIMS[0], or its whole blocks under PAD with a narrow format (R251). -/
def Manifest.width (m : Manifest) (t : FmtCode) : Nat :=
  if m.pad && isNarrow t then 16 * ((m.dim 0 + 15) / 16) else m.extent 0

/-- The narrow conditions of row 0x17 of Table 10.2. -/
def Manifest.narrowOk (m : Manifest) : Bool :=
  m.stride 0 == 1 && ((List.range 3).all fun d => m.stride (d + 1) % 16 == 0)
    && !(m.pad && decide (2 ≤ m.rank.toNat) && decide (m.stride 1 < 16 * (((m.dim 0 : Int) + 15) / 16)))

/-- The first condition of Table 10.2 that a record breaks. `zeros` says that its zero bytes are zero. -/
def Manifest.check (m : Manifest) (zeros : Bool := true) : Option Nat :=
  let r := m.rank.toNat
  let f := m.fmtCode
  let wide := m.fmt.toNat < 64 && isWide f
  let ds := List.range 4
  let align := if m.ten then 0x20_0000 else if wide then elemBytes f else 128
  if r = 0 || 4 < r then some 0x11
  else if 64 ≤ m.fmt.toNat || (fmtReserved f && !m.anyFmt) then some 0x12
  else if ds.any fun d => if d < r then m.dim d == 0 else m.dim d != 0 || m.stride d != 0 then some 0x13
  else if !zeros || m.flags.toNat / 4 != 0 || (m.pad && wide) then some 0x14
  else if !canonical m.base then some 0x15
  else if m.base.toNat % align != 0 then some 0x16
  else if isNarrow f && !m.anyFmt && !m.narrowOk then some 0x17
  else if 2 ^ 44 ≤ (List.range r).foldl (fun a d => a + (m.dim d - 1) * (m.stride d).natAbs) 0 then some 0x18
  else if m.ten && (List.range r).any fun d => decide (m.stride d < 0) then some 0x19
  else none

/-- A record from its 64 bytes (Table 10.1), and whether its zero bytes are zero. -/
def Manifest.ofBytes (bs : List Byte) : Manifest × Bool :=
  let n := leNat bs
  let word := fun (o k : Nat) => nbits n (8 * o) (8 * k)
  ({ base := w64 (word 0 8), fmt := BitVec.ofNat 8 (word 8 1), rank := BitVec.ofNat 8 (word 9 1)
     flags := BitVec.ofNat 16 (word 10 2)
     dims := (List.range 4).map fun d => BitVec.ofNat 32 (word (16 + 4 * d) 4)
     strides := (List.range 4).map fun d => w64 (word (32 + 8 * d) 8) }, word 12 4 == 0)

/-- The 64 bytes of a record. -/
def Manifest.bytes (m : Manifest) : List Byte :=
  natLe 8 m.base.toNat ++ [m.fmt, m.rank] ++ natLe 2 m.flags.toNat ++ natLe 4 0
    ++ (List.range 4).flatMap (fun d => natLe 4 (m.dim d)) ++ (List.range 4).flatMap (fun d => natLe 8 (m.strides.getD d 0#64).toNat)

/-- The record of a slot; an unbound one raises ILLEGAL 0x10 (R250). -/
def Ctx.slotH (c : Ctx) (h : BitVec 4) : Res Manifest :=
  match c.me.getH h.toNat with
  | some m => .ok m
  | none => raise .illegal (wordOf c.i) 0x10#64

/-- Sub-code 0x17 at run time: a format taken through 0x3F turns out narrow (R250). -/
def Ctx.narrowSlot (c : Ctx) (m : Manifest) (t : FmtCode) : Res Unit :=
  ensure (!(m.anyFmt && isNarrow t && !m.narrowOk)) .illegal (wordOf c.i) 0x17#64

/-! ### Places of elements (R230, R251) -/

/-- The element index of coordinates. -/
def Manifest.index (m : Manifest) (x y z2 z3 : Nat) : Int :=
  x * m.stride 0 + y * m.stride 1 + z2 * m.stride 2 + z3 * m.stride 3

/-- The line and the position in it of element e of a layout in format t from base P (R251). -/
def placeFrom (t : FmtCode) (p : Word) (e : Int) : Word × Nat :=
  if isNarrow t then (p + 128#64 * BitVec.ofInt 64 (e.fdiv (eln t)), (e.fmod (eln t)).toNat)
  else
    let a := p + BitVec.ofInt 64 (e * elemBytes t)
    (a &&& ~~~127#64, a.toNat % 128 / elemBytes t)

/-- EPP (R230). -/
def epp (nfmt : FmtCode) : Nat := 16384 * eln nfmt

/-- The tensor page of element e of a manifest with TEN: its translation. `base` is that of the page at BASE. -/
def State.tenPage (s : State) (w : Who) (k : AccKind) (m : Manifest) (base : Xlat) (e : Int) : Res Xlat := do
  let g := e / (epp base.nfmt : Int)
  let va := m.base + 0x20_0000#64 * BitVec.ofInt 64 g
  let x ← if g = 0 then .ok base else s.xlat w k va
  if !x.ten then fail .access va 2#64
  else if x.nfmt != base.nfmt then fail .tagMismatch (base.nfmt.setWidth 64) (x.nfmt.setWidth 64) va
  else return { x with va := va.toNat }

/-- The place of coordinates of a manifest in a layout format: line, position, and the format that lays the line out. On tensor
pages that is the page's CFMT (R230). -/
def State.manPlace (s : State) (w : Who) (k : AccKind) (m : Manifest) (base : Option Xlat) (t : FmtCode)
    (x y z2 z3 : Nat) : Res (Word × Nat × FmtCode) :=
  let e := m.index x y z2 z3
  match m.ten, base with
  | true, some b => do
    let p ← s.tenPage w k m b e
    let l := (e % (epp b.nfmt : Int)).toNat
    return (w64 p.va + w64 (l / eln p.cfmt * 128), l % eln p.cfmt, p.cfmt)
  | _, _ =>
    let p := placeFrom t m.base e
    .ok (p.1, p.2, t)

/-- The stage-1 leaf of a VA, where a walk or a cached translation gives it, whatever the leaf permits. -/
def State.leaf1 (s : State) (w : Who) (k : AccKind) (va : Word) : Option Word :=
  let walk := fun (_ : Unit) => match s.walk1From w.vi k va 5 0 (bits (s.vi w.vi).vtbase 12 39 * 2 ^ 12) with
    | .ok (e, _) => some e
    | .error _ => none
  match s.cached w.vi (va.toNat % 2 ^ 56) with
  | some t => if Config.useCached s.tick va.toNat then some t.leaf1 else walk ()
  | none => walk ()

/-- The line of element e of a manifest whose place failed: on a tensor page whose leaf is known, the line that the leaf lays it in;
else what the fault named. -/
def State.failedLine (s : State) (w : Who) (k : AccKind) (m : Manifest) (base : Option Xlat) (e : Int) (va : Word) : Word :=
  match m.ten, base with
  | true, some b =>
    let n : Int := epp b.nfmt
    let page := m.base + 0x20_0000#64 * BitVec.ofInt 64 (e / n)
    (match s.leaf1 w k page with
    | some l => if bitAt l 10 then page + w64 ((e % n).toNat / eln (l.extractLsb' 18 6) * 128) else va
    | none => va)
  | _, _ => va

/-- A region of a manifest's coordinates: along each dimension the first and how many. -/
abbrev Box := List (Nat × Nat)

/-- The lowest and the highest element index in a region. -/
def Manifest.span (m : Manifest) (box : Box) : Int × Int :=
  ((List.range 4).zip box).foldl (fun (a : Int × Int) (d : Nat × Nat × Nat) =>
    let p := m.stride d.1 * d.2.1
    let q := m.stride d.1 * (d.2.1 + d.2.2 - 1 : Nat)
    (a.1 + Min.min p q, a.2 + Max.max p q)) (0, 0)

/-- The line of an element, from its first byte to past its last. On a tensor page that cannot be found the whole page stands for
it; with no page at BASE, all that the manifest may reach (log 108). -/
def State.lineRange (s : State) (w : Who) (k : AccKind) (m : Manifest) (base : Option Xlat) (t : FmtCode) (e : Int) : Nat × Nat :=
  if !m.ten then
    let a := (placeFrom t m.base e).1.toNat / 128 * 128
    (a, a + 128)
  else match base with
    | none => (m.base.toNat, m.base.toNat + 0x20_0000 * ((e / 0x4_0000).toNat + 1))
    | some b =>
      match s.tenPage w k m b e with
      | .ok p =>
        let a := p.va + (e % (epp b.nfmt : Int)).toNat / eln p.cfmt * 128
        (a, a + 128)
      | .error _ =>
        let a := (m.base + 0x20_0000#64 * BitVec.ofInt 64 (e / (epp b.nfmt : Int))).toNat
        (a, a + 0x20_0000)

/-- From the lowest byte to past the highest that a region reaches, in whole lines (R293). -/
def State.manRegion (s : State) (w : Who) (k : AccKind) (m : Manifest) (base : Option Xlat) (t : FmtCode) (box : Box) : Nat × Nat :=
  let p := m.span box
  ((s.lineRange w k m base t p.1).1, (s.lineRange w k m base t p.2).2)

/-! ### MNF, MNFGET, MNFSET -/

/-- Read n bytes inside one line as a plain read at DEV scope, line tags ignored (R253, R358). -/
def State.plainRead (s : State) (va : Word) (n : Nat) : Res (State × List Byte) := do
  let l ← s.locate false .load va n
  let (s1, v) ← s.loadAt (.mem .dev .plain) va n l
  return (s1, natLe n v)

/-- Every earlier access of the acting strand is performed at DEV: its own queued stores, and those that its loads returned (R253,
R277). -/
def State.performEarlier (s : State) : Res State :=
  s.drainTracks (s.coreOf s.me) fun b => b.sid == s.cur || b.readBy.contains s.cur

/-- R253. -/
def execMnf (d : BitVec 4) (a b : Opnd) (imm : BitVec 16) (s : State) : Host.Outcome State Fault Refusal :=
  issue (.mnf d a b imm) s [rdS .a a, rdS .b b] fun c => do
    let va := c.address imm
    ensure (va.toNat % 64 == 0) .misaligned va
    let _ ← c.s.locate false .load va 64
    let s0 ← c.s.performEarlier
    let (s1, bs) ← s0.plainRead va 64
    let (m, z) := Manifest.ofBytes bs
    match m.check z with
    | some k => raise .illegal (wordOf c.i) (w64 k)
    | none => done (s1.setMe (s1.me.setH d.toNat m))

/-- A field of a record (R254). -/
def Manifest.field (m : Manifest) (sel : Nat) : Word :=
  match sel with
  | 0 => m.base
  | 1 => m.fmt.setWidth 64
  | 2 => m.rank.setWidth 64
  | 3 => m.flags.setWidth 64
  | 4 | 5 | 6 | 7 => w64 (m.dim (sel - 4))
  | _ => m.strides.getD (sel - 8) 0#64

def execMnfget (d : Opnd) (h sel : BitVec 4) (s : State) : Host.Outcome State Fault Refusal :=
  issue (.mnfget d h sel) s [wrS d] fun c => do
    let m ← c.slotH h
    done (c.putS c.s (m.field sel.toNat))

/-- The range of a field (R255). -/
def fieldFits (sel : Nat) (v : Int) : Bool :=
  match sel with
  | 1 | 2 => decide (0 ≤ v) && decide (v < 256)
  | 3 => decide (0 ≤ v) && decide (v < 65536)
  | 4 | 5 | 6 | 7 => decide (0 ≤ v) && decide (v < 2 ^ 32)
  | _ => decide (-(2 ^ 63) ≤ v) && decide (v < 2 ^ 63)

def Manifest.setField (m : Manifest) (sel : Nat) (v : Int) : Manifest :=
  match sel with
  | 0 => { m with base := BitVec.ofInt 64 v }
  | 1 => { m with fmt := BitVec.ofInt 8 v }
  | 2 => { m with rank := BitVec.ofInt 8 v }
  | 3 => { m with flags := BitVec.ofInt 16 v }
  | 4 | 5 | 6 | 7 => { m with dims := m.dims.set (sel - 4) (BitVec.ofInt 32 v) }
  | _ => { m with strides := m.strides.set (sel - 8) (BitVec.ofInt 64 v) }

/-- BASE and the strides are signed fields. -/
def signedField (sel : Nat) : Bool := sel == 0 || decide (8 ≤ sel)

def execMnfset (add : Bool) (d : BitVec 4) (a : Opnd) (sel : BitVec 4) (s : State) : Host.Outcome State Fault Refusal :=
  issue (.mnfset add d a sel) s [rdS .a a] fun c => do
    let m ← c.slotH d
    let k := sel.toNat
    let w := c.s_ .a
    let x : Int := if add || signedField k then w.toInt else w.toNat
    let old : Int := if signedField k then (m.field k).toInt else (m.field k).toNat
    let v := if add then old + x else x
    ensure (fieldFits k v) .illegal (wordOf c.i) 0x14#64
    let m1 := m.setField k v
    match m1.check with
    | some e => raise .illegal (wordOf c.i) (w64 e)
    | none => done (c.s.setMe (c.me.setH d.toNat m1))

end Sys2Proof.Machine
end

