-- ==== Sys2Proof/Machine/Lines.lean ====
section
/-! DEFINITION. Lines as elements: reading an element of a line, storing elements into lines under a page's policy with the
new tag and the conflicts (R231, R268–R273). Shared by vector stores, copy streams, the exchange engine and tiles. -/

namespace Sys2Proof.Machine

/-- Code and scale of the element at a position of a line (R57). -/
def lineCode (f : FmtCode) (data pos : Nat) : Nat × Nat :=
  let b := elemBits f
  if isNarrow f then
    let seg := (8 + 16 * b) * (pos / 16)
    (nbits data (seg + 8 + b * (pos % 16)) b, nbits data seg 8)
  else (nbits data (b * pos) b, 0)

/-- The value at a position; a line of VCLS zero holds zeros. -/
def LineV.elem (l : LineV) (pos : Nat) : Val :=
  if l.cls == 3 then Val.zero
  else
    let (c, s) := lineCode l.fmt l.data pos
    decodeCode l.fmt s c

/-- An element that a store writes: its value, its code where it is stored bit for bit (UNT), and whether it comes from a
poisoned group. -/
structure StEl where
  v : Val
  raw : Option Nat := none
  psn : Bool := false

/-- How a store encodes: the written format, the rounding, and a wide element's code and flags. -/
structure StFmt where
  t : FmtCode
  rm : RMode
  enc : Val → Nat × Flags

/-- The encoding of elements of format r into t (R69, R268): within one format, values are written as they are. -/
def stFmt (r t : FmtCode) (rm : RMode) : StFmt :=
  { t, rm, enc := fun v =>
      let (c, fl) := encConv t rm (isWInt r) v
      (c, if r == t then fl else fl ||| convFlags t v) }

/-- A line after a store, with the flags of its encodings. -/
structure LineOut where
  line : LineV
  fl : Flags
  whole : Bool

/-- Write the codes of a wide format. -/
def writeWide (sf : StFmt) (data : Nat) (els : Tab StEl) : Nat × Flags :=
  els.foldl (fun (a : Nat × Flags) (p : Nat × StEl) =>
    let (c, fl) := match p.2.raw with | some c => (c, 0#7) | none => sf.enc p.2.v
    let b := elemBits sf.t
    (setNbits a.1 (b * p.1) b c, a.2 ||| fl)) (data, 0#7)

/-- Re-encode the segments of a narrow format that a store touches, from old and new elements (R269). In a line that was of
VCLS zero, or that takes a new format, every segment is written. -/
def writeNarrow (sf : StFmt) (old : LineV) (fresh : Bool) (data : Nat) (els : Tab StEl) : Nat × Flags :=
  let w := elemBits sf.t
  (List.range (segs w)).foldl (fun (a : Nat × Flags) k =>
    if !fresh && !(els.any fun p => p.1 / 16 == k) then a
    else
      let xs := (List.range 16).map fun i =>
        match Tab.find els (16 * k + i) with
        | some e => e.v
        | none => if fresh then Val.zero else old.elem (16 * k + i)
      let (s, cs, fl) := encodeBlock sf.t sf.rm xs
      let seg := (8 + 16 * w) * k
      (setNbits (setNbits a.1 seg 8 s) (seg + 8) (16 * w) (joinCodes w cs), a.2 ||| fl)) (data, 0#7)

/-- A store of elements by position into a line: data, tag (R270) and flags. -/
def lineAfter (sf : StFmt) (dem : Bool) (old : LineV) (els : Tab StEl) : LineOut :=
  let whole := decide (els.length = eln sf.t)
  let fresh := old.cls == 3 || old.fmt != sf.t
  let base := if fresh then 0 else old.data
  let (d, fl) := if isNarrow sf.t then writeNarrow sf old fresh base els else writeWide sf base els
  let psn := (els.any fun p => p.2.psn) || (old.cls == 2 && !whole)
  let cls := if psn then 2 else if partialLine sf.t d then 1 else 0
  let dm := if whole then dem else dem || (old.cls != 3 && tagDem old.tag)
  { line := ({ data := d, tag := mkTag sf.t cls dm } : LineV).clip, fl, whole }

/-- R271: a line written only in part has the written format or VCLS zero. -/
def lineConflicts (t : FmtCode) (old : LineV) (els : Tab StEl) : Bool :=
  decide (els.length ≠ eln t) && old.fmt != t && old.cls != 3

/-! ### Store policy (R231, R268) -/

/-- The written format and DEM that a page gives a format (Table 9.7); none where TRAPWIDE refuses it. -/
def policy (x : Xlat) (f : FmtCode) : Option (FmtCode × Bool) :=
  if x.spol = 0 || f == x.cfmt then some (f, false)
  else if elemBits x.cfmt < elemBits f then (if x.spol = 1 then some (x.cfmt, true) else none)
  else some (x.cfmt, false)

/-- The written format at a page, TRAPWIDE apart. -/
def pageFmt (x : Xlat) (f : FmtCode) : FmtCode := if x.spol = 0 then f else x.cfmt

def Loc.xlat : Loc → Option Xlat
  | .mem x => some x
  | .sp _ => none

/-! ### Writing a list of lines -/

/-- A line that a store writes: its VA or team address, its place and its elements. -/
structure LineW where
  va : Word
  loc : Loc
  els : Tab StEl := []

/-- One element of a store, in element order. -/
structure StCell where
  va : Word
  pos : Nat
  loc : Loc
  el : StEl

/-- Add an element to the lines, last line first; a later element at one position replaces an earlier (R269). -/
def addCell : List LineW → StCell → List LineW
  | [], c => [{ va := c.va, loc := c.loc, els := [(c.pos, c.el)] }]
  | l :: ls, c =>
    if l.va == c.va then { l with els := Tab.put l.els c.pos c.el } :: ls
    else if ls.any fun k => k.va == c.va then l :: addCell ls c
    else { va := c.va, loc := c.loc, els := [(c.pos, c.el)] } :: l :: ls

/-- The lines of a store, in the order of their first elements. -/
def linesOf (cs : List StCell) : List LineW := (cs.foldl addCell []).reverse

def LineW.page (l : LineW) : Option Xlat := l.loc.xlat

/-- The lowest line of a page among the lines of a store. -/
def firstOnPage (ls : List LineW) (x : Xlat) : Word :=
  ls.foldl (fun a l => match l.page with
    | some y => if y.pgVa == x.pgVa && l.va.ult a then l.va else a
    | none => a) (BitVec.allOnes 64)

/-- TAG_CONFLICT of a store of format f written as t, from TRAPWIDE and from a page that gives another written format, each
in element order (R272 item 6). -/
def pageConflicts (f t : FmtCode) (ls : List LineW) : Res Unit := do
  forEach (fun (l : LineW) => match l.page with
    | some x => ensure (policy x f).isSome .tagConflict (x.cfmt.setWidth 64) (f.setWidth 64)
    | none => .ok ()) ls
  forEach (fun (l : LineW) => match l.page with
    | some x => ensure (pageFmt x f == t) .tagConflict (x.cfmt.setWidth 64) (t.setWidth 64) (firstOnPage ls x)
    | none => .ok ()) ls

/-- TAG_CONFLICT of a store from R271, at the lines as they are. -/
def State.lineTags (s : State) (t : FmtCode) (ls : List LineW) : Res Unit :=
  forEach (fun (l : LineW) =>
    let old := s.lineOf l.loc
    ensure (!lineConflicts t old l.els) .tagConflict (old.fmt.setWidth 64) (t.setWidth 64) l.va) ls

/-- A poisoned group bound for host or CXL memory raises POISON_CONSUMED (R243, R272). -/
def State.storePoison (s : State) (ls : List LineW) : Res Unit :=
  forEach (fun (l : LineW) => match l.page with
    | some x => (match s.region x.pa with
      | .host | .cxl => ensure (!l.els.any fun p => p.2.psn) .poisonConsumed l.va
      | _ => .ok ())
    | none => .ok ()) ls

/-- DEM of a store at a page (Table 9.7). -/
def pageDem (l : LineW) (f : FmtCode) : Bool :=
  match l.page with
  | some x => (match policy x f with | some (_, d) => d | none => false)
  | none => false

/-- The lines of a store of several lines that is sequentially consistent beyond CORE are performed line by line too (R311): the
strand's next such access finds them at their homes (R288). -/
def relaxed : Space → Space
  | .mem sc .sc => .mem sc .rel
  | sp => sp

/-- A line of a store enters its core's store queue, as a scalar store does. A store of more lines than a core has request entries
writes them all at their homes. -/
def State.lineQueued (s : State) (sp : Space) (n : Nat) (l : LineW) : Bool :=
  decide (n ≤ 8192) && (match l.page with
    | some x => queues s (relaxed sp) x
    | none => false)

/-- A line that its store writes whole: its new contents and tag do not depend on the old ones. -/
def LineW.whole (l : LineW) (t : FmtCode) : Bool := decide (l.els.length = eln t)

/-- The waits of a store of lines, each line at its turn (R273, R311): interlocks, request entries and the order of ORD; for the
lines that go to their homes at once their reservations; for a queued line that is written in part an exclusive reservation, or
another store that has checked it, as its tag is checked now (R271); for both the core's earlier stores to their tracks. -/
def State.readyLines (s : State) (sp : Space) (t : FmtCode) (ls : List LineW) : Res State := do
  forEach (fun (l : LineW) => s.free true sp.isSp l.va 128) ls
  if !sp.isSp then s.requests ls.length
  let s1 ← s.order sp
  let now := ls.filter fun l => !(s1.lineQueued sp ls.length l && l.whole t)
  forEach (fun (l : LineW) =>
    if s1.lineQueued sp ls.length l then (if s1.reserved false l.loc.line || s1.locked l.loc.line then throw .stall else pure ())
    else s1.notHeld true l.loc) now
  let s2 ← now.foldlM (fun s l => s.inOrder l.loc) s1
  s2.fenced

/-- The last checks of a store, at lines that no older transfer still writes (R295): R271, at one moment with the writes of the
partial lines, and poison bound for host or CXL memory (R272 items 6 and 7). -/
def State.storeLines (s : State) (sp : Space) (t : FmtCode) (ls : List LineW) : Res State := do
  let s1 ← s.readyLines sp t ls
  s1.lineTags t ls
  s1.storePoison ls
  return s1

/-- Write one line of a store that has passed its checks; `n` is the number of its lines. -/
def State.writeOne (s : State) (sp : Space) (sf : StFmt) (f : FmtCode) (n : Nat) (l : LineW) : State × Flags :=
  let after := fun (old : LineV) => lineAfter sf (pageDem l f) old l.els
  let home := fun (o : LineOut) => (s.putLine o.whole o.line l.loc, o.fl)
  match l.page with
  | some x =>
    if s.lineQueued sp n l then
      let o := after (s.coreLine x)
      (s.enqueue { x with pa := x.pa / 128 * 128 } l.va (natLe 128 o.line.data) (some o.line.tag) (part := !o.whole), o.fl)
    else home (after (s.lineOf l.loc))
  | none => home (after (s.lineOf l.loc))

/-- Write lines that have passed their checks, those written in part first in their tracks; the flags of the encodings. -/
def State.writeLines (s : State) (sp : Space) (sf : StFmt) (f : FmtCode) (ls : List LineW) : State × Flags :=
  (ls.filter (fun l => !l.whole sf.t) ++ ls.filter fun l => l.whole sf.t).foldl (fun (a : State × Flags) l =>
    let r := a.1.writeOne sp sf f ls.length l
    (r.1, a.2 ||| r.2)) (s, 0#7)

end Sys2Proof.Machine
end

