-- ==== Sys2Proof/Machine/VecMem.lean ====
section
/-! DEFINITION. Vector loads and stores (R260–R274), VAMO (R330–R332), VSAVE and VRSTR (R172). -/

namespace Sys2Proof.Machine

/-! ### Where the elements of a form lie (Table 10.7) -/

/-- The addressing of a vector memory form. -/
inductive Form where
  /-- position j from P -/
  | byte (p : Word)
  /-- byte P + j·stride -/
  | strided (p stride : Word)
  /-- position o_j from P; the offsets, and the specifier of B -/
  | indexed (p : Word) (o : VOp) (spec : BitVec 7)
  /-- coordinates (x0 + j, y0 + t′, z2, z3) of a manifest, for K rows -/
  | man (m : Manifest) (x0 y0 z2 z3 k : Nat)

def Form.rows : Form → Nat
  | .man _ _ _ _ _ k => k
  | _ => 1

/-- The place that gives the format of a load, or the reference page of a store: P, or BASE. -/
def Form.ref : Form → Word
  | .byte p => p
  | .strided p _ => p
  | .indexed p _ _ => p
  | .man m _ _ _ _ _ => m.base

def Form.manifest : Form → Option Manifest
  | .man m _ _ _ _ _ => some m
  | _ => none

/-- A wide integer element as an integer. -/
def elemInt (v : VOp) (j : Nat) : Int :=
  match v.elem j with
  | .fin neg n _ => Val.snum neg n
  | _ => 0

/-- Line and position of element j of row t′ in the layout format t, and the format that lays its line out. `base` is the
translation at BASE for tensor pages. -/
def State.place (s : State) (w : Who) (k : AccKind) (fm : Form) (base : Option Xlat) (t : FmtCode) (row j : Nat) :
    Res (Word × Nat × FmtCode) :=
  let at' := fun (p : Word) (e : Int) => let q := placeFrom t p e; (q.1, q.2, t)
  match fm with
  | .byte p => .ok (at' p j)
  | .strided p st => .ok (at' (p + w64 j * st) 0)
  | .indexed p o _ => .ok (at' p (elemInt o j))
  | .man m x0 y0 z2 z3 _ => s.manPlace w k m base t (x0 + j) (y0 + row) z2 z3

/-- The byte address that an access to a position reports: of the element where t is wide, of its line where it is narrow. -/
def cellVa (t : FmtCode) (va : Word) (pos : Nat) : Word := if isNarrow t then va else va + w64 (pos * elemBytes t)

def cellBytes (t : FmtCode) : Nat := if isNarrow t then 128 else elemBytes t

/-- A form reads a padding element of memory (R261): one at or beyond DIMS[0]. -/
def Form.memPad : Form → Nat → Bool
  | .man m x0 _ _ _ _, j => decide (m.extent 0 ≤ x0 + j)
  | _, _ => false

/-! ### Checks before the memory faults (R260, R261) -/

/-- MISALIGNED (R260): P or BASE, and every byte address of a strided form. -/
def misaligned (fm : Form) (t : FmtCode) (js : List Nat) : Res Unit := do
  let a := if isNarrow t then 128 else elemBytes t
  ensure (fm.ref.toNat % a == 0) .misaligned fm.ref
  match fm with
  | .strided p st =>
    if isNarrow t then return ()
    else forEach (fun j => ensure ((p + w64 j * st).toNat % a == 0) .misaligned (p + w64 j * st) (w64 j)) js
  | _ => return ()

/-- BOUND along one dimension: n coordinates from c against an extent (R199). -/
def coordOk (d c n ext : Nat) : Res Unit := ensure (decide (c + n ≤ ext)) .bound 0xFE#64 (w64 (c + n - 1)) (w64 (8 + d))

/-- BOUND of the manifest forms (R261). Where the line that gives the format fails, what BOUND says of every format stands
before that fault (R264). -/
def boundCheck (fm : Form) (f : Option FmtCode) (vl : Nat) : Res Unit :=
  match fm with
  | .man m x0 y0 z2 z3 k => do
    let t := f.getD 0#6
    coordOk 0 x0 vl (if f.isNone && m.pad then 16 * ((m.dim 0 + 15) / 16) else m.width t)
    coordOk 1 y0 k (m.extent 1)
    coordOk 2 z2 1 (m.extent 2)
    coordOk 3 z3 1 (m.extent 3)
    ensure (!isNarrow t || x0 % 16 == 0) .bound 0xFE#64 (w64 x0) 13#64
  | _ => .ok ()

/-- TAG_FORBIDDEN of a narrow strided form, and the checks on offsets (R125, R261), in the order of R155. An offset register that is
no wide integer is named as fb, with fa zero (log 121). -/
def offsetCheck (c : Ctx) (fm : Form) (t : FmtCode) (js : List Nat) : Res Unit :=
  match fm with
  | .strided _ _ => if isNarrow t then forbid3 t 0#6 else .ok ()
  | .indexed _ o spec => do
    if !isWInt o.fmt then forbid3 0#6 o.fmt
    laneMismatch [o]
    ensure (c.me.vlen ≤ cap o.fmt) .capacity c.me.vl (o.fmt.setWidth 64)
    forEach (fun j => ensure (!o.psn j) .poisonConsumed (w64 j) (spec.setWidth 64)) js
  | _ => .ok ()

/-- The checks of items 3 and 4 of R264 for a layout format. -/
def preChecks (c : Ctx) (fm : Form) (t : FmtCode) (js : List Nat) : Res Unit := do
  misaligned fm t js
  boundCheck fm (some t) c.me.vlen
  offsetCheck c fm t js

/-- The elements that a form touches, in order: active and padding. In a restarted form those from TSTART on. -/
def touched (c : Ctx) (g0 : Nat) : List Nat :=
  (List.range (Nat.min c.me.vlen 1024)).filter fun j => decide (16 * g0 ≤ j) && (c.isAct j || c.isPad j)

/-! ### Loads -/

/-- An element found by a load. -/
structure LdCell where
  row : Nat
  j : Nat
  va : Word
  pos : Nat

/-- What the translation of a load's footprint found: elements, lines by VA, and the lowest failing element. -/
structure Foot where
  cells : List LdCell := []
  lines : Tab Loc := []
  fail : Option (Nat × Trap) := none

/-- Find the places of elements of one row in order, up to the first that fails. Waits are passed on. -/
def State.footRow (s : State) (sp : Bool) (k : AccKind) (fm : Form) (base : Option Xlat) (t : FmtCode) (row : Nat) :
    List Nat → Foot → Res Foot
  | [], ft => .ok ft
  | j :: js, ft =>
    if (match ft.fail with | some (f, _) => decide (f ≤ j) | none => false) then .ok ft
    else
      match s.place (s.who s.me) k fm base t row j with
      | .error (.trap e) => .ok { ft with fail := some (j, e) }
      | .error e => .error e
      | .ok (va, pos, lay) =>
        let cell : LdCell := { row, j, va, pos }
        match Tab.find ft.lines va.toNat with
        | some _ => s.footRow sp k fm base t row js { ft with cells := cell :: ft.cells }
        | none =>
          match s.locate sp k (cellVa lay va pos) (cellBytes lay) with
          | .error (.trap e) => .ok { ft with fail := some (j, e) }
          | .error e => .error e
          | .ok l => s.footRow sp k fm base t row js
              { ft with cells := cell :: ft.cells, lines := Tab.put ft.lines va.toNat l }

/-- The footprint of every row; the cells of each row in element order. -/
def State.foot (s : State) (sp : Bool) (k : AccKind) (fm : Form) (base : Option Xlat) (t : FmtCode) (js : List Nat) :
    Res Foot := do
  let ft ← (List.range fm.rows).foldlM (fun ft row => s.footRow sp k fm base t row js ft) {}
  return { ft with cells := ft.cells.reverse }

/-- How many lines a footprint has, as far as its addresses are known: the request entries of an access that waits at translation
(R229). -/
def State.footLines (s : State) (k : AccKind) (fm : Form) (base : Option Xlat) (t : FmtCode) (js : List Nat) : Nat :=
  ((js.flatMap fun j => (List.range fm.rows).filterMap fun row =>
    match s.place (s.who s.me) k fm base t row j with | .ok x => some x.1 | .error _ => none).eraseDups).length

def Foot.loc (ft : Foot) (va : Word) : Loc := (Tab.find ft.lines va.toNat).getD (.sp 0)

/-- What a load reads at the lines of its footprint. -/
structure Read where
  f : FmtCode
  cells : List LdCell
  lines : Tab LineV

def Read.line (r : Read) (va : Word) : LineV := Tab.get { data := 0, tag := tagReset } r.lines va.toNat

/-- The cells of one row by element. -/
def Read.row (r : Read) (row : Nat) : Tab LdCell :=
  (r.cells.filter fun c => c.row == row).foldl (fun t c => Tab.put t c.j c) []

/-- A loaded element: codes and scales bit for bit; zero and poisoned lines give zero codes (R262). -/
def Read.el (r : Read) (cs : Tab LdCell) (j : Nat) : El :=
  match Tab.find cs j with
  | none => .val Val.zero 0#7
  | some c =>
    let l := r.line c.va
    if l.cls == 3 then .val Val.zero 0#7
    else if l.cls == 2 then .raw 0 0
    else
      let (code, sc) := lineCode r.f l.data c.pos
      .raw code sc

def Read.feed (r : Read) (cs : Tab LdCell) (j : Nat) : Bool :=
  match Tab.find cs j with
  | some c => (r.line c.va).cls == 2
  | none => false

/-- The result of a load for one row (R263): padding elements receive what memory holds. -/
def Read.vw (r : Read) (row g0 : Nat) (m : RMode) : VW :=
  let cs := r.row row
  { fmt := r.f, act := fun j => (Tab.find cs j).isSome, pad := fun _ => false, el := r.el cs, feed := r.feed cs, rm := m,
    enc := roundTo r.f m, g0 }

/-- TAG_MISMATCH of the lines below the failing element (R262). -/
def Read.mismatch (r : Read) (k : Option Nat) : Res Unit :=
  forEach (fun c =>
    let l := r.line c.va
    ensure (l.cls == 2 || l.cls == 3 || l.fmt == r.f || (match k with | some n => decide (n ≤ c.j) | none => false))
      .tagMismatch (r.f.setWidth 64) (l.fmt.setWidth 64) c.va) r.cells

/-- The copy stream of a KB load: its arrival pointer, and whether more may arrive (R221, R267). -/
def Ctx.arrival (c : Ctx) (k : Nat) : Res (Nat × Bool) := do
  let n := c.s.myCar.wb.kstreams
  ensure (k < n) .access (w64 k) (lowMask n) 0#64
  let x := Tab.get {} c.s.myTeam.streams k
  return (x.dest + x.avail * x.rowlen, x.state == .active || x.state == .faulted)

/-- Leading elements that lie wholly below an arrival pointer (R267). -/
def arrived (t : FmtCode) (p : Word) (a : Nat) : Nat :=
  let room := a - p.toNat
  if isNarrow t then room / 128 * eln t else room / elemBytes t

/-- A new VL of n for the length L and padding start at issue (R266, R267). -/
def State.trimVl (s : State) (n : Nat) : State :=
  let st := s.me
  (s.setMe { st with vl := w64 n, vpad := w64 (n - st.padFrom) }).reallocMine

/-! The line that gives a load its format -/

/-- The place that a load looks at for its format, or for the page of a tensor manifest (R251, R262). -/
def State.loadRef (s : State) (isSp : Bool) (fm : Form) : Except Stop (Option Loc) :=
  match fm.manifest with
  | none => (s.locate isSp .load fm.ref 1).map some
  | some m =>
    if m.anyFmt then (s.locate isSp .load m.base 1).map some
    else if m.ten then (s.xlat (s.who s.me) .load m.base).map fun x => some (.mem x)
    else .ok none

/-- A load takes its format from the line at P or BASE. -/
def Form.fromLine (fm : Form) : Bool := match fm.manifest with | some m => m.anyFmt | none => true

/-- A line may be read: the arrival pointer has passed it, for a load that is bound to a stream, whatever the stream's state (R221),
and no older transfer still writes it (R295). -/
def State.lineReady (s : State) (isSp : Bool) (kb : Option Nat) (arr : Option (Nat × Bool)) (va : Nat) : Res Unit := do
  match arr with
  | some (a, _) => if a < va + 128 then throw .stall
  | none => pure ()
  s.free false isSp (w64 va) 128 kb

/-- What a load finds at the place of its format: the state after the stores before it, the line read, the place, the format,
and how the place failed. -/
structure LoadRef where
  s : State
  got : Tab LineV := []
  loc : Option Loc := none
  f : Option FmtCode := none
  err : Option Stop := none

/-- The format of a load (R262). Its line is read after all that the load waits for there. -/
def State.loadFmt (s : State) (sp : Space) (kb : Option Nat) (arr : Option (Nat × Bool)) (fm : Form) : Res LoadRef :=
  let own := match fm.manifest with | some m => if m.anyFmt then none else some m.fmtCode | none => none
  match s.loadRef sp.isSp fm with
  | .error e => .ok { s, f := own, err := some e }
  | .ok none => .ok { s, f := own }
  | .ok (some l) =>
    if fm.fromLine then do
      s.lineReady sp.isSp kb arr (fm.ref.toNat / 128 * 128)
      let s1 ← s.order sp
      let (s2, got) ← s1.gather [l]
      return { s := s2, got, loc := some l, f := some (s2.gathered got l).fmt }
    else .ok { s, f := own, loc := some l }

/-- A vector load that has passed its checks: the operands and state to go on from, what it read, the places of its lines,
the first element that failed with its trap, and the first group to write. -/
structure LoadPlan where
  c1 : Ctx
  s1 : State
  r : Read
  lines : Tab Loc
  fail : Option (Nat × Trap)
  g0 : Nat

/-- TRIM cuts VL to what has arrived (R267). -/
def trimTo (c : Ctx) (s : State) (trim : Bool) (arr : Option (Nat × Bool)) (fm : Form) (f : Option FmtCode) : Res Ctx :=
  match arr, f with
  | some (a, more), some t =>
    if trim then
      let n := arrived t fm.ref a
      if n = 0 && more then .error .stall
      else
        let l := Nat.min c.me.vlen n
        .ok { c with s := s.trimVl (if isNarrow t then l / 16 * 16 else l) }
    else .ok { c with s }
  | _, _ => .ok { c with s }

/-- Items 2 to 4 of R264 that depend on the format; where the line that gives it fails, those that do not. -/
def fmtChecks (c : Ctx) (fm : Form) (f : Option FmtCode) (js : List Nat) : Res Unit := do
  match f with
  | some t => preChecks c fm t js
  | none => do
    boundCheck fm none c.me.vlen
    offsetCheck c fm 0#6 js

/-- The first failing element as the load takes it: for VLDF in a narrow format the first of its line (R266). -/
def Foot.failing (ft : Foot) (first : Bool) (t : FmtCode) : Option (Nat × Trap) :=
  ft.fail.map fun (k, e) => (if first && isNarrow t then k / eln t * eln t else k, e)

/-- In the manifest forms with a format of their own, the line of the first element that the load touches fails (R264 item 5;
log 106). -/
def Form.firstFails (fm : Form) (js : List Nat) (fail : Option (Nat × Trap)) : Res Unit :=
  match fail with
  | some (k, e) => if fm.manifest.isSome && !fm.fromLine && js.head? == some k then .error (.trap e) else .ok ()
  | none => .ok ()

/-- The lines that a load reads, with the line that gave its format. -/
def LoadRef.lines (ref : LoadRef) (fm : Form) (ft : Foot) : Tab Loc :=
  let k := fm.ref.toNat / 128 * 128
  match ref.loc with
  | some l => if fm.fromLine && (Tab.find ft.lines k).isNone then Tab.put ft.lines k l else ft.lines
  | none => ft.lines

/-- TAG_MISMATCH and CAPACITY of the elements below the failing one, then the first group to write, with TAG_CONFLICT (R262,
R264, R265). -/
def Read.checks (r : Read) (c : Ctx) (restarts : Bool) (k : Option Nat) : Res Nat := do
  r.mismatch k
  let tooLong := decide (cap r.f < c.me.vlen) && (match k with | some n => decide (cap r.f < n) | none => true)
  ensure (!tooLong) .capacity c.me.vl (r.f.setWidth 64)
  if restarts then restart c r.f
  else do
    laneConflict c r.f c.td
    return 0

/-- The checks, waits and reads of a vector load (R262–R267), in order. `sp` and `kb` come from its qualifier; `first` is
VLDF; `restarts` says that TSTART counts. -/
def loadPlan (c : Ctx) (sp : Space) (kb : Option Nat) (trim first restarts : Bool) (fm : Form) : Res LoadPlan := do
  let arr ← (match kb with
    | some k => do let a ← c.arrival k; return some a
    | none => return none)
  let ref ← c.s.loadFmt sp kb arr fm
  match fm.manifest, ref.f with
  | some m, some t => c.narrowSlot m t
  | _, _ => pure ()
  let c1 ← trimTo c ref.s trim arr fm ref.f
  let js := touched c1 (if restarts then (match c.td with | .push _ => 0 | _ => c.me.tstart.toNat / 16) else 0)
  fmtChecks c1 fm ref.f js
  match ref.err with
  | some e => throw e
  | none => pure ()
  let base := match ref.loc with | some (.mem x) => some x | _ => none
  let t := ref.f.getD 0#6
  let ft ← ofLines (fun _ => c1.s.footLines .load fm base t js) (c1.s.foot sp.isSp .load fm base t js)
  let kf := ft.failing first t
  fm.firstFails js kf
  let ls := ref.lines fm ft
  forEach (fun (p : Nat × Loc) => c1.s.lineReady sp.isSp kb arr p.1) ls
  if !sp.isSp then c1.s.requests ls.length
  let s1 ← c1.s.order sp
  let (s2, got) ← s1.gather (ls.map fun p => p.2) ref.got
  let s3 := match base with | some x => if fm.fromLine then s2 else s2.used x | none => s2
  let k := kf.map fun x => x.1
  let r : Read := { f := t, cells := ft.cells.filter fun x => (match k with | some n => decide (x.j < n) | none => true)
                    lines := ls.map fun (p : Nat × Loc) => (p.1, s2.gathered got p.2) }
  let g0 ← r.checks c1 restarts k
  return { c1, s1 := s3, r, lines := ls, fail := kf, g0 }

/-- The groups below g of a load that restarts commit, and TSTART records the first element not committed (R265). -/
def LoadPlan.commitTo (p : LoadPlan) (c : Ctx) (m : RMode) (g : Nat) : State :=
  let r' := { p.r with cells := p.r.cells.filter fun x => decide (x.j < 16 * g) }
  let s1 := (p.lines.filter fun q => r'.cells.any fun x => x.va.toNat == q.1).foldl (fun s (q : Nat × Loc) => s.touch q.2) p.s1
  let s2 := c.putV s1 (r'.vw 0 p.g0 m)
  s2.setMe { s2.me with tstart := w64 (16 * g) }

/-- What a load does with its plan: every row (R263, R265); of a load that met a fault, the groups below it, or for VLDF the
elements below it (R265, R266). VLDG commits no group on a fault (R264). -/
def loadFinish (c : Ctx) (first restarts : Bool) (rm : Rm) (fm : Form) (p : LoadPlan) : Res Done :=
  let m := c.me.rmode rm
  let touchAll := fun (s : State) => p.lines.foldl (fun s (q : Nat × Loc) => s.touch q.2) s
  match p.fail with
  | some (n, e) =>
    if first then
      if n = 0 then throw (.trap e)
      else
        -- a refusal of the host that trims the load is spent (R244)
        let c2 : Ctx := { p.c1 with s := ((touchAll p.s1).spendFor e).trimVl n }
        done (c2.putV c2.s (p.r.vw 0 p.g0 m))
    else
      let g := n / 16
      match c.td with
      | .push _ => throw (.trap e)
      | _ =>
        if !restarts then throw (.trap e)
        else if g ≤ p.g0 then throw (.trapIn e (c.s.setMe { c.me with tstart := w64 (16 * g) }))
        else throw (.trapIn e (p.commitTo c m g))
  | none =>
    let lines := some (memLines p.lines fun va => p.r.line (w64 va))
    match fm.manifest, c.td with
    | some _, .reg n =>
      return { s := (List.range fm.rows).foldl (fun s row => putVAt s (.reg (n + row)) (p.r.vw row p.g0 m)) (touchAll p.s1), lines }
    | _, _ => return { s := p.c1.putV (touchAll p.s1) (p.r.vw 0 p.g0 m), lines }

/-- What kind of vector load an instruction is: its slots, mask and rounding, its space and stream, TRIM, and its addressing. -/
structure LoadSpec where
  us : List Use
  msk : Mk
  rm : Rm
  sp : Space
  kb : Option Nat := none
  trim : Bool := false
  first : Bool := false
  restarts : Bool := true
  form : Ctx → Res Form

/-- A vector load. -/
def LoadSpec.body (l : LoadSpec) (c : Ctx) : Res Done := do
  let fm ← l.form c
  loadFinish c l.first l.restarts l.rm fm (← loadPlan c l.sp l.kb l.trim l.first l.restarts fm)

/-- The space, the stream and TRIM of a load's qualifier (R31). -/
def qualSpace : Qual → Space
  | .mem sc o => .mem sc o
  | .sp o => .sp o
  | .kb _ => .sp .plain

def qualKb : Qual → Option Nat
  | .kb k => some k.toNat
  | _ => none

/-- The form of the manifest loads and stores (Table 10.7). -/
def Ctx.manForm (c : Ctx) (m : Manifest) (k : Nat) : Form :=
  let b := (c.s_ .b).toNat
  let z := (c.s_ .c).toNat
  .man m (b % 2 ^ 32) (b / 2 ^ 32) (z % 2 ^ 32) (z / 2 ^ 32) k

/-- SP = 1 with a manifest TEN of 1 raises ILLEGAL with sub-code 0x2. -/
def Ctx.spTen (c : Ctx) (sp : Space) (m : Manifest) : Res Unit :=
  ensure (!(sp.isSp && m.ten)) .illegal (wordOf c.i) 2#64

def vldSpec (mk : Mk) (rm : Rm) (ql : Qual) (trim : Bool) (d a b : Opnd) (imm : BitVec 16) : LoadSpec :=
  { us := [rdS .a a, rdS .b b, wrV d], msk := mk, rm, sp := qualSpace ql, kb := qualKb ql, trim, form := fun c => .ok (.byte (c.address imm)) }

def vldsSpec (mk : Mk) (rm : Rm) (ql : Qual) (d a b : Opnd) (imm : BitVec 16) : LoadSpec :=
  { us := [rdS .a a, rdS .b b, wrV d], msk := mk, rm, sp := qualSpace ql, kb := qualKb ql
    form := fun c => .ok (.strided (c.s_ .a + imm.signExtend 64) (c.s_ .b)) }

def vldxSpec (mk : Mk) (rm : Rm) (ql : Qual) (d a b : Opnd) (imm : BitVec 16) : LoadSpec :=
  { us := [rdS .a a, rdV .b b, wrV d], msk := mk, rm, sp := qualSpace ql, kb := qualKb ql
    form := fun c => .ok (.indexed (c.s_ .a + imm.signExtend 64) (c.v_ .b) b.code) }

def vldfSpec (mk : Mk) (rm : Rm) (ql : Qual) (d a b : Opnd) (imm : BitVec 16) : LoadSpec :=
  { us := [rdS .a a, rdS .b b, wrV d], msk := mk, rm, sp := qualSpace ql, kb := qualKb ql, first := true, restarts := false
    form := fun c => .ok (.byte (c.address imm)) }

/-- The form of a manifest load of k rows. -/
def Ctx.manLoad (c : Ctx) (sp : Space) (h : BitVec 4) (k : Nat) : Res Form := do
  let m ← c.slotH h
  c.spTen sp m
  return c.manForm m k

def vldmSpec (mk : Mk) (rm : Rm) (sp : Space) (d : Opnd) (h : BitVec 4) (b c' : Opnd) : LoadSpec :=
  { us := [rdS .b b, rdS .c c', wrV d], msk := mk, rm, sp, form := fun c => c.manLoad sp h 1 }

def vldgSpec (mk : Mk) (rm : Rm) (sp : Space) (d : Opnd) (h : BitVec 4) (b c' : Opnd) (k : BitVec 4) : LoadSpec :=
  { us := [rdS .b b, rdS .c c', { wrV d with grp := k.toNat, isGrp := true }], msk := mk, rm, sp, restarts := false
    form := fun c => c.manLoad sp h k.toNat }

def execVld (mk : Mk) (rm : Rm) (ql : Qual) (trim : Bool) (d a b : Opnd) (imm : BitVec 16) (s : State) :
    Host.Outcome State Fault Refusal :=
  let l := vldSpec mk rm ql trim d a b imm
  issue (.vld mk rm ql trim d a b imm) s l.us l.body (mk := mk)

def execVlds (mk : Mk) (rm : Rm) (ql : Qual) (d a b : Opnd) (imm : BitVec 16) (s : State) :
    Host.Outcome State Fault Refusal :=
  let l := vldsSpec mk rm ql d a b imm
  issue (.vlds mk rm ql d a b imm) s l.us l.body (mk := mk)

def execVldx (mk : Mk) (rm : Rm) (ql : Qual) (d a b : Opnd) (imm : BitVec 16) (s : State) :
    Host.Outcome State Fault Refusal :=
  let l := vldxSpec mk rm ql d a b imm
  issue (.vldx mk rm ql d a b imm) s l.us l.body (mk := mk)

def execVldf (mk : Mk) (rm : Rm) (ql : Qual) (d a b : Opnd) (imm : BitVec 16) (s : State) :
    Host.Outcome State Fault Refusal :=
  let l := vldfSpec mk rm ql d a b imm
  issue (.vldf mk rm ql d a b imm) s l.us l.body (mk := mk)

def execVldm (mk : Mk) (rm : Rm) (sp : Space) (d : Opnd) (h : BitVec 4) (b c' : Opnd) (s : State) :
    Host.Outcome State Fault Refusal :=
  let l := vldmSpec mk rm sp d h b c'
  issue (.vldm mk rm sp d h b c') s l.us l.body (mk := mk)

def execVldg (mk : Mk) (rm : Rm) (sp : Space) (d : Opnd) (h : BitVec 4) (b c' : Opnd) (k : BitVec 4) (s : State) :
    Host.Outcome State Fault Refusal :=
  let l := vldgSpec mk rm sp d h b c' k
  issue (.vldg mk rm sp d h b c' k) s l.us l.body (mk := mk)

/-- The loads of R389, which may stop after a committed group. One with TRIM is left whole. -/
def loadSpec : Instr → Option LoadSpec
  | .vld mk rm ql false d a b imm => some (vldSpec mk rm ql false d a b imm)
  | .vlds mk rm ql d a b imm => some (vldsSpec mk rm ql d a b imm)
  | .vldx mk rm ql d a b imm => some (vldxSpec mk rm ql d a b imm)
  | .vldm mk rm sp d h b c' => some (vldmSpec mk rm sp d h b c')
  | _ => none

/-- The acting strand is stopped in a load of R389 after it has committed groups: `n` of them, of those that can be committed
before the last (R390; log 104). None where it commits none. -/
def State.loadStopped (s : State) (i : Instr) (n : Nat) : Option State :=
  match loadSpec i with
  | none => none
  | some l =>
    let r : Res State := do
      let c ← ready i s l.us l.msk fun _ => .ok ()
      let fm ← l.form c
      let p ← loadPlan c l.sp l.kb l.trim l.first l.restarts fm
      let last := match p.fail with | some (k, _) => k / 16 | none => (c.me.vlen - 1) / 16
      let g := Nat.min n last
      match c.td with
      | .push _ => throw .stall
      | _ => if g ≤ p.g0 then throw .stall else return p.commitTo c (c.me.rmode l.rm) g
    match r with
    | .ok s' => some s'
    | .error _ => none

/-! ### Stores -/

/-- The elements of a row of a store, as values or, for UNT, codes. -/
def stEl (v : VOp) (unt act : Bool) (memPad : Bool) (j : Nat) : StEl :=
  if act && !memPad then { v := if unt then Val.zero else v.elem j, raw := if unt then some (v.code j) else none, psn := v.psn j }
  else { v := Val.zero, raw := if unt then some 0 else none }

/-- The cells of a store, each translated, from its elements as row and number; `el` gives what a row stores. -/
def State.storeCells (s : State) (sp : Bool) (fm : Form) (base : Option Xlat) (t : FmtCode) (el : Nat → Nat → StEl) :
    List (Nat × Nat) → Tab Loc → Res (List StCell)
  | [], _ => .ok []
  | (row, j) :: js, ls => do
    let (va, pos, lay) ← s.place (s.who s.me) .store fm base t row j
    let l ← (match Tab.find ls va.toNat with
      | some l => .ok l
      | none => s.locate sp .store (cellVa lay va pos) (cellBytes lay))
    let cs ← s.storeCells sp fm base t el js (Tab.put ls va.toNat l)
    return { va, pos, loc := l, el := el row j } :: cs

/-- A vector store that has passed its checks: the state to go on from, the requested and the written format, and its
lines. -/
structure StorePlan where
  s1 : State
  sp : Space
  r : FmtCode
  f : FmtCode
  t : FmtCode
  lines : List LineW

/-- The registers of a store have one format (R125, R268). `reg` is the first of a group. -/
def sourceFmts (vs : List VOp) (r : FmtCode) (reg : Nat) : Res Unit := do
  laneMismatch vs
  forEach (fun (p : Nat × VOp) => ensure (p.2.fmt == r) .tagMismatch (r.setWidth 64) (p.2.fmt.setWidth 64) (w64 (reg + p.1)))
    ((List.range vs.length).zip vs)

/-- The checks and waits of a vector store of the registers `vs`, one per row (R268–R272), in order. Its elements go row by row
within each element number: a fault of translation is that of the lowest element. -/
def storePlan (c : Ctx) (sp : Space) (fm : Form) (vs : List VOp) (reg : Nat) : Res StorePlan := do
  let s := c.s
  let isSp := sp.isSp
  let v0 := vs.headD (VOp.ofReg {})
  let r := v0.fmt
  -- the requested format, and the reference page that fixes the written one
  let f := match fm.manifest with | some m => if m.anyFmt then r else m.fmtCode | none => r
  let refLoc : Except Stop (Option Xlat) := if isSp then .ok none else (s.xlat (s.who s.me) .store fm.ref).map some
  let page := match refLoc with | .ok (some x) => some x | _ => none
  let t := match page with | some x => pageFmt x f | none => f
  match fm.manifest with
  | some m => c.narrowSlot m f
  | none => pure ()
  let js := touched c 0
  -- a page that is held, or that the host is asked for, fixes the format later (R260, R261); where the page faults, the checks before
  -- its fault take the requested format (log 119)
  match refLoc with
  | .ok _ | .error (.trap _) => pure ()
  | .error e => throw e
  preChecks c fm t js
  let _ ← refLoc
  let cells ← ofLines (fun _ => s.footLines .store fm page t js) (s.storeCells isSp fm page t
    (fun row j => stEl (vs.getD row v0) (r == 0#6) (c.isAct j) (fm.memPad j) j)
    (js.flatMap fun j => (List.range fm.rows).map fun row => (row, j)) [])
  if (r == 0#6) != (t == 0#6) then forbid3 r t
  sourceFmts vs r reg
  ensure (c.me.vlen ≤ cap r) .capacity c.me.vl (r.setWidth 64)
  -- TRAPWIDE of the reference page, even where it holds no element
  match page with
  | some x => ensure (policy x f).isSome .tagConflict (x.cfmt.setWidth 64) (f.setWidth 64)
  | none => pure ()
  let ls := linesOf cells
  pageConflicts f t ls
  let s0 := match page with | some x => s.used x.noDirty | none => s
  let s1 ← s0.storeLines sp t ls
  return { s1, sp, r, f, t, lines := ls }

/-- The lines of a store are written, with the flags of their encodings (R269, R270). -/
def StorePlan.write (p : StorePlan) (m : RMode) : State × Flags := p.s1.writeLines p.sp (stFmt p.r p.t m) p.f p.lines

/-- A vector store. -/
def vecStore (c : Ctx) (sp : Space) (rm : Rm) (fm : Form) (vs : List VOp) (reg : Nat) : Res Done := do
  let p ← storePlan c sp fm vs reg
  let (s2, fl) := p.write (c.me.rmode rm)
  return { s := s2.raise fl, lines := some (memLines (p.lines.map fun l => (l, l.loc)) fun _ => { data := 0, tag := tagReset }) }

/-- The source of a store stands in slot D. -/
def srcV (d : Opnd) : Use := { slot := .d, o := d, file := .v }

def execVst (mk : Mk) (rm : Rm) (sp : Space) (d a b : Opnd) (imm : BitVec 16) (s : State) :
    Host.Outcome State Fault Refusal :=
  issue (.vst mk rm sp d a b imm) s [rdS .a a, rdS .b b, srcV d] (mk := mk) fun c =>
    vecStore c sp rm (.byte (c.address imm)) [c.v_ .d] 0

def execVsts (mk : Mk) (rm : Rm) (sp : Space) (d a b : Opnd) (imm : BitVec 16) (s : State) :
    Host.Outcome State Fault Refusal :=
  issue (.vsts mk rm sp d a b imm) s [rdS .a a, rdS .b b, srcV d] (mk := mk) fun c =>
    vecStore c sp rm (.strided (c.s_ .a + imm.signExtend 64) (c.s_ .b)) [c.v_ .d] 0

def execVstx (mk : Mk) (rm : Rm) (sp : Space) (d a b : Opnd) (imm : BitVec 16) (s : State) :
    Host.Outcome State Fault Refusal :=
  issue (.vstx mk rm sp d a b imm) s [rdS .a a, rdV .b b, srcV d] (mk := mk) fun c =>
    vecStore c sp rm (.indexed (c.s_ .a + imm.signExtend 64) (c.v_ .b) b.code) [c.v_ .d] 0

def execVstm (mk : Mk) (rm : Rm) (sp : Space) (d : Opnd) (h : BitVec 4) (b c' : Opnd) (s : State) :
    Host.Outcome State Fault Refusal :=
  issue (.vstm mk rm sp d h b c') s [rdS .b b, rdS .c c', srcV d] (mk := mk) fun c => do
    let m ← c.slotH h
    c.spTen sp m
    vecStore c sp rm (c.manForm m 1) [c.v_ .d] 0

def execVstg (mk : Mk) (rm : Rm) (sp : Space) (d : Opnd) (h : BitVec 4) (b c' : Opnd) (k : BitVec 4) (s : State) :
    Host.Outcome State Fault Refusal :=
  issue (.vstg mk rm sp d h b c' k) s [rdS .b b, rdS .c c', { srcV d with grp := k.toNat, isGrp := true }] (mk := mk)
    fun c => do
    let m ← c.slotH h
    c.spTen sp m
    let n := c.rnum .d
    vecStore c sp rm (c.manForm m k.toNat) ((List.range k.toNat).map fun i => VOp.ofReg (c.me.getV (n + i)) (n + i)) n

/-! ### VAMO (R330–R332) -/

/-- The operand formats that an AOP takes (R330). -/
def vamoFmt (op : Aop) (f : FmtCode) : Bool :=
  let int := f == 0x03#6 || f == 0x07#6 || f == 0x04#6 || f == 0x08#6
  match op with
  | .fadd32 => f == 0x0B#6
  | .fadd64 => f == 0x0C#6
  | .fxadd => f == 0x0B#6 || f == 0x0C#6
  | .swap => int || f == 0x0B#6 || f == 0x0C#6
  | _ => int

/-- What an element of a VAMO returned: the old value, or none where its line was poisoned (R323). -/
structure AmoOut where
  old : Tab (Option Nat) := []
  fl : Flags := 0#7

/-- v of an element: its bits, or for FXADD of an F32 operand the same value in F64. -/
def amoOperand (op : Aop) (v : VOp) (j : Nat) : Nat :=
  if op == .fxadd && v.fmt == 0x0B#6 then (roundTo 0x0C#6 .rne (v.elem j)).1
  else if v.zero j then 0 else v.code j

/-- Translate every active element of a VAMO. -/
def State.amoFoot (s : State) (sp : Bool) (p : Word) (n : Nat) (o : VOp) : List Nat → Res (List (Nat × Loc))
  | [] => .ok []
  | j :: js => do
    let va := p + BitVec.ofInt 64 (elemInt o j * n)
    let l ← s.locate sp .atomic va n
    return (j, l) :: (← s.amoFoot sp p n o js)

/-- A VAMO that has passed its checks: the state to go on from, the places of its active elements, the width of its words
in bytes and the format of its result. -/
structure AmoPlan where
  s1 : State
  places : List (Nat × Loc)
  n : Nat
  r : FmtCode

/-- The checks and waits of VAMO (R330, R331), in order. -/
def amoPlan (c : Ctx) (op : Aop) (noret : Bool) (sp : Space) : Res AmoPlan := do
  let vb := c.v_ .b
  let vc := c.v_ .c
  let n := if op == .fxadd || elemBits vc.fmt == 64 then 8 else 4
  let p := c.s_ .a
  ensure (p.toNat % n == 0) .misaligned p
  if !isWInt vb.fmt || !vamoFmt op vc.fmt then forbid3 vb.fmt vc.fmt
  let r : FmtCode := if op == .fxadd then 0x04#6 else vc.fmt
  laneMismatch [vb, vc]
  capCheck c ([vb.fmt, vc.fmt] ++ if noret then [] else [r])
  let js := c.actives
  consumeAs (c.opnd .b) vb js
  consumeAs (c.opnd .c) vc js
  let ls ← ofLines (fun _ => js.length) (c.s.amoFoot sp.isSp p n vb js)
  forEach (fun (q : Nat × Loc) => match q.2 with
    | .mem y => ensure (c.s.atomicAllowed false op y) .access (p + BitVec.ofInt 64 (elemInt vb q.1 * n)) 7#64
    | .sp _ => .ok ()) ls
  laneConflict c r c.td
  forEach (fun (q : Nat × Loc) => do
    c.s.notHeld true q.2
    c.s.free true sp.isSp (p + BitVec.ofInt 64 (elemInt vb q.1 * n)) n) ls
  if !sp.isSp then c.s.requests ls.length
  let s1 ← c.s.order sp
  let s2 ← ls.foldlM (fun s q => do (← s.inOrder q.2).loadOrder q.2) s1
  return { s1 := s2, places := ls, n, r }

/-- The atomics of the elements, in element order (R332). -/
def AmoPlan.apply (p : AmoPlan) (op : Aop) (e : Int) (vc : VOp) : State × AmoOut :=
  p.places.foldl (fun (z : State × AmoOut) q =>
    let (s', y) := z.1.atomicAt false p.n (fun old =>
      let (new, fl) := atomicNew op p.n e old (amoOperand op vc q.1)
      (some new, fl)) q.2
    (s', { old := Tab.put z.2.old q.1 (y.map fun w => w.1)
           fl := z.2.fl ||| (match y with | some w => w.2 | none => 0#7) })) (p.s1, ({} : AmoOut))

/-- The result of VAMO: the old values, and zero with poison where a line was poisoned. -/
def Ctx.amoResult (c : Ctx) (r : FmtCode) (out : AmoOut) : VW :=
  let el := fun (j : Nat) => match Tab.find out.old j with
    | some (some w) => El.raw w 0
    | _ => El.raw 0 0
  let feed := fun (j : Nat) => match Tab.find out.old j with
    | some none => true
    | _ => false
  { fmt := r, act := c.isAct, pad := c.isPad, hush := c.isPad, el, feed, rm := .rne, enc := roundTo r .rne }

def execVamo (mk : Mk) (op : Aop) (noret : Bool) (sp : Space) (d a b e : Opnd) (x : BitVec 11) (s : State) :
    Host.Outcome State Fault Refusal :=
  issue (.vamo mk op noret sp d a b e x) s ([rdS .a a, rdV .b b, rdV .c e] ++ if noret then [] else [wrV d]) (mk := mk)
    fun c => do
    let p ← amoPlan c op noret sp
    let (s3, out) := p.apply op x.toInt (c.v_ .c)
    let s4 := s3.raise out.fl
    if noret then done s4 else done (c.putV s4 (c.amoResult p.r out))

/-! ### VSAVE and VRSTR (R172) -/

/-- The nine lines of an image, as bytes (R59): DATA, SCALE, PSN, VALID and the tag word. -/
def VReg.image (r : VReg) : List Byte :=
  natLe 1024 r.data.toNat ++ natLe 64 r.scale.toNat ++ natLe 8 r.valid.toNat ++ natLe 8 r.psn.toNat ++ natLe 8 r.tag.toNat
    ++ natLe 40 0

/-- The image that a tag word and the fields of an image give (R172). -/
def VReg.ofImage (bs : List Byte) : VReg :=
  let n := leNat bs
  let tag := nbits n (8 * 1104) 64
  let f : FmtCode := BitVec.ofNat 6 tag
  let data := nbits n 0 8192
  let scale := nbits n 8192 512
  let psn := nbits n (8 * 1096) 64
  { fmt := f
    zero3 := tag / 64 % 4 == 3 && data == 0 && scale == 0 && psn == 0
    data := BitVec.ofNat 8192 (data % 2 ^ (elemBits f * cap f))
    scale := BitVec.ofNat 512 scale
    psn := BitVec.ofNat 64 (psn % 2 ^ (cap f / 16)) }

/-- The nine lines of an image at a VA, translated in ascending order before anything is performed. -/
def Ctx.imageLines (c : Ctx) (k : AccKind) (va : Word) : Res (List (Word × Loc)) :=
  (List.range 9).mapM fun i => do
    let l ← c.s.locate false k (va + w64 (128 * i)) 128
    return (va + w64 (128 * i), l)

/-- ACCESS for a tensor page (R172 item 4). -/
def noTensor (va : Word) (ls : List (Word × Loc)) : Res Unit :=
  forEach (fun (p : Word × Loc) => ensure (!(p.2.xlat.any fun x => x.ten)) .access va) ls

/-- The checks of VSAVE and VRSTR, and the waits that they share: the places of the image's lines and the state to go on from. -/
def Ctx.imagePlan (c : Ctx) (store : Bool) (sc : Scope) (o : Ord) (va : Word) : Res (List (Word × Loc) × State) := do
  ensure (va.toNat % 128 == 0) .misaligned va
  let ls ← ofLines (fun _ => 9) (c.imageLines (if store then .store else .load) va)
  noTensor va ls
  forEach (fun (p : Word × Loc) => c.s.free store false p.1 128) ls
  c.s.requests ls.length
  let s1 ← c.s.order (.mem sc o)
  return (ls, s1)

/-- A line of an image enters the store queue (R277), as whole lines of other stores do. -/
def State.imageQueued (s : State) (sp : Space) (l : Loc) : Bool := match l with | .mem x => queues s (relaxed sp) x | .sp _ => false

/-- The lines of an image that go to their homes at once wait for reservations and for the stores before them. -/
def imageReady (sp : Space) (ls : List (Word × Loc)) (s : State) : Res State := do
  let now := ls.filter fun p => !s.imageQueued sp p.2
  forEach (fun (p : Word × Loc) => s.notHeld true p.2) now
  let s1 ← now.foldlM (fun s p => s.inOrder p.2) s
  s1.fenced

/-- Lines of UNT data are written, whole and with the tag 0x0000. -/
def writeUntLines (sp : Space) (ws : List ((Word × Loc) × Nat)) (s : State) : State :=
  ws.foldl (fun s p => match p.1.2 with
    | .mem x =>
      if s.imageQueued sp p.1.2 then s.enqueue { x with pa := x.pa / 128 * 128 } p.1.1 (natLe 128 p.2) (some 0#16)
      else s.putLine true { data := p.2, tag := 0#16 } p.1.2
    | .sp _ => s.putLine true { data := p.2, tag := 0#16 } p.1.2) s

/-- The nine lines of an image are written. -/
def writeImage (sp : Space) (r : VReg) (ls : List (Word × Loc)) (s : State) : State :=
  writeUntLines sp (ls.zip ((List.range 9).map fun k => leNat ((r.image.drop (128 * k)).take 128))) s

def execVsave (sc : Scope) (o : Ord) (a b e : Opnd) (imm : BitVec 16) (s : State) : Host.Outcome State Fault Refusal :=
  issue (.vsave sc o a b e imm) s [rdS .a a, rdS .b b, { rdV .c e with whole := true }] fun c => do
    let (ls, s1) ← c.imagePlan true sc o (c.address imm)
    done (writeImage (.mem sc o) (c.v_ .c).img ls (← imageReady (.mem sc o) ls s1))

/-- The bytes of lines, each read at one point of its order, none of them poisoned. -/
def readLines (s : State) (ls : List (Word × Loc)) : Res (State × List Byte) := do
  let (s1, got) ← s.gather (ls.map fun p => p.2)
  let bs ← ls.foldlM (fun (acc : List Byte) p => do
    let v ← lineBytes (s1.gathered got p.2) p.1 0 128
    return acc ++ natLe 128 v) []
  return (s1, bs)

def imageTag (bs : List Byte) : Nat := nbits (leNat bs) (8 * 1104) 64

/-- VRSTR. The TAG_FORBIDDEN of an image that it refuses names the image's FMT as fa (log 107), and a poisoned line of the image comes
before it (log 120). -/
def execVrstr (sc : Scope) (o : Ord) (d a b : Opnd) (imm : BitVec 16) (s : State) : Host.Outcome State Fault Refusal :=
  issue (.vrstr sc o d a b imm) s [rdS .a a, rdS .b b, { wrV d with whole := true, late := true }] fun c => do
    let (ls, s1) ← c.imagePlan false sc o (c.address imm)
    let (s2, bs) ← readLines s1 ls
    let r := VReg.ofImage bs
    if imageTag bs / 256 != 0 || fmtReserved r.fmt then forbid3 r.fmt 0#6 (w64 (imageTag bs))
    let s3 := c.putImg (ls.foldl (fun s p => s.touch p.2) s2) r
    -- the register is present from here on (R398)
    done (match c.td with
      | .reg n => s3.setMe { s3.me with vpresent := s3.me.vpresent ||| w64 (2 ^ n) }
      | _ => s3)

end Sys2Proof.Machine
end

