-- ==== Sys2Proof/Machine/Tiles.lean ====
section
/-! DEFINITION. Tiles: CLD and CST (R199–R203), CJOIN and CSTJ (R204–R206), the course of a tile in flight and its events
(chapter 12). -/

namespace Sys2Proof.Machine

/-! ### The plan of a tile: its elements and lines -/

/-- What a tile instruction asks for: direction, space, the scope where it is a tile, manifest, coordinates and size. `sx0` is x0 of
S[B], from which a joint member's part is displaced (R199, R205). -/
structure TileForm where
  store : Bool
  space : Space
  atom : Option Scope
  m : Manifest
  sx0 : Nat
  x0 : Nat
  y0 : Nat
  z2 : Nat
  z3 : Nat
  rows : Nat
  cols : Nat

/-- A line of a tile: its place, and its elements as position, row and column. A column past the tile is padding. -/
structure PlanLine where
  va : Word
  loc : Loc
  cells : List (Nat × Nat × Nat)

/-- What the checks of a tile find: the state to go on from, the format that the instruction asks for, the format in memory, the
reference page of a store, its lines, and a TAG_MISMATCH of tensor pages (R251). -/
structure TilePlan where
  s : State
  f : FmtCode
  t : FmtCode
  page : Option Xlat := none
  lines : List PlanLine
  mismatch : Option Stop := none

def TileForm.sp (tf : TileForm) : Bool := tf.space.isSp

/-- Raise the stop that a step kept for later. -/
def raiseLater (e : Option Stop) : Res Unit := match e with | some e => .error e | none => .ok ()

/-- Elements grouped by line, in the order of the first element of each. -/
def groupCells (cs : List (Word × Nat × Nat × Nat)) : List (Word × List (Nat × Nat × Nat)) :=
  let add := fun (ls : List (Word × List (Nat × Nat × Nat))) (c : Word × Nat × Nat × Nat) =>
    match ls with
    | (va, xs) :: rest =>
      if va == c.1 then (va, c.2 :: xs) :: rest
      else if rest.any fun l => l.1 == c.1 then
        ls.map fun (l : Word × List (Nat × Nat × Nat)) => if l.1 == c.1 then (l.1, c.2 :: l.2) else l
      else (c.1, [c.2]) :: ls
    | [] => [(c.1, [c.2])]
  ((cs.foldl add []).map fun (l : Word × List (Nat × Nat × Nat)) => (l.1, l.2.reverse)).reverse

/-- Reason 3 of Table 7.5: the alignment of a tile store in a narrow format (R201). -/
def TileForm.narrowOk (tf : TileForm) (f : FmtCode) : Bool :=
  !(tf.store && isNarrow f)
    || (tf.x0 % 16 == 0 && tf.m.stride 0 == 1 && (tf.cols % 16 == 0 || tf.x0 + tf.cols == tf.m.dim 0))

/-- The columns that a row covers in memory: a narrow store ends in whole blocks. -/
def TileForm.width (tf : TileForm) (f : FmtCode) : Nat :=
  if tf.store && isNarrow f then 16 * ((tf.cols + 15) / 16) else tf.cols

/-- The first line that a tile may not touch at its scope: reasons 1 and 2 of Table 7.5, by where the lines' VAs translate to. What
their addresses have still to be asked, ATS and routes, comes later (R203 items 5 and 6). The first line is that of the first element
in row-major order (DESIGN CHOICE, log 125). -/
def State.tileScope (s : State) (w : Who) (k : AccKind) (sc : Scope) (vas : List Word) : Res Unit := do
  let at' := fun (p : Region → Bool) => vas.find? fun va => match s.target w k va with
    | .ok x => p (s.region x.pa)
    | .error _ => false
  match at' fun r => r == .host || r == .cxl with
  | some va => fail .tileFootprint 1#64 va
  | none => pure ()
  if sc == .dev then
    match at' fun r => (match r with | .remote _ => true | _ => false) with
    | some va => fail .tileFootprint 2#64 va
    | none => pure ()

/-- What a tile finds at BASE: the state after what it waits for there, the place, the format, and how the place failed. -/
structure TileRef where
  s : State
  page : Option Xlat := none
  f : Option FmtCode := none
  err : Option Stop := none

/-- The format of a tile (R200, R201, R219), and the page at BASE where it matters: for stores, and for tensor pages. A line that
gives a format is read after what the access waits for there (R295). -/
def Ctx.tileRef (c : Ctx) (tf : TileForm) : Res TileRef :=
  let s := c.s
  let m := tf.m
  let own := if m.anyFmt then none else some m.fmtCode
  let fromLine := m.anyFmt && (tf.sp || !tf.store)
  let k : AccKind := if tf.store then .store else .load
  if fromLine then
    match s.locate tf.sp k m.base 1 with
    | .error e => .ok { s, err := some e }
    | .ok l => do
      s.free false tf.sp (m.base &&& ~~~127#64) 128
      let s1 ← s.order tf.space
      let (s2, got) ← s1.gather [l]
      return { s := s2, page := l.xlat, f := some (s2.gathered got l).fmt }
  else if !tf.sp && (tf.store || m.ten) then
    match s.xlat (s.who s.me) k m.base, s.target (s.who s.me) k m.base with
    | .ok x, _ => .ok { s, page := some x, f := some (own.getD x.cfmt) }
    -- the page is known, and its address has still to be asked for
    | .error e, .ok x => .ok { s, page := some x, f := some (own.getD x.cfmt), err := some e }
    | .error e, .error _ => .ok { s, f := own, err := some e }
  else .ok { s, f := own }

/-- The fault of lowest element among the elements that have no place and the lines that fail; a TAG_MISMATCH of tensor pages
comes later. -/
def firstError (es : List (Nat × Stop)) : Res Unit :=
  match es.foldl (fun (a : Option (Nat × Stop)) e => match a with
    | none => some e
    | some b => if e.1 < b.1 then some e else a) none with
  | some e => .error e.2
  | none => .ok ()

/-- The R251 mismatch of an element's page. -/
def Stop.isMismatch : Stop → Bool
  | .trap t => t.cause == .tagMismatch
  | _ => false

/-- The stop of a step, if it stopped. -/
def errOf {α : Type} : Res α → Option Stop
  | .ok _ => none
  | .error e => some e

/-- Items 5 and 6 of R203 for the elements of a tile: TILE_FOOTPRINT, then the reference page's stop and translation in element order.
A transfer that is not a tile finds an offline home with its translation; a tile finds it at reservation (R315). -/
def State.tileLines (s : State) (tf : TileForm) (page : Option Xlat) (err : Option Stop) (t : FmtCode) (width : Nat) :
    Res (List PlanLine × Option Stop) := do
  let w := s.who s.me
  let k : AccKind := if tf.store then .store else .load
  let cells := (List.range tf.rows).flatMap fun i => (List.range width).map fun j =>
    (i, j, s.manPlace w k tf.m page t (tf.x0 + j) (tf.y0 + i) tf.z2 tf.z3)
  let num := fun (i j : Nat) => i * width + j
  let ls := groupCells (cells.filterMap fun x => match x.2.2 with
    | .ok p => some (p.1, p.2.1, x.1, x.2.1)
    | .error _ => none)
  ensure (128 * ls.length ≤ 0x80_0000) .tileFootprint 0#64 (w64 (128 * ls.length))
  let found : List (Word × Except Stop Loc) := ls.map fun (l : Word × List (Nat × Nat × Nat)) =>
    (l.1, if tf.sp then s.locate true k l.1 128
      else if tf.atom.isSome then (s.reachAny w k l.1).map Loc.mem
      else s.locate false k l.1 128)
  match tf.atom with
  | some sc => s.tileScope w k sc (ls.map fun l => l.1)
  | none => pure ()
  raiseLater err
  let placeErrs := cells.filterMap fun x => (errOf x.2.2).map fun e => (num x.1 x.2.1, e)
  let lineErrs := (ls.zip found).filterMap fun x => (errOf x.2.2).map fun e =>
    (match x.1.2 with | (_, i, j) :: _ => num i j | [] => 0, e)
  firstError ((placeErrs.filter fun e => !e.2.isMismatch) ++ lineErrs)
  let locs ← found.mapM fun l => l.2
  return ((ls.zip locs).map fun x => { va := x.1.1, loc := x.2, cells := x.1.2 }, (placeErrs.find? fun e => e.2.isMismatch).map fun e => e.2)

/-- Items 3 to 6 of R203, from the manifest on: formats, CAPACITY (`wide`), BOUND, TILE_FOOTPRINT and translation. Of several reasons
of TILE_FOOTPRINT, reason 3 comes first, then 0, 1 and 2 (DESIGN CHOICE, log 124). -/
def planTile (c : Ctx) (tf : TileForm) (wide : Res Unit := .ok ()) : Res TilePlan := do
  let m := tf.m
  let ref ← c.tileRef tf
  match ref.f with
  | some g => c.narrowSlot m g
  | none => pure ()
  wide
  coordOk 0 tf.x0 tf.cols (m.extent 0)
  coordOk 1 tf.y0 tf.rows (m.extent 1)
  coordOk 2 tf.z2 1 (m.extent 2)
  coordOk 3 tf.z3 1 (m.extent 3)
  match ref.f with
  | some g => ensure (tf.narrowOk g) .tileFootprint 3#64 (w64 tf.sx0)
  | none => raiseLater ref.err
  let g := ref.f.getD 0#6
  let t := match tf.store, ref.page with | true, some x => pageFmt x g | _, _ => g
  let (lines, mismatch) ← ref.s.tileLines tf ref.page ref.err t (tf.width g)
  let s := match ref.page with | some x => ref.s.used x.noDirty | none => ref.s
  return { s, f := g, t, page := if tf.store then ref.page else none, lines, mismatch }

/-- A line of the plan as a tile in flight keeps it. `el` gives the value of an element and its poison. -/
def PlanLine.keep (l : PlanLine) (dem : Bool) (el : Nat → Nat → Nat × Bool) : TileLine :=
  let els := l.cells.map fun (x : Nat × Nat × Nat) => (x.1, el x.2.1 x.2.2)
  match l.loc with
  | .mem x => { va := l.va, ln := x.pa / 128, eph := x.eph, ten := x.ten, cfmt := x.cfmt, dem, upd := x.upd, els }
  | .sp a => { va := l.va, ln := a / 128, els }

/-! ### Loading cells (R200) -/

/-- The number of a cell. -/
def cellNo (i j : Nat) : Nat := 256 * i + j

/-- A line read and the cells that its elements go to. -/
structure Fed where
  line : LineV
  els : List (Nat × Nat)

/-- One element into its cell: a poisoned line gives zero (R200). -/
def loadCell (cf fmt : FmtCode) (m : RMode) (l : LineV) (a : Canvas × Flags) (e : Nat × Nat) : Canvas × Flags :=
  let i := e.2 / 256
  let j := e.2 % 256
  if l.cls == 2 then (a.1.setCell i j 0, a.2)
  else
    let v := l.elem e.1
    let (code, f1) := cellCode cf m v
    (a.1.setCell i j code, a.2 ||| f1 ||| (if cf == 0x03#6 || cf == fmt then 0#7 else convFlags cf v))

/-- The poison of the subtiles of a tile load: replaced where the tile covers a subtile whole, else joined (R200). -/
def loadPoison (rows cols : Nat) (xs : List Fed) (cv : Canvas) : Canvas :=
  let fed := fun (k : Nat) => xs.any fun x => x.line.cls == 2 && x.els.any fun e => subtile (e.2 / 256) (e.2 % 256) == k
  { cv with psn := BitVec.ofNat 256 (joinCodes 1 ((List.range 256).map fun k =>
      let old := nbits cv.psn.toNat k 1
      let whole := 16 * (k / 16) + 16 ≤ rows && 16 * (k % 16) + 16 ≤ cols
      if fed k then 1 else if whole then 0 else old)) }

/-- Load a tile into a canvas. -/
def loadCells (fmt : FmtCode) (m : RMode) (rows cols : Nat) (xs : List Fed) (cv : Canvas) : Canvas × Flags :=
  let (cv1, fl) := xs.foldl (fun a x => x.els.foldl (loadCell cv.cf fmt m x.line) a) (cv, (0#7 : Flags))
  (loadPoison rows cols xs cv1, fl)

/-- TAG_FORBIDDEN and TAG_MISMATCH of a tile load (R200, R251), at its lines as they are read. -/
def loadTags (p : TilePlan) (line : Loc → LineV) : Res Unit := do
  if p.f == 0#6 then forbid3 p.f 0#6
  raiseLater p.mismatch
  forEach (fun (l : PlanLine) =>
    let v := line l.loc
    ensure (v.cls == 2 || v.cls == 3 || v.fmt == p.f) .tagMismatch (p.f.setWidth 64) (v.fmt.setWidth 64) l.va) p.lines

/-! ### Storing cells (R201) -/

/-- An element of a tile store from a cell's code. -/
def cellEl (cf : FmtCode) (code : Nat) (psn : Bool) : StEl := { v := decodeCode cf 0 code, psn }

/-- The code and poison of a cell of the tile; a padding element is zero. -/
def Canvas.out (cv : Canvas) (cols i j : Nat) : Nat × Bool :=
  if j < cols then ((cv.cell i j).toNat, cv.poisoned i j) else (0, false)

def TileLine.tab (cf : FmtCode) (l : TileLine) : Tab StEl :=
  l.els.foldl (fun t (e : Nat × Nat × Bool) => Tab.put t e.1 (cellEl cf e.2.1 e.2.2)) []

/-- The lines of a plan as a store writes them. -/
def PlanLine.write (cv : Canvas) (cols : Nat) (l : PlanLine) : LineW :=
  { va := l.va, loc := l.loc
    els := l.cells.foldl (fun t (x : Nat × Nat × Nat) =>
      let (code, psn) := cv.out cols x.2.1 x.2.2
      Tab.put t x.1 (cellEl cv.cf code psn)) [] }

/-! ### Reservation order and the start of a tile -/

/-- The place of a line in reservation order: device id, home slice, DPA (R307). Another W4's slice is that of its own DPA. -/
def State.resKey (s : State) (ln : Nat) : Nat :=
  match s.region (128 * ln) with
  | .remote d => (d * 128 + homeSet (128 * ln % 2 ^ 40)) * 2 ^ 64 + ln
  | _ => (s.devid * 128 + s.sliceOf ln) * 2 ^ 64 + ln

/-- Insert a line in reservation order; a line appears once. -/
def State.insertLine (s : State) (ln : Nat) : List Nat → List Nat
  | [] => [ln]
  | k :: ks =>
    if ln = k then k :: ks
    else if s.resKey ln < s.resKey k then ln :: k :: ks
    else k :: s.insertLine ln ks

def State.resOrder (s : State) (lns : List Nat) : List Nat := lns.foldl (fun a ln => s.insertLine ln a) []

/-- The acting instruction's part of a tile. -/
def Ctx.part (c : Ctx) (canvas : BitVec 3) (cf fmt : FmtCode) (rm : Rm) (rows cols : Nat) (lines : List TileLine) : TilePart :=
  { sid := c.s.cur, vi := c.s.myVi, i := c.i, team := c.me.team, canvas := canvas.toNat, ix := c.ix, pops := c.pops, fmt, cf
    rm := (c.me.rmode rm).toRm, rows, cols, lines }

/-- Start a tile: it joins the capacity FIFO, where a line of it is homed here, and its strands wait (Table 12.2, R306). -/
def State.startTile (s : State) (store : Bool) (parts : List TilePart) : State :=
  let id := s.nextTile
  let order := s.resOrder (parts.flatMap fun p => p.lines.map fun l => l.ln)
  let here := order.any fun ln => s.region (128 * ln) == .dev
  let t : Tile := { store, parts, order, granted := !here, since := if here then 0 else s.tileSeq }
  let s1 := { s with tiles := Tab.put s.tiles id t, nextTile := id + 1, tileSeq := if here then s.tileSeq else s.tileSeq + 1
                     capFifo := if here then s.capFifo ++ [id] else s.capFifo }
  parts.foldl (fun s p => s.setStrand p.sid { s.strand p.sid with run := .tile id, late := [] }) s1

/-- Waits before a tile: interlocks, request entries for its lines, and every store of the core performed. -/
def State.readyTile (s : State) (store : Bool) (ls : List PlanLine) : Res State := do
  forEach (fun (l : PlanLine) => s.free store false l.va 128) ls
  s.requests ls.length
  s.drainCore (s.coreOf s.me)

/-- A load that is not a tile reads its lines, each at its turn, after its waits (R295, R311). -/
def State.tileGather (s : State) (space : Space) (ls : List PlanLine) : Res (State × Tab LineV) := do
  forEach (fun (l : PlanLine) => s.free false space.isSp l.va 128) ls
  if !space.isSp then s.requests ls.length
  let s1 ← s.order space
  s1.gather (ls.map fun l => l.loc)

/-! ### CLD and CST -/

/-- The form of CLD and CST (R199): N = NCOL, or NC. -/
def Ctx.tileForm (c : Ctx) (store : Bool) (cv : Canvas) (m : Manifest) (atom : Bool) (sp : Space) (ncol : BitVec 9) : TileForm :=
  let b := (c.s_ .b).toNat
  let z := (c.s_ .c).toNat
  { store, space := sp, m, sx0 := b % 2 ^ 32, x0 := b % 2 ^ 32, y0 := b / 2 ^ 32, z2 := z % 2 ^ 32, z3 := z / 2 ^ 32, rows := cv.mr
    cols := if ncol == 0#9 then cv.nc else ncol.toNat
    atom := match atom, sp with | true, .mem sc _ => some sc | _, _ => none }

def execCld (rm : Rm) (atom : Bool) (sp : Space) (d : BitVec 3) (h : BitVec 4) (b c' : Opnd) (ncol : BitVec 9)
    (s : State) : Host.Outcome State Fault Refusal :=
  issue (.cld rm atom sp d h b c' ncol) s [rdS .b b, rdS .c c'] fun c => do
    let cv ← c.canvas d
    let m ← c.slotH h
    c.spTen sp m
    let tf := c.tileForm false cv m atom sp ncol
    let p ← planTile c tf (ensure (tf.cols ≤ cv.nc) .capacity (w64 tf.cols) (cv.cf.setWidth 64))
    match tf.atom with
    | some _ =>
      forEach (fun (l : PlanLine) => p.s.notHeld false l.loc) p.lines
      let s1 ← p.s.readyTile false p.lines
      loadTags p s1.lineOf
      throw (.hold (s1.startTile false
        [c.part d cv.cf p.f rm tf.rows tf.cols (p.lines.map fun l => l.keep false fun i j => (cellNo i j, false))]))
    | none =>
      let (s1, got) ← p.s.tileGather sp p.lines
      loadTags p (s1.gathered got)
      let fed : List Fed := p.lines.map fun l =>
        { line := s1.gathered got l.loc, els := l.cells.map fun (x : Nat × Nat × Nat) => (x.1, cellNo x.2.1 x.2.2) }
      let s2 := p.lines.foldl (fun s l => s.touch l.loc) s1
      let (cv', fl) := loadCells p.f (c.me.rmode rm) tf.rows tf.cols fed cv
      done ((s2.setCanvas d cv').raise fl)

/-- TAG_FORBIDDEN, the TAG_MISMATCH of tensor pages, and the TAG_CONFLICT of pages of a tile store (R201, R251, R268). -/
def storeTags (cv : Canvas) (p : TilePlan) (ls : List LineW) : Res Unit := do
  if p.f == 0#6 then forbid3 cv.cf p.f
  if p.t == 0#6 then forbid3 cv.cf p.t
  raiseLater p.mismatch
  match p.page with
  | some x => ensure (policy x p.f).isSome .tagConflict (x.cfmt.setWidth 64) (p.f.setWidth 64)
  | none => pure ()
  pageConflicts p.f p.t ls

/-- The part of a tile store. -/
def Ctx.storePart (c : Ctx) (d : BitVec 3) (cv : Canvas) (rm : Rm) (tf : TileForm) (p : TilePlan) (ls : List LineW) : TilePart :=
  c.part d cv.cf p.t rm tf.rows tf.cols ((p.lines.zip ls).map fun x => x.1.keep (pageDem x.2 p.f) (cv.out tf.cols))

def execCst (rm : Rm) (atom : Bool) (sp : Space) (d : BitVec 3) (h : BitVec 4) (b c' : Opnd) (ncol : BitVec 9)
    (s : State) : Host.Outcome State Fault Refusal :=
  issue (.cst rm atom sp d h b c' ncol) s [rdS .b b, rdS .c c'] fun c => do
    let cv ← c.canvas d
    let m ← c.slotH h
    c.spTen sp m
    let tf := c.tileForm true cv m atom sp ncol
    let p ← planTile c tf (ensure (tf.cols ≤ cv.nc) .capacity (w64 tf.cols) (cv.cf.setWidth 64))
    let ls := p.lines.map (PlanLine.write cv tf.cols)
    storeTags cv p ls
    match tf.atom with
    | some _ =>
      let s1 ← p.s.readyTile true p.lines
      throw (.hold (s1.startTile true [c.storePart d cv rm tf p ls]))
    | none =>
      let s1 ← p.s.storeLines sp p.t ls
      let (s2, fl) := s1.writeLines sp (stFmt cv.cf p.t (c.me.rmode rm)) p.f ls
      done (s2.raise fl)

/-! ### The end of a tile's wait -/

/-- Give a waiting instruction up: its strand is active at the same instruction, or takes a trap there. The queue entries that it
read are where they were (R28). -/
def State.giveUp (s : State) (p : TilePart) (t : Option Trap) : State :=
  match Tab.find s.strands p.sid with
  | none => s
  | some st =>
    let s1 := s.setStrand p.sid { st with run := .active }
    match t with
    | some t => s1.deliver p.sid t
    | none => s1

/-- Take a tile out of flight: its lines and entries are free. -/
def State.dropTile (s : State) (id : Nat) : State :=
  { s with tiles := Tab.del s.tiles id, capFifo := s.capFifo.filter (· != id) }

/-- Abandon a tile (R315): nothing is written, and each instruction raises what `trap` gives it. -/
def State.abandon (s : State) (id : Nat) (trap : TilePart → Option Trap) : State :=
  (Tab.get {} s.tiles id).parts.foldl (fun s p => s.giveUp p (trap p)) (s.dropTile id)

/-- The position of a joint member as Table 7.5 reports it. -/
def TilePart.pos (p : TilePart) : Nat := p.p + 4 * p.q

/-- The traps of an abandoned tile whose member `bad` met `t`: the other members of a joint store lose it (R317). -/
def lostTo (bad : TilePart) (t : Trap) (p : TilePart) : Option Trap :=
  if p.sid == bad.sid then some t else some { cause := .tileFootprint, v0 := 5#64, v1 := w64 bad.pos }

/-- Complete a waiting instruction: its flags, its pops, its auto-increments and its pc. -/
def State.finishPart (s : State) (p : TilePart) : State :=
  match Tab.find s.strands p.sid with
  | none => s
  | some st =>
    let s1 := ({ s with cur := p.sid }).setMe { st with run := .active }
    { complete { s := s1, i := p.i, ix := p.ix, pops := p.pops } { s := s1.raise p.flags } with cur := s.cur }

/-! ### TILE_CAPACITY_GRANT (R306) -/

/-- Entries that a tile needs at a slice (R304). -/
def State.entriesAt (s : State) (t : Tile) (slice : Nat) : Nat := Nat.min 2048 (s.needAt t slice)

/-- Entries of a slice that granted tiles hold. -/
def State.entriesUsed (s : State) (slice : Nat) : Nat :=
  (s.tiles.filter fun p => p.2.granted).foldl (fun a p => a + s.entriesAt p.2 slice) 0

/-- Every slice of this device has the entries a tile needs. -/
def State.hasCapacity (s : State) (t : Tile) : Bool :=
  (List.range 128).all fun k => decide (s.entriesAt t k = 0) || decide (s.entriesUsed k + s.entriesAt t k ≤ 2048)

/-- A HOMEMAP is moving the home set of a line of the tile, which waits for the new home (R379, Table 12.3). -/
def State.movingHome (s : State) (t : Tile) : Bool :=
  s.strands.any fun p => match p.2.homing with
    | some h => t.order.any fun ln => s.region (128 * ln) == .dev && homeSet (128 * ln) == h
    | none => false

/-- The head of the capacity FIFO is granted; none while it lacks entries or its home moves. -/
def State.grantTile (s : State) : Option State :=
  match s.capFifo with
  | [] => none
  | id :: rest =>
    match Tab.find s.tiles id with
    | none => some { s with capFifo := rest }
    | some t =>
      if s.hasCapacity t && !s.movingHome t then
        some { s with tiles := Tab.put s.tiles id { t with granted := true, since := s.tileSeq }, tileSeq := s.tileSeq + 1
                      capFifo := rest }
      else none

def execEvTileCapacityGrant (s : State) : Host.Outcome State Fault Refusal := .next (s.grantTile.getD s)

/-! ### TILE_LINE_RESERVE (R307) -/

/-- The line whose request a granted tile has at its home. -/
def Tile.wants (t : Tile) : Option Nat := if t.granted && !t.committed then t.order[t.bound]? else none

/-- Another tile holds a line in a conflicting mode, or asked for it before in one. -/
def State.blocked (s : State) (id : Nat) (t : Tile) (ln : Nat) : Bool :=
  s.tiles.any fun p => p.1 != id && (t.store || p.2.store)
    && (s.tileHolds p.2 ln || (p.2.wants == some ln && decide (p.2.since < t.since)))

/-- The home of a line does not answer, and the values of HOME_OFFLINE. -/
def State.lineOffline (s : State) (eph : Bool) (ln : Nat) (va : Word) : Option Trap :=
  match s.region (128 * ln) with
  | .dev => if s.homeOffline eph (128 * ln) then some { cause := .homeOffline, v0 := va } else none
  | .remote d => if s.unreachable.contains d then some { cause := .homeOffline, v0 := va, v1 := 1#64 } else none
  | _ => none

/-- A message to the home of a line can go: the home is here, or a link to its device is up. -/
def State.lineLinked (s : State) (ln : Nat) : Bool :=
  match s.region (128 * ln) with
  | .remote d => Tab.get 0#16 s.routes d &&& s.linksUp != 0#16
  | _ => true

/-- The part of a tile that a line belongs to, and its line. -/
def Tile.owner (t : Tile) (ln : Nat) : Option (TilePart × TileLine) :=
  t.parts.findSome? fun p => (p.lines.find? fun l => l.ln == ln).map fun l => (p, l)

/-- A tile binds its next line, or is abandoned where the line's home is offline. None while it must wait. -/
def State.reserveLine (s : State) (id : Nat) : Option State :=
  match Tab.find s.tiles id with
  | none => none
  | some t =>
    match t.wants with
    | none => none
    | some ln =>
      match t.owner ln with
      | some (p, l) =>
        (match s.lineOffline l.eph ln l.va with
        | some e => some (s.abandon id (lostTo p e))
        | none => bind t ln)
      | none =>
        -- a tile of another device learns that a home here does not answer
        (match s.lineOffline (s.ephLine ln) ln 0#64 with
        | some _ => some { s.dropTile id with out := s.out ++ [.unsupported] }
        | none => bind t ln)
where
  bind (t : Tile) (ln : Nat) : Option State :=
    -- a store that has checked the line's tag comes before an exclusive reservation
    if s.blocked id t ln || (t.store && s.locked ln) || !s.lineLinked ln then none
    else
      let t1 := { t with bound := t.bound + 1, since := s.tileSeq }
      let s1 := { s with tiles := Tab.put s.tiles id t1, tileSeq := s.tileSeq + 1 }
      -- a tile of another W4 learns that its lines here are reserved
      match t1.ext with
      | some d => some (if t1.bound = t1.order.length then { s1 with out := s1.out ++ [.reserved d id] } else s1)
      | none => some s1

def execEvTileLineReserve (tile : Nat) (s : State) : Host.Outcome State Fault Refusal := .next ((s.reserveLine tile).getD s)

/-! ### TILE_COMMIT (R308, R313) -/

/-- A line of a tile as its home holds it. -/
def State.tileLine (s : State) (l : TileLine) : LineV := freshLine l.ten l.cfmt (s.homeLine l.ln)

/-- No other tile, and no store that has checked it, holds the line of a leaf that a tile has still to mark (R227, R309). -/
def State.marksFree (s : State) (id : Nat) (t : Tile) : Bool :=
  let s1 := { s with tiles := Tab.del s.tiles id }
  t.parts.all fun p => p.lines.all fun l => l.upd.all fun u => !s1.held true (u.1 / 128)

/-- The leaves that a tile used, with A and D set. -/
def State.markLeaves (s : State) (upd : List (Nat × Nat)) : State := upd.foldl State.orByte s

/-- TAG_CONFLICT of R313 at a part's lines. -/
def State.partConflict (s : State) (p : TilePart) : Option Trap :=
  p.lines.findSome? fun l =>
    let old := s.tileLine l
    if lineConflicts p.fmt old (l.tab p.cf) then
      some { cause := .tagConflict, v0 := old.fmt.setWidth 64, v1 := p.fmt.setWidth 64, v2 := l.va }
    else none

/-- TAG_MISMATCH of a tile load at its commit point: a line that took another format since the instruction issued
(DEDUCED, log 21). -/
def State.partMismatch (s : State) (p : TilePart) : Option Trap :=
  p.lines.findSome? fun l =>
    let x := s.tileLine l
    if x.cls == 2 || x.cls == 3 || x.fmt == p.fmt then none
    else some { cause := .tagMismatch, v0 := p.fmt.setWidth 64, v1 := x.fmt.setWidth 64, v2 := l.va }

/-- A struck staged line commits poisoned (Table 12.3). -/
def strike (hit : Bool) (l : LineV) : LineV := if hit then { l with tag := mkTag l.fmt 2 (tagDem l.tag) } else l

/-- Flip one part's staged lines in; the flags of its conversions. -/
def State.flipPart (s : State) (hit : List Nat) (p : TilePart) : State × Flags :=
  p.lines.foldl (fun (a : State × Flags) l =>
    let s1 := a.1.markLeaves l.upd
    let o := lineAfter (stFmt p.cf p.fmt p.rm.toMode) l.dem (s1.tileLine l) (l.tab p.cf)
    let s2 := s1.writeLine false l.eph o.whole l.ln (strike (hit.contains l.ln) o.line)
    (s2.chargeTileLine p.vi (128 * l.ln), a.2 ||| o.fl)) (s, 0#7)

/-- A tile load writes its canvas: one event at the commit point. -/
def State.loadPart (s : State) (p : TilePart) : State × Flags :=
  let s1 := p.lines.foldl (fun s l => (s.markLeaves l.upd).chargeTileLine p.vi (128 * l.ln)) s
  match Tab.find s.teams p.team with
  | none => (s1, 0#7)
  | some tm =>
    let cv := Tab.get {} tm.canv p.canvas
    let fed : List Fed := p.lines.map fun l =>
      { line := s1.tileLine l, els := l.els.map fun (e : Nat × Nat × Bool) => (e.1, e.2.1) }
    let (cv', fl) := loadCells p.fmt p.rm.toMode p.rows p.cols fed cv
    (s1.setTeam p.team { tm with canv := Tab.put tm.canv p.canvas cv' }, fl)

/-- The commit point of a tile whose lines are all reserved: it flips its lines in or reads them, or a tag check abandons it. -/
def State.commitTile (s : State) (id : Nat) : Option State :=
  match Tab.find s.tiles id with
  | none => none
  | some t =>
    if !t.granted || t.committed || t.ext.isSome || t.bound != t.order.length || !s.marksFree id t then none
    else
      match t.parts.findSome? fun p => (if t.store then s.partConflict p else s.partMismatch p).map fun e => (p, e) with
      | some (p, e) => some (s.abandon id (lostTo p e))
      | none =>
        let (s1, ps) := t.parts.foldl (fun (a : State × List TilePart) p =>
          let (s', fl) := if t.store then a.1.flipPart t.hit p else a.1.loadPart p
          (s', a.2 ++ [{ p with flags := fl }])) (s, [])
        some { s1 with tiles := Tab.put s1.tiles id { t with committed := true, parts := ps } }

def execEvTileCommit (tile : Nat) (s : State) : Host.Outcome State Fault Refusal := .next ((s.commitTile tile).getD s)

/-! ### TILE_RELEASE (R308) -/

/-- The release of a committed tile: its lines are free and its instructions complete. The flips at another W4 and their
confirmations need a link there (R314, R315). -/
def State.releaseTile (s : State) (id : Nat) : Option State :=
  match Tab.find s.tiles id with
  | none => none
  | some t => if t.committed && t.ext.isNone && t.order.all s.lineLinked then some (t.parts.foldl State.finishPart (s.dropTile id)) else none

def execEvTileRelease (tile : Nat) (s : State) : Host.Outcome State Fault Refusal := .next ((s.releaseTile tile).getD s)

/-! ### Joint canvases (R204, R205, R317) -/

/-- The binding that a team holds: the canvas and its position. -/
def Team.binding (tm : Team) : Option (Nat × Nat × Nat) :=
  tm.canv.findSome? fun (p : Nat × Canvas) => p.2.jb.map fun j => (p.1, j.2.1, j.2.2)

/-- A part is a member's CSTJ of a caravan. -/
def State.isMember (s : State) (car : Nat) (w : TilePart) : Bool :=
  (s.team w.team).caravan == car && (match w.i with | .cstj _ _ _ _ _ _ _ => true | _ => false)

/-- A member is lost before the commit: each member that waits, for the others or for the tile, raises TILE_FOOTPRINT reason 5
(R205). -/
def State.loseMember (s : State) (car p q : Nat) : State :=
  let x := s.car car
  let lost : Option Trap := some { cause := .tileFootprint, v0 := 5#64, v1 := w64 (p + 4 * q) }
  let s1 := x.joint.foldl (fun s w => s.giveUp w lost) (s.setCar car { x with joint := [] })
  (s1.tiles.filter fun t => !t.2.committed && t.2.parts.any (s.isMember car)).foldl (fun s t => s.abandon t.1 fun _ => lost) s1

/-- A team gives its binding up (R204). -/
def State.unbind (s : State) (team : Nat) : State :=
  let tm := s.team team
  match tm.binding with
  | none => s
  | some (n, p, q) =>
    let tm1 := { tm with canv := Tab.modify tm.canv n fun cv => { cv with jb := none } }
    (s.setTeam team tm1).loseMember tm.caravan p q

def joinUses : JoinSel → List Use
  | .bind a _ _ => [rdS .a a]
  | .unbind => []

def execCjoin (d : BitVec 3) (j : JoinSel) (s : State) : Host.Outcome State Fault Refusal :=
  issue (.cjoin d j) s (joinUses j) fun c => do
    let cv ← c.canvas d
    match j with
    | .unbind => done (if cv.jb.isSome then c.s.unbind c.me.team else c.s)
    | .bind _ p q =>
      let h := c.s_ .a
      let x := c.s.myCar
      ensure (h == x.handle && x.wb.jr != 0) .access h 0#64
      ensure (p.toNat < x.wb.jr && q.toNat < x.wb.jc) .bound 0xFE#64 (w64 (p.toNat + 256 * q.toNat)) 12#64
      let held := c.s.teams.any fun t => t.1 != c.me.team && t.2.caravan == c.s.myTeam.caravan
        && (match t.2.binding with | some (_, a, b) => a == p.toNat && b == q.toNat | none => false)
      ensure (!held) .access h 1#64
      ensure c.s.myTeam.binding.isNone .access h 2#64
      done (c.s.setCanvas d { cv with jb := some (h, p.toNat, q.toNat) })

/-- The lowest VA of lines that two members share. -/
def sharedVa (ps : List TilePart) : Option Word :=
  let vas := ps.flatMap fun p => (p.lines.filter fun l =>
    ps.any fun k => k.sid != p.sid && k.lines.any fun m => m.ln == l.ln).map fun l => l.va
  vas.foldl (fun a v => match a with
    | none => some v
    | some b => some (if v.ult b then v else b)) none

/-- Every member of a caravan's joint store has issued its CSTJ: the union is checked and starts as one tile (R317). A union that is too
large and shared reports reason 0 (DESIGN CHOICE, log 124). -/
def State.formJoint (s : State) (car : Nat) : State :=
  let x := s.car car
  if x.joint.length != x.wb.jr * x.wb.jc then s
  else
    let s1 := s.setCar car { x with joint := [] }
    let n := (s.resOrder (x.joint.flatMap fun p => p.lines.map fun l => l.ln)).length
    let refuse := fun (t : Trap) => x.joint.foldl (fun s p => s.giveUp p (some t)) s1
    if 0x80_0000 < 128 * n then refuse { cause := .tileFootprint, v0 := 0#64, v1 := w64 (128 * n) }
    else match sharedVa x.joint with
      | some va => refuse { cause := .tileFootprint, v0 := 4#64, v1 := va }
      | none => s1.startTile true x.joint

/-- A member's CSTJ is in flight already, by another strand of its team. -/
def State.jointBusy (s : State) (team : Nat) (car : Caravan) : Bool :=
  car.joint.any (fun p => p.team == team)
  || s.tiles.any fun t => t.2.parts.any fun p => p.team == team && (match p.i with | .cstj _ _ _ _ _ _ _ => true | _ => false)

def execCstj (rm : Rm) (sc : Scope) (o : Ord) (d : BitVec 3) (h : BitVec 4) (b c' : Opnd) (s : State) :
    Host.Outcome State Fault Refusal :=
  issue (.cstj rm sc o d h b c') s [rdS .b b, rdS .c c'] fun c => do
    let cv ← c.canvas d
    match cv.jb with
    | none => raise .access (d.setWidth 64) 3#64
    | some (_, p, q) =>
      let m ← c.slotH h
      let tf0 := c.tileForm true cv m true (.mem sc o) 0#9
      let tf := { tf0 with x0 := tf0.x0 + cv.nc * q, y0 := tf0.y0 + 256 * p, rows := 256, cols := cv.nc }
      let pl ← planTile c tf
      let ls := pl.lines.map (PlanLine.write cv tf.cols)
      storeTags cv pl ls
      if c.s.jointBusy c.me.team c.s.myCar then throw .stall
      let s1 ← pl.s.readyTile true pl.lines
      let part := { c.storePart d cv rm tf pl ls with p, q }
      let car := s1.myTeam.caravan
      let x := s1.car car
      let s2 := (s1.setCar car { x with joint := x.joint ++ [part] }).setMe { s1.me with run := .joint c.i, late := [] }
      throw (.hold (s2.formJoint car))

/-! ### Tiles of other W4s (R314) -/

/-- An inbound request for capacity and lines: a tile of another device's coordinator. -/
def State.extReserve (s : State) (src : Nat) (excl : Bool) (lines : List Nat) : State :=
  let id := s.nextTile
  { s with tiles := Tab.put s.tiles id { store := excl, order := s.resOrder lines, ext := some src }
           nextTile := id + 1, capFifo := s.capFifo ++ [id] }

/-- Bytes written into a line, with its tag. -/
def spliceBytes (data off : Nat) (bs : List Byte) : Nat := setNbits data (8 * off) (8 * bs.length) (leNat bs)

/-- A write of another device's tile: line, first byte, bytes and tag. -/
abbrev ExtWrite := Nat × Nat × List Byte × BitVec 16

/-- R271 at a partly written line of another device's tile. -/
def State.extConflict (s : State) (w : ExtWrite) : Option FmtCode :=
  let old := s.homeLine w.1
  if w.2.2.1.length != 128 && old.fmt != tagFmt w.2.2.2 && old.cls != 3 then some old.fmt else none

/-- The tag checks of another device's tile (R313, R314): its writes are staged, or its coordinator learns which line fails and the
tile is abandoned. -/
def State.extStage (s : State) (id : Nat) (ws : List ExtWrite) : State :=
  match Tab.find s.tiles id with
  | none => s
  | some t =>
    match t.ext with
    | none => s
    | some d =>
      if !t.store || t.committed || t.bound != t.order.length then s
      else if !ws.all fun w => t.order.contains w.1 && tagAllowed w.2.2.2 && w.2.1 + w.2.2.1.length ≤ 128 then
        { s.dropTile id with out := s.out ++ [.unsupported] }
      else match ws.findSome? fun w => (s.extConflict w).map fun f => (f, w.1) with
        | some (f, ln) => { s.dropTile id with out := s.out ++ [.tileConflict d id f ln] }
        | none => { s with tiles := Tab.put s.tiles id { t with staged := ws }, out := s.out ++ [.staged d id] }

/-- A line after bytes of elements that another W4 stores into it, with the tag of R270. -/
def storedElems (old : LineV) (off : Nat) (bs : List Byte) (tag : BitVec 16) : LineV :=
  let f := tagFmt tag
  let whole := decide (bs.length = 128)
  let fresh := old.cls == 3 || old.fmt != f
  let data := spliceBytes (if fresh then 0 else old.data) off bs
  let psn := tagCls tag == 2 || (old.cls == 2 && !whole)
  let cls := if psn then 2 else if partialLine f data then 1 else 0
  { data, tag := mkTag f cls (if whole then tagDem tag else tagDem tag || (old.cls != 3 && tagDem old.tag)) }

/-- One staged write goes in. -/
def State.extWrite (s : State) (hit : List Nat) (w : ExtWrite) : State :=
  s.writeLine false (s.ephLine w.1) (decide (w.2.2.1.length = 128)) w.1
    (strike (hit.contains w.1) (storedElems (s.homeLine w.1) w.2.1 w.2.2.1 w.2.2.2))

/-- Another device's tile has passed its commit point: its staged writes flip in and the flip is confirmed (R308, R314). -/
def State.extFlip (s : State) (id : Nat) : State :=
  match Tab.find s.tiles id with
  | none => s
  | some t =>
    match t.ext with
    | none => s
    | some d =>
      if t.committed || t.bound != t.order.length then s
      else
        let s1 := t.staged.foldl (fun (s : State) w => s.extWrite t.hit w) s
        { s1 with tiles := Tab.put s1.tiles id { t with committed := true, staged := [] }, out := s1.out ++ [.flipped d id] }

/-- Another device's tile releases what it holds here. -/
def State.extRelease (s : State) (id : Nat) : State :=
  match Tab.find s.tiles id with
  | some t => if t.ext.isSome then s.dropTile id else s
  | none => s

end Sys2Proof.Machine
end

