-- ==== Sys2Proof/Machine/Streams.lean ====
section
/-! DEFINITION. Copy streams: CPSTART, CPGATHER, CPSCATTER, CPWAIT, CPAVAIL, CPRESUME and CPCANCEL, and the rows that the
engine moves (chapter 14). -/

namespace Sys2Proof.Machine

/-! ### Streams of a team -/

def Team.stream (tm : Team) (k : Nat) : Stream := Tab.get {} tm.streams k

def State.setStream (s : State) (team k : Nat) (x : Stream) : State :=
  let tm := s.team team
  s.setTeam team { tm with streams := Tab.put tm.streams k x }

/-- The stream of a specifier, or ACCESS (R335 step 2). -/
def Ctx.streamOf (c : Ctx) (k : BitVec 4) : Res Stream := do
  let n := c.s.myCar.wb.kstreams
  ensure (k.toNat < n) .access (k.setWidth 64) (lowMask n) 0#64
  return c.s.myTeam.stream k.toNat

/-- A COPY_FAULT of stream k is pending at a strand. -/
def Strand.copyPend (st : Strand) (k : Nat) : Bool := st.pend.any fun p => p.trap.cause == .copyFault && p.stream == k

/-- Withdraw a pending COPY_FAULT of a stream. -/
def State.withdrawCopy (s : State) (x : Stream) (k : Nat) : State :=
  match Tab.find s.strands x.issuer with
  | some st => s.setStrand x.issuer { st with
      pend := st.pend.filter fun p => !(p.trap.cause == .copyFault && p.stream == k) }
  | none => s

/-- The length of the completed prefix. -/
def prefixLen (rows : List Nat) : Nat → Nat → Nat
  | 0, r => r
  | fuel + 1, r => if rows.contains r then prefixLen rows fuel (r + 1) else r

/-- A row is complete: AVAIL moves, and an ACTIVE stream with every row is DONE and frees its entries (R333, R338). -/
def Stream.arrive (x : Stream) (r : Nat) : Stream :=
  let rows := if x.doneRows.contains r then x.doneRows else r :: x.doneRows
  let n := prefixLen rows x.req 0
  let y := { x with doneRows := rows, flight := x.flight.erase r, avail := n }
  if n = y.req && y.state == .active then { y with state := .done, il := [] } else y

/-! ### The start of a transfer (R335) -/

/-- BOUND of consecutive rows (R335 item 6). -/
def rowsBound (m : Manifest) (ys : List Nat) : Res Unit :=
  match ys.getLast? with
  | some y => ensure (y < m.extent 1) .bound 0xFE#64 (w64 y) 9#64
  | none => .ok ()

/-- BOUND of a transfer, in order: the columns, the rows (`rows`), and the blocks of a narrow format (R335 item 6). The padded end is
that of dimension 0, which is DIMS[0] without PAD (log 109). -/
def cpBound (m : Manifest) (f : FmtCode) (x0 ncol : Nat) (rows : Res Unit) : Res Unit := do
  ensure (x0 + ncol ≤ m.width f) .bound 0xFE#64 (w64 (x0 + ncol - 1)) 8#64
  rows
  if isNarrow f then
    ensure (x0 % 16 == 0) .bound 0xFE#64 (w64 x0) 13#64
    ensure (ncol % 16 == 0 || decide (m.width f ≤ x0 + ncol)) .bound 0xFE#64 (w64 (x0 + ncol - 1)) 13#64

/-- The coordinates of the rows of a transfer. -/
def rowsBox (x0 ncol : Nat) (ys : List Nat) : Box :=
  let y0 := ys.foldl Nat.min (ys.headD 0)
  let y1 := ys.foldl Nat.max 0
  [(x0, ncol), (y0, y1 - y0 + 1), (0, 1), (0, 1)]

/-- Interlock entries held on a core (Table 11.4), by the transfers of exited strands too. -/
def State.coreEntries (s : State) (core : Nat) : Nat :=
  (s.strands.filter fun p => (s.team p.2.team).core == some core).foldl (fun a p => a + (s.heldEntries p.1).length) 0

/-- Wait for n free interlock entries, and for the strand's accesses to be performed (R294). -/
def Ctx.engineReady (c : Ctx) (n : Nat) (s : State) : Res State := do
  if 64 < s.coreEntries (s.coreOf s.me) + n then throw .stall
  s.drainCore (s.coreOf c.me)

/-- Wait for the strand's older transfers where a new one reads or writes their ranges (R295). -/
def State.freeRange (s : State) (e : Interlock) : Res Unit :=
  if e.lo < e.hi && interlocked (s.heldEntries s.cur) e.dst e.sp e.lo (e.hi - e.lo) then .error .stall else .ok ()

/-- A stream that may start: not FAULTED, and waiting while ACTIVE. -/
def Ctx.startable (c : Ctx) (k : BitVec 4) : Res Unit := do
  let x ← c.streamOf k
  ensure (x.state != .faulted) .access (k.setWidth 64) 0#64 1#64
  if x.state == .active then throw .stall

/-- DEST, and S[C][31:21], which must be zero. -/
def Ctx.cpDest (c : Ctx) : Res Nat := do
  let w := c.s_ .c
  ensure (bits w 21 11 == 0) .illegal (wordOf c.i) 2#64
  return bits w 0 21

/-- The record of a transfer whose checks have passed, in its stream. `reg` is its range in memory. -/
def Ctx.startStream (c : Ctx) (k h : BitVec 4) (kind : CpKind) (m : Manifest) (f : FmtCode) (reg : Nat × Nat) (rm : Rm)
    (x0 ncol dest : Nat) (ys : List Nat) : Res Done := do
  ensure (dest % 128 == 0) .misaligned (w64 dest)
  let rowlen := 128 * ((ncol + eln f - 1) / eln f)
  let n := ys.length
  match c.s.myTeam.outside dest (n * rowlen) with
  | some a => raise .access (w64 a) 4#64
  | none => pure ()
  let toMem := kind == .scatter
  let il : List Interlock :=
    [{ sp := false, dst := toMem, lo := reg.1, hi := reg.2 }, { sp := true, dst := !toMem, lo := dest, hi := dest + n * rowlen }]
  let x : Stream := { state := .active, kind, issuer := c.s.cur, user := c.me.priv == .user, req := n, rowlen, dest, man := m
                      mslot := h.toNat, fmt := f, rm, x0, ncol, rows := ys, il }
  if n = 0 then done (c.s.setStream c.me.team k.toNat { x with state := .done, il := [] })
  else
    forEach c.s.freeRange il
    let s1 ← c.engineReady 2 c.s
    done (s1.setStream c.me.team k.toNat x)

/-- The translation at BASE where it can be found, for the layout of a region: it raises nothing. -/
def State.baseOf (s : State) (w : Who) (k : AccKind) (m : Manifest) : Option Xlat :=
  match s.xlat w k m.base with
  | .ok x => some x
  | .error _ => none

/-- The format of a transfer from memory: the manifest FMT, or CFMT of the stage-1 leaf at BASE (R335 item 4). -/
def Ctx.memFmt (c : Ctx) (m : Manifest) : Res (FmtCode × State) := do
  if m.anyFmt then
    let x ← c.s.xlat (c.s.who c.me) .load m.base
    return (x.cfmt, c.s.used x)
  else return (m.fmtCode, c.s)

/-- The range in memory of a transfer (R293). A scatter lies as the page at BASE lays it out, where that page can be found
(log 108). -/
def Ctx.cpRegion (c : Ctx) (kind : CpKind) (m : Manifest) (f : FmtCode) (box : Box) : Nat × Nat :=
  let w := c.s.who c.me
  let k : AccKind := if kind == .scatter then .store else .load
  let base := c.s.baseOf w k m
  let t := match kind, base with
    | .scatter, some x => pageFmt x (if m.anyFmt then f else m.fmtCode)
    | .scatter, none => if m.anyFmt then f else m.fmtCode
    | _, _ => f
  c.s.manRegion w k m base t box

/-- A narrow format with STRIDES[0] ≠ 1 raises ILLEGAL 0x17 (R335 item 4). -/
def Ctx.cpNarrow (c : Ctx) (m : Manifest) (f : FmtCode) : Res Unit := do
  c.narrowSlot m f
  ensure (!isNarrow f || m.stride 0 == 1) .illegal (wordOf c.i) 0x17#64

/-- NCOL, or DIMS[0] − x0. -/
def ncolOf (m : Manifest) (ncol : BitVec 16) (x0 : Nat) : Nat := if ncol == 0#16 then m.extent 0 - x0 else ncol.toNat

def execCpstart (k h : BitVec 4) (b e : Opnd) (ncol : BitVec 16) (s : State) : Host.Outcome State Fault Refusal :=
  issue (.cpstart k h b e ncol) s [rdS .b b, rdS .c e] fun c => do
    let dest ← c.cpDest
    c.startable k
    let m ← c.slotH h
    let (f, s1) ← c.memFmt m
    c.cpNarrow m f
    let x0 := bits (c.s_ .b) 0 32
    let y0 := bits (c.s_ .b) 32 32
    let n := ncolOf m ncol x0
    let ys := (List.range (bits (c.s_ .c) 32 32)).map (y0 + ·)
    cpBound m f x0 n (rowsBound m ys)
    ({ c with s := s1 } : Ctx).startStream k h .start m f (c.cpRegion .start m f (rowsBox x0 n ys)) .rne x0 n dest ys

def execCpgather (mk : Mk) (k h : BitVec 4) (b e : Opnd) (ncol : BitVec 16) (s : State) :
    Host.Outcome State Fault Refusal :=
  issue (.cpgather mk k h b e ncol) s [rdV .b b, rdS .c e] (mk := mk) fun c => do
    let dest ← c.cpDest
    c.startable k
    let m ← c.slotH h
    let (f, s1) ← c.memFmt m
    c.cpNarrow m f
    let v := c.v_ .b
    if !isWInt v.fmt then forbid3 0#6 v.fmt
    laneMismatch [v]
    capCheck c [v.fmt]
    let js := c.actives
    consumeAs b v js
    let x0 := bits (c.s_ .c) 32 32
    let n := ncolOf m ncol x0
    let ys := js.map fun j => (elemInt v j).toNat
    cpBound m f x0 n do
      -- a negative row number lies outside DIMS[1]
      forEach (fun j => ensure (decide (0 ≤ elemInt v j) && decide ((elemInt v j).toNat < m.extent 1)) .bound 0xFE#64
        (wInt (elemInt v j)) 9#64 (w64 j)) js
    ({ c with s := s1 } : Ctx).startStream k h .gather m f (c.cpRegion .gather m f (rowsBox x0 n ys)) .rne x0 n dest ys

def execCpscatter (rm : Rm) (k h : BitVec 4) (b e : Opnd) (ncol : BitVec 16) (s : State) :
    Host.Outcome State Fault Refusal :=
  issue (.cpscatter rm k h b e ncol) s [rdS .b b, rdS .c e] fun c => do
    let dest ← c.cpDest
    c.startable k
    let m ← c.slotH h
    -- the line that gives the format may still be arriving (R295)
    c.s.free false true (w64 (dest / 128 * 128)) 128
    let f := (c.s.myTeam.spLine (dest / 128)).fmt
    c.cpNarrow m f
    let x0 := bits (c.s_ .b) 0 32
    let y0 := bits (c.s_ .b) 32 32
    let n := ncolOf m ncol x0
    let ys := (List.range (bits (c.s_ .c) 32 32)).map (y0 + ·)
    cpBound m f x0 n (rowsBound m ys)
    c.startStream k h .scatter m f (c.cpRegion .scatter m f (rowsBox x0 n ys)) (c.me.rmode rm).toRm x0 n dest ys

/-! ### CPWAIT, CPAVAIL, CPRESUME, CPCANCEL (R341–R344) -/

def partUse : Option Opnd → List Use
  | some o => [rdS .b o]
  | none => []

def execCpwait (sc : Scope) (part : Option Opnd) (d : Opnd) (k : BitVec 4) (s : State) :
    Host.Outcome State Fault Refusal :=
  issue (.cpwait sc part d k) s (partUse part ++ [wrS d]) fun c => do
    let x ← c.streamOf k
    let ready := x.state == .done || x.state == .idle || (part.isSome && (c.s_ .b).toNat ≤ x.avail)
    if !ready then throw .stall
    let s1 ← c.s.order (.mem sc .acq)
    done (c.putS s1 (w64 x.avail))

def CpState.num : CpState → Nat
  | .idle => 0 | .active => 1 | .faulted => 2 | .done => 3

def CpKind.num : CpKind → Nat
  | .start => 0 | .gather => 1 | .scatter => 2

/-- Table 14.6. -/
def State.cpStatus (s : State) (k : Nat) (x : Stream) : Word :=
  let iss := s.strand x.issuer
  w64 (x.state.num + x.kind.num * 4 + (if iss.copyPend k then 16 else 0) + x.mslot % 16 * 2 ^ 8 + iss.idx % 16 * 2 ^ 12
    + x.rowlen % 2 ^ 22 * 2 ^ 16)

def execCpavail (d : Opnd) (k : BitVec 4) (sel : BitVec 2) (s : State) : Host.Outcome State Fault Refusal :=
  issue (.cpavail d k sel) s [wrS d] fun c => do
    let x ← c.streamOf k
    done (c.putS c.s (match sel.toNat with
      | 0 => c.s.cpStatus k.toNat x
      | 1 => w64 x.avail
      | 2 => w64 x.req
      | _ => w64 x.dest))

/-- The lines of a row in the scratchpad. -/
def Stream.rowLines (x : Stream) (r : Nat) : List Nat :=
  (List.range (x.rowlen / 128)).map fun l => (x.dest + r * x.rowlen) / 128 + l

/-- SKIP of a row from memory: its scratchpad lines become zero lines of f (R341). -/
def Team.skipRow (tm : Team) (x : Stream) (r : Nat) : Team :=
  (x.rowLines r).foldl (fun tm ln => tm.setSpLine ln { data := 0, tag := mkTag x.fmt 3 false }) tm

def execCpresume (d : Opnd) (k : BitVec 4) (mode : BitVec 2) (s : State) : Host.Outcome State Fault Refusal :=
  issue (.cpresume d k mode) s [wrS d] fun c => do
    let x ← c.streamOf k
    match x.state, x.fail with
    | .faulted, some (r, _) =>
      let s1 ← (if x.kind == .scatter then c.s.drainCore (c.s.coreOf c.me) else .ok c.s)
      let s2 := s1.withdrawCopy x k.toNat
      let y := { x with state := .active, fail := none, failLines := [] }
      let s3 := if mode == 1#2 && x.kind != .scatter then s2.setMyTeam (s2.myTeam.skipRow x r) else s2
      let z := if mode == 0#2 then y else y.arrive r
      done (c.putS (s3.setStream c.me.team k.toNat z) 0#64)
    | _, _ => done (c.putS c.s (wInt (-1)))

/-- Cancel a transfer (R344): rows in flight are dropped, its fault is withdrawn and its entries are free. -/
def State.cancelStream (s : State) (team k : Nat) : State :=
  let x := (s.team team).stream k
  let s1 := s.withdrawCopy x k
  s1.setStream team k { x with state := .idle, flight := [], fail := none, failLines := [], il := [] }

def execCpcancel (k : BitVec 4) (s : State) : Host.Outcome State Fault Refusal :=
  issue (.cpcancel k) s [] fun c => do
    let _ ← c.streamOf k
    done (c.s.cancelStream c.me.team k.toNat)

/-! ### Rows (R334, R336–R339) -/

/-- A failing element of a row: its number, the line, and the trap or kind that it met. -/
structure RowFail where
  i : Nat
  va : Word
  sub : Nat

/-- How the work on a row ends: complete, failing, or waiting. -/
inductive RowRes where
  | ok (s : State)
  | bad (f : RowFail)
  | wait (s : State)

/-- The sub-cause of Table 14.5 that a fault of an access becomes. The spec gives none for a line of a device without a
route (ACCESS 9): a free value (log 22). -/
def rowSub (tick : Nat) (t : Trap) : Nat :=
  let v := t.v1.toNat
  match t.cause with
  | .pageLoad | .pageStore | .pageFetch => 1 + 16 * (v % 8)
  | .access => if v = 9 then 2 + 16 * (Config.copyNoRoute tick).toNat else 2 + 16 * (v % 8)
  | .execOnly => 2 + 16 * 7
  | .homeOffline => 6
  | .tagMismatch => 4
  | .poisonConsumed => 3
  | _ => 5

/-- How a stop at element i ends a row. The failing line of a TAG_MISMATCH of tensor pages stands in TVAL2 (R251). -/
def State.rowStop (s : State) (i : Nat) (va : Word) : Stop → RowRes
  | .trap t | .trapIn t _ =>
    .bad { i, va := (if t.cause == .tagMismatch then t.v2 else t.v0) &&& ~~~127#64, sub := rowSub s.tick t }
  | .pri p _ => .wait (s.askPri p)
  | .hold _ | .stall | .page _ => .wait s
  | .fault _ => .bad { i, va, sub := 2 + 16 * 2 }

/-- One element of a row in memory. -/
structure RowCell where
  i : Nat
  va : Word
  pos : Nat
  x : Xlat

/-- A row fails at another line than the fault names. -/
def RowRes.atLine (f : Word → Word) : RowRes → RowRes
  | .bad b => .bad { b with va := f b.va &&& ~~~127#64 }
  | r => r

/-- What the elements of a row come to: those with a place, and the others with what ends the row there. -/
structure RowView where
  cells : List RowCell := []
  ends : List (Nat × RowRes) := []

/-- The places of the elements of row y, each translated and its home answering. -/
def State.rowCells (s : State) (w : Who) (k : AccKind) (x : Stream) (base : Option Xlat) (t : FmtCode) (y : Nat) : RowView :=
  let v := (List.range x.ncol).foldl (fun (v : RowView) i =>
    match s.manPlace w k x.man base t (x.x0 + i) y 0 0 with
    | .error e =>
      let at' := s.failedLine w k x.man base (x.man.index (x.x0 + i) y 0 0)
      { v with ends := (i, (s.rowStop i x.man.base e).atLine at') :: v.ends }
    | .ok (va, pos, _) =>
      match v.cells.find? fun c => c.va == va with
      | some c => { v with cells := { i, va, pos, x := c.x } :: v.cells }
      | none =>
        match s.reach w k va with
        | .error e => { v with ends := (i, s.rowStop i va e) :: v.ends }
        | .ok xl => { v with cells := { i, va, pos, x := xl } :: v.cells }) {}
  { cells := v.cells.reverse, ends := v.ends.reverse }

/-- The lines of a row, each with its first element. -/
def rowLineList (cs : List RowCell) : List RowCell :=
  (cs.foldl (fun (acc : List RowCell) c => if acc.any fun d => d.va == c.va then acc else c :: acc) []).reverse

/-- How a row ends at its lowest element that does not go through; of several ends at one element the first counts. -/
def lowestEnd (es : List (Nat × RowRes)) : Option RowRes :=
  (es.foldl (fun (a : Option (Nat × RowRes)) e => match a with
    | none => some e
    | some b => if e.1 < b.1 then some e else a) none).map fun e => e.2

/-- On whose behalf the engine works. -/
def State.whoOf (s : State) (team : Nat) (user : Bool) : Who :=
  let tm := s.team team
  { vi := (s.car tm.caravan).vi, user, core := tm.core.getD 0 }

/-- The kind that a source line gives a row (R336): poisoned, or of another format. -/
def srcBad (f : FmtCode) (l : LineV) : Option Nat :=
  if l.cls == 2 then some (3 + if l.why = 1 then 16 else 0)
  else if l.cls != 3 && l.fmt != f then some 4
  else none

/-- Scratchpad line l of a row from its source elements, bit for bit (R336). -/
def packLine (f : FmtCode) (ncol l : Nat) (src : Nat → LineV × Nat) : LineV :=
  let n := eln f
  let w := elemBits f
  let is := (List.range n).filter fun p => decide (n * l + p < ncol)
  let zero := is.all fun p => (src (n * l + p)).1.cls == 3
  let data := is.foldl (fun d p =>
    let (ln, pos) := src (n * l + p)
    if ln.cls == 3 then d
    else
      let (code, sc) := lineCode f ln.data pos
      if isNarrow f then
        let seg := (8 + 16 * w) * (p / 16)
        setNbits (setNbits d seg 8 sc) (seg + 8 + w * (p % 16)) w code
      else setNbits d (w * p) w code) 0
  { data, tag := mkTag f (if zero then 3 else if partialLine f data then 1 else 0) false }

/-- A row of CPSTART or CPGATHER (R336): checked element by element, then copied. The stores to its lines that the core has queued
come first, as the core's copy streams are agents of its CORE scope (R277). -/
def State.rowIn (s : State) (team k r : Nat) (x : Stream) : RowRes :=
  let w := s.whoOf team x.user
  let y := x.rows.getD r 0
  match (if x.man.ten then (s.xlat w .load x.man.base).map some else .ok none) with
  | .error e => s.rowStop 0 x.man.base e
  | .ok base =>
    let v := s.rowCells w .load x base x.fmt y
    let ls := rowLineList v.cells
    let (s0, stuck) := match s.drainTracks w.core fun b => ls.any fun c => b.pa / 128 == c.x.pa / 128 with
      | .ok s0 => (s0, false)
      | .error _ => (s, true)
    let atLine := fun (c : RowCell) =>
      if stuck || s.held false (c.x.pa / 128) then some (c.i, RowRes.wait s)
      else (srcBad x.fmt (s0.lineAt c.x)).map fun b => (c.i, RowRes.bad { i := c.i, va := c.va, sub := b })
    match lowestEnd (v.ends ++ ls.filterMap atLine) with
    | some e => e
    | none =>
      let src := fun (i : Nat) => match v.cells.find? fun c => c.i == i with
        | some c => (s0.lineAt c.x, c.pos)
        | none => ({ data := 0, tag := tagReset }, 0)
      let s1 := ls.foldl (fun s c => ((s.used c.x).fillHost c.x).chargeLine w.vi c.x.pa) s0
      let tm := (x.rowLines r).zip (List.range (x.rowlen / 128)) |>.foldl
        (fun (tm : Team) p => tm.setSpLine p.1 (packLine x.fmt x.ncol p.2 src)) (s1.team team)
      .ok ((s1.setTeam team tm).setStream team k (x.arrive r))

/-- An element of a scatter's row from its scratchpad line. -/
def scatterEl (f : FmtCode) (l : LineV) (pos : Nat) : StEl :=
  if f == 0#6 then { v := Val.zero, raw := some (if l.cls == 3 then 0 else (lineCode f l.data pos).1), psn := l.cls == 2 }
  else { v := if l.cls == 2 then decodeCode f (lineCode f l.data pos).2 (lineCode f l.data pos).1 else l.elem pos
         psn := l.cls == 2 }

/-- Whether a line of a scatter's row conflicts: a store policy, another written format, or R271. -/
def State.rowConflict (s : State) (f t : FmtCode) (l : LineW) : Bool :=
  match l.page with
  | some x => (policy x f).isNone || pageFmt x f != t || lineConflicts t (s.lineAt x) l.els
  | none => false

/-- What ends a scatter's row at a line, and at which element: a reservation or a conflict, at the line's first element i; or poison
bound for host or CXL memory, at its first poisoned element p. -/
def State.lineEnd (s : State) (f t : FmtCode) (l : LineW) (i p : Nat) : Option (Nat × RowRes) :=
  match l.page with
  | none => none
  | some x =>
    if s.held true (x.pa / 128) then some (i, .wait s)
    else if s.rowConflict f t l then some (i, .bad { i, va := l.va, sub := 5 })
    else match s.storePoison [l] with
      | .error _ => some (p, .bad { i := p, va := l.va, sub := 3 })
      | .ok _ => none

/-- The element that position i of a scatter's row stores: zero where it is padding of the manifest (R251, R269). -/
def State.rowEl (s : State) (team r : Nat) (x : Stream) (i : Nat) : StEl :=
  let n := eln x.fmt
  if x.man.extent 0 ≤ x.x0 + i then { v := Val.zero }
  else scatterEl x.fmt ((s.team team).spLine ((x.dest + r * x.rowlen) / 128 + i / n)) (i % n)

/-- A line of a scatter's row at its home; in host and CXL memory it is written back, as the row is complete only when it is
performed at SYS (R338). -/
def State.rowLine (s : State) (w : Who) (f : FmtCode) (sf : StFmt) (l : LineW) : State :=
  match l.page with
  | none => s
  | some x =>
    let o := lineAfter sf (pageDem l f) (s.lineAt x) l.els
    (((s.used x).chargeLine w.vi x.pa).writeLine x.nc x.eph o.whole (x.pa / 128) o.line).writeBackHost (x.pa / 128)

/-- A row of CPSCATTER (R337): checked whole, then stored. -/
def State.rowOut (s : State) (team k r : Nat) (x : Stream) : RowRes :=
  let w := s.whoOf team x.user
  let y := x.rows.getD r 0
  let tm := s.team team
  let n := eln x.fmt
  let spl := fun (i : Nat) => (x.dest + r * x.rowlen) / 128 + i / n
  let f := if x.man.anyFmt then x.fmt else x.man.fmtCode
  match s.xlat w .store x.man.base with
  | .error e => s.rowStop 0 x.man.base e
  | .ok b =>
    let t := pageFmt b f
    if (x.fmt == 0#6) != (t == 0#6) then .bad { i := 0, va := x.man.base &&& ~~~127#64, sub := 5 }
    else
      let v := s.rowCells w .store x (some b) t y
      let ls := linesOf (v.cells.map fun c =>
        { va := c.va, pos := c.pos, loc := .mem c.x, el := s.rowEl team r x c.i })
      let first := fun (va : Word) (p : RowCell → Bool) => match v.cells.find? fun c => c.va == va && p c with | some c => c.i | none => 0
      let spBad := (List.range x.ncol).filterMap fun i =>
        let l := tm.spLine (spl i)
        if l.cls != 3 && l.fmt != x.fmt then some (i, RowRes.bad { i, va := w64 (128 * spl i), sub := 4 }) else none
      let bad := ls.filterMap fun l =>
        s.lineEnd f t l (first l.va fun _ => true) (first l.va fun c => (s.rowEl team r x c.i).psn)
      -- the page at BASE refuses the format (TRAPWIDE), though it may hold no element of the row
      let refBad := if (policy b f).isNone then [(0, RowRes.bad { i := 0, va := x.man.base &&& ~~~127#64, sub := 5 })] else []
      match lowestEnd (spBad ++ v.ends ++ bad ++ refBad) with
      | some e => e
      | none => .ok ((ls.foldl (fun s l => s.rowLine w f (stFmt x.fmt t x.rm.toMode) l) s).setStream team k (x.arrive r))

/-- The work on a row in flight. -/
def State.rowWork (s : State) (team k r : Nat) (x : Stream) : RowRes :=
  if x.kind == .scatter then s.rowOut team k r x else s.rowIn team k r x

/-- The next row to request: the lowest that is neither complete nor in flight (R338). -/
def Stream.nextRow (x : Stream) : Option Nat :=
  if x.state == .active then (List.range x.req).find? fun r => !x.doneRows.contains r && !x.flight.contains r else none

/-- A team that holds a core, so that its engines run (R345). -/
def State.streamOf (s : State) (team k : Nat) : Option Stream :=
  match Tab.find s.teams team with
  | some tm => if tm.core.isSome then Tab.find tm.streams k else none
  | none => none

/-- COPY_ROW_REQUEST: a row needs request entries of its core for its lines; without them the stream waits (R338). -/
def State.requestRow (s : State) (team k : Nat) : Option State :=
  match s.streamOf team k with
  | none => none
  | some x =>
    if s.hasRequests ((s.team team).core.getD 0) (Sys2Proof.Machine.rowLines x.rowlen) then
      x.nextRow.map fun r => s.setStream team k { x with flight := x.flight ++ [r] }
    else none

def execEvCopyRowRequest (team k : Nat) (s : State) : Host.Outcome State Fault Refusal := .next ((s.requestRow team k).getD s)

/-- COPY_ROW_COMPLETE: a row in flight whose accesses all succeed. A row that waits may ask the host for a page. -/
def State.completeRow (s : State) (team k r : Nat) : Option State :=
  match s.streamOf team k with
  | none => none
  | some x =>
    if !x.flight.contains r then none
    else match s.rowWork team k r x with
      | .ok s1 => some s1
      | .wait s1 => if s1.priPending.length == s.priPending.length then none else some s1
      | .bad _ => none

def execEvCopyRowComplete (team k row : Nat) (s : State) : Host.Outcome State Fault Refusal :=
  .next ((s.completeRow team k row).getD s)

/-- The COPY_FAULT of a row (Table 14.4). -/
def Stream.faultOf (x : Stream) (k r : Nat) (f : RowFail) : Trap :=
  { cause := .copyFault, v0 := w64 (k + x.mslot % 16 * 2 ^ 8 + x.kind.num * 2 ^ 12), v1 := w64 (x.rows.getD r 0)
    v2 := w64 (f.i + r * 2 ^ 32), v3 := (f.va &&& ~~~127#64) + w64 f.sub }

/-- Where the lines of row r lie in memory (R341): with no page at BASE to say how a scatter is laid out, what it may reach in any
format. -/
def State.recordLines (s : State) (team r : Nat) (x : Stream) : List (Nat × Nat) :=
  let w := s.whoOf team x.user
  let k : AccKind := if x.kind == .scatter then .store else .load
  let base := s.baseOf w k x.man
  let f := if x.kind == .scatter then (if x.man.anyFmt then x.fmt else x.man.fmtCode) else x.fmt
  let y := x.rows.getD r 0
  match x.kind, base with
  | .scatter, none =>
    ((List.range 64).filter fun n => !fmtReserved (BitVec.ofNat 6 n)).map fun n =>
      s.manRegion w k x.man none (BitVec.ofNat 6 n) [(x.x0, x.ncol), (y, 1), (0, 1), (0, 1)]
  | _, _ =>
    let t := match x.kind, base with | .scatter, some b => pageFmt b f | _, _ => f
    ((List.range x.ncol).map fun i => s.lineRange w k x.man base t (x.man.index (x.x0 + i) y 0 0)).eraseDups

/-- COPY_ROW_FAULT (R339, R340): the record keeps the lowest row that failed while its COPY_FAULT is still pending; another
row that fails is requested again after CPRESUME. -/
def State.failRow (s : State) (team k r : Nat) : Option State :=
  match s.streamOf team k with
  | none => none
  | some x =>
    if !x.flight.contains r then none
    else match s.rowWork team k r x with
      | .bad f =>
        let y := { x with flight := x.flight.erase r, state := CpState.faulted }
        let lower := match x.fail with
          | none => true
          | some (q, _) => decide (r < q) && (s.strand x.issuer).copyPend k
        if lower then
          let t := x.faultOf k r f
          let s1 := (if f.sub = 65 then s.spend (s.whoOf team x.user).vi f.va else s).withdrawCopy x k
          some ((s1.setStream team k { y with fail := some (r, t), failLines := s.recordLines team r x }).addPend x.issuer
            { trap := t, stream := k })
        else some (s.setStream team k y)
      | _ => none

def execEvCopyRowFault (team k row : Nat) (s : State) : Host.Outcome State Fault Refusal :=
  .next ((s.failRow team k row).getD s)

end Sys2Proof.Machine
end

