-- ==== Sys2Proof/Machine/Context.lean ====
section
/-! DEFINITION. Context images and their instructions: CTXSAVE and CTXRSTR (R394–R398, R403–R405). -/

namespace Sys2Proof.Machine

/-! ### Images (Tables 17.5–17.7) -/

/-- n bytes of an image from offset o. -/
def bytesAt (bs : List Byte) (o n : Nat) : Nat := leNat ((bs.drop o).take n)

def wordAt (bs : List Byte) (o : Nat) : Word := w64 (bytesAt bs o 8)

def wordsOf (ws : List Word) : List Byte := ws.flatMap fun w => natLe 8 w.toNat

/-- The header of an image. -/
structure Header where
  team : Bool := false
  len : Nat
  features : Nat
  sect : Nat := 0
  vsaved : Word := 0#64
  handle : Word := 0#64
  idx : Nat := 0
  strand : Nat := 0
deriving DecidableEq, Repr

def Header.bytes (h : Header) : List Byte :=
  natLe 2 1 ++ natLe 2 (if h.team then 1 else 0) ++ natLe 4 h.len ++ natLe 8 h.features ++ natLe 8 h.sect
    ++ natLe 8 h.vsaved.toNat ++ natLe 8 h.handle.toNat ++ natLe 2 h.idx ++ natLe 1 h.strand ++ natLe 85 0

/-- Numbers of the registers that a mask word names. -/
def regsOf (w : Word) : List Nat := (List.range 48).filter fun n => bitAt w n

/-- LENGTH of a strand image (R396). -/
def strandLength (vsaved : Word) (masks mnfs : Bool) : Nat :=
  1152 + 1152 * (regsOf vsaved).length + (if masks then 1536 else 0) + (if mnfs then 1024 else 0)

/-- The header of a malformed strand image (R397 item 4). -/
def headerMalformed (bs : List Byte) : Bool :=
  let sect := bytesAt bs 16 8
  let vs := wordAt bs 24
  let vec := sect / 2 % 2 == 1
  let msk := sect / 4 % 2 == 1
  bytesAt bs 3 1 != 0 || bytesAt bs 43 85 != 0 || sect / 16 != 0 || sect % 2 == 0 || bits vs 48 16 != 0
    || (!vec && vs != 0#64) || ((vec || msk) && bytesAt bs 8 8 / 2 % 2 == 0)
    || bytesAt bs 4 4 != strandLength vs msk (sect / 8 % 2 == 1)

/-- The first failing check of R397 on the header of a strand image. -/
def headerReason (bs : List Byte) : Option Nat :=
  if bytesAt bs 0 2 != 1 then some 1
  else if bytesAt bs 2 1 != 0 then some 2
  else if bytesAt bs 8 8 / 256 != 0 then some 3
  else if headerMalformed bs then some 4
  else none

/-- The CORE section: live registers, with the context trapped below a level (R403). `sup` gives the supervisor registers
that a monitor image holds. -/
def Strand.coreBytes (st : Strand) (x : TrapRegs) (sup : Option TrapRegs) : List Byte :=
  wordsOf ((List.range 64).map st.getS) ++ wordsOf ((List.range 8).map st.getI)
    ++ wordsOf [x.pc, st.vl, st.vfmt, st.vpad, w64 (bits x.stat 16 10), w64 (bits x.stat 32 2), st.fctl, st.palsel, st.vdirty,
         st.vpresent, st.ut.pc, st.ut.cause, st.ut.v0, st.ut.v1, st.ut.v2, st.ut.v3, st.ut.vec, st.ut.stat, st.progress,
         0#64, w64 st.wdrem, w64 (bits x.stat 2 2)]
    ++ (match sup with
        | some t => wordsOf [t.pc, t.cause, t.v0, t.v1, t.v2, t.v3, t.stat, st.sscratch]
        | none => natLe 64 0)
    ++ natLe 208 0

/-- The sections after CORE. -/
def Strand.sections (st : Strand) (vsaved : Word) (masks mnfs : Bool) : List Byte :=
  (regsOf vsaved).flatMap (fun n => (st.getV n).image)
    ++ (if masks then (List.range 12).flatMap fun n => natLe 128 (st.getM n).toNat else [])
    ++ (if mnfs then (List.range 16).flatMap fun n => match st.getH n with
        | some m => m.bytes
        | none => natLe 64 0 else [])

/-- The lines of an image. -/
def imageLines : Nat → List Byte → List Nat
  | 0, _ => []
  | n + 1, bs => leNat (bs.take 128) :: imageLines n (bs.drop 128)

/-! ### CTXSAVE -/

def baseUses : CtxBase → List Use
  | .ssc => []
  | .at a b => [rdS .a a, rdS .b b]

/-- The VA of an image (R403). -/
def Ctx.imageVa (c : Ctx) (base : CtxBase) (imm : BitVec 16) : Word :=
  match base with
  | .ssc => (if c.me.priv == .mon then c.me.mscratch else c.me.sscratch) + imm.signExtend 64
  | .at _ _ => c.address imm

/-- The level whose trapped context CTXSAVE and CTXRSTR act on, and the checks that both make (R405). -/
def Ctx.trapped (c : Ctx) (va : Word) : Res TrapRegs := do
  let x := c.s.lvlRegs c.me c.me.priv
  ensure x.hnd .privilege (wordOf c.i)
  ensure (va.toNat % 128 == 0) .misaligned va
  return x

/-- The places of n lines from a VA on. -/
def State.linesFrom (s : State) (k : AccKind) (va : Word) (from' n : Nat) : Res (List (Word × Loc)) :=
  ((List.range n).map (· + from')).mapM fun i => do
    let v := va + w64 (128 * i)
    return (v, ← s.locate false k v 128)

/-- The bytes of lines of an image, read when no older transfer still writes them (R295). -/
def State.imageRead (s : State) (va : Word) (from' n : Nat) : Res (State × List Byte) := do
  let ls ← s.linesFrom .load va from' n
  forEach (fun (q : Word × Loc) => s.free false false q.1 128) ls
  s.requests n
  readLines s ls

def execCtxsave (vec dirty msks mnfs : Bool) (d : Opnd) (base : CtxBase) (imm : BitVec 16) (s : State) :
    Host.Outcome State Fault Refusal :=
  issue (.ctxsave vec dirty msks mnfs d base imm) s (baseUses base ++ [wrS d]) fun c => do
    ensure (vec || !dirty) .illegal (wordOf c.i) 2#64
    let va := c.imageVa base imm
    let x ← c.trapped va
    let st := c.me
    let vs := if !vec then 0#64 else if dirty then st.vpresent &&& st.vdirty else st.vpresent
    let len := strandLength vs msks mnfs
    let h : Header :=
      { len, features := if vec || msks then 3 else 1
        sect := 1 + (if vec then 2 else 0) + (if msks then 4 else 0) + (if mnfs then 8 else 0)
        vsaved := vs, handle := c.s.myCar.handle, idx := c.s.myTeam.idx, strand := st.idx }
    let ls ← c.s.linesFrom .store va 0 (len / 128)
    noTensor va ls
    forEach (fun (p : Word × Loc) => c.s.free true false p.1 128) ls
    c.s.requests ls.length
    -- a release at DEV; the lines themselves are then performed one by one, as those of VSAVE (R405)
    let s1 ← imageReady (.mem .dev .rel) ls (← c.s.drainCore (c.s.coreOf st))
    let sup := if st.priv == .mon then some (c.s.lvlRegs st .sup) else none
    let bs := h.bytes ++ st.coreBytes x sup ++ st.sections vs msks mnfs
    let s2 := writeUntLines (.mem .dev .rel) (ls.zip (imageLines ls.length bs)) s1
    done (c.putS (s2.setMe { s2.me with vdirty := s2.me.vdirty &&& ~~~vs }) (w64 len))

/-! ### CTXRSTR -/

/-- The register images of an image, by number. -/
def vregsOf (bs : List Byte) (vsaved : Word) : List (Nat × List Byte) :=
  let rs := regsOf vsaved
  rs.zip ((List.range rs.length).map fun k => (bs.drop (1152 + 1152 * k)).take 1152)

/-- An image that VRSTR refuses (R172). -/
def imageRefused (bs : List Byte) : Bool :=
  let tag := bytesAt bs 1104 8
  tag / 256 != 0 || fmtReserved (BitVec.ofNat 6 tag)

/-- Malformed contents (R397 item 6). -/
def contentsMalformed (bs : List Byte) (vsaved : Word) (lzy : Bool) : Bool :=
  let c := fun (k : Nat) => (wordAt bs (128 + 576 + 8 * k)).toNat
  64 ≤ c 2 || fmtReserved (BitVec.ofNat 6 (c 2)) || c 4 % 16 != 0 || 1008 < c 4 || 3 < c 5 || c 19 != 0
    || (!lzy && (vregsOf bs vsaved).any fun p => imageRefused p.2)

/-- The registers of the CORE section (R404). Only a PERSIST strand has a watchdog count (R399). -/
def Strand.restoreCore (st : Strand) (bs : List Byte) (persist : Bool) (wdwin : Nat) : Strand :=
  let w := fun (o : Nat) => wordAt bs (128 + o)
  let c := fun (k : Nat) => w (576 + 8 * k)
  let put := fun (n o : Nat) => (List.range n).foldl (fun (t : Tab Word) k => Tab.set 0#64 t k (w (o + 8 * k))) ([] : Tab Word)
  { st with
    s := Tab.del (put 64 0) 0
    i := put 8 512
    vl := c 1, vfmt := c 2, vpad := c 3, fctl := fctlWrite st.fctl (c 6), palsel := w64 (bits (c 7) 0 4)
    ut := { pc := c 10, cause := c 11 &&& 0xFF#64, v0 := c 12, v1 := c 13, v2 := c 14, v3 := c 15, vec := c 16 &&& ~~~7#64
            stat := c 17 &&& statMask .user }
    progress := c 18
    -- a count of 0 stands for a full window; another one goes on, where no window is set from its own value (log 111)
    wdrem := if !persist then 0 else if c 20 == 0#64 then wdwin else (c 20).toNat
    wdwin := if !persist then 0 else if c 20 == 0#64 || wdwin != 0 then wdwin else (c 20).toNat }

/-- The supervisor registers of an image restored at the monitor. -/
def Strand.restoreSup (st : Strand) (bs : List Byte) : Strand :=
  let w := fun (k : Nat) => wordAt bs (128 + 752 + 8 * k)
  { st with
    st := { st.st with pc := w 0, cause := w 1 &&& 0xFF#64, v0 := w 2, v1 := w 3, v2 := w 4, v3 := w 5
                       stat := w 6 &&& statMask .sup }
    sscratch := w 7 }

/-- Vector registers of an image: loaded, or absent under LAZY. -/
def Strand.restoreVec (st : Strand) (bs : List Byte) (vsaved : Word) (lzy : Bool) : Strand :=
  let st1 := if lzy then st
    else (vregsOf bs vsaved).foldl (fun st p => { st with v := Tab.set {} st.v p.1 (VReg.ofImage p.2) }) st
  { st1 with vdirty := st1.vdirty &&& ~~~vsaved
             vpresent := if lzy then st1.vpresent &&& ~~~vsaved else st1.vpresent ||| vsaved }

/-- Masks and manifest slots, from their sections' offsets. -/
def Strand.restoreMasks (st : Strand) (bs : List Byte) (o : Nat) : Strand :=
  { st with m := (List.range 12).foldl (fun t k => Tab.set 0#1024 t k (BitVec.ofNat 1024 (bytesAt bs (o + 128 * k) 128))) [] }

def Strand.restoreMnfs (st : Strand) (bs : List Byte) (o : Nat) : Strand :=
  { st with h := (List.range 16).foldl (fun (t : Tab Manifest) k =>
      let r := (bs.drop (o + 64 * k)).take 64
      if r.all (· == 0#8) then t else Tab.put t k (Manifest.ofBytes r).1) [] }

/-- Write the return context into a level's registers. -/
def TrapRegs.restore (x : TrapRegs) (bs : List Byte) : TrapRegs :=
  let c := fun (k : Nat) => wordAt bs (128 + 576 + 8 * k)
  let s1 := setBits x.stat 16 10 (c 4).toNat
  let s2 := setBits s1 32 2 (c 5).toNat
  { x with pc := c 0, stat := setBits s2 2 2 (c 21).toNat }

/-- The strand after CTXRSTR. -/
def Strand.restoreImage (st : Strand) (bs : List Byte) (lvl : Priv) (x : TrapRegs) (lzy persist : Bool) (wdwin : Nat) : Strand :=
  let sect := bytesAt bs 16 8
  let vs := wordAt bs 24
  let o := 1152 + 1152 * (regsOf vs).length
  let msk := sect / 4 % 2 == 1
  let st1 := st.restoreCore bs persist wdwin
  let st2 := if lvl == .mon then st1.restoreSup bs else st1
  let st3 := st2.restoreVec bs vs lzy
  let st4 := if msk then st3.restoreMasks bs o else st3
  let st5 := if sect / 8 % 2 == 1 then st4.restoreMnfs bs (o + if msk then 1536 else 0) else st4
  st5.setLvl lvl (x.restore bs)

/-- CONTEXT_INCOMPATIBLE (R405). -/
def incompatible (va : Word) (k : Nat) : Res Unit := raise .contextIncompatible va (w64 k)

def execCtxrstr (lzy : Bool) (base : CtxBase) (imm : BitVec 16) (s : State) : Host.Outcome State Fault Refusal :=
  issue (.ctxrstr lzy base imm) s (baseUses base) fun c => do
    let va := c.imageVa base imm
    let x ← c.trapped va
    let s1 ← c.s.order (.mem .dev .acq)
    let (s2, hb) ← s1.imageRead va 0 1
    match headerReason hb with
    | some k => incompatible va k
    | none => pure ()
    let (s3, pb) ← s2.imageRead va 6 1
    let priv := bytesAt pb (872 - 768) 8
    if (if c.me.priv == .mon then 1 else 0) < priv then incompatible va 5
    let n := bytesAt hb 4 4 / 128
    let (s4, bs) ← s3.imageRead va 0 n
    if contentsMalformed bs (wordAt hb 24) lzy then incompatible va 6
    let ls ← s4.linesFrom .load va 0 n
    let s5 := ls.foldl (fun s q => s.touch q.2) s4
    let wdwin := bits (s5.vi s5.myVi).wdwin 0 32
    done (s5.setMe (s5.me.restoreImage bs c.me.priv x lzy s5.myCar.wb.persist wdwin)).reallocMine

end Sys2Proof.Machine
end

