-- ==== Sys2Proof/Machine/Fetch.lean ====
section
/-! DEFINITION. What a step does around an instruction: pending causes, the fetch and its faults, the decoder's ILLEGAL, the
passing of time. -/

namespace Sys2Proof.Machine

/-- The fetch of the acting strand's next word (R37 step 1): its translation and the word. A poisoned line raises
POISON_CONSUMED (DEDUCED, log 16). -/
def State.fetch (s : State) : Res (Xlat × Word) := do
  let st := s.me
  -- words lie at multiples of 8 (R22)
  let pc := st.pc &&& ~~~7#64
  let x ← s.reach (s.who st) .fetch pc
  let l ← s.loadLine x
  ensure (l.cls != 2) .poisonConsumed pc (w64 l.why)
  return (x, w64 (nbits l.data (8 * (x.pa % 128)) 64))

/-- A cycle c is one of those withheld, where a of every b cycles are, spread evenly. -/
def withheldCycle (a b c : Nat) : Bool := a != 0 && (c + 1) * a / b != c * a / b

/-- The power cap of a strand's VI withholds this cycle of its core: the strand is not eligible, and its wait does not count the
cycle (R415). Which cycles those are is free, but for their share (log 27). -/
def State.withheldNow (s : State) (st : Strand) : Bool :=
  let f := (s.vi (s.viNo st)).withheld
  withheldCycle f.1 f.2 ((Tab.get 0#64 s.cycles (s.coreOf st)).toNat + Config.withholdPhase (s.viNo st))

/-- Whether a strand may issue: ACTIVE, placed, and not in a cycle that its VI's power cap withholds (R415). -/
def State.mayIssue (s : State) (sid : Nat) : Bool :=
  match Tab.find s.strands sid with
  | some st => st.run == .active && (s.team st.team).core.isSome && !s.withheldNow st
  | none => false

/-- The charge of a fetch: a line access at its home where the word is in no instruction cache, which is free (R373; log 122). -/
def State.chargeFetch (s : State) (pa : Nat) : State :=
  s.count s.myVi fun c =>
    Tab.put c 6 (Tab.get 0#64 c 6 + (if Config.fetchMiss s.tick pa then 128#64 else 0#64))

/-- One turn of the acting strand: a pending cause at the boundary, or the next instruction, which `run` performs. -/
def turn (run : Instr → State → Host.Outcome State Fault Refusal) (s : State) : Host.Outcome State Fault Refusal :=
  match s.firstPend s.me with
  | some p => .next (s.takePend s.cur p)
  | none =>
    match s.fetch with
    | .error e => stopState s e
    | .ok (x, w) =>
      let s1 := ((s.used x).fillHost x).chargeFetch x.pa
      match decode w with
      | .ok i => run i s1
      | .error sub => .next (s1.deliver s1.cur { cause := .illegal, v0 := w, v1 := w64 sub })

/-- A strand whose watchdog count falls: PERSIST, ACTIVE and placed, with a count that started from a window (R399). -/
def State.watched (s : State) (st : Strand) : Bool :=
  (s.carOf st).wb.persist && (s.team st.team).core.isSome
    && (match st.run with | .parkBar _ | .parkWaitw _ _ | .parkIdle _ | .exited | .stopped => false | _ => true)
    && st.wdwin != 0

/-- The cycles of a core and the ticks of a die that pass. -/
structure Passed where
  cycles : Nat → Nat
  ticks : Nat → Nat

/-- Charges of a strand that holds a slot (R373): strand-cycles and lane-group cycles. -/
def State.chargeTime (s : State) (p : Passed) (st : Strand) : State :=
  match (s.team st.team).core with
  | some c =>
    if st.run == .exited then s
    else (s.charge (s.viNo st) 0 (p.cycles c)).charge (s.viNo st) 4 (st.lanes * p.cycles c)
  | none => s

/-- Time passes on every core and die (Table 5.3), watchdog counts fall (R399), and a count that reaches zero is due. -/
def State.pass (s : State) (p : Passed) : State :=
  let due := s.strands.filterMap fun (x : Nat × Strand) =>
    if s.watched x.2 && decide (0 < x.2.wdrem) && decide (x.2.wdrem ≤ p.ticks (s.dieOf x.2)) then
      some (Act.event (.evWatchdogExpiry x.1)) else none
  let s1 := s.strands.foldl (fun s (x : Nat × Strand) => s.chargeTime p x.2) s
  { s1 with
    cycles := s.cycles.map fun (x : Nat × Word) => (x.1, x.2 + w64 (p.cycles x.1))
    dies := s.dies.map fun (x : Nat × Die) => (x.1, { x.2 with refcnt := x.2.refcnt + w64 (p.ticks x.1) })
    strands := s.strands.map fun (x : Nat × Strand) =>
      (x.1, if s.watched x.2 then { x.2 with wdrem := x.2.wdrem - p.ticks (s.dieOf x.2) } else x.2)
    agenda := s1.agenda ++ due }

/-- The free amount of time that one step takes. -/
def stepTime (t : Nat) : Passed :=
  { cycles := fun c => 1 + Config.extraCycles t c, ticks := fun d => Config.refTicks t d }

/-- The state's counter advances and time passes. -/
def State.clock (s : State) : State := ({ s with tick := s.tick + 1 }).pass (stepTime s.tick)

/-- Apply the passing of time to a step that goes on. -/
def clocked : Host.Outcome State Fault Refusal → Host.Outcome State Fault Refusal
  | .next s => .next s.clock
  | o => o

end Sys2Proof.Machine
end

