-- ==== Sys2Proof/Machine/Admission.lean ====
section
/-! DEFINITION. Admission, placement, pre-emption and resumption of teams (R91–R94, R390–R393), team reclaim (R18) and caravan
completion (R96), with their events. -/

namespace Sys2Proof.Machine

/-! ### What a core holds (R92) -/

/-- Strands of a team that hold slots, or will: those of a resumed team that have not exited. -/
def State.slotsNeeded (s : State) (tm : Team) : Nat :=
  if tm.strands.isEmpty then (s.car tm.caravan).wb.strands
  else (tm.strands.filter fun k => (s.strand k).run != .exited).length

/-- Units of a core in use: strand slots, canvases, queues, copy streams, and scratchpad ranges as first byte and length. -/
structure CoreUse where
  slots : Nat := 0
  canv : Nat := 0
  queues : Nat := 0
  streams : Nat := 0
  ranges : List (Nat × Nat) := []

/-- A team planned for a core: where its window lies. -/
structure Placed where
  team : Nat
  core : Nat
  phys : Nat

def State.addUse (s : State) (u : CoreUse) (tm : Team) (phys : Nat) : CoreUse :=
  let wb := (s.car tm.caravan).wb
  { slots := u.slots + s.slotsNeeded tm, canv := u.canv + wb.canvases, queues := u.queues + wb.queues
    streams := u.streams + wb.kstreams, ranges := if tm.spLen = 0 then u.ranges else (phys, tm.spLen) :: u.ranges }

/-- Teams that hold resources of a core; a team whose strands have exited holds them until it is reclaimed. -/
def State.teamsOn (s : State) (core : Nat) : List (Nat × Team) := s.teams.filter fun p => p.2.core == some core

/-- The use of a core without the teams of `skip` and with the teams of a plan. -/
def State.useOf (s : State) (core : Nat) (skip : List Nat) (plan : List Placed) : CoreUse :=
  let u := ((s.teamsOn core).filter fun p => !skip.contains p.1).foldl (fun u p => s.addUse u p.2 p.2.spPhys) {}
  (plan.filter fun p => p.core == core).foldl (fun u p => s.addUse u (s.team p.team) p.phys) u

/-- The lowest free 4 KiB-aligned range of n bytes in the 2 MiB scratchpad. -/
def lowestRange (rs : List (Nat × Nat)) (n : Nat) : Option Nat :=
  ((List.range 512).map (4096 * ·)).find? fun a =>
    decide (a + n ≤ 0x20_0000) && rs.all fun r => decide (a + n ≤ r.1) || decide (r.1 + r.2 ≤ a)

/-- Where the window of a team would lie on a core with the use u, if the core has enough of every unit. A resumed team asks for
STRANDS free slots too (R92). -/
def State.fit (s : State) (u : CoreUse) (tm : Team) : Option Nat :=
  let wb := (s.car tm.caravan).wb
  if 16 < u.slots + wb.strands || 8 < u.canv + wb.canvases || 8 < u.queues + wb.queues || 16 < u.streams + wb.kstreams
  then none
  else if tm.spLen = 0 then some 0
  else lowestRange u.ranges tm.spLen

/-- The units of a VI's quota that its placed teams hold (R371). -/
def State.viUse (s : State) (vi : Nat) (skip : List Nat) (plan : List Placed) : CoreUse :=
  let mine := fun (tm : Team) => (s.car tm.caravan).vi == vi
  let u := (s.teams.filter fun p => p.2.core.isSome && mine p.2 && !skip.contains p.1).foldl
    (fun u p => s.addUse u p.2 0) ({} : CoreUse)
  (plan.filter fun p => mine (s.team p.team)).foldl (fun u p => s.addUse u (s.team p.team) 0) u

/-- Bytes of the scratchpad ranges of a use. -/
def CoreUse.bytes (u : CoreUse) : Nat := u.ranges.foldl (fun a r => a + r.2) 0

/-- Whether a use with some new units stays within a VI's quota (Table 16.2): a field is checked where a unit of it is allotted
(R371). The quota of VI0 is ignored (R370). -/
def Vi.allows (v : Vi) (new u : CoreUse) : Bool :=
  let ok := fun (n total limit : Nat) => n == 0 || decide (total ≤ limit)
  ok new.slots u.slots (bits v.q0 0 13) && ok new.canv u.canv (bits v.q0 16 12) && ok new.streams u.streams (bits v.q0 32 13)
    && ok new.queues u.queues (bits v.q0 48 12) && ok new.bytes u.bytes (4096 * bits v.q1 32 18)

def State.quotaAllows (s : State) (tm : Team) (skip : List Nat) (plan : List Placed) : Bool :=
  let vi := (s.car tm.caravan).vi
  vi == 0 || (s.vi vi).allows (s.addUse {} tm 0) (s.addUse (s.viUse vi skip plan) tm 0)

/-! ### The head team and its place (R91, R92) -/

/-- PENDING teams. -/
def State.pending (s : State) : List (Nat × Team) := s.teams.filter fun p => p.2.core.isNone && !p.2.reclaimed

/-- Whether a team stands before another: class, then LAUNCH, then team index. -/
def State.before (s : State) (a b : Team) : Bool :=
  let x := s.car a.caravan
  let y := s.car b.caravan
  decide (y.wb.cls < x.wb.cls)
    || (x.wb.cls == y.wb.cls && (decide (x.seq < y.seq) || (x.seq == y.seq && decide (a.idx < b.idx))))

/-- The head of the highest non-empty class. -/
def State.head (s : State) : Option (Nat × Team) :=
  s.pending.foldl (fun a p => match a with
    | none => some p
    | some q => if s.before p.2 q.2 then some p else some q) none

/-- The cores on which a caravan's teams may be placed: of dies in DIEMASK that admit teams. -/
def State.placesFor (s : State) (x : Caravan) : List Nat :=
  let dies := s.seenDies x.vi
  ((List.range dies.length).zip dies).flatMap fun p =>
    let d := s.die p.2
    if nbits x.wb.diemask.toNat p.1 1 == 1 && d.admits && d.state == .online then (List.range 64).map (64 * p.2 + ·) else []

/-- A core that already holds a team of a joint caravan (R90). -/
def State.jointTaken (s : State) (tm : Team) (core : Nat) (skip : List Nat) (plan : List Placed) : Bool :=
  (s.car tm.caravan).wb.jr != 0
    && ((s.teamsOn core).any (fun p => !skip.contains p.1 && p.2.caravan == tm.caravan)
        || plan.any fun p => p.core == core && (s.team p.team).caravan == tm.caravan)

/-- The place of one team: the qualifying core with the fewest occupied slots, then the lowest. -/
def State.placeOne (s : State) (skip : List Nat) (plan : List Placed) (id : Nat) (tm : Team) : Option Placed :=
  if !s.quotaAllows tm skip plan then none
  else
    let best := (s.placesFor (s.car tm.caravan)).foldl (fun (a : Option (Nat × Placed)) core =>
      if s.jointTaken tm core skip plan then a
      else
        let u := s.useOf core skip plan
        match s.fit u tm, a with
        | none, _ => a
        | some ph, none => some (u.slots, { team := id, core, phys := ph })
        | some ph, some (n, _) => if u.slots < n then some (u.slots, { team := id, core, phys := ph }) else a) none
    best.map fun x => x.2

/-- The teams admitted in one step with the head: itself, or every team of its gang. -/
def State.batch (s : State) (h : Nat × Team) : List (Nat × Team) :=
  if (s.car h.2.caravan).wb.gang then s.pending.filter fun p => p.2.caravan == h.2.caravan else [h]

/-- Place a batch, team by team. -/
def State.placeAll (s : State) (ts : List (Nat × Team)) : Option (List Placed) :=
  ts.foldlM (fun plan t => (s.placeOne [] plan t.1 t.2).map fun p => plan ++ [p]) []

/-! ### Victims (R93) -/

/-- No strand of a team is at monitor privilege (R390). -/
def State.belowMonitor (s : State) (tm : Team) : Bool :=
  tm.strands.all fun k => (s.strand k).run == .exited || (s.strand k).priv != .mon

/-- A team that may be a victim for a class: placed, of strictly lower class, not excused by R392, and with no strand at
monitor privilege in it or in the gang that falls with it (R390). -/
def State.mayFall (s : State) (cls : Nat) (tm : Team) : Bool :=
  let wb := (s.car tm.caravan).wb
  tm.core.isSome && !tm.noVictim && decide (wb.cls < cls)
    && tm.strands.any (fun k => (s.strand k).run != .exited)
    && (if wb.gang then s.teams.all fun p => p.2.caravan != tm.caravan || p.2.core.isNone || s.belowMonitor p.2
        else s.belowMonitor tm)

/-- Teams that fall with a team: its placed gang partners. -/
def State.partners (s : State) (id : Nat) : List Nat :=
  let tm := s.team id
  if (s.car tm.caravan).wb.gang then
    (s.teams.filter fun p => p.2.caravan == tm.caravan && p.2.core.isSome).map fun p => p.1
  else [id]

/-- A team falls earlier than another: lower class, then more recently admitted. -/
def State.fallsBefore (s : State) (a b : Team) : Bool :=
  let ca := (s.car a.caravan).wb.cls
  let cb := (s.car b.caravan).wb.cls
  decide (ca < cb) || (ca == cb && decide (b.admitted < a.admitted))

def State.insertVictim (s : State) (p : Nat × Team) : List (Nat × Team) → List (Nat × Team)
  | [] => [p]
  | q :: qs => if s.fallsBefore p.2 q.2 then p :: q :: qs else q :: s.insertVictim p qs

/-- The fewest victims in victim order that make room for a team on a core. -/
def State.victimsOn (s : State) (core : Nat) (skip : List Nat) (plan : List Placed) (id : Nat) (tm : Team) :
    List (Nat × Team) → List Nat → Option (List Nat × Placed)
  | vs, taken =>
    let out := skip ++ taken
    let now := if s.quotaAllows tm out plan && !s.jointTaken tm core out plan then s.fit (s.useOf core out plan) tm else none
    match now, vs with
    | some ph, _ => some (taken, { team := id, core, phys := ph })
    | none, [] => none
    | none, v :: rest => s.victimsOn core skip plan id tm rest (taken ++ (s.partners v.1).filter fun k => !out.contains k)

/-- The victims for one team: the core that needs the fewest, then the lowest core. The gang partners that a victim brings with it count
as victims (log 110). -/
def State.victimsFor (s : State) (skip : List Nat) (plan : List Placed) (id : Nat) (tm : Team) : Option (List Nat × Placed) :=
  let cls := (s.car tm.caravan).wb.cls
  (s.placesFor (s.car tm.caravan)).foldl (fun (a : Option (List Nat × Placed)) core =>
    let vs := ((s.teamsOn core).filter fun p => !skip.contains p.1 && s.mayFall cls p.2).foldl
      (fun acc p => s.insertVictim p acc) ([] : List (Nat × Team))
    match s.victimsOn core skip plan id tm vs [], a with
    | none, _ => a
    | some x, none => some x
    | some x, some y => if x.1.length < y.1.length then some x else some y) none

/-- The victims chosen for the head team and its gang, if some choice frees enough. -/
def State.victims (s : State) : List Nat :=
  match s.head with
  | none => []
  | some h =>
    let ts := s.batch h
    if (s.placeAll ts).isSome then []
    else
      match ts.foldlM (fun (a : List Nat × List Placed) t =>
        (s.victimsFor a.1 a.2 t.1 t.2).map fun x => (a.1 ++ x.1, a.2 ++ [x.2])) (([], []) : List Nat × List Placed) with
      | some a => a.1
      | none => []

/-! ### Team images (R391, R394) -/

/-- On whose behalf a team image is translated: the VI's own tables. -/
def State.whoImage (s : State) (tm : Team) : Who := { vi := (s.car tm.caravan).vi, user := false, core := 0 }

/-- Bytes of a team image. The sections after the header and the team line have sizes under which the image of a whole core
has the largest size that R394 gives (log 24). -/
def State.imageSections (s : State) (tm : Team) : Nat × Nat :=
  let wb := (s.car tm.caravan).wb
  let pre := 256 + 262272 * wb.canvases + 32384 * wb.queues + 384 * wb.kstreams
  let strands := (tm.strands.filter fun k => (s.strand k).run != .exited).foldl
    (fun a k => a + strandLength (s.strand k).vpresent true true) 0
  (pre, pre + tm.spLen + strands)

def State.imageHeader (s : State) (tm : Team) : Header :=
  let x := s.car tm.caravan
  { team := true, len := (s.imageSections tm).2
    features := 3 + (if x.wb.canvases = 0 then 0 else 4) + (if x.wb.jr = 0 then 0 else 8) + (if x.wb.queues = 0 then 0 else 16)
      + (if x.wb.kstreams = 0 then 0 else 32)
    handle := x.handle, idx := tm.idx }

/-- Line i of a team image: the header, the scratchpad window with its own tags, and elsewhere a line whose contents the spec
leaves open (log 24). -/
def State.imageLine (s : State) (tm : Team) (i : Nat) : LineV :=
  let pre := (s.imageSections tm).1
  if i = 0 then { data := leNat (s.imageHeader tm).bytes, tag := 0#16 }
  else if pre / 128 ≤ i && i < (pre + tm.spLen) / 128 then tm.spLine (tm.spBase / 128 + (i - pre / 128))
  else { data := (Config.imageLine s.tick i).toNat, tag := 0#16 }

/-- How the save of an image ends. -/
inductive SaveRes where
  | ok (s : State)
  /-- the code of PREEMPT's TVAL0, the faulting VA and the sub-cause (R392) -/
  | bad (s : State) (code : Nat) (va sub : Word)
  | wait (s : State)

/-- Write a whole line at a VA for the W4's own use. -/
def State.putImageLine (s : State) (w : Who) (va : Word) (l : LineV) : Except Stop State := do
  let x ← s.reach w .store va
  if s.held true (x.pa / 128) then throw .stall
  return ((s.used x).chargeLine w.vi x.pa).writeLine x.nc x.eph true (x.pa / 128) l

/-- Write n lines of an image from line i on. -/
def State.putImage (s : State) (w : Who) (tm : Team) (va : Word) : Nat → Nat → SaveRes
  | 0, _ => .ok s
  | n + 1, i =>
    match s.putImageLine w (va + w64 (128 * i)) (s.imageLine tm i) with
    | .ok s1 => s1.putImage w tm va n (i + 1)
    | .error (.trap t) => .bad (s.spendBy w.vi t) 2 t.v0 t.v1
    | .error (.pri p _) => .wait (s.askPri p)
    | .error _ => .wait s

/-- The first word of a slot. -/
def State.slotWord (s : State) (w : Who) (va : Word) : Except Stop (Xlat × Option Nat) := do
  let x ← s.reach w .atomic va
  if s.held true (x.pa / 128) then throw .stall
  let l := s.lineAt x
  return (x, if l.cls == 2 then none else some (nbits l.data (8 * (x.pa % 128)) 64))

/-- Write the first word of a slot. -/
def State.setSlotWord (s : State) (w : Who) (va : Word) (v : Nat) : State :=
  match s.slotWord w va with
  | .ok (x, _) => ((s.used x).chargeLine w.vi x.pa).writeLine x.nc x.eph false (x.pa / 128) (stLine (s.lineAt x) (x.pa % 128) 8 v)
  | .error _ => s

/-- Save slot k of a VI. -/
def Vi.slotVa (v : Vi) (k : Nat) : Word := baseVa v.savebase 23 + w64 (0x80_0000 * k)

/-- Claim the lowest free slot and write the image there. -/
def State.saveFrom (s : State) (id : Nat) (tm : Team) : Nat → Nat → SaveRes
  | 0, _ => .bad s 1 0#64 0#64
  | n + 1, k =>
    let w := s.whoImage tm
    let va := (s.vi w.vi).slotVa k
    match s.slotWord w va with
    | .ok (x, some 0) =>
      -- the claim is an access of its own (R373)
      match (s.chargeLine w.vi x.pa).putImage w tm va ((s.imageSections tm).2 / 128) 0 with
      | .ok s1 => .ok (s1.setTeam id { s1.team id with saved := some va })
      | .bad s1 c f sub => .bad (s1.setSlotWord w va 0) c f sub
      | .wait s1 => .wait s1
    | .ok (x, _) => (s.chargeLine w.vi x.pa).saveFrom id tm n (k + 1)
    | .error (.trap t) => .bad (s.spendBy w.vi t) 2 t.v0 t.v1
    | .error (.pri p _) => .wait (s.askPri p)
    | .error _ => .wait s

/-- Save one team (R391). -/
def State.saveTeam (s : State) (id : Nat) : SaveRes :=
  let tm := s.team id
  let n := bits (s.vi (s.car tm.caravan).vi).savebase 0 16
  if n = 0 then .bad s 0 0#64 0#64 else s.saveFrom id tm n 0

/-- Save the teams of a group in order; a failing save names its team. -/
def State.saveAll (s : State) : List Nat → SaveRes × Nat
  | [] => (.ok s, 0)
  | id :: rest =>
    match s.saveTeam id with
    | .ok s1 => s1.saveAll rest
    | r => (r, id)

/-! ### PREEMPTION (R390–R392) -/

/-- Why a strand must still run before its team can be saved: it is at monitor privilege, or its tile has begun to reserve. -/
def State.mustWait (s : State) (st : Strand) : Bool :=
  st.run != .exited && (st.priv == .mon || (match st.run with
    | .tile id => (Tab.get {} s.tiles id).begun
    | _ => false))

/-- A strand stalled in a tile that has not begun to reserve, or in a CSTJ, is left at its instruction (R206, Table 12.3). -/
def State.leaveTile (s : State) (sid : Nat) : State :=
  match (s.strand sid).run with
  | .tile id => s.abandon id fun _ => none
  | .joint _ =>
    let car := (s.team (s.strand sid).team).caravan
    let x := s.car car
    x.joint.foldl (fun s p => s.giveUp p none) (s.setCar car { x with joint := [] })
  | _ => s

/-- A saved strand: parked at its barrier, or at the instruction that it issues again, of which nothing is left. A wait to issue ends
(R101). -/
def Strand.saved (st : Strand) : Strand :=
  { st with lanes := 0, xlast := none, got := [], late := [], shun := [], reqs := 0, homing := none, waited := 0, nmax := 0
            run := match st.run with
              | .parkWaitw _ _ => .active
              | r => r }

/-- A strand whose next instruction is a load of R389 may have committed groups of it when it stops (R390 step 2). -/
def State.stopLoad (s : State) (sid : Nat) : State :=
  let s1 := { s with cur := sid }
  if s1.me.run != .active || (s1.firstPend s1.me).isSome then s
  else match s1.fetch with
    | .error _ => s
    | .ok (_, w) => (match decode w with
      | .ok i => (match s1.loadStopped i (Config.loadGroups s.tick sid) with
        | some s2 => { s2 with cur := s.cur }
        | none => s)
      | .error _ => s)

/-- The rows in flight of a team's streams complete or fail (R345). A row that waits may ask the host for a page. -/
def State.finishRows (s : State) (id : Nat) : State :=
  (s.team id).streams.foldl (fun s p => p.2.flight.foldl (fun s r =>
    match s.completeRow id p.1 r with
    | some s1 => s1
    | none => (s.failRow id p.1 r).getD s) s) s

/-- A row of a team's streams is still in flight. -/
def State.rowsInFlight (s : State) (id : Nat) : Bool := (s.team id).streams.any fun p => !p.2.flight.isEmpty

/-- What a step that waits for host pages leaves: their requests, where it made any. -/
def State.onlyAsked (s t : State) : Option State :=
  if t.priPending.length == s.priPending.length then none else some { s with out := t.out, priPending := t.priPending }

/-- Take a saved team off its core (R18). -/
def State.takeOff (s : State) (id : Nat) : State :=
  let tm := s.team id
  let s1 := tm.strands.foldl (fun s k => s.setStrand k (s.strand k).saved) (s.setTeam id { tm with core := none })
  match tm.core with
  | some c => s1.realloc c
  | none => s1

/-- PREEMPT pending at the strands of a team. -/
def State.tellPreempt (s : State) (id : Nat) (v0 : Nat) (v1 v2 : Word) : State :=
  let tm := s.team id
  let t : Trap := { cause := .preempt, v0 := w64 v0, v1, v2 }
  tm.strands.foldl (fun s k =>
    if (s.strand k).run == .exited || (s.strand k).pend.any fun p => p.trap.cause == .preempt then s
    else s.addPend k { trap := t }) (s.setTeam id { tm with noVictim := true })

/-- Pre-empt a team, with its gang. None while a strand or an access must be waited for. -/
def State.preempt (s : State) (id : Nat) : Option State :=
  let grp := s.partners id
  let sids := grp.flatMap fun g => (s.team g).strands
  if (s.team id).core.isNone || sids.any fun k => s.mustWait (s.strand k) then none
  else
    let s1 := sids.foldl State.stopLoad (sids.foldl State.leaveTile s)
    let cores := grp.filterMap fun g => (s.team g).core
    match cores.foldlM (fun s c => s.drainCore c) s1 with
    | .error _ => none
    | .ok s2 =>
      let s3 := grp.foldl State.finishRows s2
      if grp.any s3.rowsInFlight then s.onlyAsked s3
      else match s3.saveAll grp with
      | (.ok s4, _) => some (grp.foldl State.takeOff s4)
      | (.wait s4, _) => s.onlyAsked s4
      | (.bad s4 code va sub, bad) =>
        -- every slot that the gang claimed is free again
        let s5 := grp.foldl (fun s g => match (s.team g).saved with
          | some slot => (s.setSlotWord (s.whoImage (s.team g)) slot 0).setTeam g { s.team g with saved := none }
          | none => s) s4
        some (grp.foldl (fun s g =>
          if g == bad then s.tellPreempt g code va sub
          else s.tellPreempt g 3 (w64 (s.team bad).idx) 0#64) s5)

/-- A team is to be pre-empted: a victim of the head team, or on a die that DRAIN empties. -/
def State.chosen (s : State) (id : Nat) : Bool :=
  let tm := s.team id
  s.victims.contains id
    || (match tm.core with
        | some c => (s.die (c / 64)).cmd == some .drain && !tm.noVictim && tm.strands.any fun k => (s.strand k).run != .exited
        | none => false)

def State.preemptChosen (s : State) (id : Nat) : Option State := if s.chosen id then s.preempt id else none

def execEvPreemption (team : Nat) (s : State) : Host.Outcome State Fault Refusal := .next ((s.preemptChosen team).getD s)

/-! ### TEAM_ADMISSION (R92, R393) -/

/-- The first state of strand i of a team (R86). -/
def State.freshStrand (s : State) (id : Nat) (tm : Team) (i : Nat) : Strand :=
  let x := s.car tm.caravan
  -- the count of a PERSIST strand (R399)
  let win := if x.wb.persist then bits (s.vi x.vi).wdwin 0 32 else 0
  { team := id, idx := i, pc := x.wb.entry, priv := if x.monPriv then .mon else .user
    s := [(1, x.wb.args), (2, w64 tm.idx), (3, w64 i), (4, x.handle)].foldl
      (fun (t : Tab Word) (p : Nat × Word) => Tab.set 0#64 t p.1 p.2) []
    wdrem := win, wdwin := win }

/-- The lowest free strand slots of a core. -/
def State.freeSlots (s : State) (core : Nat) : List Nat :=
  (List.range 16).filter fun k => !(s.residents core).any fun p => p.2.slot == k

/-- Bind a team to its place; its first placement fixes SPBASE (R217) and makes its strands. -/
def State.settle (s : State) (p : Placed) : State :=
  let tm := s.team p.team
  let free := s.freeSlots p.core
  let tm1 := { tm with core := some p.core, spPhys := p.phys, places := tm.places + 1, admitted := s.admitSeq
                       spBase := if tm.places = 0 then p.phys else tm.spBase }
  if tm.places = 0 then
    let n := (s.car tm.caravan).wb.strands
    let sids := (List.range n).map (s.nextSid + ·)
    let s1 := { s with nextSid := s.nextSid + n, admitSeq := s.admitSeq + 1 }.setTeam p.team { tm1 with strands := sids }
    (List.range n).foldl (fun s' i =>
      s'.setStrand (s.nextSid + i) { s.freshStrand p.team tm i with slot := free.getD i 0 }) s1
  else
    let live := tm.strands.filter fun k => (s.strand k).run != .exited
    let s1 := { s with admitSeq := s.admitSeq + 1 }.setTeam p.team tm1
    (live.zip free).foldl (fun s q => s.setStrand q.1 { s.strand q.1 with slot := q.2 }) s1

/-- What reading an image at resumption finds: it is good, a check fails with a reason and TVAL3, or a line must wait. -/
inductive Resume where
  | good (s : State)
  | bad (s : State) (reason : Nat) (va : Word)
  | wait (s : State)

/-- A line of a saved image as the W4 reads it, charged to its VI (R373). -/
def State.readImage (s : State) (w : Who) (va : Word) : Except Resume (State × Nat) :=
  match s.reach w .load va with
  | .error (.trap t) => .error (.bad (s.spendBy w.vi t) 8 va)
  | .error (.pri p _) => .error (.wait (s.askPri p))
  | .error _ => .error (.wait s)
  | .ok x =>
    if s.held false (x.pa / 128) then .error (.wait s)
    else
      let l := s.lineAt x
      let s1 := ((s.used x).fillHost x).chargeLine w.vi x.pa
      if l.cls == 2 then .error (.bad s1 8 va) else .ok (s1, l.data)

/-- The lines of an image after its header. -/
def State.readRest (s : State) (w : Who) (va : Word) : Nat → Nat → Except Resume State
  | 0, _ => .ok s
  | n + 1, i =>
    match s.readImage w (va + w64 (128 * i)) with
    | .ok (s1, _) => s1.readRest w va n (i + 1)
    | .error r => .error r

/-- The header of a team image breaks one of the checks 1 to 4 of R397. -/
def teamReason (bs : List Byte) (len : Nat) : Option Nat :=
  if bytesAt bs 0 2 != 1 then some 1
  else if bytesAt bs 2 1 != 1 then some 2
  else if bytesAt bs 8 8 / 256 != 0 then some 3
  else if bytesAt bs 3 1 != 0 || bytesAt bs 43 85 != 0 || bytesAt bs 16 16 != 0 || bytesAt bs 42 1 != 0 || bytesAt bs 4 4 != len
  then some 4
  else none

/-- The contents that a saved strand gives its image are malformed (R397 item 6). -/
def Strand.malformed (st : Strand) : Bool :=
  st.vfmt.toNat / 64 != 0 || fmtReserved (BitVec.ofNat 6 st.vfmt.toNat) || st.tstart.toNat % 16 != 0
    || decide (1008 < st.tstart.toNat) || decide (3 < st.mstep.toNat)

/-- The checks on a team image (R397): a line that cannot be read gives reason 8 when it is read, and the header is read first. -/
def State.checkImage (s : State) (tm : Team) (va : Word) : Resume :=
  let w := s.whoImage tm
  match s.readImage w va with
  | .error r => r
  | .ok (s1, d) =>
    let bs := natLe 128 d
    let h := s.imageHeader tm
    match teamReason bs h.len with
    | some k => .bad s1 k 0#64
    | none =>
      match s1.readRest w va (h.len / 128 - 1) 1 with
      | .error r => r
      | .ok s2 =>
        if tm.strands.any fun k => (s.strand k).run != .exited && (s.strand k).malformed then .bad s2 6 0#64
        else if wordAt bs 32 != h.handle || bytesAt bs 40 2 != h.idx then .bad s2 7 0#64
        else .good s2

/-- A resumed team whose image failed its checks (R393): clean resources, and its strands begin again with
CONTEXT_INCOMPATIBLE. -/
def State.resumeClean (s : State) (id : Nat) (va : Word) (reason : Nat) (v3 : Word) : State :=
  let tm := s.team id
  let clean := { tm with canv := [], queues := [], streams := [], sp := [], spTags := [], saved := none }
  (tm.strands.filter fun k => (s.strand k).run != .exited).foldl (fun s k =>
    let st := s.strand k
    let f := { s.freshStrand id tm st.idx with slot := st.slot, pc := 0#64 }
    (s.setStrand k f).deliver k { cause := .contextIncompatible, v0 := va, v1 := w64 reason, v2 := w64 st.idx, v3 })
    (s.setTeam id clean)

/-- Restore a placed team from its slot, or begin it clean; an error is the state in which a line of its image must be waited for. -/
def State.resume (s : State) (id : Nat) : Except State State :=
  let tm := s.team id
  match tm.saved with
  | none => .ok s
  | some va =>
    match s.checkImage tm va with
    | .good s1 => .ok ((s1.setSlotWord (s.whoImage tm) va 0).setTeam id { s1.team id with saved := none })
    | .bad s1 r v3 => .ok (s1.resumeClean id va r v3)
    | .wait s1 => .error s1

/-- Admit a batch at its places. None while an image must be waited for; its page requests go out. -/
def State.admitAt (s : State) (ps : List Placed) : Option State :=
  match ps.foldlM (fun (s : State) (p : Placed) => (s.settle p).resume p.team) s with
  | .ok s1 => some (ps.foldl (fun s p => s.realloc p.core) s1)
  | .error w => s.onlyAsked w

/-- One admission step: the head team or gang is placed, or its victims are told to leave. None while it waits. -/
def State.admitTeam (s : State) : Option State :=
  match s.head with
  | none => none
  | some h =>
    match s.placeAll (s.batch h) with
    | some ps => s.admitAt ps
    | none =>
      let vs := s.victims.filter fun v => !s.agenda.contains (.event (.evPreemption v))
      if vs.isEmpty then none else some { s with agenda := s.agenda ++ vs.map fun v => .event (.evPreemption v) }

def execEvTeamAdmission (s : State) : Host.Outcome State Fault Refusal := .next (s.admitTeam.getD s)

/-! ### TEAM_RECLAIM (R18) and CARAVAN_COMPLETION (R96) -/

/-- Every strand of a team has exited. -/
def State.allExited (s : State) (tm : Team) : Bool := tm.strands.all fun k => (s.strand k).run == .exited

/-- Return a team's resources: its strands have exited, no stream is ACTIVE, and no interlock entry is left once its FAULTED streams
are cancelled. What its registers and its window held stays on record, where no strand reaches it (R16). -/
def State.reclaim (s : State) (id : Nat) : Option State :=
  match Tab.find s.teams id with
  | none => none
  | some tm =>
    if tm.core.isNone || tm.reclaimed || tm.strands.isEmpty || !s.allExited tm
      || tm.streams.any (fun p => p.2.state == .active) then none
    else
      let faulted := tm.streams.filter fun p => p.2.state == .faulted
      let s1 := faulted.foldl (fun s p => s.cancelStream id p.1) s
      if tm.strands.any fun k => !(s1.heldEntries k).isEmpty then (if faulted.isEmpty then none else some s1)
      else some (s1.setTeam id { s1.team id with core := none, reclaimed := true })

def execEvTeamReclaim (team : Nat) (s : State) : Host.Outcome State Fault Refusal := .next ((s.reclaim team).getD s)

/-- The increment of DONEADDR (R96 step 2), where an atomic may be applied (R319). -/
def State.bumpDone (s : State) (x : Caravan) : Res State := do
  let w : Who := { vi := x.vi, user := !x.monPriv, core := 0 }
  let va := x.wb.doneaddr
  let t ← s.reach w .atomic va (extra := fun t => ensure (s.atomicAllowed false .add t) .access va 7#64)
  if s.held true (t.pa / 128) then throw .stall
  let l := s.lineAt t
  let old ← lineBytes l va (t.pa % 128) 8
  return ((s.used t).chargeLine x.vi t.pa).writeLine t.nc t.eph false (t.pa / 128) (stLine l (t.pa % 128) 8 ((old + 1) % 2 ^ 64))

/-- A caravan leaves: its handle names nothing any more. -/
def State.retire (s : State) (id : Nat) : State :=
  { s with caravans := Tab.del s.caravans id }

/-- Complete a caravan whose teams have all been reclaimed. -/
def State.completeCaravan (s : State) (id : Nat) : Option State :=
  match Tab.find s.caravans id with
  | none => none
  | some x =>
    if !(x.teams.all fun t => (s.team t).reclaimed) then none
    else
      let vec := bits x.wb.wake 0 6
      let tell := fun (s : State) => if bitAt x.wb.wake 6 then s.postEvent x.vi { ty := 1, a := x.handle, vec } else s
      if x.wb.doneaddr == 0#64 then some ((tell s).retire id)
      else
        match s.bumpDone x with
        | .ok s1 => some ((tell s1).retire id)
        | .error (.trap t) =>
          let b := w64 (t.cause.code + 256 * (t.v1.toNat % 256))
          some (((s.spendBy x.vi t).postEvent x.vi { ty := 2, a := x.handle, b, c := x.wb.doneaddr, vec }).retire id)
        | .error (.pri p _) => if s.priPending.contains p then none else some (s.askPri p)
        | .error _ => none

def execEvCaravanCompletion (caravan : Nat) (s : State) : Host.Outcome State Fault Refusal :=
  .next ((s.completeCaravan caravan).getD s)

end Sys2Proof.Machine
end

