-- ==== Sys2Proof/Machine/Images.lean ====
section
/-! DEFINITION. Boot images and the monitor's Dorox object in them (R44, R45, R417). -/

namespace Sys2Proof

open Machine

/-- The image as the boot holds it: one list of bytes for one image. -/
def BootFile.held (f : BootFile) : BootFile :=
  { f with bytes := (f.bytes.filter fun b => b.1 < f.len).foldl (fun t b => Tab.set 0#8 t b.1 b.2) [] }

/-- n bytes of an image from an offset. -/
def BootFile.slice (f : BootFile) (off n : Nat) : List Byte := (List.range n).map fun i => Tab.get 0#8 f.bytes (off + i)

/-- The same as a number. -/
def BootFile.num (f : BootFile) (off n : Nat) : Nat := leNat (f.slice off n)

/-- Bytes of the signature block (Table 18.7). -/
def sigBytes : Nat := 2592 + 97 + 4627 + 96

/-- CFGOFF, OBJOFF, OBJLEN and SIGOFF of the header (Table 18.6). -/
def BootFile.cfgOff (f : BootFile) : Nat := f.num 16 8
def BootFile.objOff (f : BootFile) : Nat := f.num 24 8
def BootFile.objLen (f : BootFile) : Nat := f.num 32 8
def BootFile.sigOff (f : BootFile) : Nat := f.num 40 8

/-- The security version in the header. -/
def BootFile.svn (f : BootFile) : Nat := f.num 8 2

/-- The header of Table 18.6: its parts are aligned, apart and inside the signed region, and the signature block ends the image
(R417). -/
def BootFile.headerOk (f : BootFile) : Bool :=
  f.num 0 4 == 0x3457434B && f.num 4 2 == 1 && f.num 6 2 == 0 && f.num 10 6 == 0 && f.num 48 80 == 0
    && f.cfgOff % 64 == 0 && f.objOff % 64 == 0 && decide (128 ≤ f.cfgOff) && decide (128 ≤ f.objOff)
    && (decide (f.cfgOff + 64 ≤ f.objOff) || decide (f.objOff + f.objLen ≤ f.cfgOff)) && decide (f.cfgOff + 64 ≤ f.sigOff)
    && decide (f.objOff + f.objLen ≤ f.sigOff) && f.sigOff + sigBytes == f.len

/-- Bytes of an object that are not zero, from an offset. -/
def BootFile.nonzero (f : BootFile) (off n : Nat) : List (Nat × Byte) :=
  (f.bytes.filter fun b => decide (off ≤ b.1) && decide (b.1 < off + n)).map fun b => (b.1 - off, b.2)

/-- The section that an entry at an offset describes, in the object at `base` (R44). -/
def BootFile.sect (f : BootFile) (base e : Nat) : BootSection :=
  let kind := f.num e 1
  let size := f.num (e + 8) 8
  let at' := base + f.num (e + 16) 8
  let rel := base + f.num (e + 24) 8
  { kind, align := f.num (e + 1) 1, size
    bytes := if kind = 3 then [] else f.nonzero at' size
    tags := if kind = 1 || kind = 2 then
        (List.range ((size + 127) / 128)).filterMap fun i =>
          let t := BitVec.ofNat 16 (f.num (at' + size + 2 * i) 2)
          if t = 0#16 then none else some (i, t)
      else []
    relocs := (List.range (f.num (e + 4) 4)).map fun i => (f.num (rel + 16 * i) 8, f.num (rel + 16 * i + 8) 8) }

/-- Where the object and its section table stand. -/
def BootFile.sectAt (f : BootFile) (i : Nat) : Nat := f.objOff + f.num (f.objOff + 24) 8 + 32 * i

/-- The monitor's object at OBJOFF (R44, R417). -/
def BootFile.object (f : BootFile) : BootImage :=
  let o := f.objOff
  { entry := f.num (o + 16) 8, features := f.num (o + 8) 8
    sections := (List.range (Nat.min 4 (f.num (o + 6) 2))).map fun i => f.sect o (f.sectAt i)
    patchSlots := (List.range (f.num (o + 44) 4)).map fun i => f.num (o + f.num (o + 48) 8 + 8 * i) 8 }

/-- A part of the object from an offset lies within OBJLEN. -/
def BootFile.within (f : BootFile) (off n : Nat) : Bool := decide (off + n ≤ f.objLen)

/-- A section entry and what it names are in the form of R44 and R45. -/
def BootFile.sectionOk (f : BootFile) (e : Nat) (x : BootSection) : Bool :=
  decide (x.kind ≤ 3) && f.num (e + 2) 2 == 0 && (x.relocs.isEmpty || x.kind == 1 || x.kind == 2)
    && (x.kind == 3 || f.within (f.num (e + 16) 8) (x.size + if x.kind = 0 then 0 else 2 * ((x.size + 127) / 128)))
    && (x.kind != 3 || f.num (e + 16) 8 == 0) && f.within (f.num (e + 24) 8) (16 * f.num (e + 4) 4)
    && x.tags.all (fun t => tagAllowed t.2) && x.relocs.all fun r => decide (r.1 + 8 ≤ x.size)

/-- The text section of an object. -/
def BootImage.textSize (img : BootImage) : Nat := ((img.sections.find? fun x => x.kind == 0).map fun x => x.size).getD 0

/-- The object of an image has the form of R44 and R45: each kind of section once at most, all parts within OBJLEN, ENTRY and the
patch slots at words of .text (log 115). -/
def BootFile.objectOk (f : BootFile) : Bool :=
  let o := f.objOff
  let img := f.object
  let word := fun (p : Nat) => p % 8 == 0 && decide (p + 8 ≤ img.textSize)
  f.num o 4 == 0x58524F44 && f.num (o + 4) 2 == 1 && decide (1 ≤ f.num (o + 6) 2) && decide (f.num (o + 6) 2 ≤ 4) && f.within 0 64
    && f.within (f.num (o + 24) 8) (32 * f.num (o + 6) 2) && f.within (f.num (o + 48) 8) (8 * f.num (o + 44) 4)
    && decide ((img.sections.map fun x => x.kind).Nodup) && word img.entry && img.patchSlots.all word
    && (img.sections.zip (List.range 4)).all fun x => f.sectionOk (f.sectAt x.2) x.1

end Sys2Proof
end

