-- ==== Sys2Proof/Machine/Strands.lean ====
section
/-! DEFINITION. LAUNCH, EXIT, YIELD, BAR, WAITW, WAKE and SNEXT (R88–R98, R102, R107–R112). -/

namespace Sys2Proof.Machine

/-! ### LAUNCH (R88, R89, R95) -/

/-- The fields of a waybill (Table 4.3). -/
def Waybill.ofBytes (bs : List Byte) : Waybill :=
  let b := bytesAt bs
  let w := wordAt bs
  { entry := w 0, args := w 8, teams := b 16 2, strands := b 18 1, canvases := b 19 1, queues := b 20 1, kstreams := b 21 1
    cls := b 22 1 % 4, laneWeight := b 23 1, roles := BitVec.ofNat 16 (b 24 2), persist := b 26 2 % 2 == 1
    gang := b 26 2 / 2 % 2 == 1, spbytes := b 28 4, diemask := BitVec.ofNat 4 (b 32 1), donescope := b 33 1
    jr := b 34 1 % 16, jc := b 34 1 / 16, lo := w 40, hi := w 48, strip := w 56, doneaddr := w 64, wake := w 72 }

/-- R89: a field breaks a range or a zero rule. `seen` is the number of dies that the VI sees. -/
def waybillMalformed (bs : List Byte) (x : Waybill) (mon : Bool) (seen : Nat) : Bool :=
  let b := bytesAt bs
  x.entry.toNat % 8 != 0 || x.teams == 0 || x.strands == 0 || decide (16 < x.strands) || decide (8 < x.canvases)
    || decide (8 < x.queues) || decide (16 < x.kstreams) || b 22 1 / 4 != 0 || decide (15 < x.laneWeight)
    || (x.laneWeight == 0 && !mon) || x.roles.toNat / 2 ^ x.strands != 0 || b 26 2 / 4 != 0
    || x.spbytes % 4096 != 0 || decide (0x20_0000 < x.spbytes)
    || b 32 1 == 0 || b 32 1 / 2 ^ seen != 0
    || (if x.doneaddr == 0#64 then x.donescope != 0 else x.donescope != 1 && x.donescope != 2)
    || x.doneaddr.toNat % 8 != 0 || x.wake.toNat / 128 != 0 || b 35 5 != 0 || b 80 48 != 0
    || (x.strip != 0#64 && (decide (x.lo.toInt < 0) || decide (x.hi.toInt < x.lo.toInt)
          || decide ((2 ^ 63 - 1 : Int) < x.hi.toInt + Int.ofNat x.strip.toNat)))
    || ((x.jr != 0 || x.jc != 0) && (x.jr == 0 || x.jc == 0 || decide (4 < x.jr) || decide (4 < x.jc) || !x.gang
          || x.canvases == 0 || x.teams != x.jr * x.jc))

/-- What a LAUNCH needs at once: one team, or the whole gang. -/
def Waybill.need (x : Waybill) : CoreUse :=
  let n := if x.gang then x.teams else 1
  { slots := n * x.strands, canv := n * x.canvases, queues := n * x.queues, streams := n * x.kstreams
    ranges := [(0, n * x.spbytes)] }

/-- The negative result of Table 4.4, if one applies. Waits are passed on. -/
def launchResult (s : State) (bs : List Byte) (x : Waybill) : Res (Option Int) := do
  let vi := s.myVi
  let v := s.vi vi
  let mon := s.me.priv == .mon
  if waybillMalformed bs x mon (s.seenDies vi).length then return some (-2)
  let user := x.laneWeight != 0
  match s.xlat { vi, user, core := s.coreOf s.me } .fetch x.entry with
  | .error (.trap _) => return some (-3)
  | .error e => throw e
  | .ok _ =>
    if vi != 0 && decide (bits v.q2 24 2 < x.cls) then return some (-4)
    else if vi != 0 && (!v.en || !v.allows x.need x.need) then return some (-1)
    else if 64 * ((List.range 4).filter fun d => nbits x.diemask.toNat d 1 == 1).length < x.jr * x.jc then return some (-1)
    else return none

/-- A refused host translation of ENTRY has given its answer (R244). -/
def State.spendEntry (s : State) (x : Waybill) : State :=
  match s.xlat { vi := s.myVi, user := x.laneWeight != 0, core := s.coreOf s.me } .fetch x.entry with
  | .error (.trap t) => s.spendBy s.myVi t
  | _ => s

/-- Create a caravan of PENDING teams for the acting strand's VI. -/
def State.createCaravan (s : State) (x : Waybill) : State × Word :=
  let vi := s.myVi
  let v := s.vi vi
  let h := w64 (v.launched % 2 ^ 31)
  let mon := s.me.priv == .mon
  let ids := (List.range x.teams).map (s.nextTeam + ·)
  let c : Caravan := { vi, handle := h, wb := x, counter := x.lo, seq := s.launchSeq, service := mon && x.laneWeight == 0
                       monPriv := mon && x.laneWeight == 0, teams := ids }
  let ts := (List.range x.teams).foldl (fun t i =>
    Tab.put t (s.nextTeam + i) { caravan := s.nextCaravan, idx := i, spLen := x.spbytes }) s.teams
  ({ s with caravans := Tab.put s.caravans s.nextCaravan c, teams := ts, nextTeam := s.nextTeam + x.teams
            nextCaravan := s.nextCaravan + 1, launchSeq := s.launchSeq + 1
            vis := Tab.put s.vis vi { v with launched := v.launched + 1 } }, h)

/-- LAUNCH (R95), a release at DEV scope (R87). -/
def execLaunch (d a : Opnd) (s : State) : Host.Outcome State Fault Refusal :=
  issue (.launch d a) s [rdS .a a, wrS d] fun c => do
    let va := c.s_ .a
    ensure (va.toNat % 128 == 0) .misaligned va
    let (s1, bs) ← c.s.plainRead va 128
    let s2 ← s1.drainCore (s1.coreOf c.me)
    let x := Waybill.ofBytes bs
    match ← launchResult s2 bs x with
    | some r => done (c.putS (if r = -3 then s2.spendEntry x else s2) (wInt r))
    | none =>
      let (s3, h) := s2.createCaravan x
      done (c.putS s3 h)

/-! ### BAR (R107, R108) -/

/-- Complete the BAR of an arrived strand. -/
def State.finishBar (s : State) (sid id : Nat) : State :=
  let s1 := ({ s with cur := sid }).setStrand sid { s.strand sid with run := .active }
  { complete { s := s1, i := .bar (BitVec.ofNat 2 id) } { s := s1 } with cur := s.cur }

/-- Barrier `id` of a team completes when every strand that has not exited has arrived. -/
def State.barrier (s : State) (team id : Nat) : State :=
  let live := (s.team team).strands.filter fun k => (s.strand k).run != .exited
  if live.all fun k => (s.strand k).run == .parkBar id then live.foldl (fun s k => s.finishBar k id) s else s

def execBar (id : BitVec 2) (s : State) : Host.Outcome State Fault Refusal :=
  issue (.bar id) s [] fun c =>
    .error (.hold ((c.s.setMe { c.me with run := .parkBar id.toNat }).barrier c.me.team id.toNat))

/-! ### EXIT (R112, R340) -/

/-- A stream that the acting strand issued is ACTIVE. -/
def State.streamsActive (s : State) : Bool :=
  s.myTeam.streams.any fun p => p.2.issuer == s.cur && p.2.state == .active

/-- The acting strand leaves: its slot and lanes are free, and barriers that waited for it alone complete. -/
def State.leave (s : State) : State :=
  let t := s.me.team
  let tm := s.myTeam
  let core := s.coreOf s.me
  let gang := (s.car tm.caravan).wb.gang
  let s1 := s.setMe { s.me with run := .exited, lanes := 0, pend := [], late := [] }
  -- an exit ends the excuse of R392
  let s2 := { s1 with teams := s1.teams.map fun (p : Nat × Team) =>
    if p.1 == t || (gang && p.2.caravan == tm.caravan) then (p.1, { p.2 with noVictim := false }) else p }
  let s3 := if s2.allExited (s2.team t) then s2.unbind t else s2
  let live := tm.strands.filter fun k => (s3.strand k).run != .exited
  let s4 := if live.isEmpty then s3 else (List.range 4).foldl (fun s id => s.barrier t id) s3
  s4.realloc core

def execExit (s : State) : Host.Outcome State Fault Refusal :=
  issue .exit s [] fun c => do
    if c.s.streamsActive then throw .stall
    let s1 ← c.s.drainCore (c.s.coreOf c.me)
    throw (.hold ((s1.charge s1.myVi (slotCounter (opOf .exit)) 1).leave))

/-! ### YIELD and SNEXT (R97, R98, R102) -/

def execYield (s : State) : Host.Outcome State Fault Refusal :=
  issue .yield s [] fun c => done (c.s.setMe { c.me with waited := 0, nmax := 0 })

def execSnext (d : Opnd) (s : State) : Host.Outcome State Fault Refusal :=
  issue (.snext d) s [wrS d] fun c =>
    let n := c.s.myTeam.caravan
    let x := c.s.car n
    if x.wb.strip != 0#64 && decide (x.counter.toInt < x.wb.hi.toInt) then
      done (c.putS (c.s.setCar n { x with counter := x.counter + x.wb.strip }) x.counter)
    else done (c.putS c.s (wInt (-1)))

/-! ### WAITW and WAKE (R109–R111) -/

/-- Table 4.7. -/
def waitHolds (cond : BitVec 3) (w k : Word) : Bool :=
  match cond.toNat with
  | 0 => w == k
  | 1 => w != k
  | 2 => w.ult k
  | 3 => !w.ult k
  | 4 => w.slt k
  | 5 => !w.slt k
  | 6 => (w &&& k) != 0#64
  | _ => (w &&& k) == 0#64

def execWaitw (cond : BitVec 3) (sc : Scope) (d a b e : Opnd) (imm : BitVec 16) (s : State) :
    Host.Outcome State Fault Refusal :=
  let i : Instr := .waitw cond sc d a b e imm
  issue i s [rdS .a a, rdS .b b, rdS .c e, wrS d] fun c => do
    let va := c.address imm
    ensure (va.toNat % 8 == 0) .misaligned va
    let l ← c.s.locate false .load va 8
    let (s1, v) ← c.s.loadAt (.mem sc .acq) va 8 l
    if waitHolds cond (w64 v) (c.s_ .c) then done (c.putS s1 (w64 v))
    else throw (.hold (s1.setMe { s1.me with run := .parkWaitw i l.line }))

def execWake (sc : Scope) (a b : Opnd) (imm : BitVec 16) (s : State) : Host.Outcome State Fault Refusal :=
  issue (.wake sc a b imm) s [rdS .a a, rdS .b b] fun c => do
    let va := c.address imm
    let x ← c.s.reach (c.s.who c.me) .load va
    let s1 ← c.s.order (.mem sc .rel)
    let s2 := (s1.used x).notify (x.pa / 128)
    match sc, s2.region x.pa with
    | .sys, .remote dev => done { s2 with out := s2.out ++ [.wake dev (x.pa / 128)] }
    | _, _ => done s2

/-- WAITW_REEVALUATE: a parked WAITW loads its word again (R109). It reads its operands again too: queue entries that they name are not
kept for it while it is parked (DESIGN CHOICE, log 126). -/
def execEvWaitwReevaluate (sid : Nat) (s : State) : Host.Outcome State Fault Refusal :=
  let st := s.strand sid
  match st.run with
  | .parkWaitw (.waitw cond sc d a b e imm) _ =>
    (match execWaitw cond sc d a b e imm (({ s with cur := sid }).setStrand sid { st with run := .active }) with
    | .next s1 => .next { s1 with cur := s.cur }
    | o => o)
  | _ => .next s

end Sys2Proof.Machine
end

