-- ==== Sys2Proof/Machine/System.lean ====
section
/-! DEFINITION. TLBINV, RCSTART and RCSTAT, KDSET, HOMEMAP and IDLE (R235, R236, R238–R241, R248, R379, R380), and the recode
engine's events (R232–R234). -/

namespace Sys2Proof.Machine

/-! ### TLBINV (R248) -/

/-- Two addresses in one page of a level. -/
def samePage (lvl a b : Nat) : Bool := a / 2 ^ lvlShift lvl == b / 2 ^ lvlShift lvl

/-- Whether TLBINV of a type drops a cached translation: every one that was formed with the stage-1 leaf of the VA, or with the
stage-2 leaf of the IA. -/
def tlbDrops (ty : BitVec 3) (n : Nat) (a : Word) (t : TlbEntry) : Bool :=
  match ty.toNat with
  | 1 => t.vi == n && samePage t.lvl1 t.va (a.toNat % 2 ^ 56)
  | 3 => t.vi == n && (if t.leaf2.isSome then samePage t.lvl2 t.ia a.toNat else decide (t.ia ≤ a.toNat) && decide (a.toNat < t.ia + t.size))
  | 4 => true
  | _ => t.vi == n

/-- The members of joint stores that wait leave their CSTJ, which they issue again, where a test on their parts holds. -/
def State.leaveJoints (s : State) (p : TilePart → Bool) : State :=
  s.caravans.foldl (fun (s : State) (x : Nat × Caravan) =>
    let out := x.2.joint.filter p
    if out.isEmpty then s
    else out.foldl (fun s w => s.giveUp w none) (s.setCar x.1 { x.2 with joint := x.2.joint.filter fun w => !p w })) s

/-- Drop the translations; then every access that was translated through them is performed, or TLBINV still waits. A load that has
performed some of its lines translates anew, and one that may still be performed later stays as it is. -/
def tlbBody (ty : BitVec 3) (n : Nat) (a : Word) (s : State) : Res Done :=
  let hit := fun (vi : Nat) => ty == 4#3 || vi == n
  let s1 := ({ s with tlb := s.tlb.filter fun t => !tlbDrops ty n a t } : State).forget fun _ => true
  let s2 := s1.leaveJoints fun p => hit p.vi
  match drainWhere (fun b => hit b.vi) s2.storeQ s2 with
  | .error _ => .error (.hold s2)
  | .ok s3 => if s3.tiles.any fun t => t.2.parts.any fun p => hit p.vi then .error (.hold s3) else done s3

def execTlbinv (ty : BitVec 3) (a b : Opnd) (s : State) : Host.Outcome State Fault Refusal :=
  let i : Instr := .tlbinv ty a b
  let sup := s.me.priv == .sup
  if sup && b != .reg 0#6 then stopIssue i s [] (.trap { cause := .illegal, v0 := wordOf i, v1 := 4#64 })
  else if sup && decide (2 ≤ ty.toNat) then stopIssue i s [] (.trap { cause := .privilege, v0 := wordOf i })
  else issue i s [rdS .a a, rdS .b b] fun c => do
    let n := if c.me.priv == .mon then (c.s_ .b).toNat else c.s.myVi
    ensure (n ≤ 255) .access (c.s_ .b)
    -- a release at DEV scope
    let s1 ← c.s.drainCore (c.s.coreOf c.me)
    tlbBody ty n (c.s_ .a) s1

/-! ### RCSTART and RCSTAT -/

def RcState.num : RcState → Nat
  | .idle => 0 | .running => 1 | .done => 2 | .failed => 3

/-- R235. -/
def execRcstart (rm : Rm) (d a b : Opnd) (f : FmtCode) (s : State) : Host.Outcome State Fault Refusal :=
  issue (.rcstart rm d a b f) s [rdS .a a, rdS .b b, wrS d] fun c => do
    let va := c.s_ .a
    ensure (va.toNat % 0x20_0000 == 0) .misaligned va
    let n := (c.s_ .b).toNat
    let v := c.s.vi c.s.myVi
    if v.rc.state == .running then done (c.putS c.s (wInt (-1)))
    else if n = 0 || 65536 < n then done (c.putS c.s (wInt (-2)))
    else do
      let s1 ← c.s.drainCore (c.s.coreOf c.me)
      let rc : Recode := { state := .running, va, count := n, fmt := f, rm := (c.me.rmode rm).toRm }
      done (c.putS (s1.setVi s1.myVi { s1.vi s1.myVi with rc }) 0#64)

/-- The status word of Table 9.8. -/
def Recode.status (r : Recode) : Word :=
  w64 (r.state.num + r.err % 16 * 2 ^ 4 + r.flags.toNat % 128 * 2 ^ 8 + r.pages % 2 ^ 32 * 2 ^ 16)

/-- R236. Where no page is in progress and none failed, SEL = 1 writes a free value (log 25). -/
def execRcstat (d : Opnd) (page : Bool) (s : State) : Host.Outcome State Fault Refusal :=
  issue (.rcstat d page) s [wrS d] fun c =>
    let r := (c.s.vi c.s.myVi).rc
    let at' := if r.state == .running || r.state == .failed then r.va else Config.noPage c.s.tick
    done (c.putS c.s (if page then at' else r.status))

/-! ### The recode engine (R232–R234) -/

/-- Frames of a 2 MiB tensor page that hold elements: EPP elements of format f (R230). -/
def framesNeeded (nfmt f : FmtCode) : Nat := (16384 * eln nfmt + 512 * eln f - 1) / (512 * eln f)

/-- Lines of a tensor page that hold elements. -/
def linesNeeded (nfmt f : FmtCode) : Nat := (16384 * eln nfmt + eln f - 1) / eln f

/-- A tensor page as the engine finds it: the stage-1 leaf with its address, what the stage-2 leaves of the walk have to set, and per
frame its DPA and the stage-2 leaf. -/
structure TensorPage where
  leaf : Word
  at' : Nat
  walk : List (Nat × Nat)
  frames : List (Nat × Option (Word × Nat × Nat))

def TensorPage.nfmt (p : TensorPage) : FmtCode := p.leaf.extractLsb' 12 6
def TensorPage.cfmt (p : TensorPage) : FmtCode := p.leaf.extractLsb' 18 6
/-- What the stage-2 leaves have to set that the engine uses: D where it writes frames in a format, A where it reads them (R227). -/
def TensorPage.marks (p : TensorPage) (target : FmtCode) : List (Nat × Nat) :=
  p.walk ++ ((List.range 32).zip p.frames).flatMap fun x =>
    match x.2.2 with
    | some (e, pa, _) =>
      if x.1 < framesNeeded p.nfmt target then toSet e pa 0xC0
      else if x.1 < framesNeeded p.nfmt p.cfmt then toSet e pa 0x40
      else []
    | none => []

def TensorPage.hasFrame (p : TensorPage) (f : Nat) : Bool := p.frames.any fun x => x.1 / 0x10000 == f

/-- Why the engine does not have the page: an ERR of Table 9.8, a page that is at its target already, or a wait. -/
inductive PageStop where
  | err (n : Nat)
  | same
  | wait (s : State)

/-- The page at a VA, for a target format. -/
def State.tensorPage (s : State) (vi : Nat) (va : Word) (target : FmtCode) : Except PageStop TensorPage := do
  if !canonical va then throw (.err 2)
  match s.walk1From vi .load va 5 0 (bits (s.vi vi).vtbase 12 39 * 2 ^ 12) with
  | .error _ => throw (.err 2)
  | .ok (e, pa, _, us) =>
    if !bitAt e 10 then throw (.err 1)
    if e.extractLsb' 18 6 == target then throw .same
    if eln target < eln (e.extractLsb' 12 6) then throw (.err 3)
    let frames ← (List.range 32).mapM fun i =>
      match s.stage2 vi (fun l => entR l && entW l) (entPa e + 0x10000 * i) with
      | .error _ => throw (.err 2)
      | .ok (dpa, leaf2) =>
        match s.checkPa vi .load va dpa with
        | .ok _ => .ok (dpa, leaf2)
        | .error (.pri p _) => throw (.wait (s.askPri p))
        | .error _ => throw (.err 2)
    return { leaf := e, at' := pa, walk := us, frames }

/-- Drop the cached translations of a page. -/
def State.dropPage (s : State) (vi : Nat) (va : Word) : State :=
  let lo := va.toNat % 2 ^ 56
  { s with tlb := s.tlb.filter fun t => !(t.vi == vi && decide (t.va < lo + 0x20_0000) && decide (lo < t.va + t.size)) }

/-- A job after a page that is done, with the flags that its elements raised. -/
def Recode.advance (r : Recode) (fl : Flags) : Recode :=
  { r with pages := r.pages + 1, busy := false, flags := r.flags ||| fl.setWidth 64
           state := if r.pages + 1 = r.count then .done else .running
           va := if r.pages + 1 = r.count then r.va else r.va + 0x20_0000#64 }

/-- The frames of a page that the target needs and that are not backed. -/
def State.toBack (s : State) (p : TensorPage) (target : FmtCode) : List Nat :=
  ((p.frames.take (framesNeeded p.nfmt target)).map fun x => x.1 / 0x10000).filter fun f => s.unbacked.contains f

/-- A table entry gets a new value at its home: one event of its line. -/
def State.writeEntry (s : State) (pa : Nat) (e : Word) : State :=
  let ln := pa / 128
  s.writeLine false false false ln (stLine (s.homeView false 0#6 ln) (pa % 128) 8 e.toNat)

/-- RECODE_PAGE_START: the next page fails, counts as done, or gets RCB = 1 with its cached translations dropped. The write of
the leaf waits while a reservation holds its line (R309). -/
def State.recodeStart (s : State) (vi : Nat) : Option State :=
  let v := s.vi vi
  let r := v.rc
  if r.state != .running || r.busy then none
  else
    let put := fun (s : State) (r : Recode) => s.setVi vi { s.vi vi with rc := r }
    match s.tensorPage vi r.va r.fmt with
    | .error .same => some (put s (r.advance 0#7))
    | .error (.err n) => some (put s { r with state := .failed, err := n })
    | .error (.wait s1) => some s1
    | .ok p =>
      if vi != 0 && decide (bits v.q1 0 24 < v.backed.length + (s.toBack p r.fmt).length) then
        some (put s { r with state := .failed, err := 4 })
      else if s.held true (p.at' / 128) || p.walk.any fun u => s.held true (u.1 / 128) then none
      else
        let s1 := (p.walk.foldl State.orByte s).writeEntry p.at' (p.leaf ||| 0x400_0000#64)
        -- a load that has performed lines of the page waits for it, and reads them anew (R233)
        some (put ((s1.dropPage vi r.va).forget fun ln => p.hasFrame (ln / 512)) { r with busy := true })

def execEvRecodePageStart (vi : Nat) (s : State) : Host.Outcome State Fault Refusal := .next ((s.recodeStart vi).getD s)

/-- Line k of a tensor page: its number, and whether the page is NC or ephemeral there. -/
def TensorPage.line (p : TensorPage) (k : Nat) : Nat × Bool × Bool :=
  let x := p.frames.getD (k / 512) (0, none)
  let e2 := (x.2.map fun l => l.1).getD 0#64
  (x.1 / 128 + k % 512, bitAt p.leaf 27 || bitAt e2 27, bitAt e2 11)

/-- A line of the page as it stands before recoding. -/
def State.pageLine (s : State) (p : TensorPage) (k : Nat) : LineV :=
  let x := p.line k
  freshLine true p.cfmt (s.homeView x.2.1 p.cfmt x.1)

/-- Element e of a page whose elements stand by CFMT, as the engine re-encodes it. -/
def pageEl (tick : Nat) (cfmt : FmtCode) (l : LineV) (e : Nat) : StEl :=
  let v := if l.cls == 3 || l.cls == 2 then Val.zero
    else if cfmt == 0#6 then decodeCode 0x0C#6 0 (Config.untElem tick e).toNat
    else ({ l with tag := mkTag cfmt l.cls false } : LineV).elem (e % eln cfmt)
  { v, psn := l.cls == 2 }

/-- Line j of the page in the new format, from the page in state `s0`. -/
def State.recodeLine (s0 : State) (p : TensorPage) (target : FmtCode) (rm : RMode) (j : Nat) : LineOut :=
  let n := eln target
  let epp := 16384 * eln p.nfmt
  let olds := (List.range ((n - 1) / eln p.cfmt + 2)).map fun i => s0.pageLine p (j * n / eln p.cfmt + i)
  let els : Tab StEl := (List.range n).map fun i =>
    let e := j * n + i
    (i, if e < epp then pageEl s0.tick p.cfmt (olds.getD (e / eln p.cfmt - j * n / eln p.cfmt) { data := 0, tag := 0#16 }) e
        else ({ v := Val.zero } : StEl))
  lineAfter (stFmt p.cfmt target rm) false { data := 0, tag := mkTag target 3 false } els

/-- The bytes and tags of a frame are gone: its lines read with VCLS zero (R234, R239). -/
def State.freshFrame (s : State) (f : Nat) : State :=
  let in' := fun (pa : Nat) => pa / 0x10000 == f
  { s with mem := s.mem.filter fun b => !in' b.1, tags := s.tags.filter fun t => !in' (128 * t.1)
           eph := s.eph.filter fun t => !in' (128 * t.1), expired := s.expired.filter fun ln => !in' (128 * ln) }

/-- A buffered store or a tile in flight still uses the page, or a reservation holds a line of it or of its leaf (R232, R304). -/
def State.pageInUse (s : State) (p : TensorPage) : Bool :=
  s.storeQ.any (fun b => p.hasFrame (b.pa / 0x10000)) || s.held true (p.at' / 128)
  || s.tiles.any fun t => t.2.order.any (fun ln => p.hasFrame (ln / 512))
      || p.frames.any fun x => s.tileInFrame t.2 (x.1 / 0x10000)

/-- RECODE_PAGE_REENCODE: the page's elements in the new format, its new CFMT, and its frames backed and unbacked. -/
def State.recodePage (s : State) (vi : Nat) : Option State :=
  let r := (s.vi vi).rc
  if r.state != .running || !r.busy then none
  else
    let put := fun (s : State) (r : Recode) => s.setVi vi { s.vi vi with rc := r }
    match s.tensorPage vi r.va r.fmt with
    | .error .same => some (put s (r.advance 0#7))
    | .error (.err n) => some (put s { r with state := .failed, err := n, busy := false })
    | .error (.wait s1) => some s1
    | .ok p =>
      -- members of a joint store that wait with lines of the page issue their CSTJ again
      let s0 := s.leaveJoints fun w => w.lines.any fun l => p.hasFrame (l.ln / 512)
      if s0.pageInUse p || (p.marks r.fmt).any fun u => s0.held true (u.1 / 128) then (if s0 == s then none else some s0)
      else
        let back := s0.toBack p r.fmt
        let n := linesNeeded p.nfmt r.fmt
        let s1 := { (p.marks r.fmt).foldl State.orByte s0 with unbacked := s0.unbacked.filter fun f => !back.contains f }
        let (s2, fl) := (List.range n).foldl (fun (a : State × Flags) j =>
          let o := s0.recodeLine p r.fmt r.rm.toMode j
          let x := p.line j
          (a.1.writeLine x.2.1 x.2.2 true x.1 o.line, a.2 ||| o.fl)) (s1, (0#7 : Flags))
        let out := ((p.frames.drop (framesNeeded p.nfmt r.fmt)).map fun x => x.1 / 0x10000).filter fun f =>
          s0.region (f * 0x10000) == .dev && !s0.unbacked.contains f
        let s3 := out.foldl (fun s f => s.freshFrame f) s2
        let leaf := setBits (setBits p.leaf 18 6 r.fmt.toNat) 26 1 0 ||| 0xC0#64
        let s4 := ({ s3 with unbacked := s3.unbacked ++ out } : State).writeEntry p.at' leaf
        let s5 := ((s4.dropPage vi r.va).charge vi 16 n).chargeLlc vi (128 * (n + linesNeeded p.nfmt p.cfmt))
        let v := s5.vi vi
        some (s5.setVi vi { v with rc := r.advance fl
                                   backed := (v.backed ++ back).filter fun f => !out.contains f })

def execEvRecodePageReencode (vi : Nat) (s : State) : Host.Outcome State Fault Refusal := .next ((s.recodePage vi).getD s)

/-! ### KDSET (R238–R241) -/

/-- No tile in flight holds a line that a test selects, and the stores to such lines are at their homes; KDSET waits
for that (Table 12.3). `q` selects the slices that home such lines, which a tile may hold wholesale. -/
def State.settleLines (s : State) (p q : Nat → Bool) : Res State :=
  if s.tiles.any fun t => t.2.granted && (t.2.order.any p || (List.range 128).any fun k => q k && s.wholesale t.2 k) then
    .error .stall
  else drainWhere (fun b => p (b.pa / 128)) s.storeQ s

/-- A key domain with a key. KD0 belongs to the monitor and always has one. -/
def State.keyed (s : State) (kd : Nat) : Bool := kd == 0 || s.kds.contains kd

/-- Each frame's fresh state (R239), in a domain; KD0's frames are not listed. An unbacked frame stays unbacked (DESIGN CHOICE,
log 128). -/
def State.assign (s : State) (kd lo n : Nat) : State :=
  (List.range n).foldl (fun s i =>
    let f := lo + i
    let s1 := s.freshFrame f
    { s1 with frameKd := if kd = 0 then Tab.del s1.frameKd f else Tab.put s1.frameKd f (some kd) }) s

/-- The domain's frames belong to no domain (R240). -/
def State.retireKd (s : State) (kd : Nat) : State :=
  { s with kds := s.kds.filter (· != kd)
           frameKd := s.frameKd.map fun (p : Nat × Option Nat) => (p.1, if p.2 == some kd then none else p.2) }

/-- The three operations and their results, in the order in which R241 lists them. -/
def kdsetBody (c : Ctx) : Res Done := do
  let a := (c.s_ .a).toNat
  let n := (c.s_ .b).toNat
  let w := c.s_ .c
  let kd := bits w 0 10
  let answer := fun (s : State) (r : Int) => done (c.putS s (wInt r))
  match bits w 10 2 with
  | 0 =>
    if !c.s.keyed kd then answer c.s (-1)
    else if a % 0x10000 != 0 || decide (c.s.memBytes < a + 0x10000 * n) || bits w 12 52 != 0 then answer c.s (-2)
    else do
      let s1 ← c.s.settleLines (fun ln => decide (a / 128 ≤ ln) && decide (ln < a / 128 + 512 * n)) fun _ => n != 0
      -- a load that has performed lines of the frames reads them anew (R241)
      answer ((s1.assign kd (a / 0x10000) n).forget fun ln => decide (a / 128 ≤ ln) && decide (ln < a / 128 + 512 * n)) 0
  | 1 =>
    if c.s.keyed kd then answer c.s (-1)
    else if a != 0 || n != 0 || bits w 12 52 != 0 then answer c.s (-2)
    else answer { c.s with kds := kd :: c.s.kds } 0
  | 2 =>
    if kd = 0 || !c.s.keyed kd then answer c.s (-1)
    else if a != 0 || n != 0 || bits w 12 52 != 0 then answer c.s (-2)
    else do
      let s1 ← c.s.settleLines (fun ln => Tab.find c.s.frameKd (ln / 512) == some (some kd))
        fun _ => c.s.frameKd.any fun p => p.2 == some kd
      answer ((s1.retireKd kd).forget fun ln => Tab.find c.s.frameKd (ln / 512) == some (some kd)) 0
  | _ => answer c.s (-2)

/-- KDSET: the table has a row for each operation, and the word is one (log 7). -/
def kdset (i : Instr) (d a b e : Opnd) (s : State) : Host.Outcome State Fault Refusal :=
  issue i s [rdS .a a, rdS .b b, rdS .c e, wrS d] kdsetBody

def execKdsetAssign (d a b e : Opnd) (s : State) : Host.Outcome State Fault Refusal := kdset (.kdsetAssign d a b e) d a b e s

def execKdsetNewkey (d a b e : Opnd) (s : State) : Host.Outcome State Fault Refusal := kdset (.kdsetNewkey d a b e) d a b e s

def execKdsetRetire (d a b e : Opnd) (s : State) : Host.Outcome State Fault Refusal := kdset (.kdsetRetire d a b e) d a b e s

/-! ### HOMEMAP (R379) -/

/-- The result of HOMEMAP for a set and a slice, where it is not a move. -/
def State.homemapResult (s : State) (h k : Nat) : Option Int :=
  if 127 < h || 127 < k then some (-3)
  else if k % 16 != h % 16 then some (-1)
  else if (s.die (k / 32)).state != .online && (s.die (k / 32)).state != .ready then some (-2)
  else if s.homeOf h = k then some 0
  else none

/-- Move a home set: its dirty lines are written back and dropped, tiles that hold nothing yet order their lines anew, and a die
that is not in use answers at it from here on (R378, R379). -/
def State.moveHome (s : State) (h k : Nat) : State :=
  let lns := (s.hostLines.filter fun e => homeSet (128 * e.1) == h).map fun e => e.1
  let s1 := lns.foldl (fun s ln => s.writeBackHost ln) s
  let s2 := { s1 with hostLines := s1.hostLines.filter fun e => !lns.contains e.1
                      homes := if k = h then Tab.del s1.homes h else Tab.put s1.homes h k
                      dies := s1.dies.map fun (p : Nat × Die) => (p.1, { p.2 with kept := p.2.kept.filter (· != h) }) }
  { s2 with tiles := s2.tiles.map fun (t : Nat × Tile) =>
      (t.1, if t.2.granted then t.2 else { t.2 with order := s2.resOrder t.2.order }) }

/-- The old slice of a home set holds no tile's entries any more, and the stores to the set are at their homes (R379, Table 12.3). -/
def State.leaveSlice (s : State) (h : Nat) : Res State :=
  if s.tiles.any fun t => t.2.granted && s.needAt t.2 (s.homeOf h) != 0 then .error .stall
  else drainWhere (fun b => s.region b.pa == .dev && homeSet b.pa == h) s.storeQ s

/-- HOMEMAP: while it waits for the old slice, tiles that come for the set wait for the new one. -/
def execHomemap (d a b : Opnd) (s : State) : Host.Outcome State Fault Refusal :=
  issue (.homemap d a b) s [rdS .a a, rdS .b b, wrS d] fun c => do
    let h := (c.s_ .a).toNat
    let k := (c.s_ .b).toNat
    match c.s.homemapResult h k with
    | some r => done (c.putS c.s (wInt r))
    | none =>
      match c.s.leaveSlice h with
      | .ok s1 => done (c.putS (s1.moveHome h k) 0#64)
      | .error _ => throw (.hold (c.s.setMe { c.me with homing := some h }))

/-! ### IDLE (R380) -/

def execIdle (d a : Opnd) (s : State) : Host.Outcome State Fault Refusal :=
  let i : Instr := .idle d a
  issue i s [rdS .a a, wrS d] fun c => do
    let w := c.s_ .a
    ensure (w.toNat < 128) .illegal (wordOf i) 2#64
    let m := c.s.mevt &&& w
    if w == 0#64 then done (c.putS c.s 0#64)
    else if m == 0#64 then throw (.hold (c.s.setMe { c.me with run := .parkIdle i }))
    else done (c.putS { c.s with mevt := c.s.mevt &&& ~~~w } m)

/-- IDLE_WAKE: a strand parked in IDLE looks at MEVT again. -/
def execEvIdleWake (sid : Nat) (s : State) : Host.Outcome State Fault Refusal :=
  let st := s.strand sid
  match st.run with
  | .parkIdle (.idle d a) =>
    (match execIdle d a (({ s with cur := sid }).setStrand sid { st with run := .active }) with
    | .next s1 => .next { s1 with cur := s.cur }
    | o => o)
  | _ => .next s

end Sys2Proof.Machine
end

