-- ==== Sys2Proof/Machine/Engines.lean ====
section
/-! DEFINITION. Events of the memory system, of asynchronous traps and of errors: ACCESS_PERFORM, ATOMIC_APPLY, the ATS events,
frame moves, ephemeral expiry, soft errors, ASYNC_TRAP_DELIVERY and WATCHDOG_EXPIRY. -/

namespace Sys2Proof.Machine

/-! ### Events that are held -/

/-- An event that something holds is tried again later. -/
def State.defer (s : State) (i : Instr) : State := { s with deferred := s.deferred ++ [i] }

/-- The end of an event's work: done, held, or held with a part of it done. -/
def orLater (i : Instr) (s : State) : Res State → Host.Outcome State Fault Refusal
  | .ok s1 => .next s1
  | .error (.pri p _) => .next ((s.askPri p).defer i)
  | .error (.hold s1) => .next (s1.defer i)
  | .error _ => .next (s.defer i)

/-! ### ACCESS_PERFORM (R277, R279, R282) -/

/-- The oldest store of a core in a track is performed at its line's home; none while a reservation holds it. -/
def State.performNext (s : State) (core track : Nat) : Option State :=
  match s.storeQ.find? fun b => b.core == core && b.track == track with
  | some b => if s.waitsAt b then none else some ({ s with storeQ := s.storeQ.erase b }.performBuffered b)
  | none => none

/-- A plain load of memory runs again. -/
def loadAgain (s : State) : Instr → Option (Host.Outcome State Fault Refusal)
  | .ld sz sp d a b imm => some (execLd sz sp d a b imm s)
  | .vld mk rm ql trim d a b imm => some (execVld mk rm ql trim d a b imm s)
  | .vlds mk rm ql d a b imm => some (execVlds mk rm ql d a b imm s)
  | .vldx mk rm ql d a b imm => some (execVldx mk rm ql d a b imm s)
  | .vldm mk rm sp d h b c => some (execVldm mk rm sp d h b c s)
  | .vldg mk rm sp d h b c k => some (execVldg mk rm sp d h b c k s)
  | _ => none

/-- A strand as its late load found it, with the load's lines that are not performed now. -/
def Strand.asAt (st : Strand) (l : LateLoad) (now : List Nat) : Strand :=
  { st with s := l.s, i := l.ix, v := l.v, m := l.m, tstart := l.tstart, fctl := l.fctl
            got := l.lines.filter fun p => !now.contains p.1
            late := [], shun := [], reqs := 0, pend := [], sstep := none, charged := false }

/-- A strand after its late load `l` has performed the lines `now`, as `t` shows, where the load's record is `n`: its destination, and
FCTL where no other instruction has raised a flag since. -/
def Strand.afterLate (st t : Strand) (l n : LateLoad) (now : List Nat) : Strand :=
  let l1 := { l with lines := n.lines, left := l.left.filter fun k => !now.contains k, raised := n.raised }
  { st with
    s := if l.vec then st.s else Tab.set 0#64 st.s l.d (t.getS l.d)
    v := if l.vec then (List.range l.k).foldl (fun v j => Tab.set {} v (l.d + j) (t.getV (l.d + j))) st.v else st.v
    fctl := if st.fctl == l.raised then n.raised else st.fctl
    late := (st.late.map fun e => if e == l then l1 else e).filter fun e => !e.left.isEmpty }

/-- The oldest late load of a strand with lines in a track performs them now, at a later point of their order (R282). None where it has
none, where a reservation holds a line, or where the load would not end as it has ended. -/
def State.performLateOf (s : State) (track sid : Nat) : Option State := do
  let st ← Tab.find s.strands sid
  let l ← st.late.find? fun l => l.left.any fun n => lineTrack n == track
  let now := l.left.filter fun n => lineTrack n == track
  match loadAgain (({ s with cur := sid } : State).setStrand sid (st.asAt l now)) l.i with
  | some (.next t) => do
    let n ← t.me.late.getLast?
    if n.raised == l.raised || st.fctl == l.raised then some (s.setStrand sid (st.afterLate t.me l n now)) else none
  | _ => none

/-- A late load of a core's strand is performed: of the current strand first, whose choice among the strands is the model's. -/
def State.performLate (s : State) (core track : Nat) : Option State :=
  let of' := fun (sid : Nat) => if s.coreOf (s.strand sid) == core then s.performLateOf track sid else none
  (of' s.cur).orElse fun _ => (s.strands.map fun p => p.1).findSome? of'

/-- ACCESS_PERFORM: the oldest store that the core has queued in the track; where it has none, a late load of the track. -/
def execEvAccessPerform (core track : Nat) (s : State) : Host.Outcome State Fault Refusal :=
  .next (if s.storeQ.any fun b => b.core == core && b.track == track then (s.performNext core track).getD s
    else (s.performLate core track).getD s)

/-! ### ATOMIC_APPLY (R320, R323) -/

/-- An atomic of n bytes at its home: the state, and the old value, or none where the line is poisoned. `eph` says that its mapping has
EPH = 1 (R242). -/
def State.applyAtomic (s : State) (eph : Bool) (pa n : Nat) (new : Nat → Option Nat) : State × Option Nat :=
  let ln := pa / 128
  let l := s.homeLine ln
  if l.cls == 2 then (s, none)
  else
    let old := nbits l.data (8 * (pa % 128)) (8 * n)
    match new old with
    | some v => (s.writeLine false eph false ln (stLine l (pa % 128) n v), some old)
    | none => (s, some old)

/-- The answer to an atomic from outside: the old value, or a completion marked poisoned. -/
def State.replyAtomic (r : State × Option Nat) : State :=
  { r.1 with out := r.1.out ++ [match r.2 with
      | some v => Reply.atomic (w64 v) false
      | none => Reply.atomic 0#64 true] }

/-- Bytes of an atomic's word. -/
def amoBytes (w8 : Bool) : Nat := if w8 then 8 else 4

/-- What an atomic of another W4 writes: with a comparand it is a CAS (R329), else an AMO (R327). -/
def homeNew (op : Aop) (n : Nat) (v : Word) (x : AtomicArg) (old : Nat) : Option Nat :=
  let y := v.toNat % 2 ^ (8 * n)
  match x with
  | .cmp c => if old = c.toNat % 2 ^ (8 * n) then some y else none
  | .exp e => some (atomicNew op n e.toInt old y).1

/-- An atomic at a line that is homed here, in a live frame, and whose home answers: performed, and held while a reservation holds the
line (R240, R309, R320, R378). -/
def State.atomicEvent (s : State) (pa : Nat) (w8 : Bool) (op : Aop) (v : Word) (x : AtomicArg) : Res State :=
  let n := amoBytes w8
  if pa % n != 0 || s.region pa != .dev || !s.frameLive pa || s.unbacked.contains (pa / 0x10000)
      || s.homeOffline (s.ephLine (pa / 128)) pa then .ok s
  else if s.held true (pa / 128) then .error .stall
  else .ok (State.replyAtomic (s.applyAtomic (s.ephLine (pa / 128)) pa n (homeNew op n v x)))

def execEvAtomicApply (pa : Nat) (w8 : Bool) (op : Aop) (v : Word) (x : AtomicArg) (s : State) :
    Host.Outcome State Fault Refusal := orLater (.evAtomicApply pa w8 op v x) s (s.atomicEvent pa w8 op v x)

/-! ### ATS (R244) -/

/-- PRI_RESPONSE: an access that waits for the page proceeds, or faults with sub-cause 4. -/
def execEvPriResponse (p : HostPage) (ok : Bool) (s : State) : Host.Outcome State Fault Refusal :=
  let k := atsName p.pasid p.page
  .next (if s.priPending.contains k then { s with ats := Tab.put s.ats k ok, priPending := s.priPending.filter (· != k) } else s)

/-- HOST_INVALIDATION: accesses to host memory are performed with the instruction that makes them, so none is outstanding. -/
def execEvHostInvalidation (p : HostPage) (s : State) : Host.Outcome State Fault Refusal :=
  .next { s with ats := Tab.del s.ats (atsName p.pasid p.page), out := s.out ++ [.ack] }

/-! ### Frame moves (R237) -/

/-- A frame that the remap table may move: of device memory, holding no ephemeral line and mapped by no leaf with EPH = 1. -/
def State.movable (s : State) (f : Nat) : Bool :=
  s.region (0x10000 * f) == .dev && !s.eph.any (fun e => e.1 / 512 == f) && !s.ephFrames.contains f

/-- FRAME_MIGRATION: the copy begins; stores go to both places from here on. -/
def execEvFrameMigration (frame : Nat) (s : State) : Host.Outcome State Fault Refusal :=
  .next (if s.movable frame && !s.moving.contains frame then { s with moving := frame :: s.moving } else s)

/-- FRAME_SWITCH: the frame is in the other tier, once the reserved lines of it are released (Table 12.3). -/
def execEvFrameSwitch (frame : Nat) (s : State) : Host.Outcome State Fault Refusal :=
  .next (if s.moving.contains frame && s.movable frame && !s.tiles.any (fun t => s.tileInFrame t.2 frame) then
      { s with moving := s.moving.filter (· != frame)
               hbm := if s.hbm.contains frame then s.hbm.filter (· != frame) else frame :: s.hbm }
    else s)

/-! ### Ephemeral lines and soft errors (R219, R242, Table 12.3) -/

/-- EPHEMERAL_EXPIRY: a line past its deadline stays expired until it is written whole. -/
def execEvEphemeralExpiry (line : Nat) (s : State) : Host.Outcome State Fault Refusal :=
  .next (if s.isExpired line && !s.expired.contains line then { s with expired := line :: s.expired } else s)

/-- A line with VCLS poisoned; its bytes and FMT stay. -/
def LineV.poison (l : LineV) : LineV := { l with tag := mkTag l.fmt 2 (tagDem l.tag) }

/-- A tile store that has staged a line's new contents and not yet flipped them in. -/
def State.stagedBy (s : State) (ln : Nat) : Option (Nat × Tile) :=
  s.tiles.find? fun t => t.2.store && !t.2.committed && (t.2.order.take t.2.bound).contains ln

/-- A line of a port's retry window that holds frames in flight (R353). -/
def Port.holds (x : Port) (ln : Nat) : Bool :=
  let lo := x.lhbase.toNat / 128
  x.up && x.lhen && decide (0 < x.unacked) && decide (lo ≤ ln) && decide (ln < lo + 512 * x.winfr)

/-- The frames in a struck line of a retry window are lost to the link layer (R353). -/
def State.strikeWindows (s : State) (ln : Nat) : State :=
  { s with ports := s.ports.map fun (p : Nat × Port) =>
      (p.1, if p.2.holds ln && !p.2.lost.contains ln then { p.2 with lost := ln :: p.2.lost } else p.2) }

/-- An uncorrectable soft error in a line of memory, or in the staged shadow of a reserved line; or in a scratchpad line. -/
def State.softError (s : State) (team : Option Nat) (ln : Nat) : State :=
  match team with
  | some t =>
    (match Tab.find s.teams t with
    | some tm =>
      if (tm.outside (128 * ln) 128).isNone then s.setTeam t (tm.setSpLine ln (tm.spLine ln).poison) else s
    | none => s)
  | none =>
    match s.stagedBy ln with
    | some (id, t) => { s with tiles := Tab.put s.tiles id { t with hit := ln :: t.hit } }
    | none =>
      if s.region (128 * ln) == .dev then
        ({ s with tags := Tab.set tagReset s.tags ln (s.homeLine ln).poison.tag } : State).strikeWindows ln
      else s

/-- SOFT_ERROR: a correctable error changes nothing. -/
def execEvSoftError (team : Option Nat) (line : Nat) (correctable : Bool) (s : State) : Host.Outcome State Fault Refusal :=
  .next (if correctable then s else s.softError team line)

/-! ### ASYNC_TRAP_DELIVERY (R386) and WATCHDOG_EXPIRY (R399) -/

/-- A strand that waits in a CSTJ leaves it, and the CSTJ issues again later. -/
def State.leaveJoint (s : State) (sid : Nat) : State := s.leaveJoints fun w => w.sid == sid

/-- The first pending cause that its level can take, at the boundary of an ACTIVE strand. A strand leaves a stall for it: in a
CSTJ whose members are not all there, and in a tile that has not begun to reserve (R21, R340). -/
def State.takeAsync (s : State) (sid : Nat) : Option State :=
  match Tab.find s.strands sid with
  | none => none
  | some st =>
    if (s.team st.team).core.isNone then none
    else match s.firstPend st, st.run with
      | some p, .active => some (s.takePend sid p)
      | some p, .joint _ => some ((s.leaveJoint sid).takePend sid p)
      | some p, .tile id => if (Tab.get {} s.tiles id).begun then none else some ((s.abandon id fun _ => none).takePend sid p)
      | _, _ => none

def execEvAsyncTrapDelivery (sid : Nat) (s : State) : Host.Outcome State Fault Refusal := .next ((s.takeAsync sid).getD s)

/-- The count of a PERSIST strand is at zero and counts (R399). -/
def State.watchdogDue (s : State) (st : Strand) : Bool :=
  (s.carOf st).wb.persist && (s.team st.team).core.isSome && st.run != .exited && st.wdrem == 0
    && st.wdwin != 0

/-- WATCHDOG_EXPIRY: pending at the supervisor, or from the second expiry on at the monitor, with MEVT bit 3. A WATCHDOG
that is still pending gives way to the later one (log 29). The next count starts from WDWIN as it stands now. -/
def State.expireWatchdog (s : State) (sid : Nat) : State :=
  let st := s.strand sid
  let win := bits (s.vi (s.viNo st)).wdwin 0 32
  let t : Trap := { cause := .watchdog, v0 := st.progress, v1 := w64 st.wdwin, v2 := if st.wdExpired then 1#64 else 0#64 }
  let s1 := s.setStrand sid { st with
    wdrem := win, wdwin := win, wdExpired := true
    pend := (st.pend.filter fun p => p.trap.cause != .watchdog) ++ [{ trap := t, second := st.wdExpired }] }
  if st.wdExpired then s1.setMevt 3 else s1

def execEvWatchdogExpiry (sid : Nat) (s : State) : Host.Outcome State Fault Refusal :=
  .next (if (Tab.find s.strands sid).any s.watchdogDue then s.expireWatchdog sid else s)

end Sys2Proof.Machine
end

