-- ==== Sys2Proof/Machine/VecCross.lean ====
section
/-! DEFINITION. Reductions and scans, cross-lane forms, bit-field packing, VTOPK and the mask forms: 0x88–0x95 and 0x97–0x9C
(R164, R165, R173–R182). -/

namespace Sys2Proof.Machine

/-! ### Reductions (R164, R165) -/

/-- A value rounded into the accumulation format and read back. -/
def roundAcc (acc : FmtCode) (m : RMode) (sat : Bool) (v : Val) : Val × Flags :=
  if isNarrow acc then
    let (sc, cs, fl) := encodeBlock acc m (v :: List.replicate 15 Val.zero)
    (decodeCode acc sc (cs.headD 0), fl ||| sigNV [v])
  else
    let (code, fl) := encArith acc m sat v
    (decodeCode acc 0 code, fl ||| sigNV [v])

/-- One node of the tree; none is NEUTRAL. -/
def redNode (op : Val → Val → Val × Flags) (rnd : Val → Val × Flags) (x y : Option Val) : Option Val × Flags :=
  match x, y with
  | none, none => (none, 0#7)
  | some a, none => let (r, fl) := rnd a; (some r, fl)
  | none, some b => let (r, fl) := rnd b; (some r, fl)
  | some a, some b =>
    let (v, f1) := op a b
    let (r, f2) := rnd v
    (some r, f1 ||| f2)

/-- One level of the tree. -/
def redLevel (op : Val → Val → Val × Flags) (rnd : Val → Val × Flags) : List (Option Val) → List (Option Val) × Flags
  | x :: y :: rest =>
    let (r, f1) := redNode op rnd x y
    let (rs, f2) := redLevel op rnd rest
    (r :: rs, f1 ||| f2)
  | xs => (xs, 0#7)

/-- The tree over 2^k leaves. -/
def redTree (op : Val → Val → Val × Flags) (rnd : Val → Val × Flags) : Nat → List (Option Val) → Option Val × Flags
  | 0, xs => (xs.headD none, 0#7)
  | k + 1, xs =>
    let (ys, f1) := redLevel op rnd xs
    let (r, f2) := redTree op rnd k ys
    (r, f1 ||| f2)

/-- The smallest k with L ≤ 2^k. -/
def log2Up (n : Nat) : Nat := if n ≤ 1 then 0 else (n - 1).log2 + 1

def reduceV (c : Ctx) (rm : Rm) (sat wide : Bool) (op : RMode → Val → Val → Val × Flags) : Res Done := do
  let va := c.v_ .a
  let (p, mix) ← palette c.s 0 va.fmt va.fmt
  let acc := widened wide p
  laneMismatch [va]
  capCheck c [va.fmt, acc]
  laneConflict c acc c.td
  let m := c.me.rmode rm
  let k := log2Up c.me.vlen
  let leaves := (List.range (2 ^ k)).map fun j => if c.isAct j then some (va.elem j) else none
  let (t, fl) := redTree (op m) (roundAcc acc m sat) k leaves
  let fed := c.actives.any va.psn
  putDone c { fmt := acc, act := fun j => j == 0, pad := fun j => j != 0, hush := c.isPad, el := fun _ => .val (t.getD Val.zero) 0#7,
              feed := fun _ => fed, rm := m, enc := encArith acc m sat } (mix ||| fl)

def execVrsum (mk : Mk) (rm : Rm) (sat wide : Bool) (d a : Opnd) (s : State) : Host.Outcome State Fault Refusal :=
  issue (.vrsum mk rm sat wide d a) s [rdV .a a, wrV d] (mk := mk) fun c => reduceV c rm sat wide addV

def execVrmax (mk : Mk) (rm : Rm) (sat wide : Bool) (d a : Opnd) (s : State) : Host.Outcome State Fault Refusal :=
  issue (.vrmax mk rm sat wide d a) s [rdV .a a, wrV d] (mk := mk) fun c => reduceV c rm sat wide (fun _ => maxV)

def execVrmin (mk : Mk) (rm : Rm) (sat wide : Bool) (d a : Opnd) (s : State) : Host.Outcome State Fault Refusal :=
  issue (.vrmin mk rm sat wide d a) s [rdV .a a, wrV d] (mk := mk) fun c => reduceV c rm sat wide (fun _ => minV)

/-- The prefixes of a scan over the active elements: each element, its prefix, whether it is fed from poison, and the
flags. -/
def scanFrom (va : VOp) (op : Val → Val → Val × Flags) (rnd : Val → Val × Flags) :
    List Nat → Option Val → Bool → Tab (Val × Bool) → Flags → Tab (Val × Bool) × Flags
  | [], _, _, acc, fl => (acc.reverse, fl)
  | j :: js, y, fed, acc, fl =>
    let x := va.elem j
    let (v, f1) := match y with | none => (x, 0#7) | some p => op p x
    let (r, f2) := rnd v
    let fed' := fed || va.psn j
    scanFrom va op rnd js (some r) fed' ((j, r, fed') :: acc) (fl ||| f1 ||| f2)

def execVscan (mk : Mk) (rm : Rm) (sat wide : Bool) (op : BitVec 2) (d a : Opnd) (s : State) : Host.Outcome State Fault Refusal :=
  issue (.vscan mk rm sat wide op d a) s [rdV .a a, wrV d] (mk := mk) fun c => do
    let va := c.v_ .a
    let (p, mix) ← palette c.s 0 va.fmt va.fmt
    let acc := widened wide p
    laneMismatch [va]
    capCheck c [va.fmt, acc]
    laneConflict c acc c.td
    let m := c.me.rmode rm
    let f := match op.toNat with | 0 => addV m | 1 => maxV | _ => minV
    let (ys, fl) := scanFrom va f (roundAcc acc m sat) c.actives none false [] 0#7
    let y := fun (j : Nat) => Tab.get (Val.zero, false) ys j
    let w := c.vw acc m (encArith acc m sat) [] fun j => .val (y j).1 0#7
    putDone c { w with feed := fun j => (y j).2 } (mix ||| fl)

/-! ### Cross-lane forms (R173–R177) -/

/-- A zero element of a format. -/
def zeroEl (f : FmtCode) : El := if f == 0#6 then .raw 0 0 else .val Val.zero 0#7

/-- A result built from source elements by position: `src j` names the element that position j takes, or none for zero.
`fed j` says whether position j is fed from poison. -/
def permute (c : Ctx) (rm : Rm) (v : VOp) (src : Nat → Option Nat) (fed : Nat → Bool) : VW :=
  let m := c.me.rmode rm
  let w := c.vw v.fmt m (encConv v.fmt m true) [] fun j => match src j with
    | some k => moveEl v k
    | none => zeroEl v.fmt
  { w with feed := fed }

def slide (c : Ctx) (rm : Rm) (src : Nat → Option Nat) : Res Done := do
  let va := c.v_ .a
  laneMismatch [va]
  capCheck c [va.fmt]
  laneConflict c va.fmt c.td
  putDone c (permute c rm va src fun j => (src j).any va.psn)

def execVslup (mk : Mk) (rm : Rm) (d a : Opnd) (n : SrcB) (s : State) : Host.Outcome State Fault Refusal :=
  issue (.vslup mk rm d a n) s ([rdV .a a] ++ srcBUse n ++ [wrV d]) (mk := mk) fun c =>
    let k := match n with | .imm i => i.toNat | .op _ => (c.s_ .b).toNat
    slide c rm fun j => if k ≤ j then some (j - k) else none

def execVsldn (mk : Mk) (rm : Rm) (d a : Opnd) (n : SrcB) (s : State) : Host.Outcome State Fault Refusal :=
  issue (.vsldn mk rm d a n) s ([rdV .a a] ++ srcBUse n ++ [wrV d]) (mk := mk) fun c =>
    let k := match n with | .imm i => i.toNat | .op _ => (c.s_ .b).toNat
    slide c rm fun j => if j + k < c.me.vlen then some (j + k) else none

/-- A value as an index below n: an integer in [0, n). -/
def indexOf (v : Val) (n : Nat) : Option Nat :=
  match v with
  | .fin neg x d => if x % d = 0 && (!neg || x == 0) && decide (x / d < n) then some (x / d) else none
  | _ => none

/-- R174. -/
def execVshuf (mk : Mk) (rm : Rm) (d a b : Opnd) (s : State) : Host.Outcome State Fault Refusal :=
  issue (.vshuf mk rm d a b) s [rdV .a a, rdV .b b, wrV d] (mk := mk) fun c => do
    let va := c.v_ .a
    let vb := c.v_ .b
    if vb.fmt == 0#6 then forbid3 va.fmt vb.fmt
    laneMismatch [va, vb]
    capCheck c [va.fmt, vb.fmt]
    laneConflict c va.fmt c.td
    let src := fun (j : Nat) => indexOf (vb.elem j) c.me.vlen
    putDone c (permute c rm va src fun j => vb.psn j || (src j).any va.psn)

/-- R175. -/
def execVlook (mk : Mk) (rm : Rm) (d a b : Opnd) (s : State) : Host.Outcome State Fault Refusal :=
  issue (.vlook mk rm d a b) s [rdV .a a, rdV .b b, wrV d] (mk := mk) fun c => do
    let va := c.v_ .a
    let vb := c.v_ .b
    if va.fmt == 0#6 then forbid3 va.fmt vb.fmt
    laneMismatch [va, vb]
    capCheck c [va.fmt, vb.fmt]
    laneConflict c vb.fmt c.td
    let src := fun (j : Nat) => indexOf (va.elem j) (cap vb.fmt)
    let out := c.actives.any fun j => (src j).isNone
    putDone c (permute c rm vb src fun j => va.psn j || (src j).any vb.psn) (flagIf out fSAT)

/-- VCOMP (R176): every element below L is written. -/
def execVcomp (mk : Mk) (rm : Rm) (d a : Opnd) (s : State) : Host.Outcome State Fault Refusal :=
  issue (.vcomp mk rm d a) s [rdV .a a, wrV d] (mk := mk) fun c => do
    let va := c.v_ .a
    laneMismatch [va]
    capCheck c [va.fmt]
    laneConflict c va.fmt c.td
    let js := c.actives
    let src := fun (j : Nat) => js[j]?
    let w := permute c rm va src fun j => (src j).any va.psn
    putDone c { w with act := fun j => decide (j < c.me.vlen), pad := fun _ => false }

/-- VEXPD (R176). -/
def execVexpd (mk : Mk) (rm : Rm) (d a : Opnd) (s : State) : Host.Outcome State Fault Refusal :=
  issue (.vexpd mk rm d a) s [rdV .a a, wrV d] (mk := mk) fun c => do
    let va := c.v_ .a
    laneMismatch [va]
    capCheck c [va.fmt]
    laneConflict c va.fmt c.td
    let js := c.actives
    let src := fun (j : Nat) => js.idxOf? j
    putDone c (permute c rm va src fun j => (src j).any va.psn)

/-- The source of VZIP's element j: whether it is from B, and its index; none for zero (R177). -/
def zipSrc (mode l j : Nat) : Option (Bool × Nat) :=
  let h := (l + 1) / 2
  let cat := fun (k : Nat) => if k < l then some (false, k) else if k < 2 * l then some (true, k - l) else none
  match mode with
  | 0 => some (j % 2 == 1, j / 2)
  | 1 => if j / 2 + h < l then some (j % 2 == 1, j / 2 + h) else none
  | 2 => cat (2 * j)
  | _ => cat (2 * j + 1)

def execVzip (mk : Mk) (rm : Rm) (mode : BitVec 2) (d a b : Opnd) (s : State) : Host.Outcome State Fault Refusal :=
  issue (.vzip mk rm mode d a b) s [rdV .a a, rdV .b b, wrV d] (mk := mk) fun c => do
    let va := c.v_ .a
    let vb := c.v_ .b
    laneMismatch [va, vb]
    ensure (va.fmt == vb.fmt) .tagMismatch (va.fmt.setWidth 64) (vb.fmt.setWidth 64)
    capCheck c [va.fmt, vb.fmt]
    laneConflict c va.fmt c.td
    let m := c.me.rmode rm
    let src := fun (j : Nat) => zipSrc mode.toNat c.me.vlen j
    let side := fun (p : Bool × Nat) => if p.1 then vb else va
    let w := c.vw va.fmt m (encConv va.fmt m true) [] fun j => match src j with
      | some p => moveEl (side p) p.2
      | none => zeroEl va.fmt
    putDone c { w with feed := fun j => (src j).any fun p => (side p).psn p.2 }

/-! ### Bit-field packing (R178, R179) -/

/-- The bytes that a field of w bits at bit w·j meets. -/
def fieldBytes (w j : Nat) : List Nat := (List.range ((w * j + w - 1) / 8 + 1 - w * j / 8)).map fun k => w * j / 8 + k

/-- The field itself; bits from 8,192 upward read as zero. -/
def fieldOf (v : VOp) (w j : Nat) : Nat :=
  let bs := (fieldBytes w j).map fun b => if b < 1024 then v.code b else 0
  nbits (joinCodes 8 bs) (w * j % 8) w

/-- An integer clamped to a range, and whether that changed it. -/
def clampInt (lo hi x : Int) : Int × Bool := if x < lo then (lo, true) else if hi < x then (hi, true) else (x, false)

/-- R178. A class-3 TAG_FORBIDDEN has fb 0, as for the other forms with one source (log 57). -/
def execVunpk (mk : Mk) (d a : Opnd) (w1 : BitVec 4) (f : FmtCode) (s : State) : Host.Outcome State Fault Refusal :=
  issue (.vunpk mk d a w1 f) s [rdV .a a, wrV d] (mk := mk) fun c => do
    let va := c.v_ .a
    if va.fmt != 0#6 then forbid3 va.fmt 0#6
    laneMismatch [va]
    capCheck c [va.fmt, f]
    laneConflict c f c.td
    let w := w1.toNat + 1
    let m := c.me.rmode .fctl
    let el := fun (j : Nat) =>
      let x := fieldOf va w j
      let (y, ch) := clampInt (intMin f) (intMax f) (if isSInt f then sextN w x else Int.ofNat x)
      El.raw (wrapTo (elemBits f) y) 0 (flagIf ch fSAT)
    let vw := c.vw f m (encConv f m true) [] el
    putDone c { vw with feed := fun j => (fieldBytes w j).any fun b => decide (b < 1024) && va.psn b }

/-- A register with fields of w bits written: `put j` is the new field j, `keep j` says that field j stands. -/
def packInto (old : VReg) (w : Nat) (n : Nat) (put : Nat → Option Nat) (keep : Nat → Bool) (fed : Nat → Bool) : VReg :=
  let was := old.fmt == 0#6
  let x := old.data.toNat
  let data := joinCodes w ((List.range n).map fun j => match put j with
    | some v => v
    | none => if was && keep j then nbits x (w * j) w else 0)
  let meets := fun (g j : Nat) => decide (128 * g < w * (j + 1)) && decide (w * j < 128 * (g + 1))
  let psn := fun (g : Nat) =>
    (List.range n).any (fun j => meets g j && (put j).isSome && fed j)
      || (was && old.psnAt g && (List.range n).any fun j => meets g j && (put j).isNone && keep j)
  { fmt := 0#6, zero3 := false, data := BitVec.ofNat 8192 data,
     psn := BitVec.ofNat 64 (joinCodes 1 ((List.range 64).map fun g => if psn g then 1 else 0)) }

def execVpack (mk : Mk) (sat : Bool) (d a : Opnd) (w1 : BitVec 4) (s : State) : Host.Outcome State Fault Refusal :=
  issue (.vpack mk sat d a w1) s [rdV .a a, wrV d] (mk := mk) fun c => do
    let va := c.v_ .a
    if !isWInt va.fmt then forbid3 va.fmt 0#6
    laneMismatch [va]
    let w := w1.toNat + 1
    capCheck c [va.fmt, 0#6]
    ensure (w * c.me.vlen ≤ 8192) .capacity c.me.vl (w64 w)
    laneConflict c 0#6 c.td
    let sg := isSInt va.fmt
    let lo : Int := if sg then -(2 ^ (w - 1)) else 0
    let hi : Int := if sg then 2 ^ (w - 1) - 1 else 2 ^ w - 1
    let one := fun (j : Nat) =>
      if sat then
        let x : Int := if sg then sextN (elemBits va.fmt) (va.code j) else Int.ofNat (va.code j)
        let (y, ch) := clampInt lo hi x
        (wrapTo w y, flagIf ch fSAT)
      else (va.code j % 2 ^ w, (0#7 : Flags))
    let fl := c.actives.foldl (fun f j => f ||| (one j).2) 0#7
    let l := c.me.vlen
    let keep := fun (j : Nat) => decide (j < c.me.padFrom) && !c.isAct j
    let put := fun (j : Nat) => if c.isAct j then some (one j).1 else none
    match c.td with
    | .lane _ regs =>
      -- only the fields of a register's own elements are written in it (R126)
      let s1 := (laneSet regs).foldl (fun (s : State) n =>
        let mine := fun (j : Nat) => Tab.find regs j == some n
        s.setMe (s.me.setV n (packInto (s.me.getV n) w (8192 / w + 1)
          (fun j => if mine j then put j else none) (fun j => !mine j) va.psn))) c.s
      done (s1.raise fl)
    | _ => done ((c.putImg c.s (packInto c.oldD w l put keep va.psn)).raise fl)

/-! ### VTOPK (R180) -/

/-- Whether candidate x (value, index) ranks before y: larger magnitude, then lower index; NaN and INVALID last. -/
def ranksBefore (x y : Val × Nat) : Bool :=
  let ux := x.1.isUnord
  let uy := y.1.isUnord
  if ux != uy then uy
  else if ux then decide (x.2 < y.2)
  else y.1.abs.lt x.1.abs || (x.1.abs.eq y.1.abs && decide (x.2 < y.2))

/-- The indices that a block keeps, ascending. -/
def keepTop (k : Nat) (cands : List (Val × Nat)) : List Nat :=
  (cands.filter fun x => decide ((cands.filter fun y => ranksBefore y x).length < k)).map fun x => x.2

/-- The poisoned groups among the first n of an operand. -/
def psnOf (v : VOp) (n : Nat) : BitVec 64 :=
  BitVec.ofNat 64 (joinCodes 1 ((List.range n).map fun g => if v.psn (16 * g) then 1 else 0))

/-- R180. A group of V[C] is poisoned when that group of V[A] is; in lane mode a group of a register that takes an element there. -/
def execVtopk (mk : Mk) (rm : Rm) (d a x : Opnd) (k : BitVec 11) (bs : BitVec 3) (s : State) : Host.Outcome State Fault Refusal :=
  issue (.vtopk mk rm d a x k bs) s
    [rdV .a a, { rdV .c x with rd := false, wr := true }, { wrV d with grp := 2, isGrp := true }] (mk := mk)
    (overlap := fun c => do overlapCheck c .d 2 .a 1; overlapCheck c .d 2 .c 1)
    fun c => do
      let va := c.v_ .a
      let f := va.fmt
      if f == 0#6 then forbid3 f 0#6
      laneMismatch [va]
      capCheck c [f]
      let l := c.me.vlen
      let b := 64 * 2 ^ bs.toNat
      let nb := (l + b - 1) / b
      let total := (List.range nb).foldl (fun t i => t + Nat.min k.toNat (Nat.min b (l - b * i))) 0
      ensure (total ≤ 256) .capacity (w64 total) 3#64
      laneConflict c f c.tc
      let m := c.me.rmode rm
      let block := fun (i : Nat) => (List.range (Nat.min b (l - b * i))).filterMap fun o =>
        let j := b * i + o
        if c.isAct j then some (va.elem j, j) else none
      -- per block: the kept elements, each with the block's poison
      let kept : List (Nat × Bool) := (List.range nb).flatMap fun i =>
        let cs := block i
        let bad := cs.any fun y => va.psn y.2
        (keepTop k.toNat cs).map fun j => (j, bad)
      let n := kept.length
      let out := fun (g : FmtCode) (el : Nat → El) => ({
        fmt := g, act := fun j => decide (j < n), pad := fun j => decide (n ≤ j), hush := c.isPad, el := el
        feed := fun j => (kept[j]?).any fun y => y.2, rm := m, enc := encConv g m true } : VW)
      let at_ := fun (j : Nat) => ((kept[j]?).map fun y => y.1).getD 0
      let s1 := putVAt c.s c.td (out f fun j => moveEl va (at_ j))
      let s2 := putVAt s1 (c.td.plus 1) (out 0x03#6 fun j => .raw (at_ j) 0)
      let isKept := fun (j : Nat) => kept.any fun y => y.1 == j
      let w := c.vw f m (encConv f m true) [va] fun j => if isKept j then zeroEl f else moveEl va j
      let w1 : VW := { w with act := fun j => decide (j < c.me.padFrom) }
      let poison := fun (r : VReg) => { r with psn := r.psn ||| psnOf va r.groups }
      match c.tc with
      | .reg n =>
        let (r, fl) := commit (s2.me.getV n) w1
        done (s2.setMe ((s2.me.setV n (poison r)).raise fl))
      | .push q =>
        let (r, fl) := commit {} w1
        done ((s2.raise fl).pushQ q (.ve (poison r)))
      | t => done (putVAt s2 t w1)

/-! ### Masks (R181, R182) -/

/-- A mask from its bits. -/
def maskOf (p : Nat → Bool) : BitVec 1024 :=
  BitVec.ofNat 1024 (joinCodes 1 ((List.range 1024).map fun j => if p j then 1 else 0))

def bitM (x : BitVec 1024) (j : Nat) : Bool := nbits x.toNat j 1 == 1

def execMlog (tt : BitVec 4) (d a b : Opnd) (s : State) : Host.Outcome State Fault Refusal :=
  issue (.mlog tt d a b) s [rdM .a a, rdM .b b, wrM d] fun c =>
    let x := c.m_ .a
    let y := c.m_ .b
    done (c.putM c.s (maskOf fun j =>
      nbits tt.toNat ((if bitM x j then 2 else 0) + (if bitM y j then 1 else 0)) 1 == 1))

def execMpop (d a : Opnd) (s : State) : Host.Outcome State Fault Refusal :=
  issue (.mpop d a) s [rdM .a a, wrS d] fun c =>
    let n := Nat.min c.me.vlen 1024
    done (c.putS c.s (w64 ((List.range n).filter (bitM (c.m_ .a))).length))

def execMfirst (d a : Opnd) (s : State) : Host.Outcome State Fault Refusal :=
  issue (.mfirst d a) s [rdM .a a, wrS d] fun c =>
    let n := Nat.min c.me.vlen 1024
    done (c.putS c.s (match (List.range n).find? (bitM (c.m_ .a)) with
      | some j => w64 j
      | none => 0xFFFF_FFFF_FFFF_FFFF#64))

def execMset (d : Opnd) (n : SrcB) (s : State) : Host.Outcome State Fault Refusal :=
  issue (.mset d n) s ((match n with | .op o => [rdS .a o] | .imm _ => []) ++ [wrM d]) fun c =>
    let k := match n with | .imm i => i.toNat | .op _ => (c.s_ .a).toNat
    done (c.putM c.s (maskOf fun j => decide (j < k)))

def execMtov (mk : Mk) (rm : Rm) (d a : Opnd) (f : FmtCode) (s : State) : Host.Outcome State Fault Refusal :=
  issue (.mtov mk rm d a f) s [rdM .a a, wrV d] (mk := mk) fun c => do
    capCheck c [f]
    laneConflict c f c.td
    let m := c.me.rmode rm
    let x := c.m_ .a
    putDone c (c.vw f m (encConv f m true) [] fun j => .val (Val.ofNat (if bitM x j then 1 else 0)) 0#7)

def execVtom (mk : Mk) (d a : Opnd) (s : State) : Host.Outcome State Fault Refusal :=
  issue (.vtom mk d a) s [rdV .a a, wrM d] (mk := mk) fun c => do
    let va := c.v_ .a
    laneMismatch [va]
    capCheck c [va.fmt]
    consume va c.actives
    let p := fun (j : Nat) =>
      let v := va.elem j
      !v.isZero && v != .invalid
    done (c.putM c.s (maskResult c.me mk (c.me.getM (c.rnum .d)) p))

end Sys2Proof.Machine
end

