-- ==== Sys2Proof/Machine/Exchange.lean ====
section
/-! DEFINITION. Exchange channels: XOPEN, XSEND, XRED, XWAIT and XCLOSE, the work of the exchange engine, and its events
(R355–R368). -/

namespace Sys2Proof.Machine

/-! ### Channels -/

def State.chan (s : State) (vi n : Nat) : Option Chan := Tab.find (s.vi vi).chans n

def State.setChan (s : State) (vi n : Nat) (ch : Chan) : State :=
  let v := s.vi vi
  s.setVi vi { v with chans := Tab.put v.chans n ch }

/-- An operation that has neither completed nor failed. -/
def Xop.pending (o : Xop) : Bool := !o.complete && o.failed.isNone

def Chan.op (ch : Chan) (seq : Nat) : Option Xop := ch.ops.find? fun o => o.seq == seq

def Chan.setOp (ch : Chan) (o : Xop) : Chan := { ch with ops := ch.ops.map fun p => if p.seq = o.seq then o else p }

/-- An operation fails, and with it its channel (R366). -/
def Chan.failOp (ch : Chan) (o : Xop) (sub : Nat) (v3 : Word) : Chan :=
  { ch.setOp { o with failed := some (sub, v3) } with failed := true }

/-- Source bytes in flight (R357). -/
def Chan.flying (ch : Chan) : Nat := (ch.ops.filter Xop.pending).foldl (fun a o => a + o.bytes) 0

def Chan.peersOf (ch : Chan) : List Nat := (List.range ch.nrank).filter (· != ch.rank)

/-- The ranks that an operation needs and has not heard from. -/
def Chan.needs (ch : Chan) (o : Xop) : List Nat :=
  match o.kind with
  | .send dst _ => (if dst = 0xFFFF then ch.peersOf else [dst]).filter fun r => !o.landed.contains r
  | .red _ => if o.reduced then [] else ch.peersOf

/-- The channel that S[A] names, or ACCESS (R359 item 2). -/
def Ctx.chanOf (c : Ctx) : Res Chan :=
  let a := c.s_ .a
  match c.s.chan c.s.myVi a.toNat with
  | some ch => .ok ch
  | none => raise .access a 8#64

/-- The failed operation that a failed channel reports: sequence number and TVAL3. It is one of its own, or a peer's send that
could not land here. -/
def Chan.failure (ch : Chan) : Option (Nat × Word) :=
  if !ch.failed then none
  else (ch.ops.findSome? fun o => o.failed.map fun p => (o.seq, p.2)) <|> ch.heard

/-- A channel that takes operations: one that failed raises EXCHANGE_FAULT with sub-cause 7 (R366). -/
def Ctx.liveChan (c : Ctx) : Res Chan := do
  let ch ← c.chanOf
  match ch.failure with
  | some (n, v3) => raise .exchangeFault (c.s_ .a) (w64 n) 7#64 v3
  | none => return ch

/-! ### XOPEN (R355, R358) -/

/-- The fields of a channel record (Table 15.5). -/
def Chan.ofBytes (bs : List Byte) : Chan :=
  let b := bytesAt bs
  { group := wordAt bs 0, nrank := b 8 2, rank := b 10 2, ether := b 12 1 == 1, level := b 13 1, comp := b 14 1 == 1
    portmask := b 15 1, rxbase := wordAt bs 24, rxlen := wordAt bs 32, arrive := wordAt bs 40, tmo := b 48 4
    open_ := [b 10 2] }

/-- A field breaks Table 15.5. -/
def recordMalformed (bs : List Byte) (ch : Chan) : Bool :=
  let b := bytesAt bs
  ch.group == 0#64 || decide (ch.nrank < 2) || decide (1024 < ch.nrank) || decide (ch.nrank ≤ ch.rank)
    || decide (1 < b 12 1) || decide (3 < ch.level) || decide (1 < b 14 1) || decide (15 < ch.portmask)
    || (ch.portmask == 0) == ch.ether || ch.rxbase.toNat % 128 != 0 || ch.rxlen.toNat % 128 != 0
    || ch.arrive.toNat % 128 != 0 || ch.tmo == 0 || decide (60000 < ch.tmo) || b 52 12 != 0

/-- POISON_CONSUMED of XOPEN names the line (R358). -/
def nameLine {α : Type} : Res α → Res α
  | .error (.trap t) => .error (.trap (if t.cause == .poisonConsumed then { t with v0 := t.v0 &&& ~~~127#64 } else t))
  | r => r

/-- Bytes that may span lines, as plain reads at DEV scope. -/
def Ctx.readSpan (c : Ctx) (s : State) : Nat → Word → Nat → Res (State × List Byte)
  | 0, _, _ => .ok (s, [])
  | fuel + 1, va, n =>
    if n = 0 then .ok (s, [])
    else do
      let k := Nat.min n (128 - va.toNat % 128)
      let (s1, bs) ← s.plainRead va k
      let (s2, rest) ← c.readSpan s1 fuel (va + w64 k) (n - k)
      return (s2, bs ++ rest)

/-- A malformed entry of a peer table (R355). -/
def peerMalformed (ether : Bool) (e : List Byte) : Bool :=
  if ether then
    leNat e = 0 || leNat e = 2 ^ 120 || e.headD 0#8 == 0xFF#8 || bytesAt e 0 12 == 0xFFFF * 2 ^ 80
  else decide (0x400 ≤ bytesAt e 0 2) || bytesAt e 2 14 != 0

/-- The peer table of a record is refused (R358). -/
def State.peersRefused (s : State) (ch : Chan) (es : List (List Byte)) : Bool :=
  let own := es.getD ch.rank []
  let others := (es.zip (List.range es.length)).filter fun p => p.2 != ch.rank
  es.any (peerMalformed ch.ether)
    || (if ch.ether then others.any fun p => p.1 == own
        else bytesAt own 0 2 != s.devid
          || others.any fun p => bytesAt p.1 0 2 == s.devid || Tab.get 0#16 s.routes (bytesAt p.1 0 2) == 0#16)

/-- Open channels of the device and of a VI: 64 on the device, and CHAN of the quota, which VI0 does not have. -/
def State.chanFree (s : State) (vi : Nat) : Option Nat :=
  let all := s.vis.foldl (fun a (p : Nat × Vi) => a + p.2.chans.length) 0
  let v := s.vi vi
  if 64 ≤ all || (vi != 0 && decide (bits v.q2 0 7 ≤ v.chans.length)) then none
  else (List.range 64).find? fun n => (Tab.find v.chans n).isNone

def execXopen (d a : Opnd) (s : State) : Host.Outcome State Fault Refusal :=
  issue (.xopen d a) s [rdS .a a, wrS d] fun c => do
    let va := c.s_ .a
    ensure (va.toNat % 64 == 0) .misaligned va
    let s0 ← c.s.drainCore (c.s.coreOf c.me)
    let (s1, bs) ← nameLine (s0.plainRead va 64)
    let ch := Chan.ofBytes bs
    if recordMalformed bs ch then done (c.putS s1 (wInt (-2)))
    else
      match c.readSpan s1 1026 (wordAt bs 16) (16 * ch.nrank) with
      | .error (.trap t) => done (c.putS (s1.spendBy s1.myVi t) (wInt (-3)))
      | .error e => throw e
      | .ok (s2, tb) =>
        let es := (List.range ch.nrank).map fun k => (tb.drop (16 * k)).take 16
        if s2.peersRefused ch es then done (c.putS s2 (wInt (-3)))
        else match s2.chanFree s2.myVi with
          | none => done (c.putS s2 (wInt (-1)))
          | some n =>
            let s3 := s2.setChan s2.myVi n { ch with peers := es }
            done (c.putS { s3 with out := s3.out ++ [.xopened s3.myVi n] } (w64 n))

/-! ### Regions (R359) -/

/-- E: the elements of a manifest's coordinate space. -/
def Manifest.count (m : Manifest) : Nat := m.extent 0 * m.extent 1 * m.extent 2 * m.extent 3

/-- An element of a region: its line, position and translation. -/
structure XCell where
  va : Word
  pos : Nat
  x : Xlat

/-- The elements of a region, dimension 0 fastest, each line translated and its home answering. -/
def State.regionCells (s : State) (w : Who) (k : AccKind) (m : Manifest) (base : Option Xlat) (t : FmtCode) :
    Res (List XCell) := do
  let cs ← (List.range m.count).foldlM (fun (acc : List XCell) i => do
    let x := i % m.extent 0
    let y := i / m.extent 0 % m.extent 1
    let z := i / (m.extent 0 * m.extent 1)
    let (va, pos, _) ← s.manPlace w k m base t x y (z % m.extent 2) (z / m.extent 2)
    match acc.find? fun c => c.va == va with
    | some c => return { va, pos, x := c.x } :: acc
    | none => return { va, pos, x := ← s.reach w k va } :: acc) []
  return cs.reverse

/-- The page at BASE that places a source, where it is a tensor page. -/
def State.sourceBase (s : State) (w : Who) (m : Manifest) : Res (Option Xlat) :=
  if m.ten then (s.xlat w .load m.base).map some else .ok none

/-- Source bytes of a region: its elements in a wide format, its packed lines in a narrow one. -/
def sourceBytes (m : Manifest) (f : FmtCode) : Nat :=
  if isNarrow f then 128 * ((m.count + eln f - 1) / eln f) else m.count * elemBytes f

/-- The interlock entry of a region (R293). -/
def State.regionEntry (s : State) (w : Who) (m : Manifest) (base : Option Xlat) (t : FmtCode) (dst : Bool) : Interlock :=
  let r := s.manRegion w (if dst then .store else .load) m base t ((List.range 4).map fun d => (0, m.extent d))
  { sp := false, dst, lo := r.1, hi := r.2 }

/-- CAPACITY of R357. -/
def capBytes (n : Nat) : Res Unit := ensure (n ≤ 0x400_0000) .capacity (w64 n)

/-- Waits before an operation: bytes in flight, older transfers, interlock entries, and the strand's own accesses. -/
def Ctx.startable' (c : Ctx) (s : State) (ch : Chan) (n : Nat) (il : List Interlock) : Res State := do
  if 0x400_0000 < ch.flying + n then throw .stall
  forEach s.freeRange il
  c.engineReady il.length s

/-- Record an operation and write its sequence number. -/
def Ctx.startOp (c : Ctx) (s : State) (ch : Chan) (o : Xop) : Res Done :=
  let n := (c.s_ .a).toNat
  let vi := s.myVi
  let o1 := { o with seq := ch.last + 1, sid := s.cur, user := c.me.priv == .user }
  let s1 := s.setChan vi n { ch with last := ch.last + 1, ops := ch.ops ++ [o1] }
  -- bytes raw, or as pairs (Table 16.3)
  let s2 := s1.charge vi (match o.kind with | .red 2 => 15 | _ => 14) o.bytes
  done (c.putS s2 (w64 (ch.last + 1)))

/-! ### XSEND (R359) -/

def execXsend (d a : Opnd) (h : BitVec 4) (e : Opnd) (s : State) : Host.Outcome State Fault Refusal :=
  issue (.xsend d a h e) s [rdS .a a, rdS .c e, wrS d] fun c => do
    let ch ← c.liveChan
    let m ← c.slotH h
    let (f, s1) ← c.memFmt m
    c.cpNarrow m f
    let dst := bits (c.s_ .c) 0 16
    let off := bits (c.s_ .c) 16 48
    ensure (dst != ch.rank && (decide (dst < ch.nrank) || dst == 0xFFFF)) .bound 0xFC#64 (w64 dst) 17#64
    let n := sourceBytes m f
    capBytes n
    let w := s1.who c.me
    let base ← s1.sourceBase w m
    let _ ← s1.regionCells w .load m base f
    let il := [s1.regionEntry w m base f false]
    let s2 ← c.startable' s1 ch n il
    c.startOp s2 ch { seq := 0, kind := .send dst off, src := m, fmt := f, elems := m.count, bytes := n, il }

/-! ### XRED (R361) -/

/-- The destination formats of XRED. -/
def xredFmt (g : FmtCode) : Bool := g == 0x0B#6 || g == 0x0C#6 || g == 0x09#6 || g == 0x03#6 || g == 0x04#6

/-- TAG_FORBIDDEN of XRED. -/
def xredForbidden (mode : Nat) (f g : FmtCode) (comp : Bool) (ms : Manifest) : Bool :=
  !xredFmt g
    || (if mode = 2 then g != 0x0B#6 || !comp || f != 0#6 || ms.rank != 1#8 || ms.dim 0 % 8 != 0
        else f == 0#6 || isWInt f != isWInt g)

/-- The lines of a destination, in the order of their first elements. -/
def cellLines (cs : List XCell) : List LineW :=
  linesOf (cs.map fun c => { va := c.va, pos := c.pos, loc := .mem c.x, el := { v := Val.zero } })

/-- TAG_CONFLICT of the destination pages of XRED. -/
def xredPages (g t : FmtCode) (ls : List LineW) : Res Unit :=
  forEach (fun (l : LineW) => match l.page with
    | some x => ensure ((policy x g).isSome && pageFmt x g == t) .tagConflict (x.cfmt.setWidth 64) (g.setWidth 64) (firstOnPage ls x)
    | none => .ok ()) ls

/-- The format of a destination manifest: its FMT, or CFMT at BASE. -/
def Ctx.destFmt (c : Ctx) (s : State) (m : Manifest) : Res FmtCode :=
  if m.anyFmt then (s.xlat (s.who c.me) .store m.base).map fun x => x.cfmt else .ok m.fmtCode

def execXred (mode : BitVec 2) (rm : Rm) (d a : Opnd) (hb hc : BitVec 4) (s : State) : Host.Outcome State Fault Refusal :=
  issue (.xred mode rm d a hb hc) s [rdS .a a, wrS d] fun c => do
    let ch ← c.liveChan
    let ms ← c.slotH hb
    let md ← c.slotH hc
    let (f, s1) ← c.memFmt ms
    c.cpNarrow ms f
    let g ← c.destFmt s1 md
    c.cpNarrow md g
    let n := sourceBytes ms f
    capBytes n
    let w := s1.who c.me
    let base ← s1.sourceBase w ms
    let _ ← s1.regionCells w .load ms base f
    let ref ← s1.xlat w .store md.base
    let t := pageFmt ref g
    let cs ← s1.regionCells w .store md (some ref) t
    if xredForbidden mode.toNat f g ch.comp ms then forbid3 f g
    let e := if mode == 2#2 then md.count else ms.count
    ensure (mode != 0#2 || e % ch.nrank == 0) .bound 0xFE#64 (w64 e) 14#64
    ensure (mode == 2#2 || md.count == (if mode == 0#2 then e / ch.nrank else e)) .bound 0xFE#64 (w64 md.count) 15#64
    xredPages g t (cellLines cs)
    let il := [s1.regionEntry w ms base f false, s1.regionEntry w md (some ref) t true]
    let s2 ← c.startable' s1 ch n il
    c.startOp s2 ch { seq := 0, kind := .red mode.toNat, src := ms, dst := md, fmt := f, g, rm := (c.me.rmode rm).toRm, elems := e
                      bytes := n, il }

/-! ### XWAIT and XCLOSE (R364, R365) -/

/-- The status word of operations up to n (Table 15.7). -/
def Chan.statusOf (os : List Xop) (n : Nat) : Word :=
  os.foldl (fun a o => a ||| o.status ||| w64 (o.flags.toNat * 2 ^ 8)) (w64 (n * 2 ^ 16))

def execXwait (sc : Scope) (d a b : Opnd) (s : State) : Host.Outcome State Fault Refusal :=
  issue (.xwait sc d a b) s [rdS .a a, rdS .b b, wrS d] fun c => do
    let ch ← c.chanOf
    let vi := c.s.myVi
    let cn := (c.s_ .a).toNat
    -- numbers given after the XWAIT issued do not count
    let last := c.me.xlast.getD ch.last
    let n := if c.s_ .b == 0#64 then last else (c.s_ .b).toNat
    ensure (n ≤ last) .bound 0xFC#64 (w64 n) 18#64
    let os := ch.ops.filter fun o => decide (o.seq ≤ n)
    if os.any Xop.pending then throw (.hold (c.s.setMe { c.me with xlast := some last }))
    match os.find? fun o => o.failed.isSome && !o.reported with
    | some o =>
      let (sub, v3) := o.failed.getD (0, 0#64)
      let t : Trap := { cause := .exchangeFault, v0 := w64 cn, v1 := w64 o.seq, v2 := w64 sub, v3 }
      throw (.trapIn t (c.s.setChan vi cn (ch.setOp { o with reported := true })))
    | none =>
      let s1 ← c.s.order (.mem sc .acq)
      let fl := (os.filter fun o => !o.flagsRaised).foldl (fun (a : Word) o => a ||| o.flags) 0#64
      let ops := ch.ops.map fun o => if o.seq ≤ n then { o with flagsRaised := true } else o
      let s2 := (s1.setChan vi cn { ch with ops }).raise (fl.setWidth 7)
      done (c.putS (s2.setMe { s2.me with xlast := none }) (Chan.statusOf os n))

def execXclose (a : Opnd) (s : State) : Host.Outcome State Fault Refusal :=
  issue (.xclose a) s [rdS .a a] fun c => do
    let ch ← c.chanOf
    if ch.ops.any Xop.pending then throw .stall
    let vi := c.s.myVi
    let n := (c.s_ .a).toNat
    let v := c.s.vi vi
    let s1 := c.s.setVi vi { v with chans := Tab.del v.chans n }
    done { s1 with out := s1.out ++ [.xclosed vi n] }

/-! ### The exchange engine -/

/-- The VA that a fault of a region names; a TAG_MISMATCH of tensor pages has it in TVAL2 (R251). -/
def Trap.place (t : Trap) : Word := if t.cause == .tagMismatch then t.v2 else t.v0

/-- What the engine finds as it reads a region: the elements, a failure with its VA, or a wait. -/
def engineCells (r : Res (List XCell)) : Res (List XCell ⊕ Word) :=
  match r with
  | .ok cs => .ok (.inl cs)
  | .error (.trap t) => .ok (.inr t.place)
  | .error e => .error e

/-- On whose behalf the engine works for an operation. -/
def Xop.who (o : Xop) (vi : Nat) : Who := { vi, user := o.user, core := 0 }

/-- The source of an operation as it stands at its homes. -/
def State.sourceCells (s : State) (vi : Nat) (o : Xop) : Res (List XCell ⊕ Word) :=
  match s.sourceBase (o.who vi) o.src with
  | .error (.trap t) => .ok (.inr t.place)
  | .error e => .error e
  | .ok base => engineCells (s.regionCells (o.who vi) .load o.src base o.fmt)

def XCell.ln (c : XCell) : Nat := c.x.pa / 128

/-- A source line of another format than the operation's (R360, R361). -/
def State.badLine (s : State) (f : FmtCode) (cs : List XCell) : Option Word :=
  (cs.find? fun c => (let l := s.lineAt c.x; l.cls != 3 && l.cls != 2 && l.fmt != f)).map fun c => c.va

/-- A narrow segment is packed bit for bit where its elements share a scale byte. -/
def mixedScales (f : FmtCode) (els : List (LineV × Nat)) : Bool :=
  match els.filterMap fun p => if p.1.cls == 3 then none else some (lineCode f p.1.data p.2).2 with
  | [] => false
  | x :: xs => xs.any (· != x)

/-- Line l of a region packed in the layout of f (R360). A segment whose elements have different scale bytes holds a free value
(log 30). -/
def packed (tick : Nat) (f : FmtCode) (els : List (LineV × Nat)) (l : Nat) : LineV :=
  let n := eln f
  let part := (els.drop (n * l)).take n
  let base := packLine f els.length l fun i => els.getD i ({ data := 0, tag := tagReset }, 0)
  let w := 8 + 16 * elemBits f
  let data := if isNarrow f then
      (List.range (n / 16)).foldl (fun d k =>
        if mixedScales f ((part.drop (16 * k)).take 16) then setNbits d (w * k) w (Config.mixedSegment tick (segs (elemBits f) * l + k)).toNat
        else d) base.data
    else base.data
  if part.any fun p => p.1.cls == 2 then { data, tag := mkTag f 2 false } else { base with data }

/-- The lines of a source, packed, as they travel. -/
def State.packSource (s : State) (o : Xop) (cs : List XCell) : List (List Byte × BitVec 16) :=
  let els := cs.map fun c => (s.lineAt c.x, c.pos)
  (List.range ((cs.length + eln o.fmt - 1) / eln o.fmt)).map fun l =>
    let x := packed s.tick o.fmt els l
    (natLe 128 x.data, x.tag)

/-- The engine has read a region: A bits, and the lines' charges. -/
def State.readRegion (s : State) (vi : Nat) (cs : List XCell) : State :=
  (cellLines cs).foldl (fun s l => match l.page with
    | some x => ((s.used x).fillHost x).chargeLine vi x.pa
    | none => s) s

/-! ### XSEND_LANDING (R360) -/

/-- The device of a rank of a Weatre channel. -/
def Chan.device (ch : Chan) (rank : Nat) : Nat := bytesAt (ch.peers.getD rank []) 0 2

/-- Bytes that a port's retry window holds. -/
def Port.window (x : Port) : Nat := 65536 * x.winfr

/-- Space of a retry window. -/
def Port.free (x : Port) : Nat := x.window - x.unacked

/-- The lines of a retry window that the next n bytes of frames fill. -/
def Port.nextLines (x : Port) (n : Nat) : List Nat :=
  (List.range ((n + 127) / 128)).map fun i => x.lhbase.toNat / 128 + (x.sent / 128 + i) % (512 * x.winfr)

/-- A port sends the frames of a message of n bytes, of which some have left before: what has left after. In long-haul mode only
as much leaves as its retry window in device memory has space for, and stays there until it is acknowledged; the layout of the
window is not in the spec (R353; logs 34, 103). A reserved window line holds the frames (R309). None while no frame leaves. -/
def State.sendFrames (s : State) (p n before : Nat) : Option (State × Nat) :=
  let x := Tab.get {} s.ports p
  if !x.lhen then some (s, n)
  else
    let k := Nat.min x.free (n - before)
    let lns := (x.nextLines k).filter fun ln => s.region (128 * ln) == .dev
    if lns.any (s.held true) then none
    else
      let s1 := { s with ports := Tab.put s.ports p { x with sent := x.sent + k, unacked := x.unacked + k } }
      some (lns.foldl (fun (s : State) ln =>
        s.writeLine false false true ln { data := (Config.windowLine s.tick ln).toNat, tag := mkTag 0#6 0 false }) s1, before + k)

/-- The frames of a message to a rank: over Weatre by a link of its device that is up, over Ethernet by a port of PORTMASK that is
up and whose retry window, in long-haul mode, has space (R350, R353). None while the frames wait. -/
def State.sendOver (s : State) (ch : Chan) (n rank before : Nat) : Option (State × Nat) :=
  if ch.ether then
    let can := fun (x : Port) => x.up && (!x.lhen || decide (0 < x.free))
    ((List.range 4).find? fun p => nbits ch.portmask p 1 == 1 && can (Tab.get {} s.ports p)).bind fun p => s.sendFrames p n before
  else if Tab.get 0#16 s.routes (ch.device rank) &&& s.linksUp == 0#16 then none
  else some (s, n)

/-- As many frames of an operation's messages of n bytes as can leave now for the ranks, and the operation with what has left. -/
def State.sendParts (s : State) (ch : Chan) (o : Xop) (n : Nat) (ks : List Nat) : State × Xop :=
  ks.foldl (fun (a : State × Xop) k =>
    match a.1.sendOver ch n k (Tab.get 0 a.2.sent k) with
    | some (s1, m) => (s1, { a.2 with sent := Tab.put a.2.sent k m })
    | none => a) (s, o)

/-- The messages have left whole. -/
def Xop.allSent (o : Xop) (n : Nat) (ks : List Nat) : Bool := ks.all fun k => Tab.get 0 o.sent k == n

/-- The destinations of a send. -/
def Chan.dests (ch : Chan) (dst : Nat) : List Nat := if dst = 0xFFFF then ch.peersOf else [dst]

/-- A send fails before its lines leave: its channel fails here, and every destination hears of it (R360). -/
def State.failSend (s : State) (vi cn : Nat) (ch : Chan) (o : Xop) (dst sub : Nat) (v3 : Word) : State :=
  let s1 := s.setChan vi cn (ch.failOp o sub v3)
  { s1 with out := s1.out ++ (ch.dests dst).map fun k => .xfail vi cn o.seq k sub }

/-- An earlier send of the channel has not landed at a rank yet. -/
def Chan.behind (ch : Chan) (seq rank : Nat) : Bool :=
  ch.ops.any fun p => p.pending && decide (p.seq < seq) && (match p.kind with | .send _ _ => true | _ => false)
    && (ch.needs p).contains rank

/-- The lines of a send leave for a rank, with its count or ahead of it. -/
def State.sendLines (s : State) (vi cn : Nat) (ch : Chan) (o : Xop) (dst rank : Nat) (count : Bool) : Res State := do
  match ← s.sourceCells vi o with
  | .inr va => return (s.spend vi va).failSend vi cn ch o dst 4 va
  | .inl cs =>
    if cs.any fun c => s.held false c.ln then throw .stall
    match s.badLine o.fmt cs with
    | some va => return s.failSend vi cn ch o dst 8 va
    | none =>
      let psn := cs.any fun c => (s.lineAt c.x).cls == 2
      let lines := s.packSource o cs
      let n := 128 * lines.length
      let (s0, o0) := s.sendParts ch o n [rank]
      if !o0.allSent n [rank] then throw (.hold (s0.setChan vi cn (ch.setOp o0)))
      let o1 := { o0 with
        landed := if count then o.landed ++ [rank] else o.landed
        early := if count then o.early else rank :: o.early
        status := if psn then o.status ||| 4#64 else o.status }
      let s1 := ((s0.readRegion vi cs).setChan vi cn (ch.setOp o1)).charge vi (9 + ch.level % 4) n
      return { s1 with out := s1.out ++ [.xlanding vi cn o.seq rank lines count] }

/-- This endpoint's own send at one of its destinations: sent, and answered by the peer. Its lines may go ahead of earlier sends,
its count does not (R360, R368). -/
def State.sendLands (s : State) (vi cn seq rank : Nat) (fate : Landing) : Res State :=
  match s.chan vi cn with
  | none => .ok s
  | some ch =>
    match ch.op seq with
    | none => .ok s
    | some o =>
      match o.kind with
      | .red _ => .ok s
      | .send dst _ =>
        let early := o.early.contains rank
        if !o.pending || !(ch.needs o).contains rank || !ch.open_.contains rank then .ok s
        else if !ch.ether && s.unreachable.contains (ch.device rank) then .ok (s.setChan vi cn (ch.failOp o 6 (w64 rank)))
        else match fate with
          | .failed sub v3 => .ok (s.setChan vi cn (ch.failOp o sub v3))
          | .ahead => if early then .ok s else s.sendLines vi cn ch o dst rank false
          | .counted =>
            if ch.behind seq rank then .ok s
            else if early then
              let s1 := s.setChan vi cn (ch.setOp { o with landed := o.landed ++ [rank] })
              .ok { s1 with out := s1.out ++ [.xlanding vi cn seq rank [] true] }
            else s.sendLines vi cn ch o dst rank true

/-- The place of a landing line of the receiving VI, or the VA where it cannot land. -/
def State.landPlace (s : State) (vi : Nat) (k : AccKind) (va : Word) : Res (Xlat ⊕ Word) :=
  match s.reach { vi, user := false, core := 0 } k va with
  | .ok x => if x.ten then .ok (.inr va) else if s.held true (x.pa / 128) then .error .stall else .ok (.inl x)
  | .error (.trap _) => .ok (.inr va)
  | .error e => .error e

/-- The places of landing lines, or the first VA that fails. -/
def State.landAll (s : State) (vi : Nat) : List Word → Res (List Xlat ⊕ Word)
  | [] => .ok (.inl [])
  | va :: vas => do
    match ← s.landPlace vi .store va with
    | .inr v => return .inr v
    | .inl x =>
      match ← s.landAll vi vas with
      | .inr v => return .inr v
      | .inl xs => return .inl (x :: xs)

/-- A landing line is written whole, as one event, and performed at SYS: in host memory at its owner. A tag that it may not carry
keeps the line from landing as it is (R58). -/
def State.landLine (s : State) (vi : Nat) (p : (List Byte × BitVec 16) × Xlat) : State :=
  (((s.used p.2).chargeLine vi p.2.pa).writeLine p.2.nc p.2.eph true (p.2.pa / 128)
    (viewOf (leNat p.1.1) (p.1.2 &&& 0x00FF#16))).writeBackHost (p.2.pa / 128)

/-- The arrival word of a rank grows by one; a poisoned one takes no increment (R323, R360). -/
def State.landCount (s : State) (vi : Nat) (ax : Xlat) : State :=
  let l := s.lineAt ax
  if l.cls == 2 then s
  else
    let old := nbits l.data (8 * (ax.pa % 128)) 64
    (((s.used ax).chargeLine vi ax.pa).writeLine ax.nc ax.eph false (ax.pa / 128)
      (stLine l (ax.pa % 128) 8 ((old + 1) % 2 ^ 64))).writeBackHost (ax.pa / 128)

/-- A send that did not land. -/
def fateFails : Landing → Bool
  | .failed _ _ => true
  | .counted | .ahead => false

/-- A peer's send lands here: whole lines, and with its count its arrival word (R360). Lines ahead of earlier sends wait for their
count. A send that failed before it left fails the channel here. -/
def State.landHere (s : State) (vi cn seq src off : Nat) (lines : List (List Byte × BitVec 16)) (fate : Landing) : Res State :=
  match s.chan vi cn with
  | none => .ok s
  | some ch =>
    if src = ch.rank || ch.nrank ≤ src then .ok s
    else if fateFails fate then .ok (s.setChan vi cn { ch with failed := true, heard := ch.heard <|> some (seq, w64 src) })
    else if seq ≤ Tab.get 0 ch.recv src then .ok s
    else
      let answer := fun (s : State) (f : Option (Nat × Word)) => { s with out := s.out ++ [.xanswer vi cn src seq f] }
      let start := ch.rxbase + w64 (128 * off)
      if !lines.isEmpty && decide (ch.rxlen.toNat < 128 * off + 128 * lines.length) then .ok (answer s (some (3, start)))
      else if !lines.all fun l => tagAllowed (l.2 &&& 0x00FF#16) then .ok { s with out := s.out ++ [.unsupported] }
      else do
        match ← s.landAll vi ((List.range lines.length).map fun i => start + w64 (128 * i)) with
        | .inr va => return answer (s.spend vi va) (some (4, va))
        | .inl xs =>
          if fate = .ahead then return (lines.zip xs).foldl (fun s p => s.landLine vi p) s
          match ← s.landPlace vi .atomic (ch.arrive + w64 (8 * src)) with
          | .inr va => return answer (s.spend vi va) (some (4, va))
          | .inl ax =>
            let s1 := ((lines.zip xs).foldl (fun s p => s.landLine vi p) s).landCount vi ax
            return answer (s1.setChan vi cn { ch with recv := Tab.put ch.recv src seq }) none

def execEvXsendLanding (vi chan seq src dst off : Nat) (lines : List (List Byte × BitVec 16)) (fate : Landing) (s : State) :
    Host.Outcome State Fault Refusal :=
  let i : Instr := .evXsendLanding vi chan seq src dst off lines fate
  match s.chan vi chan with
  | none => .next s
  | some ch =>
    if src = ch.rank then orLater i s (s.sendLands vi chan seq dst fate)
    else if dst = ch.rank then orLater i s (s.landHere vi chan seq src off lines fate)
    else .next s

/-! ### XRED_REDUCE (R361–R363) -/

/-- An element of a source region as it travels: its code and the scale of its block (R362). -/
def State.xel (s : State) (f : FmtCode) (c : XCell) : XEl :=
  let l := s.lineAt c.x
  if l.cls == 2 then { code := 0, psn := true }
  else if l.cls == 3 then { code := 0, zero := true }
  else
    let (code, scale) := lineCode f l.data c.pos
    { code, scale }

/-- The value of an element; one of a poisoned line is zero. -/
def XEl.val (f : FmtCode) (e : XEl) : Val := if e.psn || e.zero then Val.zero else decodeCode f e.scale e.code

/-- A byte of a source region of MODE 2, read as LD reads bytes (R256, R363). -/
def State.xbyte (s : State) (c : XCell) : Byte := BitVec.ofNat 8 (nbits (s.lineAt c.x).data (8 * c.pos) 8)

/-- The pair records of a source region of MODE 2, each with the poison of the lines that hold it. -/
def State.xpairs (s : State) (cs : List XCell) : List XEl :=
  (List.range (cs.length / 8)).map fun p =>
    let xs := (cs.drop (8 * p)).take 8
    { code := leNat (xs.map s.xbyte), psn := xs.any fun c => (s.lineAt c.x).cls == 2 }

/-- What this rank contributes. -/
def State.xsource (s : State) (o : Xop) (mode : Nat) (cs : List XCell) : List XEl :=
  if mode = 2 then s.xpairs cs else cs.map (s.xel o.fmt)

/-- The first failure of the matched parts: sub-cause and TVAL3 (Tables 15.8, 15.9). `own` is the VA of a bad source line here; of
a line at another rank the fault reports the rank. -/
def partFailure (ch : Chan) (o : Xop) (mode : Nat) (peers : List PeerPart) (own : Option Word) : Option (Nat × Word) :=
  match peers.find? fun p => p.mode != mode || p.elems != o.elems || p.fmt != o.fmt || p.g != o.g with
  | some p => some (2, w64 p.rank)
  | none => (List.range ch.nrank).findSome? fun k =>
    if k = ch.rank then own.map fun va => (8, va)
    else (peers.find? fun p => p.rank == k).bind fun p => p.failed.map fun x => (x.1, if x.1 = 4 then x.2 else w64 k)

/-- The sum of one element over the fixed tree (R362). -/
def treeSum (g : FmtCode) (m : RMode) (xs : List Val) : Val × Flags :=
  let k := log2Up xs.length
  let leaves := (List.range (2 ^ k)).map fun i => xs[i]?
  let (t, fl) := redTree (addV m) (roundAcc g m false) k leaves
  (t.getD Val.zero, fl)

/-- What a reduction gives: the elements of the destination, the status bits and the flags. -/
structure XSum where
  els : List StEl
  status : Word := 0#64
  fl : Flags := 0#7

/-- MODE 0 and 1: the sums that this rank writes. POIS says that a poisoned line was sent or is written (Table 15.7). -/
def reduceDense (ch : Chan) (o : Xop) (mode : Nat) (parts : List (List XEl)) : XSum :=
  let lo := if mode = 0 then ch.rank * (o.elems / ch.nrank) else 0
  let n := if mode = 0 then o.elems / ch.nrank else o.elems
  let rs := (List.range n).map fun i =>
    let xs := parts.map fun p => p.getD (lo + i) { code := 0, zero := true }
    let (v, fl) := treeSum o.g o.rm.toMode (xs.map (XEl.val o.fmt))
    (({ v, psn := xs.any XEl.psn } : StEl), fl)
  { els := rs.map fun r => r.1
    status := if (rs.any fun r => r.1.psn) || (parts.getD ch.rank []).any XEl.psn then 4#64 else 0#64
    fl := rs.foldl (fun a r => a ||| r.2) 0#7 }

/-- MODE 2: pair records added to the destination as it stands, rank by rank (R363). -/
def reducePairs (o : Xop) (pairs : List XEl) (d : List StEl) : XSum :=
  let step := fun (a : XSum) (x : XEl) =>
    if x.psn then { a with status := a.status ||| 2#64 }
    else
      let u := x.code % 2 ^ 32
      if o.elems ≤ u then { a with status := a.status ||| 1#64 }
      else
        let old := (a.els.getD u { v := Val.zero })
        let (v, f1) := addV o.rm.toMode old.v (decodeCode 0x0B#6 0 (x.code / 2 ^ 32))
        let (c, f2) := roundTo 0x0B#6 o.rm.toMode v
        { a with els := a.els.set u { old with v := decodeCode 0x0B#6 0 c }, fl := a.fl ||| f1 ||| f2 }
  pairs.foldl step { els := d, status := if d.any fun x => x.psn then 4#64 else 0#64 }

/-- The destination as vector-store lines. -/
def destLines (cs : List XCell) (els : List StEl) : List LineW :=
  linesOf ((cs.zip els).map fun p => { va := p.1.va, pos := p.1.pos, loc := .mem p.1.x, el := p.2 })

/-- Write the destination of an operation as a vector store of format g, at its homes. -/
def State.writeDest (s : State) (vi : Nat) (g t : FmtCode) (m : RMode) (ls : List LineW) : State × Flags :=
  ls.foldl (fun (a : State × Flags) l => match l.page with
    | some x =>
      let o := lineAfter (stFmt g t m) (pageDem l g) (a.1.lineAt x) l.els
      (((a.1.used x).chargeLine vi x.pa).writeLine x.nc x.eph o.whole (x.pa / 128) o.line, a.2 ||| o.fl)
    | none => a) (s, 0#7)

/-- A destination line that breaks R271, or whose page no longer takes g. -/
def State.destConflict (s : State) (g t : FmtCode) (ls : List LineW) : Option Word :=
  (ls.find? fun l => match l.page with
    | some x => (policy x g).isNone || pageFmt x g != t || lineConflicts t (s.lineAt x) l.els
    | none => false).map fun l => l.va

/-- The destination's elements as they stand, with the poison of their lines. -/
def State.destNow (s : State) (cs : List XCell) : List StEl :=
  cs.map fun c =>
    let l := s.lineAt c.x
    ({ v := if l.cls == 2 then Val.zero else l.elem c.pos, psn := l.cls == 2 } : StEl)

/-- Peers' parts in rank order, with this rank's own. -/
def allParts (ch : Chan) (own : List XEl) (peers : List PeerPart) : List (List XEl) :=
  (List.range ch.nrank).map fun k =>
    if k = ch.rank then own
    else match peers.find? fun p => p.rank == k with
      | some p => p.els
      | none => []

/-- An XRED fails here, and the peers hear of it in place of this rank's part (R361). -/
def State.quitRed (s : State) (vi cn : Nat) (ch : Chan) (o : Xop) (sub : Nat) (v3 : Word) : State :=
  let s1 := s.setChan vi cn (ch.failOp o sub v3)
  { s1 with out := s1.out ++ [.xpart vi cn o.seq [] (some (sub, v3))] }

/-- Bytes of an operation's packed lines on the wire. -/
def Xop.wire (o : Xop) : Nat := 128 * ((o.bytes + 127) / 128)

/-- The regions of an XRED as the engine finds them: the source, the destination, and its written format. -/
def State.redRegions (s : State) (vi : Nat) (o : Xop) : Res ((List XCell × List XCell × FmtCode) ⊕ Word) := do
  let w := o.who vi
  match ← s.sourceCells vi o with
  | .inr va => return .inr va
  | .inl src =>
    match s.xlat w .store o.dst.base with
    | .error (.trap t) => return .inr t.place
    | .error e => throw e
    | .ok ref =>
      let t := pageFmt ref o.g
      match ← engineCells (s.regionCells w .store o.dst (some ref) t) with
      | .inr va => return .inr va
      | .inl dst => return .inl (src, dst, t)

/-- The reduction of an operation whose peers have all contributed. -/
def State.reduceOp (s : State) (vi cn : Nat) (ch : Chan) (o : Xop) (mode : Nat) (peers : List PeerPart) : Res State := do
  match ← s.redRegions vi o with
  | .inr va => return (s.spend vi va).quitRed vi cn ch o 4 va
  | .inl (src, dst, t) =>
    if src.any fun c => s.held false c.ln then throw .stall
    if dst.any fun c => s.held true c.ln then throw .stall
    match partFailure ch o mode peers (if mode = 2 then none else s.badLine o.fmt src) with
    | some (sub, v3) => return s.quitRed vi cn ch o sub v3
    | none =>
      let mine := s.xsource o mode src
      let parts := allParts ch mine peers
      let r := if mode = 2 then reducePairs o parts.flatten (s.destNow dst) else reduceDense ch o mode parts
      let ls := destLines dst r.els
      match s.destConflict o.g t ls with
      | some va => return s.quitRed vi cn ch o 9 va
      | none =>
        let (s0, o0) := s.sendParts ch o o.wire ch.peersOf
        if !o0.allSent o.wire ch.peersOf then throw (.hold (s0.setChan vi cn (ch.setOp o0)))
        let (s1, f2) := (s0.readRegion vi src).writeDest vi o.g t o.rm.toMode ls
        let o1 := { o0 with reduced := true, status := o.status ||| r.status, flags := o.flags ||| (r.fl ||| f2).setWidth 64 }
        let s2 := (s1.setChan vi cn (ch.setOp o1)).charge vi (9 + ch.level % 4) o.wire
        return { s2 with out := s2.out ++ [.xpart vi cn o.seq mine none] }

/-- XRED_REDUCE is due: every peer has opened and contributed, and the channel's earlier XREDs are done. -/
def Chan.redReady (ch : Chan) (o : Xop) (peers : List PeerPart) : Bool :=
  o.pending && !o.reduced && ch.peersOf.all (fun k => ch.open_.contains k && peers.any fun p => p.rank == k)
    && ch.ops.all fun p => !p.pending || p.reduced || decide (o.seq ≤ p.seq) || (match p.kind with | .red _ => false | _ => true)

def execEvXredReduce (vi chan seq : Nat) (peers : List PeerPart) (s : State) : Host.Outcome State Fault Refusal :=
  match s.chan vi chan with
  | none => .next s
  | some ch =>
    match ch.op seq with
    | none => .next s
    | some o =>
      match o.kind with
      | .red mode =>
        if ch.redReady o peers then orLater (.evXredReduce vi chan seq peers) s (s.reduceOp vi chan ch o mode peers) else .next s
      | .send _ _ => .next s

/-! ### Completion, and what is heard of peers -/

/-- EXCHANGE_OP_COMPLETE: every destination has acknowledged, or the destination is performed; the entries are released. -/
def State.completeOp (s : State) (vi cn seq : Nat) : Option State :=
  match s.chan vi cn with
  | none => none
  | some ch =>
    match ch.op seq with
    | none => none
    | some o => if o.pending && (ch.needs o).isEmpty then some (s.setChan vi cn (ch.setOp { o with complete := true, il := [] })) else none

def execEvExchangeOpComplete (vi chan seq : Nat) (s : State) : Host.Outcome State Fault Refusal :=
  .next ((s.completeOp vi chan seq).getD s)

/-- Operations of a channel that need a rank fail. -/
def Chan.failRank (ch : Chan) (rank sub : Nat) : Chan :=
  (ch.ops.filter fun o => o.pending && (ch.needs o).contains rank).foldl (fun ch o => ch.failOp o sub (w64 rank)) ch

def State.failRank (s : State) (vi cn rank sub : Nat) : State :=
  match s.chan vi cn with
  | some ch => s.setChan vi cn (ch.failRank rank sub)
  | none => s

/-- EXCHANGE_PEER_TIMEOUT (R356): sub-cause 1. -/
def execEvExchangePeerTimeout (vi chan rank : Nat) (s : State) : Host.Outcome State Fault Refusal :=
  .next (s.failRank vi chan rank 1)

/-- EXCHANGE_PEER_CLOSE (R365): sub-cause 5, and the rank is open no longer. -/
def execEvExchangePeerClose (vi chan rank : Nat) (s : State) : Host.Outcome State Fault Refusal :=
  let s1 := s.failRank vi chan rank 5
  .next (match s1.chan vi chan with
    | some ch => s1.setChan vi chan { ch with open_ := ch.open_.filter (· != rank) }
    | none => s1)

/-- EXCHANGE_PEER_OPEN (R356): operations that wait for the peer may go on. -/
def execEvExchangePeerOpen (vi chan rank : Nat) (s : State) : Host.Outcome State Fault Refusal :=
  .next (match s.chan vi chan with
    | some ch => if ch.open_.contains rank || ch.nrank ≤ rank then s else s.setChan vi chan { ch with open_ := ch.open_ ++ [rank] }
    | none => s)

/-- ETHERNET_TRANSPORT_GAVE_UP (R366): sub-cause 6. -/
def execEvEthernetTransportGaveUp (vi chan rank : Nat) (s : State) : Host.Outcome State Fault Refusal :=
  .next (if (s.chan vi chan).any fun ch => ch.ether then s.failRank vi chan rank 6 else s)

end Sys2Proof.Machine
end

