-- ==== Sys2Proof/Machine/Links.lean ====
section
/-! DEFINITION. The host port, the Weatre links and the Ethernet ports: inbound requests and what is heard of links
(R246, R298, R301, R347–R353, R408). -/

namespace Sys2Proof.Machine

/-! ### Requests through an aperture (R246, R348, R369) -/

/-- A page that the recode engine is re-encoding holds every access to its frames (R232, R233). -/
def State.recoding (s : State) (pa : Nat) : Bool :=
  s.vis.any fun (p : Nat × Vi) => p.2.rc.state == .running && p.2.rc.busy
    && (match s.tensorPage p.1 p.2.rc.va p.2.rc.fmt with
        | .ok g => g.hasFrame (pa / 0x10000)
        | .error _ => false)

/-- A request that the device refuses, to be answered with Unsupported Request (log 32). -/
def refused {α : Type} : Res α := raise .access

/-- A function answers requests: the device has booted, and a VF is enabled and not in a reset (R371, R377, R408). -/
def State.answers (s : State) (vi : Nat) : Bool := 8 ≤ s.boot.stage && (vi == 0 || ((s.vi vi).en && !(s.vi vi).flrBusy))

/-- CFMT of the tensor page of a VI that an IA lies in, from a stage-1 table on; none where no tensor page maps it (R246; log 75). -/
def State.tensorAt (s : State) (vi ia : Nat) : Nat → Nat → Nat → Option FmtCode
  | 0, _, _ => none
  | fuel + 1, lvl, table =>
    match s.stage2 vi entR table with
    | .error _ => none
    | .ok (pa, _) => (List.range (2 ^ lvlBits lvl)).findSome? fun i =>
      let e := s.entry (pa + 8 * i)
      if !bitAt e 0 || entMalformed false lvl e then none
      else if entSize e == 3 then s.tensorAt vi ia fuel (lvl + 1) (bits e 12 39 * 2 ^ 12)
      else if bitAt e 10 && entPa e / 2 ^ 21 == ia / 2 ^ 21 then some (e.extractLsb' 18 6)
      else none

/-- The format that a host write gives a line of an aperture: CFMT on a tensor page, UNT on a byte page. -/
def State.pageFmtAt (s : State) (vi off : Nat) : FmtCode :=
  (s.tensorAt vi off 5 0 (bits (s.vi vi).vtbase 12 39 * 2 ^ 12)).getD 0#6

/-- An aperture offset of a VI as an address of this device: through stage 2, with the checks of R371, R230, R240 and R378. -/
def State.hostReach (s : State) (vi off : Nat) (k : AccKind) : Res Xlat := do
  if !s.answers vi || 2 ^ 40 ≤ off then refused
  match s.stage2 vi (need2 k) off with
  | .error f => s.s2Trap vi k (w64 off) f
  | .ok (pa, leaf) =>
    let e := (leaf.map fun l => l.1).getD 0#64
    s.checkPa vi k (w64 off) pa
    if k != .load && s.unbacked.contains (pa / 0x10000) then refused
    let upd := match leaf with | some l => toSet l.1 l.2.1 (usedBits k) | none => []
    s.leavesFree upd
    let x : Xlat := { pa, va := off, nc := bitAt e 27, eph := bitAt e 11, upd }
    s.checkHome (w64 off) x
    if s.recoding pa || s.held (k != .load) (pa / 128) then throw .stall
    return x

/-- A write that comes in through the host port (R298). -/
def fromHost : Instr → Bool
  | .evHostWrite _ _ _ _ _ | .evTagWindowWrite _ _ _ | .evHostAtomicop _ _ _ _ _ | .evMmioRegisterWrite _ _ | .evEvqheadWrite _ _
  | .evEvqstatWrite _ _ | .evMailboxDoorbell => true
  | _ => false

/-- A write that no later read passes: one with relaxed ordering clear. -/
def strictWrite : Instr → Bool
  | .evHostWrite _ _ _ relaxed _ => !relaxed
  | i => fromHost i

/-- A held request that a request of the host port comes after: a write after every write that arrived before it, unless it has
relaxed ordering; a read after the writes that have it clear. ID-based ordering counts for nothing (R298). -/
def State.hostBehind (s : State) : Instr → Bool
  | .evHostWrite _ _ _ true _ => false
  | .evHostRead _ _ _ => s.deferred.any strictWrite
  | _ => s.deferred.any fromHost

/-- A request of a VI's aperture is refused, with Unsupported Request; a refused host translation that it met has given its answer
(R244). -/
def State.refuse (s : State) (vi : Nat) (t : Trap) : State :=
  let s1 := if t.refusedHost then s.spendAt vi (s.path2 vi t.v0.toNat) else s
  { s1 with out := s1.out ++ [.unsupported] }

/-- A request from outside on behalf of a VI: performed, refused, or held. -/
def orRefuse (i : Instr) (vi : Nat) (s : State) : Res State → Host.Outcome State Fault Refusal
  | .error (.trap t) => .next (s.refuse vi t)
  | .error (.fault _) => .next { s with out := s.out ++ [.unsupported] }
  | r => orLater i s r

/-- An inbound request of the host port, in the order of R298. -/
def hostEvent (i : Instr) (vi : Nat) (s : State) (r : Res State) : Host.Outcome State Fault Refusal :=
  if s.hostBehind i then .next (s.defer i) else orRefuse i vi s r

/-- Bytes cut where lines end. -/
def cutBytes : Nat → Nat → List Byte → List (Nat × List Byte)
  | 0, _, _ => []
  | fuel + 1, a, bs =>
    if bs.isEmpty then []
    else
      let k := 128 - a % 128
      (a, bs.take k) :: cutBytes fuel (a + k) (bs.drop k)

/-- The pieces of n bytes from a, as addresses and lengths. -/
def cutRange (a n : Nat) : List (Nat × Nat) :=
  (cutBytes (n / 128 + 2) a (List.replicate n 0#8)).map fun p => (p.1, p.2.length)

/-- A line after a host write of some of its bytes (R246): of format f, clean, not demoted. -/
def hostWritten (f : FmtCode) (l : LineV) (off : Nat) (bs : List Byte) : LineV :=
  ({ data := setNbits (if l.cls == 3 then 0 else l.data) (8 * off) (8 * bs.length) (leNat bs), tag := mkTag f 0 false } : LineV).clip

/-- Write host bytes at a place. -/
def State.hostPut (s : State) (vi : Nat) (f : FmtCode) (x : Xlat) (bs : List Byte) : State :=
  let ln := x.pa / 128
  ((s.used x).chargeLine vi x.pa).writeLine x.nc x.eph (decide (bs.length = 128)) ln
    (hostWritten f ((s.used x).homeView x.nc f ln) (x.pa % 128) bs)

/-- A host write through an aperture: every line is found before any is written. -/
def State.hostWrite (s : State) (vi off : Nat) (bs : List Byte) : Res State := do
  let ps ← (cutBytes (bs.length / 128 + 2) off bs).mapM fun p => do return (← s.hostReach vi p.1 .store, p.2)
  return ps.foldl (fun (s : State) (p : Xlat × List Byte) => s.hostPut vi (s.pageFmtAt vi p.1.va) p.1 p.2) s

/-- HOST_WRITE. -/
def execEvHostWrite (vi off : Nat) (data : List Byte) (relaxed ido : Bool) (s : State) : Host.Outcome State Fault Refusal :=
  hostEvent (.evHostWrite vi off data relaxed ido) vi s (s.hostWrite vi off data)

/-- The bytes that stand at a line's place, whatever its tag. -/
def State.rawData (s : State) (nc : Bool) (ln : Nat) : Nat :=
  match Tab.find s.hostLines ln with
  | some h => if nc && !h.dirty then bytesNat s.mem (128 * ln) 128 else leNat h.data
  | none => bytesNat s.mem (128 * ln) 128

/-- A tag-window write: the tag of one line, its data unchanged but for what R57 stores as zero (log 129). -/
def State.tagWrite (s : State) (vi off : Nat) (tag : BitVec 16) : Res State := do
  let x ← s.hostReach vi (off / 2 * 128) .store
  if off % 2 != 0 || !tagAllowed tag then return s
  let ln := x.pa / 128
  return ((s.used x).chargeLine vi x.pa).writeLine x.nc x.eph false ln { data := (s.used x).rawData x.nc ln, tag }

def execEvTagWindowWrite (vi off : Nat) (tag : BitVec 16) (s : State) : Host.Outcome State Fault Refusal :=
  hostEvent (.evTagWindowWrite vi off tag) vi s (s.tagWrite vi off tag)

/-- The bytes of a place and whether its line is poisoned (R348). -/
def State.hostGet (s : State) (x : Xlat) (n : Nat) : List Byte × Bool :=
  let l := s.homeView x.nc x.cfmt (x.pa / 128)
  (natLe n (nbits l.data (8 * (x.pa % 128)) (8 * n)), l.cls == 2)

/-- What a host read gets: the bytes of each line in its layout, and whether one of them is poisoned. -/
def State.hostFetch (s : State) (vi off n : Nat) : Res (State × List Byte × Bool) := do
  let ps ← (cutRange off n).mapM fun p => do return (← s.hostReach vi p.1 .load, p.2)
  let s1 := ps.foldl (fun (s : State) (p : Xlat × Nat) => (s.used p.1).chargeLine vi p.1.pa) s
  let got := ps.map fun p => s1.hostGet p.1 p.2
  return (s1, got.flatMap fun g => g.1, got.any fun g => g.2)

/-- A host read through an aperture. -/
def State.hostRead (s : State) (vi off n : Nat) : Res State := do
  let (s1, bs, psn) ← s.hostFetch vi off n
  return { s1 with out := s1.out ++ [.data bs psn] }

/-- A host read through the tag window: the tag of the line at aperture offset o lies at byte 2·⌊o/128⌋ (R246, R369). -/
def State.tagRead (s : State) (vi off n : Nat) : Res State := do
  let xs ← (List.range ((off + n + 1) / 2 - off / 2)).mapM fun i => s.hostReach vi ((off / 2 + i) * 128) .load
  let s1 := xs.foldl (fun (s : State) x => (s.used x).chargeLine vi x.pa) s
  let bs := xs.flatMap fun x => natLe 2 (s1.homeView x.nc x.cfmt (x.pa / 128)).tag.toNat
  return { s1 with out := s1.out ++ [.data ((bs.drop (off % 2)).take n) false] }

/-- A host read of the registers of a function (R369), which the monitor does not keep to itself (R370). -/
def State.barRead (s : State) (vi off n : Nat) : Res State := do
  if !s.answers vi || 256 ≤ vi || 2 ^ 24 < off + n then refused
  if (List.range n).any fun i => (barReg vi ((off + i) / 8 * 8)).monitorOnly then refused
  let byte := fun (a : Nat) => BitVec.ofNat 8 (nbits (s.regRead (barReg vi (a / 8 * 8))).toNat (8 * (a % 8)) 8)
  return { s with out := s.out ++ [.data ((List.range n).map fun i => byte (off + i)) false] }

/-- HOST_READ: of the aperture in BAR2, of the tag window in BAR4, or of BAR0. -/
def execEvHostRead (vi : Nat) (a : HostAddr) (n : Nat) (s : State) : Host.Outcome State Fault Refusal :=
  hostEvent (.evHostRead vi a n) vi s
    (match a with
     | .aperture off => s.hostRead vi off n
     | .tags off => s.tagRead vi off n
     | .bar0 off => s.barRead vi off n)

/-- What an AtomicOp of the host makes of the old value. -/
def hostNew (op : HostAtomic) (n : Nat) (v : Word) (old : Nat) : Option Nat :=
  let x := v.toNat % 2 ^ (8 * n)
  match op with
  | .fetchAdd => some ((old + x) % 2 ^ (8 * n))
  | .swap => some x
  | .cas cmp => if old = cmp.toNat % 2 ^ (8 * n) then some x else none

/-- A host AtomicOp to device memory, as one event at the home. -/
def State.hostAtomic (s : State) (vi off : Nat) (w8 : Bool) (op : HostAtomic) (v : Word) : Res State := do
  let n := amoBytes w8
  if off % n != 0 then refused
  let x ← s.hostReach vi off .atomic
  if s.region x.pa != .dev then refused
  return State.replyAtomic (((s.used x).chargeLine vi x.pa).applyAtomic x.eph x.pa n (hostNew op n v))

def execEvHostAtomicop (vi off : Nat) (w8 : Bool) (op : HostAtomic) (v : Word) (s : State) : Host.Outcome State Fault Refusal :=
  hostEvent (.evHostAtomicop vi off w8 op v) vi s (s.hostAtomic vi off w8 op v)

/-! ### CXL.mem (R246, R298) -/

/-- A CXL.mem request reaches device memory by DPA, as VI0's aperture does, and is answered when it is performed. -/
def State.cxlRequest (s : State) (pa : Nat) (write : Bool) (data : List Byte) (n tag : Nat) : Res State := do
  if write then
    let s1 ← s.hostWrite 0 pa data
    return { s1 with out := s1.out ++ [.cxl tag none] }
  let (s1, bs, psn) ← s.hostFetch 0 pa n
  return { s1 with out := s1.out ++ [.cxl tag (some (bs, psn))] }

/-- CXL.mem requests to different lines are ordered by their completions alone: one that is held holds no other. -/
def execEvCxlMemRequest (pa : Nat) (write : Bool) (data : List Byte) (n tag : Nat) (s : State) :
    Host.Outcome State Fault Refusal :=
  orRefuse (.evCxlMemRequest pa write data n tag) 0 s (s.cxlRequest pa write data n tag)

/-! ### Requests of other W4s (R301) -/

/-- The line that a Weatre request accesses, where it accesses one. -/
def requestLine : WeatreReq → Option Nat
  | .load pa _ | .store pa _ _ | .atomic pa _ _ _ _ => some (pa / 128)
  | _ => none

/-- An earlier request of the same source and track is held (R301). -/
def State.waitsBehind (s : State) (src : Nat) (req : WeatreReq) : Bool :=
  match requestLine req with
  | none => false
  | some ln => s.deferred.any fun i => match i with
    | .evWeatreInboundRequest d r => d == src && (match requestLine r with
      | some k => trackOf (128 * k) == trackOf (128 * ln)
      | none => false)
    | _ => false

/-- A line that no request of another W4 reaches: not this device's, of a frame of no live domain, or of an unbacked frame that it
would write (R230, R240). -/
def State.lineShut (s : State) (write : Bool) (ln : Nat) : Bool :=
  s.region (128 * ln) != .dev || !s.frameLive (128 * ln) || (write && s.unbacked.contains (ln / 512))

/-- The home of a line answers a request from outside, or refuses it, or holds it. -/
def State.weatreReach (s : State) (write : Bool) (ln : Nat) : Res Unit := do
  if s.lineShut write ln || s.homeOffline (s.ephLine ln) (128 * ln) then refused
  if s.recoding (128 * ln) || s.held write ln then throw .stall

/-- A store of another W4 at its home: scalar, or of elements with the line's tag. -/
def storedFrom (l : LineV) (off : Nat) (bs : List Byte) : Option (BitVec 16) → LineV
  | none => stLine l off bs.length (leNat bs)
  | some t => storedElems l off bs t

/-- A request of another W4, performed. -/
def State.weatrePerform (s : State) (src : Nat) (req : WeatreReq) : Res State :=
  match req with
  | .load pa n => do
    let ln := pa / 128
    s.weatreReach false ln
    let l := s.homeLine ln
    return { s with out := s.out ++ [.weatre src (natLe n (nbits l.data (8 * (pa % 128)) (8 * n))) l.tag] }
  | .store pa bs tag => do
    let ln := pa / 128
    if tag.any fun t => !tagAllowed t then refused
    s.weatreReach true ln
    return s.writeLine false (s.ephLine ln) (decide (bs.length = 128)) ln (storedFrom (s.homeLine ln) (pa % 128) bs tag)
  | .atomic pa w8 op v x => do
    let n := amoBytes w8
    if pa % n != 0 then refused
    s.weatreReach true (pa / 128)
    return State.replyAtomic (s.applyAtomic (s.ephLine (pa / 128)) pa n (homeNew op n v x))
  | .reserve excl lines => do
    -- HOME_OFFLINE is met as the tile reserves (R315)
    if lines.any (s.lineShut excl) then refused
    if lines.any fun ln => s.recoding (128 * ln) then throw .stall
    return s.extReserve src excl lines
  | .stage tile ws => .ok (s.extStage tile ws)
  | .flip tile => .ok (s.extFlip tile)
  | .release tile => .ok (s.extRelease tile)
  | .wake pa => .ok (s.notify (pa / 128))

/-- A request of another W4: it comes in once a link is up, which none is before the boot is done (R408). -/
def execEvWeatreInboundRequest (src : Nat) (req : WeatreReq) (s : State) : Host.Outcome State Fault Refusal :=
  let i : Instr := .evWeatreInboundRequest src req
  if s.boot.stage < 8 || s.linksUp == 0#16 || s.waitsBehind src req then .next (s.defer i)
  else orRefuse i 0 s (s.weatrePerform src req)

/-! ### Weatre links (R349–R351) -/

/-- FLIT_RETRY: the flit is resent. -/
def execEvFlitRetry (link : Nat) (s : State) : Host.Outcome State Fault Refusal :=
  .next (if link < 16 then { s with out := s.out ++ [.resend link] } else s)

def linkBit (link : Nat) : BitVec 16 := BitVec.ofNat 16 (2 ^ link)

/-- A link goes down: its pairs move to another link of their masks, which shows in timing alone. The change is one of MEVT's
(DEDUCED, log 33). -/
def State.linkDown (s : State) (link : Nat) : State := ({ s with linksUp := s.linksUp &&& ~~~linkBit link } : State).setMevt 5

def execEvLinkFailure (link : Nat) (s : State) : Host.Outcome State Fault Refusal :=
  .next (if link < 16 && s.linksUp &&& linkBit link != 0#16 then s.linkDown link else s)

/-- A link of a device's mask is up. -/
def State.linked (s : State) (dev : Nat) : Bool := Tab.get 0#16 s.routes dev &&& s.linksUp != 0#16

/-- A buffered store to a device. -/
def Buffered.goesTo (s : State) (dev : Nat) (b : Buffered) : Bool := s.region b.pa == .remote dev

/-- The stores in flight to a device are lost: their strands take HOME_OFFLINE (Table 15.2). -/
def State.loseStores (s : State) (dev : Nat) : State :=
  let lost := s.storeQ.filter (Buffered.goesTo s dev)
  let s1 := { s with storeQ := s.storeQ.filter fun b => !b.goesTo s dev }
  (lost.map fun b => b.sid).eraseDups.foldl (fun s sid =>
    match lost.find? fun b => b.sid == sid with
    | some b =>
      if (Tab.find s.strands sid).isSome then
        s.addPend sid { trap := { cause := .homeOffline, v0 := w64 (b.va.toNat / 128 * 128), v1 := 2#64 } }
      else s
    | none => s) s1

/-- A tile of another device whose coordinator may have passed its commit point: what it reads is reserved, or what it writes is
staged. Its lines stay reserved until the coordinator reaches them again (R315). -/
def Tile.mayBeCommitted (t : Tile) : Bool := if t.store then !t.staged.isEmpty else t.bound == t.order.length

/-- Tiles before their commit points that have lines at a device are abandoned, and its own tiles here are released. -/
def State.loseTiles (s : State) (dev : Nat) : State :=
  (s.tiles.filter fun t => !t.2.committed).foldl (fun (s : State) (t : Nat × Tile) =>
    if t.2.ext == some dev then (if t.2.mayBeCommitted then s else s.dropTile t.1)
    else match t.2.order.find? fun ln => s.region (128 * ln) == .remote dev with
      | some ln =>
        (match t.2.owner ln with
        | some (p, l) => s.abandon t.1 (lostTo p { cause := .homeOffline, v0 := l.va, v1 := 1#64 })
        | none => s)
      | none => s) s

/-- Weatre channels fail the operations that need a rank on a device (R366). -/
def State.loseRanks (s : State) (dev : Nat) : State :=
  s.vis.foldl (fun (s : State) (v : Nat × Vi) => v.2.chans.foldl (fun (s : State) (c : Nat × Chan) =>
    if c.2.ether then s
    else (c.2.peersOf.filter fun k => c.2.device k == dev).foldl
      (fun s k => s.failRank v.1 c.1 k 6) s) s) s

/-- DEVICE_UNREACHABLE: no link of the mask is up (R351). Operations that are issued later fail in the same way (R366). -/
def execEvDeviceUnreachable (dev : Nat) (s : State) : Host.Outcome State Fault Refusal :=
  .next (if s.linked dev then s
    else if s.unreachable.contains dev then s.loseRanks dev
    else ((({ s with unreachable := dev :: s.unreachable }).loseStores dev).loseTiles dev).loseRanks dev)

/-! ### Ports and link state (R351–R353) -/

/-- LINK_LAYER_RETRY: the frame is recovered from the retry window; one of a struck line, by the transport from end to end
(R353). -/
def execEvLinkLayerRetry (port : Nat) (s : State) : Host.Outcome State Fault Refusal :=
  .next (if 4 ≤ port then s
    else if (Tab.get {} s.ports port).lost.isEmpty then { s with out := s.out ++ [.portResend port] }
    else { s with ports := Tab.modify s.ports port fun x => { x with lost := [] }, out := s.out ++ [.endToEnd port] })

/-- LONG_HAUL_ACK: space in the retry window is free. -/
def execEvLongHaulAck (port bytes : Nat) (s : State) : Host.Outcome State Fault Refusal :=
  .next { s with ports := Tab.modify s.ports port fun x =>
    { x with unacked := x.unacked - bytes, lost := if x.unacked ≤ bytes then [] else x.lost } }

/-- A Weatre link is L0–L15; 16 to 19 are the ports E0–E3. Links and E1–E3 stay down until the boot is done (R408). -/
def State.linkState (s : State) (link : Nat) (up : Bool) : State :=
  if link < 16 then
    if up then
      let s1 := { s with linksUp := s.linksUp ||| linkBit link }
      ({ s1 with unreachable := s1.unreachable.filter fun d => !s1.linked d } : State).setMevt 5
    else s.linkDown link
  else if link < 20 then
    let x := Tab.get {} s.ports (link - 16)
    ({ s with ports := Tab.put s.ports (link - 16) { x with up } } : State).setMevt 5
  else s

def execEvLinkStateChange (link : Nat) (up : Bool) (s : State) : Host.Outcome State Fault Refusal :=
  .next (if s.boot.stage < 8 && link != 16 then s else s.linkState link up)

/-- CONFIGURATION_REQUEST: Request Retry Status from PF0 until the boot is done; a VF that is not enabled does not work. -/
def execEvConfigurationRequest (fn : Nat) (s : State) : Host.Outcome State Fault Refusal :=
  .next { s with out := s.out ++ [
    if fn = 0 then (if s.boot.stage < 8 then Reply.retryStatus else Reply.ack)
    else if s.boot.stage < 8 || !(s.vi fn).en then Reply.unsupported
    else Reply.ack] }

end Sys2Proof.Machine
end

