-- ==== Sys2Proof/Machine/Management.lean ====
section
/-! DEFINITION. Writes of the registers of PF0 BAR0 and of the VIs' BAR0s, the end of a VI reset, die control, power and
temperature (R353, R370–R380, R414–R416, R447). -/

namespace Sys2Proof.Machine

/-! ### Register writes -/

def execEvLhcfgWrite (port : Nat) (v : Word) (s : State) : Host.Outcome State Fault Refusal :=
  .next (if port < 4 then s.writeLhcfg port v else s)

/-- QUOTA_RECORD_WRITE: only the monitor reaches the records (R370), once it runs. -/
def execEvQuotaRecordWrite (vi off : Nat) (v : Word) (s : State) : Host.Outcome State Fault Refusal :=
  .next (if vi < 256 && 8 ≤ s.boot.stage then s.writeQuota vi off v else s)

def execEvCounterSnapshot (vi : Nat) (s : State) : Host.Outcome State Fault Refusal :=
  .next (if vi < 256 then s.snapshot vi else s)

def execEvCounterClear (vi : Nat) (s : State) : Host.Outcome State Fault Refusal :=
  .next (if vi < 256 then s.clearCounters vi else s)

/-- EVQHEAD, EVQSTAT, the mailbox and the other registers of the BAR0s are written by the host, in the order of its writes (R298). -/
def execEvEvqheadWrite (vi : Nat) (v : Word) (s : State) : Host.Outcome State Fault Refusal :=
  hostEvent (.evEvqheadWrite vi v) vi s (.ok (if vi < 256 then s.writeEvqhead vi v else s))

def execEvEvqstatWrite (vi : Nat) (v : Word) (s : State) : Host.Outcome State Fault Refusal :=
  hostEvent (.evEvqstatWrite vi v) vi s (.ok (if vi < 256 then s.writeEvqstat vi v else s))

def execEvMailboxDoorbell (s : State) : Host.Outcome State Fault Refusal := hostEvent .evMailboxDoorbell 0 s (.ok (s.setMevt 0))

/-- MMIO_REGISTER_WRITE: 8 bytes at an offset of a function's BAR0, through the host port; a VF that does not answer takes none
(R371), nor do the registers that the monitor alone reaches (R370). -/
def execEvMmioRegisterWrite (r : BarReg) (v : Word) (s : State) : Host.Outcome State Fault Refusal :=
  hostEvent (.evMmioRegisterWrite r v) r.vi s
    (if (r.vi != 0 && !s.answers r.vi) || (barReg r.vi r.off).monitorOnly then refused
     else .ok (if r.vi < 256 && r.off < 2 ^ 24 && r.off % 8 = 0 then s.regWrite (barReg r.vi r.off) v else s))

/-! ### VI reset (R376) -/

/-- VI_RESET: an FLR bit or a function-level reset. -/
def execEvViReset (vi : Nat) (s : State) : Host.Outcome State Fault Refusal := .next (if vi < 256 then s.viReset vi else s)

/-- A line of a frame of the domain that a VI reset retires (R376). -/
def State.ofReset (s : State) (vi ln : Nat) : Bool :=
  let kd := (s.vi vi).kdcur.toNat % 1024
  kd != 0 && Tab.find s.frameKd (ln / 512) == some (some kd)

/-- Steps 5 and 6 of Table 16.5, once no tile of the VI is in flight, and the stores that its strands had issued and those to the
frames of its domain are performed. -/
def State.endReset (s : State) (vi : Nat) : Option State :=
  if !(s.vi vi).flrBusy || s.tiles.any fun t => t.2.parts.any fun p => p.vi == vi then none
  else match drainWhere (fun b => b.vi == vi || s.ofReset vi (b.pa / 128)) s.storeQ s with
    | .error _ => none
    | .ok s1 =>
      let s2 := (s1.viRevoke vi).forget (s1.ofReset vi)
      some ((s2.setVi vi { s2.vi vi with flrBusy := false, flrDone := true }).setMevt 1)

def execEvViResetComplete (vi : Nat) (s : State) : Host.Outcome State Fault Refusal := .next ((s.endReset vi).getD s)

/-! ### Die control (R378, R447) -/

def execEvDctlAdmit (die : Nat) (v : Word) (s : State) : Host.Outcome State Fault Refusal :=
  .next (if die < 4 then s.dctlAdmit die (bitAt v 0) else s)

/-- A command write of DCTL that leaves ADMIT as it is. -/
def State.dctlWrite (s : State) (die : Nat) (c : DieCmd) : State := if die < 4 then s.dctlCommand die c else s

def execEvDctlDrain (die : Nat) (s : State) : Host.Outcome State Fault Refusal := .next (s.dctlWrite die .drain)

def execEvDctlWb (die : Nat) (s : State) : Host.Outcome State Fault Refusal := .next (s.dctlWrite die .wb)

def execEvDctlMig (die : Nat) (s : State) : Host.Outcome State Fault Refusal := .next (s.dctlWrite die .mig)

def execEvDctlQuiesce (die : Nat) (s : State) : Host.Outcome State Fault Refusal := .next (s.dctlWrite die .quiesce)

def execEvDctlRst (die : Nat) (s : State) : Host.Outcome State Fault Refusal := .next (s.dctlWrite die .rst)

def execEvDctlRetrain (die : Nat) (s : State) : Host.Outcome State Fault Refusal := .next (s.dctlWrite die .retrain)

/-- A line that is homed on a die, or lies in its memory: in a frame that has not been moved, or that is ephemeral, which none moves
(R237, R378). -/
def State.onDie (s : State) (eph : Bool) (d ln : Nat) : Bool :=
  s.region (128 * ln) == .dev && (s.sliceOf ln / 32 == d || (frameDie (128 * ln) == d && (eph || s.ephLine ln || !(s.die d).migrated)))

/-- Every team with a strand that has not exited is off the die. -/
def State.drained (s : State) (d : Nat) : Bool :=
  !s.teams.any fun t => (match t.2.core with | some c => c / 64 == d | none => false) && !s.allExited t.2

/-- Every request to the die that left its core before QUIESCE is performed. -/
def State.quiet (s : State) (d : Nat) : Bool :=
  !s.storeQ.any (fun b => s.onDie b.eph d (b.pa / 128))
    && !s.tiles.any fun t => (t.2.order.take t.2.bound).any (s.onDie false d)

/-- Write back the dirty lines that the slices of a die hold. -/
def State.writeBackDie (s : State) (d : Nat) : State :=
  (s.hostLines.filter fun e => s.sliceOf e.1 / 32 == d).foldl (fun s e => s.writeBackHost e.1) s

/-- The end of a command: BUSY 0, ERR and ERRC as it went, and MEVT bit 2. -/
def State.commandEnds (s : State) (d : Nat) (err : Nat) (f : Die → Die) : State :=
  let x := f (s.die d)
  (s.setDie d { x with busy := false, cmd := none, err := err != 0, errc := err }).setMevt 2

/-- DCTL_COMMAND_DONE: the command in progress ends; none while it must go on. `ok` says whether MIG finds free frames and
whether a self-test passes, `repair` which rows a self-repair repaired. -/
def State.dctlDone (s : State) (d : Nat) (ok : Bool) (repair : Nat) : Option State :=
  match (s.die d).cmd with
  | none => none
  | some .drain => if s.drained d then some (s.commandEnds d 0 fun x => { x with state := .drained }) else none
  | some .wb => some ((s.writeBackDie d).commandEnds d 0 id)
  | some .mig => some (if ok then s.commandEnds d 0 fun x => { x with migrated := true } else s.commandEnds d 1 id)
  | some .quiesce => if s.quiet d then some (s.commandEnds d 0 fun x => { x with state := .quiesced }) else none
  | some .rst => some ((s.zeroDie d).commandEnds d 0 fun x => { x with rstDone := true })
  | some .retrain =>
    some (if ok then s.commandEnds d 0 fun x => { x with state := .ready, repair }
      else s.commandEnds d 3 fun x => { x with state := .failed, repair })

def execEvDctlCommandDone (die : Nat) (ok : Bool) (repair : Nat) (s : State) : Host.Outcome State Fault Refusal :=
  .next ((s.dctlDone die ok repair).getD s)

/-! ### Power and temperature (R414–R416) -/

def State.setPoint (s : State) (i p : Nat) : State := { s with points := Tab.set 7 s.points i p }

/-- An island is throttled now (THR). One that is not a core's runs at one point, and is throttled by duty-cycling its arbiters
(R413). -/
def State.throttle (s : State) (i : Nat) : State := { s with throttled := Tab.put s.throttled i (s.refcnt 0) }

/-- The power manager sets a point under R414 or R415: a lower one throttles. -/
def State.choosePoint (s : State) (i p : Nat) : State := if p < s.point i then (s.setPoint i p).throttle i else s.setPoint i p

/-- A core island's point is lowered, by how much is free (log 27); OP0 is the lowest. -/
def State.lowerPoint (s : State) (i : Nat) : State :=
  if s.point i = 0 then s else s.choosePoint i (Nat.min (s.point i - 1) (Config.loweredPoint s.tick i))

/-- OPERATING_POINT_CHANGE: never above OPMAX (R414), and at OP0 after a thermal trip (R416; log 80). At an island that is not a
core's, a point below 7 stands for a throttle (log 100). -/
def execEvOperatingPointChange (island point : Nat) (s : State) : Host.Outcome State Fault Refusal :=
  .next (if island < 256 then
      if point ≤ Nat.min 7 (Tab.get s.opInit s.opmax island) && (!s.thermal || point == 0) then s.choosePoint island point else s
    else if island < 512 && decide (point < 7) then s.throttle island
    else s)

/-- A VI whose estimate exceeds its cap; the quota of VI0 is ignored. -/
def State.overCap (s : State) (vi watts : Nat) : Bool :=
  let cap := bits (s.vi vi).q4 0 16
  vi != 0 && cap != 0 && decide (cap < watts)

/-- Cores on which every strand that holds a slot belongs to one VI. -/
def State.coresOf (s : State) (vi : Nat) : List Nat :=
  (List.range 256).filter fun c =>
    let rs := s.residents c
    !rs.isEmpty && rs.all fun p => s.viNo p.2 == vi

/-- The fraction of the cycles of the next 1 ms that brings an estimate to the cap: what is above it, of the whole. -/
def State.withhold (s : State) (vi watts : Nat) : Nat × Nat :=
  if s.overCap vi watts then (watts - bits (s.vi vi).q4 0 16, watts) else (0, 1)

/-- The VIs' power of 1 ms: issue is withheld from those over their caps, and the cores that only they use run slower (R415). -/
def State.capVis (s : State) (watts : List (Nat × Nat)) : State :=
  let s1 := { s with vis := s.vis.map fun (p : Nat × Vi) => (p.1, { p.2 with withheld := s.withhold p.1 (Tab.get 0 watts p.1) }) }
  (watts.filter fun w => s.overCap w.1 w.2).foldl (fun s w => (s.coresOf w.1).foldl State.lowerPoint s) s1

/-- The device's average power of the last 1 ms is above 3.6 kW, or that of the last 10 ms above DPLIM (R414). -/
def State.overPower (s : State) : Bool := decide (3600 < s.powers.headD 0) || decide (10 * s.dplim < s.powers.sum)

/-- Core islands that a load is given for and whose point can be lowered, the highest load first. -/
def State.byLoad (s : State) (loads : List (Nat × Nat)) : List Nat :=
  ((loads.filter fun l => l.1 < 256 && s.point l.1 != 0).foldr insert []).map fun l => l.1
where
  insert (l : Nat × Nat) : List (Nat × Nat) → List (Nat × Nat)
    | [] => [l]
    | x :: xs => if x.2 ≤ l.2 then l :: x :: xs else x :: insert l xs

/-- The device's power of 1 ms: above a limit, points are lowered, the highest-loaded islands' first; of how many is free (R414;
log 27). -/
def State.limitPower (s : State) (watts : Nat) (loads : List (Nat × Nat)) : State :=
  let s1 := { s with powers := (watts :: s.powers).take 10 }
  if s1.overPower then ((s1.byLoad loads).take (1 + Config.loweredIslands s.tick)).foldl State.lowerPoint s1 else s1

/-- PCAP_ESTIMATE, every 1 ms (R414, R415). -/
def execEvPcapEstimate (e : PowerEstimate) (s : State) : Host.Outcome State Fault Refusal :=
  .next ((s.capVis e.vis).limitPower e.device e.loads)

/-- THERMAL_TRIP: every core island at OP0, and MEVT bit 6. -/
def execEvThermalTrip (s : State) : Host.Outcome State Fault Refusal :=
  .next (((List.range 256).foldl (fun (s : State) c => s.setPoint c 0) { s with thermal := true } : State).setMevt 6)

end Sys2Proof.Machine
end

