-- ==== Sys2Proof/Machine/Boot.lean ====
section
/-! DEFINITION. Device reset and the boot: the ROM's stages, the monitor's translation, start record and strand (R408–R412,
R416–R419). -/

namespace Sys2Proof.Machine

/-! ### Device reset (R408, R416) -/

/-- The machine after power-on or device reset, with what lies outside it as it was: host, CXL and other W4s' memory, what was
sent, what happens next, and the number of retries. -/
def State.deviceReset (s : State) : State :=
  { State.reset with
    mem := s.mem.filter fun b => decide (2 ^ 49 ≤ b.1)
    tags := s.tags.filter fun t => decide (2 ^ 49 ≤ 128 * t.1)
    agenda := s.agenda, tick := s.tick, out := s.out
    boot := { State.reset.boot with retry := s.boot.retry } }

def execEvDeviceReset (s : State) : Host.Outcome State Fault Refusal := .next s.deviceReset

/-- THERMAL_RESET: after a trip, the device boots again. -/
def execEvThermalReset (s : State) : Host.Outcome State Fault Refusal := .next (if s.thermal then s.deviceReset else s)

/-! ### Stages 1 to 6 (Table 18.1) -/

def State.setBoot (s : State) (b : Boot) : State := { s with boot := b }

/-- The boot stands at a stage, not waiting and not halted. -/
def Boot.standsAt (b : Boot) (n : Nat) : Bool := b.stage == n && !b.waiting && !b.halted

/-- A retry (R409): the back-off timer runs, and then stage 2 begins again. -/
def Boot.retrying (b : Boot) (fail : Nat) : Boot :=
  { b with fail := if fail = 0 then b.fail else fail, retry := Nat.min 0xFFFF (b.retry + 1), consec := b.consec + 1, waiting := true }

/-- Seconds of the back-off timer that runs. -/
def Boot.backOff (b : Boot) : Nat := 2 ^ Nat.min 6 b.consec

def Boot.halt (b : Boot) (fail : Nat) : Boot := { b with fail, halted := true }

/-- BOOT_PUF, the work of stage 1, which a reset has not reached yet: E0 is up, and the UDS is derived; a third read that does not
reconstruct it halts. -/
def execEvBootPuf (ok : Bool) (s : State) : Host.Outcome State Fault Refusal :=
  let b := { s.boot with stage := Nat.max 1 s.boot.stage }
  .next (if !b.standsAt 1 then s
    else
      let s1 := { s with ports := Tab.put s.ports 0 { (Tab.get {} s.ports 0 : Port) with up := true } }
      if ok then s1.setBoot { b with stage := 2, uds := true }
      else if b.pufFails + 1 < 3 then s1.setBoot { b with pufFails := b.pufFails + 1 }
      else s1.setBoot ({ b with pufFails := b.pufFails + 1 }.halt 1))

def execEvBootDhcp (ok : Bool) (s : State) : Host.Outcome State Fault Refusal :=
  let b := s.boot
  .next (if b.standsAt 2 then s.setBoot (if ok then { b with stage := 3 } else b.retrying 0) else s)

/-- BOOT_FETCH: the image stands in on-stack DRAM of AD0 (log 115); one longer than 1 GiB counts as a failure of stage 4 (R417). -/
def execEvBootFetch (ok : Bool) (img : BootFile) (s : State) : Host.Outcome State Fault Refusal :=
  let b := s.boot
  .next (if b.standsAt 3 then
      s.setBoot (if !ok then b.retrying 0 else if 2 ^ 30 < img.len then b.retrying 2 else { b with stage := 4, image := img.held })
    else s)

/-- n bytes of a configuration block from an offset, as a number. -/
def field (bs : List Byte) (off n : Nat) : Nat := leNat ((bs.drop off).take n)

/-- R409, of an image in the form of R417 (log 114). -/
def accepted (c : ImageCheck) (f : BootFile) : Bool :=
  f.headerOk && c.rootHashes && c.mldsa && c.ecdsa && decide (c.minSvn ≤ f.svn)

/-- BOOT_VERIFY: the security version and the configuration block are those of the image. -/
def execEvBootVerify (c : ImageCheck) (s : State) : Host.Outcome State Fault Refusal :=
  let b := s.boot
  .next (if b.standsAt 4 then
      s.setBoot (if accepted c b.image then { b with stage := 5, imgSvn := b.image.svn, config := b.image.slice b.image.cfgOff 64 }
                 else b.retrying 2)
    else s)

/-- BOOT_RETRY: the timer expires. -/
def execEvBootRetry (s : State) : Host.Outcome State Fault Refusal :=
  .next (if s.boot.waiting && !s.boot.halted then s.setBoot { s.boot with stage := 2, waiting := false } else s)

/-- A die after BIST and self-repair: in service, held out, or failed (R411). What an earlier try of the boot found counts no more. -/
def dieTested (pass use : Bool) (repair : Nat) (d : Die) : Die :=
  if !pass then { d with state := .failed, errc := 3, admits := false, inServ := false, repair }
  else if !use then { d with state := .ready, errc := 0, admits := false, inServ := false, repair }
  else { d with state := .online, errc := 0, admits := true, inServ := true, repair }

/-- Dies in service. -/
def State.served (s : State) : List Nat := (List.range 4).filter fun d => (s.die d).inServ

/-- DIEEN of a configuration block (Table 18.3). -/
def cfgDieen (c : List Byte) : Nat := field c 2 1

/-- BOOT_BIST: without AD0, or with fewer than two array dies, the boot halts. `spare` tells the dies whose self-repair did not run
out of spare rows. -/
def execEvBootBist (pass spare : BitVec 4) (s : State) : Host.Outcome State Fault Refusal :=
  let b := s.boot
  let good := pass &&& spare
  .next (if !b.standsAt 5 then s
    else
      let s1 := (List.range 4).foldl (fun (s : State) d =>
        s.setDie d (dieTested (nbits good.toNat d 1 == 1) (nbits (cfgDieen b.config) d 1 == 1) (Config.repairRows s.tick d).toNat (s.die d))) s
      let b1 := { b with dieok := pass }
      s1.setBoot (if (s1.die 0).inServ && decide (2 ≤ s1.served.length) then { b1 with stage := 6 } else b1.halt 3))

/-- BOOT_DICE: the CDI is formed of the image and the UDS, which is erased. -/
def execEvBootDice (s : State) : Host.Outcome State Fault Refusal :=
  .next (if s.boot.standsAt 6 then s.setBoot { s.boot with stage := 7, cdi := some s.boot.image, uds := false } else s)

/-! ### The load image and the monitor's translation (R45, R418) -/

/-- The lowest multiple of n at or above a. -/
def alignUp (a n : Nat) : Nat := (a + n - 1) / n * n

/-- Sections from an offset on, each at the lowest multiple of 64 KiB and of its own alignment (R45). -/
def placeSections : Nat → List BootSection → List (Nat × BootSection)
  | _, [] => []
  | a, x :: xs =>
    let o := alignUp a (2 ^ Nat.max 16 x.align)
    (o, x) :: placeSections (o + x.size) xs

/-- The load image of the object: text, rodata, data and bss with their offsets. -/
def imageLayout (img : BootImage) : List (Nat × BootSection) :=
  placeSections 0 ((List.range 4).flatMap fun k => img.sections.filter fun x => x.kind == k)

/-- Bytes of the load image: the end of its last section, in whole 64 KiB pages. -/
def imageSize (img : BootImage) : Nat :=
  alignUp (((imageLayout img).getLast?.map fun x => x.1 + x.2.size).getD 0) 0x10000

/-- The VA and the DPA of the load image (R418). -/
def imageVa : Nat := 0x1_0000_0000
def imagePa : Nat := 0x100_0000

/-- The lines of a section that have a tag, as their numbers and tags. -/
def taggedLines (x : Nat × BootSection) : List (Nat × BitVec 16) := x.2.tags.map fun t => ((imagePa + x.1) / 128 + t.1, t.2)

/-- The image in memory: each section's bytes, with its relocations applied (R45, R418), and zeros past a narrow layout (R57). -/
def loadImage (img : BootImage) (m : Tab Byte) : Tab Byte :=
  (imageLayout img).foldl (fun m x =>
    let m1 := x.2.bytes.foldl (fun m b => Tab.set 0#8 m (imagePa + x.1 + b.1) b.2) m
    let m2 := x.2.relocs.foldl (fun m r => putBytes m (imagePa + x.1 + r.1) (natLe 8 (imageVa + r.2))) m1
    (taggedLines x).foldl (fun m t =>
      putBytes m (128 * t.1) (natLe 128 ({ data := bytesNat m (128 * t.1) 128, tag := t.2 } : LineV).clip.data)) m2) m

/-- DEVID, OPMAX, DPLIM and MENTRY of a configuration block (Table 18.3). -/
def cfgDevid (c : List Byte) : Nat := field c 0 2
def cfgOpmax (c : List Byte) : Nat := field c 3 1
def cfgDplim (c : List Byte) : Nat := field c 4 4
def cfgMentry (c : List Byte) : Nat := field c 8 8

/-- The configuration block is in range, and the object is one that it names and the part can run (Table 18.3, R417). -/
def configOk (c : List Byte) (img : BootImage) : Bool :=
  decide (cfgDevid c < 1024) && decide (cfgDieen c < 16) && cfgDieen c % 2 == 1 && decide (cfgOpmax c < 8)
    && decide (1000 ≤ cfgDplim c) && decide (cfgDplim c ≤ 3200) && field c 16 48 == 0
    && cfgMentry c == img.entry && decide (img.features < 256)

/-- A stage-1 leaf: permissions, G = 1 and U = 0, the size code of its level, and the address it maps. -/
def monLeaf (r w x nc ps : Bool) (lvl pa : Nat) : Nat :=
  1 + (if r then 2 else 0) + (if w then 4 else 0) + (if x then 8 else 0) + 0x20 + (4 - lvl) * 2 ^ 8
    + (if nc then 2 ^ 27 else 0) + (if ps then 2 ^ 28 else 0) + pa / 0x10000 * 2 ^ 29

/-- Tables being built: memory, and where the next table goes. -/
structure Tables where
  mem : Tab Byte
  next : Nat

/-- Tables stand from 0x20_0000 on, apart from the start record at 0x30_0000 (log 35). -/
def afterTable (pa : Nat) : Nat := if pa + 0x1000 = 0x30_0000 then 0x40_0000 else pa + 0x1000

/-- Enter a leaf for a VA at a level, from the table of level l on. -/
def Tables.enter (va lvl leaf : Nat) : Nat → Nat → Nat → Tables → Tables
  | 0, _, _, t => t
  | fuel + 1, l, table, t =>
    let slot := table + 8 * ((va / 2 ^ lvlShift l) % 2 ^ lvlBits l)
    if l = lvl then { t with mem := putBytes t.mem slot (natLe 8 leaf) }
    else
      let e := bytesNat t.mem slot 8
      if e % 2 = 1 then Tables.enter va lvl leaf fuel (l + 1) (nbits e 12 39 * 2 ^ 12) t
      else
        let t1 : Tables := { mem := putBytes t.mem slot (natLe 8 (t.next + 0x301)), next := afterTable t.next }
        Tables.enter va lvl leaf fuel (l + 1) t.next t1

/-- A mapping: VA, level and leaf. -/
def Tables.add (t : Tables) (p : Nat × Nat × Nat) : Tables := Tables.enter p.1 p.2.1 p.2.2 5 0 0x20_0000 t

/-- The pages of a section, by its kind: text X alone, rodata R, data and bss R and W. -/
def sectionPages (img : BootImage) (x : Nat × BootSection) : List (Nat × Nat × Nat) :=
  (List.range (alignUp x.2.size 0x10000 / 0x10000)).map fun i =>
    let o := x.1 + 0x10000 * i
    let k := x.2.kind
    let ps := k == 0 && img.patchSlots.any fun p => p / 0x10000 == i
    (imageVa + o, 4, monLeaf (k != 0) (decide (2 ≤ k)) (k == 0) false ps 4 (imagePa + o))

/-- The device-memory window without the load image, in the largest leaves that fit. -/
def windowPages (memBytes img : Nat) : List (Nat × Nat × Nat) :=
  let lo := imagePa
  let hi := imagePa + img
  let leaf := fun (lvl p : Nat) => (0x100_0000_0000 + p, lvl, monLeaf true true false false false lvl p)
  let clear := fun (p n : Nat) => decide (p + n ≤ lo) || decide (hi ≤ p)
  (List.range (memBytes / 2 ^ 30)).flatMap fun g =>
    let p := g * 2 ^ 30
    if clear p (2 ^ 30) then [leaf 2 p]
    else (List.range 512).flatMap fun m =>
      let q := p + m * 2 ^ 21
      if clear q (2 ^ 21) then [leaf 3 q]
      else (List.range 32).flatMap fun k =>
        let r := q + k * 2 ^ 16
        if clear r (2 ^ 16) then [leaf 4 r] else []

/-- The register window: R and W, NC. -/
def registerPages : List (Nat × Nat × Nat) :=
  (List.range 8).map fun i => (0x200_0000_0000 + i * 2 ^ 21, 3, monLeaf true true false true false 3 (2 ^ 48 + i * 2 ^ 21))

/-- The mappings of Table 18.8, all U = 0 and G = 1. -/
def imageMappings (img : BootImage) (memBytes : Nat) : List (Nat × Nat × Nat) :=
  (imageLayout img).flatMap (sectionPages img) ++ windowPages memBytes (imageSize img) ++ registerPages

/-- The CDI that stage 6 formed (R410; log 115). -/
def Boot.cdiBytes (b : Boot) : List Byte :=
  match b.cdi with
  | some f => natLe 48 (Config.cdi f.len f.bytes).toNat
  | none => List.replicate 48 0#8

/-- The start record (Table 18.9). -/
def startRecord (s : State) (img : BootKeys) (inServ : Nat) : List Byte :=
  let fix := fun (n : Nat) (bs : List Byte) => (bs ++ List.replicate n 0#8).take n
  natLe 2 1 ++ natLe 2 0 ++ natLe 4 (256 + img.cert.length) ++ s.boot.cdiBytes ++ natLe 8 s.memBytes ++ fix 48 img.aliasPriv
    ++ fix 97 img.aliasPub ++ natLe 3 0 ++ natLe 1 s.boot.dieok.toNat ++ natLe 1 inServ ++ natLe 2 s.boot.svn
    ++ natLe 8 imageVa ++ natLe 8 0x100_0000_0000 ++ natLe 8 0x200_0000_0000 ++ natLe 4 img.cert.length ++ natLe 12 0
    ++ img.cert

/-- A range of bytes written as data: its lines are clean. -/
def cleanLines (t : Tab (BitVec 16)) (pa n : Nat) : Tab (BitVec 16) :=
  (List.range ((n + 127) / 128)).foldl (fun t i => Tab.set tagReset t (pa / 128 + i) 0#16) t

/-- The tags of the image's lines: those of the object, and VCLS zero in .bss. -/
def imageTags (img : BootImage) (t : Tab (BitVec 16)) : Tab (BitVec 16) :=
  (imageLayout img).foldl (fun t x =>
    if x.2.kind == 3 then t
    else (List.range ((x.2.size + 127) / 128)).foldl (fun t i =>
      let ln := (imagePa + x.1) / 128 + i
      Tab.set tagReset t ln ((((taggedLines x).find? fun g => g.1 == ln).map fun g => g.2).getD 0#16)) t) t

/-- The monitor strand in its caravan of one team (R419), with its first pc. -/
def State.placeMonitor (s : State) (pc : Word) : State :=
  let vi0 := s.vi 0
  { s with
    strands := [(0, { pc, priv := .mon, s := [(1, 0x100_0030_0000#64)] })]
    teams := [(0, { core := some 0, strands := [0], places := 1 })]
    caravans := [(0, { vi := 0, monPriv := true, teams := [0],
                       wb := { entry := pc, args := 0x100_0030_0000#64, cls := 3, laneWeight := 15, diemask := 1#4 } })]
    nextSid := 1, nextTeam := 1, nextCaravan := 1, launchSeq := 1, admitSeq := 1, cur := 0, turnAt := 1023, cyc := [], tlb := []
    vis := Tab.put s.vis 0 { vi0 with vtbase := 0x20_0000#64, withheld := (0, 1), launched := 1 }
    boot := { s.boot with stage := 8, consec := 0 } }

/-- A VI whose quota record is at reset (Table 16.2, R412). -/
def Vi.fresh (v : Vi) : Vi :=
  let r : Vi := {}
  { v with q0 := r.q0, q1 := r.q1, q2 := r.q2, q3 := r.q3, q4 := r.q4, en := false, flrDone := false }

/-- Stage 7: the configuration block applied, and what the monitor finds in memory. -/
def State.configure (s : State) (keys : BootKeys) (img : BootImage) : State :=
  let ds := s.served
  let low := ds.headD 0
  let s0 := { s with
    devid := cfgDevid s.boot.config, dplim := cfgDplim s.boot.config, opInit := cfgOpmax s.boot.config, memBytes := 160 * 2 ^ 30 * ds.length, mevt := 0#64
    points := (List.range 256).foldl (fun t c => Tab.set 7 t c (cfgOpmax s.boot.config)) []
    homes := ((List.range 128).filter fun h => !ds.contains (h / 32)).map fun h => (h, 32 * low + h % 32)
    vis := s.vis.map fun p => (p.1, p.2.fresh)
    boot := { s.boot with svn := s.boot.imgSvn } }
  let rec' := startRecord s0 keys (ds.foldl (fun a d => a + 2 ^ d) 0)
  let t := (imageMappings img s0.memBytes).foldl Tables.add { mem := s0.mem, next := 0x20_1000 }
  let m := loadImage img (putBytes t.mem 0x30_0000 rec')
  { s0 with mem := m, tags := imageTags img (cleanLines (cleanLines s0.tags 0x20_0000 (t.next - 0x20_0000)) 0x30_0000 rec'.length) }

/-- The object fits into device memory behind its load address. -/
def State.imageFits (s : State) (img : BootImage) : Bool := decide (imagePa + imageSize img ≤ 160 * 2 ^ 30 * s.served.length)

/-- MONITOR_START: a field out of range, an entry other than the object's, a feature that the part lacks, or an object that is not in
its form sets FAIL 3. -/
def execEvMonitorStart (keys : BootKeys) (s : State) : Host.Outcome State Fault Refusal :=
  let f := s.boot.image
  .next (if !s.boot.standsAt 7 then s
    else if !configOk s.boot.config f.object || !f.objectOk || !s.imageFits f.object then s.setBoot (s.boot.retrying 3)
    else (s.configure keys f.object).placeMonitor (w64 (imageVa + f.object.entry)))

end Sys2Proof.Machine
end

