-- ==== Sys2Proof/Machine/Control.lean ====
section
/-! DEFINITION. Jumps and branches (R24, R134, R135), TRAP, TRET and BRK (R401, R402). -/

namespace Sys2Proof.Machine

/-- The target of R24: PC + 8 times a signed offset. -/
def target {w : Nat} (pc : Word) (off : BitVec w) : Word := pc + 8#64 * off.signExtend 64

def execJmp (off : BitVec 44) (s : State) : Host.Outcome State Fault Refusal :=
  issue (.jmp off) s [] fun c => .ok { s := c.s, pc := some (target c.me.pc off) }

def execJal (d : Opnd) (off : BitVec 44) (s : State) : Host.Outcome State Fault Refusal :=
  issue (.jal d off) s [wrS d] fun c =>
    .ok { s := c.putS c.s (c.me.pc + 8#64), pc := some (target c.me.pc off) }

def execJr (d a : Opnd) (imm : BitVec 16) (s : State) : Host.Outcome State Fault Refusal :=
  issue (.jr d a imm) s [rdS .a a, wrS d] fun c => do
    let t := c.s_ .a + imm.signExtend 64
    ensure (t.extractLsb' 0 3 == 0#3) .misaligned t
    .ok { s := c.putS c.s (c.me.pc + 8#64), pc := some t }

/-- A branch (R135): in format B the sources stand in slots A and B. -/
def branch (i : Instr) (a b : Opnd) (off : BitVec 37) (p : Word → Word → Bool) (s : State) :
    Host.Outcome State Fault Refusal :=
  issue i s [rdS .a a, rdS .b b] fun c =>
    .ok { s := c.s, pc := if p (c.s_ .a) (c.s_ .b) then some (target c.me.pc off) else none }

def execBeq (a b : Opnd) (off : BitVec 37) (s : State) : Host.Outcome State Fault Refusal :=
  branch (.beq a b off) a b off (fun x y => x == y) s

def execBne (a b : Opnd) (off : BitVec 37) (s : State) : Host.Outcome State Fault Refusal :=
  branch (.bne a b off) a b off (fun x y => x != y) s

def execBlt (a b : Opnd) (off : BitVec 37) (s : State) : Host.Outcome State Fault Refusal :=
  branch (.blt a b off) a b off (fun x y => x.slt y) s

def execBge (a b : Opnd) (off : BitVec 37) (s : State) : Host.Outcome State Fault Refusal :=
  branch (.bge a b off) a b off (fun x y => !x.slt y) s

def execBltu (a b : Opnd) (off : BitVec 37) (s : State) : Host.Outcome State Fault Refusal :=
  branch (.bltu a b off) a b off (fun x y => x.ult y) s

def execBgeu (a b : Opnd) (off : BitVec 37) (s : State) : Host.Outcome State Fault Refusal :=
  branch (.bgeu a b off) a b off (fun x y => !x.ult y) s

/-- TRAP raises TRAPCALL with TVAL0 = IMM16; delivery saves PC + 8 (R401). -/
def execTrap (imm : BitVec 16) (s : State) : Host.Outcome State Fault Refusal :=
  issue (.trap imm) s [] fun _ => raise .trapcall (imm.setWidth 64)

/-- BRK raises BREAKPOINT with TVAL0 = IMM16 (R401). -/
def execBrk (imm : BitVec 16) (s : State) : Host.Outcome State Fault Refusal :=
  issue (.brk imm) s [] fun _ => raise .breakpoint (imm.setWidth 64)

/-- TRET (R402). -/
def execTret (s : State) : Host.Outcome State Fault Refusal :=
  issue .tret s [] fun c =>
    match c.s.tret with
    | none => raise .privilege (wordOf .tret)
    | some s' => .ok { s := s', pc := some s'.me.pc, keepT := true }

end Sys2Proof.Machine
end

