-- ==== Sys2Proof/Machine/Queues.lean ====
section
/-! DEFINITION. QBIND, QCLOSE and QSTAT (R208, R209, R214–R216). -/

namespace Sys2Proof.Machine

/-- Queue q is within CR.QMASK. -/
def Ctx.queueHeld (c : Ctx) (q : BitVec 3) : Bool := decide (q.toNat < c.s.myCar.wb.queues)

/-- Units of the pool that a binding draws (R209). -/
def Queue.units (x : Queue) : Nat := if x.vec then x.depth else 1

/-- Units that the team's other queues draw. -/
def Team.unitsUsed (tm : Team) (but : Nat) : Nat :=
  (tm.queues.filter fun (p : Nat × Queue) => p.1 != but).foldl (fun a p => a + p.2.units) 0

/-- The binding of a configuration word (Table 8.3). -/
def Queue.ofWord (w : Word) : Queue :=
  { vec := bitAt w 8, depth := bits w 0 5 + 1, prod := w.extractLsb' 16 16, cons := w.extractLsb' 32 16 }

/-- Bits of the word that must be zero, and the masks (R214 item 3). -/
def qbindBad (w : Word) (strands : Nat) : Bool :=
  bits w 5 3 != 0 || bits w 9 7 != 0 || bits w 48 16 != 0 || bits w 16 16 == 0 || bits w 32 16 == 0
    || decide (2 ^ strands ≤ bits w 16 16) || decide (2 ^ strands ≤ bits w 32 16)

def execQbind (d : BitVec 3) (a : Opnd) (s : State) : Host.Outcome State Fault Refusal :=
  issue (.qbind d a) s [rdS .a a] fun c => do
    let q := d.toNat
    let w := c.s_ .a
    let tm := c.s.myTeam
    ensure (c.queueHeld d) .access (w64 q) 0#64
    ensure (match Tab.find tm.queues q with | some x => x.entries.isEmpty | none => true) .access (w64 q) 1#64
    ensure (w == 0#64 || !qbindBad w c.s.myCar.wb.strands) .bound 0xFD#64 w 16#64
    if w == 0#64 then done (c.s.setMyTeam { tm with queues := Tab.del tm.queues q })
    else
      let x := Queue.ofWord w
      let free := 28 * c.s.myCar.wb.queues - tm.unitsUsed q
      ensure (x.units ≤ free) .capacity (w64 x.units) (w64 free)
      done (c.s.setMyTeam { tm with queues := Tab.put tm.queues q x })

def execQclose (a : BitVec 3) (s : State) : Host.Outcome State Fault Refusal :=
  issue (.qclose a) s [] fun c => do
    let q := a.toNat
    let tm := c.s.myTeam
    match Tab.find tm.queues q, c.queueHeld a with
    | some x, true =>
      ensure (nbits x.prod.toNat c.me.idx 1 == 1) .access (w64 q) 2#64
      done (c.s.setMyTeam { tm with
        queues := Tab.put tm.queues q { x with pclosed := x.pclosed ||| BitVec.ofNat 16 (2 ^ c.me.idx) } })
    | _, _ => raise .access (w64 q) 0#64

/-- The result of QSTAT (Table 8.3). -/
def State.qstat (s : State) (tm : Team) (x : Queue) : Word :=
  let n := x.entries.length
  w64 (x.depth - 1 + n / 32 % 8 * 2 ^ 5 + (if x.vec then 2 ^ 8 else 0) + 2 ^ 9
    + (if s.queueClosed tm x then 2 ^ 10 else 0) + n % 32 * 2 ^ 11 + x.prod.toNat * 2 ^ 16 + x.cons.toNat * 2 ^ 32
    + x.pclosed.toNat * 2 ^ 48)

def execQstat (d : Opnd) (a : BitVec 3) (s : State) : Host.Outcome State Fault Refusal :=
  issue (.qstat d a) s [wrS d] fun c => do
    ensure (c.queueHeld a) .access (w64 a.toNat) 0#64
    done (c.putS c.s (match Tab.find c.s.myTeam.queues a.toNat with
      | some x => c.s.qstat c.s.myTeam x
      | none => 0#64))

end Sys2Proof.Machine
end

