-- ==== Sys2Proof/Machine/ScalarFp.lean ====
section
/-! DEFINITION. The scalar floating-point instructions (R136–R139, Table 5.8). -/

namespace Sys2Proof

/-- The format of a scalar type (R32). -/
def FTy.fmt : FTy → FmtCode
  | .f64 => 0x0C#6 | .f32 => 0x0B#6 | .f16 => 0x0A#6 | .bf16 => 0x09#6

end Sys2Proof

namespace Sys2Proof.Machine

/-- The value of a scalar operand: the low bits of its register (R136). -/
def fval (t : FTy) (w : Word) : Val := decodeFloat t.fmt (w.toNat % 2 ^ elemBits t.fmt)

/-- A result rounded once into its type, zero-extended, with the flags of the operation and of the rounding (R136). -/
def fput (c : Ctx) (t : FTy) (m : RMode) (r : Val × Flags) : Res Done :=
  let (code, fl) := roundTo t.fmt m r.1
  done ((c.putS c.s (w64 code)).raise (r.2 ||| fl))

/-- A floating form with two sources. -/
def fp2 (i : Instr) (t : FTy) (rm : Rm) (d a b : Opnd) (f : RMode → Val → Val → Val × Flags) (s : State) :
    Host.Outcome State Fault Refusal :=
  issue i s [rdS .a a, rdS .b b, wrS d] fun c =>
    let m := c.me.rmode rm
    fput c t m (f m (fval t (c.s_ .a)) (fval t (c.s_ .b)))

def execFadd (t : FTy) (rm : Rm) (d a b : Opnd) (s : State) : Host.Outcome State Fault Refusal :=
  fp2 (.fadd t rm d a b) t rm d a b addV s

def execFsub (t : FTy) (rm : Rm) (d a b : Opnd) (s : State) : Host.Outcome State Fault Refusal :=
  fp2 (.fsub t rm d a b) t rm d a b subV s

def execFmul (t : FTy) (rm : Rm) (d a b : Opnd) (s : State) : Host.Outcome State Fault Refusal :=
  fp2 (.fmul t rm d a b) t rm d a b (fun _ => mulV) s

def execFdiv (t : FTy) (rm : Rm) (d a b : Opnd) (s : State) : Host.Outcome State Fault Refusal :=
  fp2 (.fdiv t rm d a b) t rm d a b (fun _ => divV) s

def execFmin (t : FTy) (d a b : Opnd) (s : State) : Host.Outcome State Fault Refusal :=
  fp2 (.fmin t d a b) t .fctl d a b (fun _ => minV) s

def execFmax (t : FTy) (d a b : Opnd) (s : State) : Host.Outcome State Fault Refusal :=
  fp2 (.fmax t d a b) t .fctl d a b (fun _ => maxV) s

def execFsqrt (t : FTy) (rm : Rm) (d a : Opnd) (s : State) : Host.Outcome State Fault Refusal :=
  issue (.fsqrt t rm d a) s [rdS .a a, wrS d] fun c => fput c t (c.me.rmode rm) (sqrtV (fval t (c.s_ .a)))

def execFma (t : FTy) (rm : Rm) (d a b x : Opnd) (s : State) : Host.Outcome State Fault Refusal :=
  issue (.fma t rm d a b x) s [rdS .a a, rdS .b b, rdS .c x, wrS d] fun c =>
    let m := c.me.rmode rm
    fput c t m (fmaV m (fval t (c.s_ .a)) (fval t (c.s_ .b)) (fval t (c.s_ .c)))

/-- R137. -/
def execFcmp (t : FTy) (cond : BitVec 3) (d a b : Opnd) (s : State) : Host.Outcome State Fault Refusal :=
  issue (.fcmp t cond d a b) s [rdS .a a, rdS .b b, wrS d] fun c =>
    let r := cmpV cond.toNat (fval t (c.s_ .a)) (fval t (c.s_ .b))
    done ((c.putS c.s (if r.1 then 1#64 else 0#64)).raise r.2)

/-- R138. -/
def execFcvt (t : FTy) (rm : Rm) (kind : FCvtKind) (d a : Opnd) (s : State) : Host.Outcome State Fault Refusal :=
  issue (.fcvt t rm kind d a) s [rdS .a a, wrS d] fun c =>
    let m := c.me.rmode rm
    let x := c.s_ .a
    let toInt := fun (f : FmtCode) =>
      let r := intConvert f m false (fval t x)
      done ((c.putS c.s (w64 r.1)).raise r.2)
    match kind with
    | .flt src => let v := fval src x; fput c t m (v, sigNV [v])
    | .fromI => fput c t m (Val.ofInt x.toInt, 0#7)
    | .fromN => fput c t m (Val.ofNat x.toNat, 0#7)
    | .toI => toInt 0x04#6
    | .toN => toInt 0x08#6

/-- The class word of R139. -/
def classWord (t : FTy) (w : Word) : Word :=
  let f := t.fmt
  let (eb, m) := floatShape f
  let code := w.toNat % 2 ^ elemBits f
  let sg := nbits code (m + eb) 1
  match decodeFloat f code with
  | .fin _ n d =>
    let kind := if n = 0 then 0 else if nbits code m eb = 0 then 1 else 2
    let whole := if n % d = 0 then 1 else 0
    let e : Int := if n = 0 then 0 else ilog2 n d
    w64 (kind + 8 * sg + 16 * whole + 32 * (e % 4096).toNat)
  | .inf _ => w64 (3 + 8 * sg)
  | .nan sig => w64 ((if sig then 5 else 4) + 8 * sg)
  | .invalid => 0#64

def execFclass (t : FTy) (d a : Opnd) (s : State) : Host.Outcome State Fault Refusal :=
  issue (.fclass t d a) s [rdS .a a, wrS d] fun c => done (c.putS c.s (classWord t (c.s_ .a)))

end Sys2Proof.Machine
end

