-- ==== Sys2Proof/Machine/ScalarInt.lean ====
section
/-! DEFINITION. The scalar integer instructions and the load-immediate forms (R130–R133, Tables 5.5 and 5.6). -/

namespace Sys2Proof.Machine

/-- Bits 127–64 of the signed product. -/
def mulHigh (a b : Word) : Word := BitVec.ofInt 64 (a.toInt * b.toInt / 2 ^ 64)

/-- Bits 127–64 of the unsigned product. -/
def mulHighU (a b : Word) : Word := BitVec.ofNat 64 (a.toNat * b.toNat / 2 ^ 64)

/-- −2^63, whose quotient by −1 does not fit (R131). -/
def divOver (a b : Word) : Bool := a == 0x8000_0000_0000_0000#64 && b == 0xFFFF_FFFF_FFFF_FFFF#64

/-- DIV with its flags (R131). -/
def divS (a b : Word) : Word × Flags :=
  if b == 0#64 then (0xFFFF_FFFF_FFFF_FFFF#64, fDZ)
  else if divOver a b then (0x7FFF_FFFF_FFFF_FFFF#64, fSAT)
  else (BitVec.ofInt 64 (a.toInt.tdiv b.toInt), 0#7)

def divU (a b : Word) : Word × Flags :=
  if b == 0#64 then (0xFFFF_FFFF_FFFF_FFFF#64, fDZ) else (BitVec.ofNat 64 (a.toNat / b.toNat), 0#7)

def remS (a b : Word) : Word × Flags :=
  if b == 0#64 then (a, fDZ) else if divOver a b then (0#64, 0#7) else (BitVec.ofInt 64 (a.toInt.tmod b.toInt), 0#7)

def remU (a b : Word) : Word × Flags :=
  if b == 0#64 then (a, fDZ) else (BitVec.ofNat 64 (a.toNat % b.toNat), 0#7)

/-- The shift amount b[5:0]. -/
def shAmt (b : Word) : Nat := b.toNat % 64

def boolW (p : Bool) : Word := if p then 1#64 else 0#64

/-- Leading zero bits; 64 for zero. -/
def clzW (a : Word) : Word := if a == 0#64 then 64#64 else BitVec.ofNat 64 (63 - a.toNat.log2)

/-- Trailing zero bits from bit k on; 64 where none is set. -/
def ctzFrom (n : Nat) : Nat → Nat → Nat
  | 0, _ => 64
  | fuel + 1, k => if n / 2 ^ k % 2 = 1 then k else ctzFrom n fuel (k + 1)

def ctzW (a : Word) : Word := BitVec.ofNat 64 (ctzFrom a.toNat 64 0)

/-- The number of one bits below bit n. -/
def popNat (x : Nat) (n : Nat) : Nat := (List.range n).foldl (fun s k => s + x / 2 ^ k % 2) 0

def popW (a : Word) : Word := BitVec.ofNat 64 (popNat a.toNat 64)

/-- BFX: the field of len bits at pos, zero- or sign-extended. -/
def bfxW (a : Word) (pos len : Nat) (sx : Bool) : Word :=
  let f := bits a pos len
  if sx && f / 2 ^ (len - 1) % 2 = 1 then BitVec.ofNat 64 (f + 2 ^ 64 - 2 ^ len) else BitVec.ofNat 64 f

/-- A scalar form with two sources, the second a register or an immediate (R130). -/
def alu2 (i : Instr) (d a : Opnd) (b : SrcB) (f : Word → Word → Word × Flags) (s : State) :
    Host.Outcome State Fault Refusal :=
  issue i s ([rdS .a a] ++ srcBUse b ++ [wrS d]) fun c =>
    let r := f (c.s_ .a) (c.sB b)
    done ((c.putS c.s r.1).raise r.2)

/-- A scalar form with one source that sets no flag. -/
def alu1 (i : Instr) (d a : Opnd) (f : Word → Word) (s : State) : Host.Outcome State Fault Refusal :=
  issue i s [rdS .a a, wrS d] fun c => done (c.putS c.s (f (c.s_ .a)))

def execAdd (d a : Opnd) (b : SrcB) (s : State) : Host.Outcome State Fault Refusal :=
  alu2 (.add d a b) d a b (fun a b => (a + b, 0#7)) s

def execSub (d a : Opnd) (b : SrcB) (s : State) : Host.Outcome State Fault Refusal :=
  alu2 (.sub d a b) d a b (fun a b => (a - b, 0#7)) s

def execMul (d a : Opnd) (b : SrcB) (s : State) : Host.Outcome State Fault Refusal :=
  alu2 (.mul d a b) d a b (fun a b => (a * b, 0#7)) s

def execMulh (d a : Opnd) (b : SrcB) (s : State) : Host.Outcome State Fault Refusal :=
  alu2 (.mulh d a b) d a b (fun a b => (mulHigh a b, 0#7)) s

def execMulhu (d a : Opnd) (b : SrcB) (s : State) : Host.Outcome State Fault Refusal :=
  alu2 (.mulhu d a b) d a b (fun a b => (mulHighU a b, 0#7)) s

def execDiv (d a : Opnd) (b : SrcB) (s : State) : Host.Outcome State Fault Refusal :=
  alu2 (.div d a b) d a b divS s

def execDivu (d a : Opnd) (b : SrcB) (s : State) : Host.Outcome State Fault Refusal :=
  alu2 (.divu d a b) d a b divU s

def execRem (d a : Opnd) (b : SrcB) (s : State) : Host.Outcome State Fault Refusal :=
  alu2 (.rem d a b) d a b remS s

def execRemu (d a : Opnd) (b : SrcB) (s : State) : Host.Outcome State Fault Refusal :=
  alu2 (.remu d a b) d a b remU s

def execAnd (d a : Opnd) (b : SrcB) (s : State) : Host.Outcome State Fault Refusal :=
  alu2 (.and d a b) d a b (fun a b => (a &&& b, 0#7)) s

def execOr (d a : Opnd) (b : SrcB) (s : State) : Host.Outcome State Fault Refusal :=
  alu2 (.or d a b) d a b (fun a b => (a ||| b, 0#7)) s

def execXor (d a : Opnd) (b : SrcB) (s : State) : Host.Outcome State Fault Refusal :=
  alu2 (.xor d a b) d a b (fun a b => (a ^^^ b, 0#7)) s

def execShl (d a : Opnd) (b : SrcB) (s : State) : Host.Outcome State Fault Refusal :=
  alu2 (.shl d a b) d a b (fun a b => (a <<< shAmt b, 0#7)) s

def execShr (d a : Opnd) (b : SrcB) (s : State) : Host.Outcome State Fault Refusal :=
  alu2 (.shr d a b) d a b (fun a b => (a >>> shAmt b, 0#7)) s

def execSra (d a : Opnd) (b : SrcB) (s : State) : Host.Outcome State Fault Refusal :=
  alu2 (.sra d a b) d a b (fun a b => (a.sshiftRight (shAmt b), 0#7)) s

def execSlt (d a : Opnd) (b : SrcB) (s : State) : Host.Outcome State Fault Refusal :=
  alu2 (.slt d a b) d a b (fun a b => (boolW (a.slt b), 0#7)) s

def execSltu (d a : Opnd) (b : SrcB) (s : State) : Host.Outcome State Fault Refusal :=
  alu2 (.sltu d a b) d a b (fun a b => (boolW (a.ult b), 0#7)) s

def execMin (d a : Opnd) (b : SrcB) (s : State) : Host.Outcome State Fault Refusal :=
  alu2 (.min d a b) d a b (fun a b => (if a.slt b then a else b, 0#7)) s

def execMax (d a : Opnd) (b : SrcB) (s : State) : Host.Outcome State Fault Refusal :=
  alu2 (.max d a b) d a b (fun a b => (if b.slt a then a else b, 0#7)) s

def execMinu (d a : Opnd) (b : SrcB) (s : State) : Host.Outcome State Fault Refusal :=
  alu2 (.minu d a b) d a b (fun a b => (if a.ult b then a else b, 0#7)) s

def execMaxu (d a : Opnd) (b : SrcB) (s : State) : Host.Outcome State Fault Refusal :=
  alu2 (.maxu d a b) d a b (fun a b => (if b.ult a then a else b, 0#7)) s

def execClz (d a : Opnd) (s : State) : Host.Outcome State Fault Refusal := alu1 (.clz d a) d a clzW s

def execCtz (d a : Opnd) (s : State) : Host.Outcome State Fault Refusal := alu1 (.ctz d a) d a ctzW s

def execPopc (d a : Opnd) (s : State) : Host.Outcome State Fault Refusal := alu1 (.popc d a) d a popW s

/-- R130, R132: LEN is len1 + 1. -/
def execBfx (d a : Opnd) (pos len1 : BitVec 6) (sx : Bool) (s : State) : Host.Outcome State Fault Refusal :=
  alu1 (.bfx d a pos len1 sx) d a (fun x => bfxW x pos.toNat (len1.toNat + 1) sx) s

def execBfi (d a b : Opnd) (pos len1 : BitVec 6) (s : State) : Host.Outcome State Fault Refusal :=
  issue (.bfi d a b pos len1) s [rdS .a a, rdS .b b, wrS d] fun c =>
    done (c.putS c.s (setBits (c.s_ .a) pos.toNat (len1.toNat + 1) (c.s_ .b).toNat))

def execSel (d a b x : Opnd) (s : State) : Host.Outcome State Fault Refusal :=
  issue (.sel d a b x) s [rdS .a a, rdS .b b, rdS .c x, wrS d] fun c =>
    done (c.putS c.s (if c.s_ .c != 0#64 then c.s_ .a else c.s_ .b))

/-- R133. -/
def execLi (d : Opnd) (imm : BitVec 37) (s : State) : Host.Outcome State Fault Refusal :=
  issue (.li d imm) s [wrS d] fun c => done (c.putS c.s (imm.signExtend 64))

/-- R133. -/
def execLih (d a : Opnd) (imm : BitVec 27) (s : State) : Host.Outcome State Fault Refusal :=
  alu1 (.lih d a imm) d a (fun x => imm ++ x.extractLsb' 0 37) s

end Sys2Proof.Machine
end

