-- ==== Sys2Proof/Machine/Dispatch.lean ====
section
/-! DEFINITION. Which meaning each operation has. -/

namespace Sys2Proof.Machine

/-- The effect of an operation: an instruction acts for the strand `cur`, an event for the machine. -/
def exec (i : Instr) (s : State) : Host.Outcome State Fault Refusal :=
  match i with
  | .add x0 x1 x2 => Sys2Proof.Machine.execAdd x0 x1 x2 s
  | .sub x0 x1 x2 => Sys2Proof.Machine.execSub x0 x1 x2 s
  | .mul x0 x1 x2 => Sys2Proof.Machine.execMul x0 x1 x2 s
  | .mulh x0 x1 x2 => Sys2Proof.Machine.execMulh x0 x1 x2 s
  | .mulhu x0 x1 x2 => Sys2Proof.Machine.execMulhu x0 x1 x2 s
  | .div x0 x1 x2 => Sys2Proof.Machine.execDiv x0 x1 x2 s
  | .divu x0 x1 x2 => Sys2Proof.Machine.execDivu x0 x1 x2 s
  | .rem x0 x1 x2 => Sys2Proof.Machine.execRem x0 x1 x2 s
  | .remu x0 x1 x2 => Sys2Proof.Machine.execRemu x0 x1 x2 s
  | .and x0 x1 x2 => Sys2Proof.Machine.execAnd x0 x1 x2 s
  | .or x0 x1 x2 => Sys2Proof.Machine.execOr x0 x1 x2 s
  | .xor x0 x1 x2 => Sys2Proof.Machine.execXor x0 x1 x2 s
  | .shl x0 x1 x2 => Sys2Proof.Machine.execShl x0 x1 x2 s
  | .shr x0 x1 x2 => Sys2Proof.Machine.execShr x0 x1 x2 s
  | .sra x0 x1 x2 => Sys2Proof.Machine.execSra x0 x1 x2 s
  | .slt x0 x1 x2 => Sys2Proof.Machine.execSlt x0 x1 x2 s
  | .sltu x0 x1 x2 => Sys2Proof.Machine.execSltu x0 x1 x2 s
  | .min x0 x1 x2 => Sys2Proof.Machine.execMin x0 x1 x2 s
  | .max x0 x1 x2 => Sys2Proof.Machine.execMax x0 x1 x2 s
  | .minu x0 x1 x2 => Sys2Proof.Machine.execMinu x0 x1 x2 s
  | .maxu x0 x1 x2 => Sys2Proof.Machine.execMaxu x0 x1 x2 s
  | .clz x0 x1 => Sys2Proof.Machine.execClz x0 x1 s
  | .ctz x0 x1 => Sys2Proof.Machine.execCtz x0 x1 s
  | .popc x0 x1 => Sys2Proof.Machine.execPopc x0 x1 s
  | .bfx x0 x1 x2 x3 x4 => Sys2Proof.Machine.execBfx x0 x1 x2 x3 x4 s
  | .bfi x0 x1 x2 x3 x4 => Sys2Proof.Machine.execBfi x0 x1 x2 x3 x4 s
  | .sel x0 x1 x2 x3 => Sys2Proof.Machine.execSel x0 x1 x2 x3 s
  | .li x0 x1 => Sys2Proof.Machine.execLi x0 x1 s
  | .lih x0 x1 x2 => Sys2Proof.Machine.execLih x0 x1 x2 s
  | .jmp x0 => Sys2Proof.Machine.execJmp x0 s
  | .jal x0 x1 => Sys2Proof.Machine.execJal x0 x1 s
  | .jr x0 x1 x2 => Sys2Proof.Machine.execJr x0 x1 x2 s
  | .beq x0 x1 x2 => Sys2Proof.Machine.execBeq x0 x1 x2 s
  | .bne x0 x1 x2 => Sys2Proof.Machine.execBne x0 x1 x2 s
  | .blt x0 x1 x2 => Sys2Proof.Machine.execBlt x0 x1 x2 s
  | .bge x0 x1 x2 => Sys2Proof.Machine.execBge x0 x1 x2 s
  | .bltu x0 x1 x2 => Sys2Proof.Machine.execBltu x0 x1 x2 s
  | .bgeu x0 x1 x2 => Sys2Proof.Machine.execBgeu x0 x1 x2 s
  | .fadd x0 x1 x2 x3 x4 => Sys2Proof.Machine.execFadd x0 x1 x2 x3 x4 s
  | .fsub x0 x1 x2 x3 x4 => Sys2Proof.Machine.execFsub x0 x1 x2 x3 x4 s
  | .fmul x0 x1 x2 x3 x4 => Sys2Proof.Machine.execFmul x0 x1 x2 x3 x4 s
  | .fdiv x0 x1 x2 x3 x4 => Sys2Proof.Machine.execFdiv x0 x1 x2 x3 x4 s
  | .fsqrt x0 x1 x2 x3 => Sys2Proof.Machine.execFsqrt x0 x1 x2 x3 s
  | .fma x0 x1 x2 x3 x4 x5 => Sys2Proof.Machine.execFma x0 x1 x2 x3 x4 x5 s
  | .fmin x0 x1 x2 x3 => Sys2Proof.Machine.execFmin x0 x1 x2 x3 s
  | .fmax x0 x1 x2 x3 => Sys2Proof.Machine.execFmax x0 x1 x2 x3 s
  | .fcmp x0 x1 x2 x3 x4 => Sys2Proof.Machine.execFcmp x0 x1 x2 x3 x4 s
  | .fcvt x0 x1 x2 x3 x4 => Sys2Proof.Machine.execFcvt x0 x1 x2 x3 x4 s
  | .fclass x0 x1 x2 => Sys2Proof.Machine.execFclass x0 x1 x2 s
  | .ld x0 x1 x2 x3 x4 x5 => Sys2Proof.Machine.execLd x0 x1 x2 x3 x4 x5 s
  | .st x0 x1 x2 x3 x4 x5 => Sys2Proof.Machine.execSt x0 x1 x2 x3 x4 x5 s
  | .stPatch x0 x1 x2 x3 x4 x5 => Sys2Proof.Machine.execStPatch x0 x1 x2 x3 x4 x5 s
  | .amo x0 x1 x2 x3 x4 x5 x6 => Sys2Proof.Machine.execAmo x0 x1 x2 x3 x4 x5 x6 s
  | .cas x0 x1 x2 x3 x4 x5 => Sys2Proof.Machine.execCas x0 x1 x2 x3 x4 x5 s
  | .fence x0 x1 => Sys2Proof.Machine.execFence x0 x1 s
  | .lsync => Sys2Proof.Machine.execLsync s
  | .flush x0 x1 x2 x3 => Sys2Proof.Machine.execFlush x0 x1 x2 x3 s
  | .inval x0 x1 x2 x3 => Sys2Proof.Machine.execInval x0 x1 x2 x3 s
  | .ixset x0 x1 => Sys2Proof.Machine.execIxset x0 x1 s
  | .ixget x0 x1 => Sys2Proof.Machine.execIxget x0 x1 s
  | .ixadv x0 x1 => Sys2Proof.Machine.execIxadv x0 x1 s
  | .ixoff x0 x1 => Sys2Proof.Machine.execIxoff x0 x1 s
  | .crd x0 x1 => Sys2Proof.Machine.execCrd x0 x1 s
  | .cwr x0 x1 => Sys2Proof.Machine.execCwr x0 x1 s
  | .crsw x0 x1 x2 => Sys2Proof.Machine.execCrsw x0 x1 x2 s
  | .vsetl x0 x1 x2 => Sys2Proof.Machine.execVsetl x0 x1 x2 s
  | .vgetcap x0 x1 => Sys2Proof.Machine.execVgetcap x0 x1 s
  | .palsel x0 => Sys2Proof.Machine.execPalsel x0 s
  | .palrd x0 x1 => Sys2Proof.Machine.execPalrd x0 x1 s
  | .palwr x0 x1 => Sys2Proof.Machine.execPalwr x0 x1 s
  | .getid x0 x1 => Sys2Proof.Machine.execGetid x0 x1 s
  | .heartbeat x0 => Sys2Proof.Machine.execHeartbeat x0 s
  | .vtag x0 x1 x2 => Sys2Proof.Machine.execVtag x0 x1 x2 s
  | .vgtag x0 x1 x2 => Sys2Proof.Machine.execVgtag x0 x1 x2 s
  | .vcvt x0 x1 x2 x3 x4 => Sys2Proof.Machine.execVcvt x0 x1 x2 x3 x4 s
  | .vresc x0 x1 x2 x3 x4 => Sys2Proof.Machine.execVresc x0 x1 x2 x3 x4 s
  | .vvalid x0 x1 x2 => Sys2Proof.Machine.execVvalid x0 x1 x2 s
  | .vsave x0 x1 x2 x3 x4 x5 => Sys2Proof.Machine.execVsave x0 x1 x2 x3 x4 x5 s
  | .vrstr x0 x1 x2 x3 x4 x5 => Sys2Proof.Machine.execVrstr x0 x1 x2 x3 x4 x5 s
  | .vmov x0 x1 x2 x3 x4 => Sys2Proof.Machine.execVmov x0 x1 x2 x3 x4 s
  | .vsplat x0 x1 x2 x3 x4 x5 => Sys2Proof.Machine.execVsplat x0 x1 x2 x3 x4 x5 s
  | .viota x0 x1 x2 x3 x4 => Sys2Proof.Machine.execViota x0 x1 x2 x3 x4 s
  | .vext x0 x1 x2 x3 => Sys2Proof.Machine.execVext x0 x1 x2 x3 s
  | .vins x0 x1 x2 x3 => Sys2Proof.Machine.execVins x0 x1 x2 x3 s
  | .vadd x0 x1 x2 x3 x4 x5 x6 => Sys2Proof.Machine.execVadd x0 x1 x2 x3 x4 x5 x6 s
  | .vsub x0 x1 x2 x3 x4 x5 x6 => Sys2Proof.Machine.execVsub x0 x1 x2 x3 x4 x5 x6 s
  | .vmul x0 x1 x2 x3 x4 x5 x6 => Sys2Proof.Machine.execVmul x0 x1 x2 x3 x4 x5 x6 s
  | .vfma x0 x1 x2 x3 x4 x5 x6 x7 => Sys2Proof.Machine.execVfma x0 x1 x2 x3 x4 x5 x6 x7 s
  | .vmin x0 x1 x2 x3 x4 x5 => Sys2Proof.Machine.execVmin x0 x1 x2 x3 x4 x5 s
  | .vmax x0 x1 x2 x3 x4 x5 => Sys2Proof.Machine.execVmax x0 x1 x2 x3 x4 x5 s
  | .vabs x0 x1 x2 x3 x4 => Sys2Proof.Machine.execVabs x0 x1 x2 x3 x4 s
  | .vneg x0 x1 x2 x3 x4 => Sys2Proof.Machine.execVneg x0 x1 x2 x3 x4 s
  | .vdiv x0 x1 x2 x3 x4 x5 => Sys2Proof.Machine.execVdiv x0 x1 x2 x3 x4 x5 s
  | .vsqrt x0 x1 x2 x3 => Sys2Proof.Machine.execVsqrt x0 x1 x2 x3 s
  | .vrsqrt x0 x1 x2 x3 => Sys2Proof.Machine.execVrsqrt x0 x1 x2 x3 s
  | .vrcp x0 x1 x2 x3 => Sys2Proof.Machine.execVrcp x0 x1 x2 x3 s
  | .vexp2 x0 x1 x2 x3 => Sys2Proof.Machine.execVexp2 x0 x1 x2 x3 s
  | .vlog2 x0 x1 x2 x3 => Sys2Proof.Machine.execVlog2 x0 x1 x2 x3 s
  | .vclip x0 x1 x2 x3 x4 x5 x6 => Sys2Proof.Machine.execVclip x0 x1 x2 x3 x4 x5 x6 s
  | .vcmp x0 x1 x2 x3 x4 => Sys2Proof.Machine.execVcmp x0 x1 x2 x3 x4 s
  | .vsel x0 x1 x2 x3 x4 x5 x6 => Sys2Proof.Machine.execVsel x0 x1 x2 x3 x4 x5 x6 s
  | .vand x0 x1 x2 x3 => Sys2Proof.Machine.execVand x0 x1 x2 x3 s
  | .vor x0 x1 x2 x3 => Sys2Proof.Machine.execVor x0 x1 x2 x3 s
  | .vxor x0 x1 x2 x3 => Sys2Proof.Machine.execVxor x0 x1 x2 x3 s
  | .vnot x0 x1 x2 => Sys2Proof.Machine.execVnot x0 x1 x2 s
  | .vshl x0 x1 x2 x3 => Sys2Proof.Machine.execVshl x0 x1 x2 x3 s
  | .vshr x0 x1 x2 x3 => Sys2Proof.Machine.execVshr x0 x1 x2 x3 s
  | .vsra x0 x1 x2 x3 => Sys2Proof.Machine.execVsra x0 x1 x2 x3 s
  | .vrsum x0 x1 x2 x3 x4 x5 => Sys2Proof.Machine.execVrsum x0 x1 x2 x3 x4 x5 s
  | .vrmax x0 x1 x2 x3 x4 x5 => Sys2Proof.Machine.execVrmax x0 x1 x2 x3 x4 x5 s
  | .vrmin x0 x1 x2 x3 x4 x5 => Sys2Proof.Machine.execVrmin x0 x1 x2 x3 x4 x5 s
  | .vscan x0 x1 x2 x3 x4 x5 x6 => Sys2Proof.Machine.execVscan x0 x1 x2 x3 x4 x5 x6 s
  | .vslup x0 x1 x2 x3 x4 => Sys2Proof.Machine.execVslup x0 x1 x2 x3 x4 s
  | .vsldn x0 x1 x2 x3 x4 => Sys2Proof.Machine.execVsldn x0 x1 x2 x3 x4 s
  | .vshuf x0 x1 x2 x3 x4 => Sys2Proof.Machine.execVshuf x0 x1 x2 x3 x4 s
  | .vcomp x0 x1 x2 x3 => Sys2Proof.Machine.execVcomp x0 x1 x2 x3 s
  | .vexpd x0 x1 x2 x3 => Sys2Proof.Machine.execVexpd x0 x1 x2 x3 s
  | .vzip x0 x1 x2 x3 x4 x5 => Sys2Proof.Machine.execVzip x0 x1 x2 x3 x4 x5 s
  | .vunpk x0 x1 x2 x3 x4 => Sys2Proof.Machine.execVunpk x0 x1 x2 x3 x4 s
  | .vpack x0 x1 x2 x3 x4 => Sys2Proof.Machine.execVpack x0 x1 x2 x3 x4 s
  | .vlook x0 x1 x2 x3 x4 => Sys2Proof.Machine.execVlook x0 x1 x2 x3 x4 s
  | .vtopk x0 x1 x2 x3 x4 x5 x6 => Sys2Proof.Machine.execVtopk x0 x1 x2 x3 x4 x5 x6 s
  | .vdot4 x0 x1 x2 x3 x4 x5 => Sys2Proof.Machine.execVdot4 x0 x1 x2 x3 x4 x5 s
  | .mlog x0 x1 x2 x3 => Sys2Proof.Machine.execMlog x0 x1 x2 x3 s
  | .mpop x0 x1 => Sys2Proof.Machine.execMpop x0 x1 s
  | .mfirst x0 x1 => Sys2Proof.Machine.execMfirst x0 x1 s
  | .mset x0 x1 => Sys2Proof.Machine.execMset x0 x1 s
  | .mtov x0 x1 x2 x3 x4 => Sys2Proof.Machine.execMtov x0 x1 x2 x3 x4 s
  | .vtom x0 x1 x2 => Sys2Proof.Machine.execVtom x0 x1 x2 s
  | .vld x0 x1 x2 x3 x4 x5 x6 x7 => Sys2Proof.Machine.execVld x0 x1 x2 x3 x4 x5 x6 x7 s
  | .vlds x0 x1 x2 x3 x4 x5 x6 => Sys2Proof.Machine.execVlds x0 x1 x2 x3 x4 x5 x6 s
  | .vldx x0 x1 x2 x3 x4 x5 x6 => Sys2Proof.Machine.execVldx x0 x1 x2 x3 x4 x5 x6 s
  | .vldf x0 x1 x2 x3 x4 x5 x6 => Sys2Proof.Machine.execVldf x0 x1 x2 x3 x4 x5 x6 s
  | .vldm x0 x1 x2 x3 x4 x5 x6 => Sys2Proof.Machine.execVldm x0 x1 x2 x3 x4 x5 x6 s
  | .vldg x0 x1 x2 x3 x4 x5 x6 x7 => Sys2Proof.Machine.execVldg x0 x1 x2 x3 x4 x5 x6 x7 s
  | .vst x0 x1 x2 x3 x4 x5 x6 => Sys2Proof.Machine.execVst x0 x1 x2 x3 x4 x5 x6 s
  | .vsts x0 x1 x2 x3 x4 x5 x6 => Sys2Proof.Machine.execVsts x0 x1 x2 x3 x4 x5 x6 s
  | .vstx x0 x1 x2 x3 x4 x5 x6 => Sys2Proof.Machine.execVstx x0 x1 x2 x3 x4 x5 x6 s
  | .vstm x0 x1 x2 x3 x4 x5 x6 => Sys2Proof.Machine.execVstm x0 x1 x2 x3 x4 x5 x6 s
  | .vstg x0 x1 x2 x3 x4 x5 x6 x7 => Sys2Proof.Machine.execVstg x0 x1 x2 x3 x4 x5 x6 x7 s
  | .vamo x0 x1 x2 x3 x4 x5 x6 x7 x8 => Sys2Proof.Machine.execVamo x0 x1 x2 x3 x4 x5 x6 x7 x8 s
  | .mnf x0 x1 x2 x3 => Sys2Proof.Machine.execMnf x0 x1 x2 x3 s
  | .mnfget x0 x1 x2 => Sys2Proof.Machine.execMnfget x0 x1 x2 s
  | .mnfset x0 x1 x2 x3 => Sys2Proof.Machine.execMnfset x0 x1 x2 x3 s
  | .czero x0 x1 x2 => Sys2Proof.Machine.execCzero x0 x1 x2 s
  | .cop x0 x1 x2 x3 x4 => Sys2Proof.Machine.execCop x0 x1 x2 x3 x4 s
  | .copk x0 x1 x2 x3 x4 x5 => Sys2Proof.Machine.execCopk x0 x1 x2 x3 x4 x5 s
  | .crrow x0 x1 x2 x3 x4 x5 x6 => Sys2Proof.Machine.execCrrow x0 x1 x2 x3 x4 x5 x6 s
  | .crcol x0 x1 x2 x3 x4 x5 x6 x7 => Sys2Proof.Machine.execCrcol x0 x1 x2 x3 x4 x5 x6 x7 s
  | .cwrow x0 x1 x2 x3 x4 => Sys2Proof.Machine.execCwrow x0 x1 x2 x3 x4 s
  | .cwcol x0 x1 x2 x3 x4 x5 => Sys2Proof.Machine.execCwcol x0 x1 x2 x3 x4 x5 s
  | .cld x0 x1 x2 x3 x4 x5 x6 x7 => Sys2Proof.Machine.execCld x0 x1 x2 x3 x4 x5 x6 x7 s
  | .cst x0 x1 x2 x3 x4 x5 x6 x7 => Sys2Proof.Machine.execCst x0 x1 x2 x3 x4 x5 x6 x7 s
  | .cjoin x0 x1 => Sys2Proof.Machine.execCjoin x0 x1 s
  | .cstj x0 x1 x2 x3 x4 x5 x6 => Sys2Proof.Machine.execCstj x0 x1 x2 x3 x4 x5 x6 s
  | .cadd x0 x1 x2 x3 => Sys2Proof.Machine.execCadd x0 x1 x2 x3 s
  | .cstat x0 x1 x2 => Sys2Proof.Machine.execCstat x0 x1 x2 s
  | .cpstart x0 x1 x2 x3 x4 => Sys2Proof.Machine.execCpstart x0 x1 x2 x3 x4 s
  | .cpgather x0 x1 x2 x3 x4 x5 => Sys2Proof.Machine.execCpgather x0 x1 x2 x3 x4 x5 s
  | .cpscatter x0 x1 x2 x3 x4 x5 => Sys2Proof.Machine.execCpscatter x0 x1 x2 x3 x4 x5 s
  | .cpwait x0 x1 x2 x3 => Sys2Proof.Machine.execCpwait x0 x1 x2 x3 s
  | .cpavail x0 x1 x2 => Sys2Proof.Machine.execCpavail x0 x1 x2 s
  | .cpresume x0 x1 x2 => Sys2Proof.Machine.execCpresume x0 x1 x2 s
  | .cpcancel x0 => Sys2Proof.Machine.execCpcancel x0 s
  | .qbind x0 x1 => Sys2Proof.Machine.execQbind x0 x1 s
  | .qclose x0 => Sys2Proof.Machine.execQclose x0 s
  | .qstat x0 x1 => Sys2Proof.Machine.execQstat x0 x1 s
  | .launch x0 x1 => Sys2Proof.Machine.execLaunch x0 x1 s
  | .exit => Sys2Proof.Machine.execExit s
  | .yield => Sys2Proof.Machine.execYield s
  | .bar x0 => Sys2Proof.Machine.execBar x0 s
  | .waitw x0 x1 x2 x3 x4 x5 x6 => Sys2Proof.Machine.execWaitw x0 x1 x2 x3 x4 x5 x6 s
  | .wake x0 x1 x2 x3 => Sys2Proof.Machine.execWake x0 x1 x2 x3 s
  | .snext x0 => Sys2Proof.Machine.execSnext x0 s
  | .xopen x0 x1 => Sys2Proof.Machine.execXopen x0 x1 s
  | .xsend x0 x1 x2 x3 => Sys2Proof.Machine.execXsend x0 x1 x2 x3 s
  | .xred x0 x1 x2 x3 x4 x5 => Sys2Proof.Machine.execXred x0 x1 x2 x3 x4 x5 s
  | .xwait x0 x1 x2 x3 => Sys2Proof.Machine.execXwait x0 x1 x2 x3 s
  | .xclose x0 => Sys2Proof.Machine.execXclose x0 s
  | .trap x0 => Sys2Proof.Machine.execTrap x0 s
  | .tret => Sys2Proof.Machine.execTret s
  | .brk x0 => Sys2Proof.Machine.execBrk x0 s
  | .ctxsave x0 x1 x2 x3 x4 x5 x6 => Sys2Proof.Machine.execCtxsave x0 x1 x2 x3 x4 x5 x6 s
  | .ctxrstr x0 x1 x2 => Sys2Proof.Machine.execCtxrstr x0 x1 x2 s
  | .tlbinv x0 x1 x2 => Sys2Proof.Machine.execTlbinv x0 x1 x2 s
  | .rcstart x0 x1 x2 x3 x4 => Sys2Proof.Machine.execRcstart x0 x1 x2 x3 x4 s
  | .rcstat x0 x1 => Sys2Proof.Machine.execRcstat x0 x1 s
  | .kdsetAssign x0 x1 x2 x3 => Sys2Proof.Machine.execKdsetAssign x0 x1 x2 x3 s
  | .kdsetNewkey x0 x1 x2 x3 => Sys2Proof.Machine.execKdsetNewkey x0 x1 x2 x3 s
  | .kdsetRetire x0 x1 x2 x3 => Sys2Proof.Machine.execKdsetRetire x0 x1 x2 x3 s
  | .homemap x0 x1 x2 => Sys2Proof.Machine.execHomemap x0 x1 x2 s
  | .idle x0 x1 => Sys2Proof.Machine.execIdle x0 x1 s
  | .evTeamAdmission => Sys2Proof.Machine.execEvTeamAdmission s
  | .evPreemption x0 => Sys2Proof.Machine.execEvPreemption x0 s
  | .evTeamReclaim x0 => Sys2Proof.Machine.execEvTeamReclaim x0 s
  | .evCaravanCompletion x0 => Sys2Proof.Machine.execEvCaravanCompletion x0 s
  | .evWaitwReevaluate x0 => Sys2Proof.Machine.execEvWaitwReevaluate x0 s
  | .evIdleWake x0 => Sys2Proof.Machine.execEvIdleWake x0 s
  | .evAccessPerform x0 x1 => Sys2Proof.Machine.execEvAccessPerform x0 x1 s
  | .evAtomicApply x0 x1 x2 x3 x4 => Sys2Proof.Machine.execEvAtomicApply x0 x1 x2 x3 x4 s
  | .evPriResponse x0 x1 => Sys2Proof.Machine.execEvPriResponse x0 x1 s
  | .evHostInvalidation x0 => Sys2Proof.Machine.execEvHostInvalidation x0 s
  | .evCopyRowRequest x0 x1 => Sys2Proof.Machine.execEvCopyRowRequest x0 x1 s
  | .evCopyRowComplete x0 x1 x2 => Sys2Proof.Machine.execEvCopyRowComplete x0 x1 x2 s
  | .evCopyRowFault x0 x1 x2 => Sys2Proof.Machine.execEvCopyRowFault x0 x1 x2 s
  | .evRecodePageStart x0 => Sys2Proof.Machine.execEvRecodePageStart x0 s
  | .evRecodePageReencode x0 => Sys2Proof.Machine.execEvRecodePageReencode x0 s
  | .evFrameMigration x0 => Sys2Proof.Machine.execEvFrameMigration x0 s
  | .evFrameSwitch x0 => Sys2Proof.Machine.execEvFrameSwitch x0 s
  | .evTileCapacityGrant => Sys2Proof.Machine.execEvTileCapacityGrant s
  | .evTileLineReserve x0 => Sys2Proof.Machine.execEvTileLineReserve x0 s
  | .evTileCommit x0 => Sys2Proof.Machine.execEvTileCommit x0 s
  | .evTileRelease x0 => Sys2Proof.Machine.execEvTileRelease x0 s
  | .evXsendLanding x0 x1 x2 x3 x4 x5 x6 x7 => Sys2Proof.Machine.execEvXsendLanding x0 x1 x2 x3 x4 x5 x6 x7 s
  | .evXredReduce x0 x1 x2 x3 => Sys2Proof.Machine.execEvXredReduce x0 x1 x2 x3 s
  | .evExchangeOpComplete x0 x1 x2 => Sys2Proof.Machine.execEvExchangeOpComplete x0 x1 x2 s
  | .evExchangePeerTimeout x0 x1 x2 => Sys2Proof.Machine.execEvExchangePeerTimeout x0 x1 x2 s
  | .evExchangePeerClose x0 x1 x2 => Sys2Proof.Machine.execEvExchangePeerClose x0 x1 x2 s
  | .evAsyncTrapDelivery x0 => Sys2Proof.Machine.execEvAsyncTrapDelivery x0 s
  | .evWatchdogExpiry x0 => Sys2Proof.Machine.execEvWatchdogExpiry x0 s
  | .evEphemeralExpiry x0 => Sys2Proof.Machine.execEvEphemeralExpiry x0 s
  | .evSoftError x0 x1 x2 => Sys2Proof.Machine.execEvSoftError x0 x1 x2 s
  | .evHostWrite x0 x1 x2 x3 x4 => Sys2Proof.Machine.execEvHostWrite x0 x1 x2 x3 x4 s
  | .evTagWindowWrite x0 x1 x2 => Sys2Proof.Machine.execEvTagWindowWrite x0 x1 x2 s
  | .evHostRead x0 x1 x2 => Sys2Proof.Machine.execEvHostRead x0 x1 x2 s
  | .evHostAtomicop x0 x1 x2 x3 x4 => Sys2Proof.Machine.execEvHostAtomicop x0 x1 x2 x3 x4 s
  | .evCxlMemRequest x0 x1 x2 x3 x4 => Sys2Proof.Machine.execEvCxlMemRequest x0 x1 x2 x3 x4 s
  | .evWeatreInboundRequest x0 x1 => Sys2Proof.Machine.execEvWeatreInboundRequest x0 x1 s
  | .evFlitRetry x0 => Sys2Proof.Machine.execEvFlitRetry x0 s
  | .evLinkFailure x0 => Sys2Proof.Machine.execEvLinkFailure x0 s
  | .evDeviceUnreachable x0 => Sys2Proof.Machine.execEvDeviceUnreachable x0 s
  | .evLinkLayerRetry x0 => Sys2Proof.Machine.execEvLinkLayerRetry x0 s
  | .evLongHaulAck x0 x1 => Sys2Proof.Machine.execEvLongHaulAck x0 x1 s
  | .evLhcfgWrite x0 x1 => Sys2Proof.Machine.execEvLhcfgWrite x0 x1 s
  | .evQuotaRecordWrite x0 x1 x2 => Sys2Proof.Machine.execEvQuotaRecordWrite x0 x1 x2 s
  | .evViReset x0 => Sys2Proof.Machine.execEvViReset x0 s
  | .evViResetComplete x0 => Sys2Proof.Machine.execEvViResetComplete x0 s
  | .evCounterSnapshot x0 => Sys2Proof.Machine.execEvCounterSnapshot x0 s
  | .evCounterClear x0 => Sys2Proof.Machine.execEvCounterClear x0 s
  | .evEvqheadWrite x0 x1 => Sys2Proof.Machine.execEvEvqheadWrite x0 x1 s
  | .evEvqstatWrite x0 x1 => Sys2Proof.Machine.execEvEvqstatWrite x0 x1 s
  | .evMailboxDoorbell => Sys2Proof.Machine.execEvMailboxDoorbell s
  | .evDctlAdmit x0 x1 => Sys2Proof.Machine.execEvDctlAdmit x0 x1 s
  | .evDctlDrain x0 => Sys2Proof.Machine.execEvDctlDrain x0 s
  | .evDctlWb x0 => Sys2Proof.Machine.execEvDctlWb x0 s
  | .evDctlMig x0 => Sys2Proof.Machine.execEvDctlMig x0 s
  | .evDctlQuiesce x0 => Sys2Proof.Machine.execEvDctlQuiesce x0 s
  | .evDctlRst x0 => Sys2Proof.Machine.execEvDctlRst x0 s
  | .evDctlRetrain x0 => Sys2Proof.Machine.execEvDctlRetrain x0 s
  | .evDctlCommandDone x0 x1 x2 => Sys2Proof.Machine.execEvDctlCommandDone x0 x1 x2 s
  | .evMmioRegisterWrite x0 x1 => Sys2Proof.Machine.execEvMmioRegisterWrite x0 x1 s
  | .evOperatingPointChange x0 x1 => Sys2Proof.Machine.execEvOperatingPointChange x0 x1 s
  | .evPcapEstimate x0 => Sys2Proof.Machine.execEvPcapEstimate x0 s
  | .evThermalTrip => Sys2Proof.Machine.execEvThermalTrip s
  | .evThermalReset => Sys2Proof.Machine.execEvThermalReset s
  | .evDeviceReset => Sys2Proof.Machine.execEvDeviceReset s
  | .evBootPuf x0 => Sys2Proof.Machine.execEvBootPuf x0 s
  | .evBootDhcp x0 => Sys2Proof.Machine.execEvBootDhcp x0 s
  | .evBootFetch x0 x1 => Sys2Proof.Machine.execEvBootFetch x0 x1 s
  | .evBootVerify x0 => Sys2Proof.Machine.execEvBootVerify x0 s
  | .evBootRetry => Sys2Proof.Machine.execEvBootRetry s
  | .evBootBist x0 x1 => Sys2Proof.Machine.execEvBootBist x0 x1 s
  | .evBootDice => Sys2Proof.Machine.execEvBootDice s
  | .evMonitorStart x0 => Sys2Proof.Machine.execEvMonitorStart x0 s
  | .evLinkStateChange x0 x1 => Sys2Proof.Machine.execEvLinkStateChange x0 x1 s
  | .evExchangePeerOpen x0 x1 x2 => Sys2Proof.Machine.execEvExchangePeerOpen x0 x1 x2 s
  | .evEthernetTransportGaveUp x0 x1 x2 => Sys2Proof.Machine.execEvEthernetTransportGaveUp x0 x1 x2 s
  | .evConfigurationRequest x0 => Sys2Proof.Machine.execEvConfigurationRequest x0 s

end Sys2Proof.Machine
end

