-- ==== Sys2Proof/Machine/Sched.lean ====
section
/-! DEFINITION. What happens next: the work of the engines that is due, the choice of the strand that issues (R99–R101), and
one step of the agenda. -/

namespace Sys2Proof.Machine

/-! ### Work of the engines -/

/-- A list's first element that gives something. -/
def firstOf {α : Type} (xs : List α) (f : α → Option Instr) : Option Instr := xs.findSome? f

def whenSome {α : Type} (o : Option α) (i : Instr) : Option Instr := if o.isSome then some i else none

/-- A list that begins elsewhere at each step, so that none of its elements always comes after another (R115). -/
def rotated {α : Type} (n : Nat) (xs : List α) : List α := xs.drop (n % xs.length) ++ xs.take (n % xs.length)

/-- A store at its home. -/
def State.dueStore (s : State) : Option Instr :=
  firstOf (rotated (s.tick / 22) s.storeQ) fun b => whenSome (s.performNext b.core b.track) (.evAccessPerform b.core b.track)

/-- Tiles: capacity, a line, a commit, a release. -/
def State.dueTile (s : State) : Option Instr :=
  whenSome s.grantTile .evTileCapacityGrant
  <|> firstOf (rotated (s.tick / 22) s.tiles) (fun (t : Nat × Tile) =>
    whenSome (s.reserveLine t.1) (.evTileLineReserve t.1) <|> whenSome (s.commitTile t.1) (.evTileCommit t.1)
      <|> whenSome (s.releaseTile t.1) (.evTileRelease t.1))

/-- A row of a stream, requested, complete or failed. -/
def State.dueStream (s : State) (team : Nat) (p : Nat × Stream) : Option Instr :=
  whenSome (s.requestRow team p.1) (.evCopyRowRequest team p.1)
  <|> firstOf p.2.flight fun r =>
    whenSome (s.completeRow team p.1 r) (.evCopyRowComplete team p.1 r)
      <|> whenSome (s.failRow team p.1 r) (.evCopyRowFault team p.1 r)

/-- A VI's recode job, its exchange operations that can complete, and the end of its reset. -/
def State.dueVi (s : State) (p : Nat × Vi) : Option Instr :=
  whenSome (s.recodeStart p.1) (.evRecodePageStart p.1)
  <|> whenSome (s.recodePage p.1) (.evRecodePageReencode p.1)
  <|> firstOf p.2.chans (fun (c : Nat × Chan) => firstOf c.2.ops fun o =>
    whenSome (s.completeOp p.1 c.1 o.seq) (.evExchangeOpComplete p.1 c.1 o.seq))
  <|> whenSome (s.endReset p.1) (.evViResetComplete p.1)

/-- The end of a die's command. -/
def State.dueDie (s : State) (d : Nat) : Option Instr :=
  let ok := match (s.die d).cmd with
    | some .mig => Config.migRoom s.tick d
    | some .retrain => Config.selfTest s.tick d
    | _ => true
  let repair := (Config.repairRows s.tick d).toNat
  whenSome (s.dctlDone d ok repair) (.evDctlCommandDone d ok repair)

/-- Placing the head team needs nobody to leave. -/
def State.admitReady (s : State) : Bool :=
  match s.head with
  | none => false
  | some h => (match s.placeAll (s.batch h) with | some ps => (s.admitAt ps).isSome | none => false)

/-- A pending cause at a strand that waits in a CSTJ or a tile. -/
def State.dueTrap (s : State) : Option Instr :=
  firstOf (rotated (s.tick / 22) s.strands) fun (p : Nat × Strand) => match p.2.run with
    | .joint _ | .tile _ => whenSome (s.takeAsync p.1) (.evAsyncTrapDelivery p.1)
    | _ => none

/-- A team's reclaim or pre-emption. -/
def State.dueTeam (s : State) : Option Instr :=
  firstOf (rotated (s.tick / 22) s.teams) fun (t : Nat × Team) =>
    whenSome (s.reclaim t.1) (.evTeamReclaim t.1) <|> whenSome (s.preemptChosen t.1) (.evPreemption t.1)

/-- The completion of a caravan. -/
def State.dueCaravan (s : State) : Option Instr :=
  firstOf (rotated (s.tick / 22) s.caravans) fun (c : Nat × Caravan) => whenSome (s.completeCaravan c.1) (.evCaravanCompletion c.1)

/-- A device that is unreachable still, and that an operation of a channel needs. -/
def State.dueUnreachable (s : State) : Option Instr :=
  firstOf s.vis fun (v : Nat × Vi) => firstOf v.2.chans fun (c : Nat × Chan) =>
    if c.2.ether then none
    else firstOf c.2.ops fun o => if !o.pending then none
      else firstOf (c.2.needs o) fun k =>
        let d := c.2.device k
        if s.unreachable.contains d && !s.linked d then some (.evDeviceUnreachable d) else none

/-- An entry that waits in the reserve of an event queue and can be written now. -/
def State.dueEvents (s : State) : Option State :=
  (s.vis.find? fun (v : Nat × Vi) => s.eventReady v.1).map fun v => s.flushEvents v.1 false

/-- The boot's work that waits for nothing outside. -/
def State.dueBoot (s : State) : Option Instr :=
  if s.boot.standsAt 6 then some .evBootDice
  else if s.boot.waiting && !s.boot.halted then some .evBootRetry
  else none

/-- The work of one kind of engine that is due. -/
def State.dueOf (s : State) : Nat → Option Instr
  | 0 => s.dueStore
  | 1 => s.dueTile
  | 2 => firstOf (rotated (s.tick / 22) s.teams) fun (t : Nat × Team) => firstOf (rotated (s.tick / 22 / s.teams.length) t.2.streams) (s.dueStream t.1)
  | 3 => firstOf (rotated (s.tick / 22) s.vis) s.dueVi
  | 4 => s.dueUnreachable
  | 5 => firstOf (List.range 4) s.dueDie
  | 6 => s.dueTrap
  | 7 => s.dueTeam
  | 8 => s.dueCaravan
  | 9 => if s.admitReady then some .evTeamAdmission else none
  | _ => s.dueBoot

/-- The work that comes next: the kinds take turns, so that none is kept waiting by the others (R115). -/
def State.due (s : State) : Option Instr := firstOf (rotated (s.tick / 2) (List.range 11)) s.dueOf

/-! ### The choice of a strand (R99–R101) -/

/-- The slot of a strand's next instruction, S, V or M as 0, 1 or 2. A pending cause, a fetch that faults and a word that does
not decode take the S slot (log 36). -/
def State.nextSlot (s : State) (sid : Nat) : Nat :=
  let s1 := { s with cur := sid }
  if (s1.firstPend s1.me).isSome then 0
  else match s1.fetch with
    | .ok (_, w) => (match decode w with | .ok i => slotCounter (opOf i) - 1 | .error _ => 0)
    | .error _ => 0

/-- What a stalled turn leaves: the fetch of the instruction. -/
def State.fetched (s : State) : State :=
  match s.fetch with
  | .ok (x, _) => ((s.used x).fillHost x).chargeFetch x.pa
  | .error _ => s

/-- A strand is eligible where its turn would change the machine otherwise than by the fetch: it is not held (R99). -/
def State.eligible (run : Instr → State → Host.Outcome State Fault Refusal) (s : State) (sid : Nat) : Bool :=
  let s1 := { s with cur := sid }
  s.mayIssue sid && (match turn run s1 with | .next t => t != s1 && t != s1.fetched | _ => true)

/-- A strand that may be chosen. -/
structure Cand where
  sid : Nat
  slot : Nat
  cls : Nat
  vi : Nat
  access : Bool
  waited : Nat
  nmax : Nat
  pos : Nat

/-- The eligible strands of a core. -/
def State.cands (run : Instr → State → Host.Outcome State Fault Refusal) (s : State) (core : Nat) : List Cand :=
  ((s.residents core).filter fun p => s.eligible run p.1).map fun (p : Nat × Strand) =>
    let x := s.carOf p.2
    { sid := p.1, slot := s.nextSlot p.1, cls := x.wb.cls, vi := x.vi, access := nbits x.wb.roles.toNat p.2.idx 1 == 1
      waited := p.2.waited, nmax := p.2.nmax, pos := p.2.slot }

/-- The best of a list by an order. -/
def bestOf (better : Cand → Cand → Bool) : List Cand → Option Cand
  | [] => none
  | c :: cs => match bestOf better cs with
    | some b => some (if better c b then c else b)
    | none => some c

/-- Item 1 of R100. -/
def overdueFirst (a b : Cand) : Bool :=
  decide (b.cls < a.cls) || (a.cls == b.cls && (decide (b.waited < a.waited) || (a.waited == b.waited && decide (a.pos < b.pos))))

/-- Item 4 of R100. -/
def inVi (slot : Nat) (a b : Cand) : Bool :=
  let acc := fun (c : Cand) => slot == 2 && c.access
  (acc a && !acc b)
    || (acc a == acc b && (decide (b.waited < a.waited) || (a.waited == b.waited && decide (a.pos < b.pos))))

/-- The first VI at or after the pointer, wrapping, whose deficit is at least 1. -/
def Drr.first (d : Drr) (vis : List Nat) : Option Nat :=
  let can := fun (v : Nat) => decide (1 ≤ Tab.get 0 d.deficit v)
  let lowest := fun (p : Nat → Bool) => vis.foldl (fun (a : Option Nat) v =>
    if p v && can v then (match a with | some b => some (Nat.min b v) | none => some v) else a) none
  lowest (fun v => decide (d.ptr ≤ v)) <|> lowest fun _ => true

/-- The deficits where a VI without an eligible strand has none. -/
def Drr.among (d : Drr) (vis : List Nat) : Drr := { d with deficit := d.deficit.filter fun p => vis.contains p.1 }

/-- Each VI's deficit rises by its issue weight. -/
def State.replenish (s : State) (d : Drr) (vis : List Nat) : Drr :=
  { d with deficit := vis.foldl (fun t v => Tab.set 0 t v (Tab.get 0 t v + bits (s.vi v).q2 32 8)) d.deficit }

/-- An issue of a VI. -/
def Drr.issue (d : Drr) (v : Nat) : Drr :=
  let n := Tab.get 0 d.deficit v - 1
  { ptr := if n = 0 then v + 1 else d.ptr, deficit := Tab.set 0 d.deficit v n }

/-- Item 3 of R100: the VI, and the deficits after its issue. VI0 is in the monitor traffic class and goes first (R372); it takes no
part in the tenants' round-robin, and its weight counts for nothing (R370). -/
def State.roundRobin (s : State) (d : Drr) (vis : List Nat) : Option (Nat × Drr) :=
  let us := (vis.filter (· != 0)).eraseDups
  let d0 := d.among us
  if vis.contains 0 then some (0, d0)
  else
    let d1 := if (d0.first us).isSome then d0 else s.replenish d0 us
    (d1.first us).map fun v => (v, d1.issue v)

/-- Eligible strands of a core of a class and above: n of R101 now. -/
def eligibleAt (all : List Cand) (cls : Nat) : Nat := (all.filter fun c => decide (cls ≤ c.cls)).length

/-- A strand that has waited 7·n cycles, with n the largest of its wait (R100 item 1). -/
def overdue (all : List Cand) (c : Cand) : Bool := decide (7 * Nat.max c.nmax (eligibleAt all c.cls) ≤ c.waited)

/-- The number of the deficits of a slot of a core and a class. -/
def drrKey (core slot cls : Nat) : Nat := (3 * core + slot) * 4 + cls

/-- Where VI0 has a candidate, its strands alone: the monitor traffic class goes first (R372). -/
def monitorFirst (cs : List Cand) : List Cand := if cs.any fun c => c.vi == 0 then cs.filter fun c => c.vi == 0 else cs

/-- R100 for one slot of a core, among the candidates that a test selects of its eligible strands: the strand, and the deficits. -/
def State.choose (s : State) (core slot : Nat) (all : List Cand) (p : Cand → Bool) : Option (Nat × Tab Drr) :=
  let cs := monitorFirst (all.filter fun c => c.slot == slot && p c)
  match bestOf overdueFirst (cs.filter (overdue all)) with
  | some c => some (c.sid, s.drr)
  | none =>
    match bestOf (fun a b => decide (b.cls < a.cls)) cs with
    | none => none
    | some top =>
      let key := drrKey core slot top.cls
      let mine := cs.filter fun c => c.cls == top.cls
      match s.roundRobin (Tab.get {} s.drr key) (mine.map fun c => c.vi) with
      | none => none
      | some (v, d) =>
        (bestOf (inVi slot) (mine.filter fun c => c.vi == v)).map fun c => (c.sid, Tab.put s.drr key d)

/-- The wait of a strand and the largest n in it, after the choice of one for a slot of a core: the chosen strand's is over, those
eligible for the slot wait on, and one that is not eligible begins anew, unless the cycle is withheld from it (R101, R415). -/
def State.waitAfter (run : Instr → State → Host.Outcome State Fault Refusal) (s : State) (slot sid : Nat) (all : List Cand)
    (p : Nat × Strand) : Nat × Nat :=
  if !s.eligible run p.1 then (if p.2.run == .active && s.withheldNow p.2 then (p.2.waited, p.2.nmax) else (0, 0))
  else if p.1 = sid then (0, 0)
  else match all.find? fun c => c.sid == p.1 with
    | some c => (if c.slot = slot then p.2.waited + 1 else p.2.waited, Nat.max c.nmax (eligibleAt all c.cls))
    | none => (p.2.waited, p.2.nmax)

/-- The cycle of a core that a strand's issue belongs to has begun: an earlier slot was served in it, and the strand was eligible
then. -/
def State.inCycle (s : State) (sid : Nat) : Bool :=
  s.turnAt / 4 == s.coreOf (s.strand sid) && decide (s.turnAt % 4 < s.nextSlot sid) && s.cyc.contains sid

/-- A strand issues: the waits, with the deficits given, the slot that is served, and who is left of the core's cycle. -/
def State.prepare (run : Instr → State → Host.Outcome State Fault Refusal) (s : State) (sid : Nat) (drr : Tab Drr) : State :=
  let core := s.coreOf (s.strand sid)
  let slot := s.nextSlot sid
  let e := s.eligible run sid
  let all := if e then s.cands run core else []
  { s with
    cur := sid, drr
    strands := s.strands.map fun (p : Nat × Strand) =>
      let w := s.waitAfter run slot sid all p
      (p.1, { p.2 with waited := w.1, nmax := w.2 })
    turnAt := if e then 4 * core + slot else s.turnAt
    cyc := if e then (if s.inCycle sid then s.cyc else all.map fun c => c.sid).filter (· != sid) else s.cyc }

/-- In the cycle of a strand's issue, a strand of a slot before it takes the entry of a queue that it needs: it stalls (R212). -/
def State.deprived (run : Instr → State → Host.Outcome State Fault Refusal) (s : State) (sid : Nat) : Bool :=
  let core := s.coreOf (s.strand sid)
  let queues := fun (t : State) => t.teams.map fun x => (x.1, x.2.queues)
  ((s.residents core).any fun p => p.1 != sid && s.mayIssue p.1)
    && !s.inCycle sid && s.eligible run sid
    && (List.range (s.nextSlot sid)).any fun k => match s.choose core k (s.cands run core) fun _ => true with
      | some (first, _) =>
        (match turn run { s with cur := first } with
        | .next t => queues t != queues s && !t.eligible run sid
        | _ => false)
      | none => false

/-- The slots of the cores that hold teams, as 4·core + slot, from the one after the last served. A cycle of a core serves its slots
S, V and M in this order, so that S is first at a queue's last entry (R212). The slots that remain of a cycle that has begun take
those who were eligible then. -/
def State.positions (s : State) : List Nat :=
  let cores := (List.range 256).filter fun c => s.teams.any fun t => t.2.core == some c
  let ps := cores.flatMap fun c => [4 * c, 4 * c + 1, 4 * c + 2]
  ps.filter (fun p => decide (s.turnAt < p)) ++ ps.filter fun p => decide (p ≤ s.turnAt)

/-- The deficits after the issue of a strand without a choice: it alone may issue, or the agenda names it. -/
def State.afterIssue (run : Instr → State → Host.Outcome State Fault Refusal) (s : State) (sid : Nat) (alone : Bool) : Tab Drr :=
  let x := s.carOf (s.strand sid)
  let key := drrKey (s.coreOf (s.strand sid)) (s.nextSlot sid) x.wb.cls
  if !s.eligible run sid then s.drr
  else
    let d0 : Drr := Tab.get {} s.drr key
    let d := if alone then d0.among [x.vi] else d0
    Tab.put s.drr key (if x.vi = 0 then d else ((if 1 ≤ Tab.get 0 d.deficit x.vi then d else s.replenish d [x.vi]).issue x.vi))

/-- The strand that issues next, with the state in which it does. Where only one can, no choice is made. -/
def State.select (run : Instr → State → Host.Outcome State Fault Refusal) (s : State) : Option State :=
  match s.strands.filter fun p => s.mayIssue p.1 with
  | [] => none
  | [p] => some (s.prepare run p.1 (s.afterIssue run p.1 true))
  | _ => s.positions.findSome? fun q =>
    let begun := decide (s.turnAt < q) && s.turnAt / 4 == q / 4
    (s.choose (q / 4) (q % 4) (s.cands run (q / 4)) fun c => !begun || s.cyc.contains c.sid).map fun c => s.prepare run c.1 c.2

/-- A strand's turn as the agenda has it. -/
def State.agendaTurn (run : Instr → State → Host.Outcome State Fault Refusal) (s : State) (sid : Nat) :
    Host.Outcome State Fault Refusal :=
  if !s.mayIssue sid then .next s
  else if s.deprived run sid then clocked (.next s)
  else clocked (turn run (s.prepare run sid (s.afterIssue run sid false)))

/-- The lines that a strand's load of several lines leaves for later (R311). -/
def State.shunning (s : State) (sid : Nat) (lns : List Nat) : State :=
  { s with strands := Tab.modify s.strands sid fun st => { st with shun := lns } }

/-- A turn is over that left lines for later. -/
def unshun (sid : Nat) : Host.Outcome State Fault Refusal → Host.Outcome State Fault Refusal
  | .next s => .next (s.shunning sid [])
  | o => o

/-! ### One step -/

/-- What happens when nothing is planned: engines and strands take turns, by the parity of the counter (log 4). Held events
are tried again when no engine has work, and once in a while before the engines' work. -/
def idleStep (run : Instr → State → Host.Outcome State Fault Refusal) (s : State) : Host.Outcome State Fault Refusal :=
  let again : State := { s with agenda := s.deferred.map Act.event, deferred := [] }
  let held := fun (other : Host.Outcome State Fault Refusal) =>
    match s.dueEvents with
    | some s1 => clocked (.next s1)
    | none => if s.deferred.isEmpty then other else clocked (.next again)
  let work := fun (other : Host.Outcome State Fault Refusal) =>
    match s.due with
    | some i => clocked (run i s)
    | none => other
  let engines := fun (_ : Unit) (other : Host.Outcome State Fault Refusal) =>
    if s.tick / 2 % 16 = 0 then held (work other) else work (held other)
  let strands := fun (_ : Unit) (other : Host.Outcome State Fault Refusal) =>
    match s.select run with
    | some s1 => clocked (turn run s1)
    | none => other
  if s.tick % 2 = 1 then engines () (strands () (clocked (.next s))) else strands () (engines () (clocked (.next s)))

/-- One step, with `run` for the instructions and events: the head of the agenda, or what idleStep finds. -/
def advance (run : Instr → State → Host.Outcome State Fault Refusal) (s : State) :
    Host.Outcome State Fault Refusal :=
  match s.agenda with
  | .issue sid :: rest => ({ s with agenda := rest } : State).agendaTurn run sid
  | .issueBut sid lns :: rest => unshun sid ((({ s with agenda := rest } : State).shunning sid lns).agendaTurn run sid)
  | .event i :: rest => clocked (run i { s with agenda := rest })
  | .outside pa data :: rest =>
    -- the owner of memory outside the W4 writes it; a write to domain memory re-evaluates WAITW (R109)
    let s1 := { s with agenda := rest }
    .next (match s.region pa with
      | .host | .cxl => { s1 with mem := putBytes s.mem pa data }
      | .remote _ => (cutRange pa data.length).foldl (fun s p => s.notify (p.1 / 128)) { s1 with mem := putBytes s.mem pa data }
      | _ => s1)
  | .time c t :: rest => .next (({ s with agenda := rest }).pass { cycles := fun _ => c, ticks := fun _ => t })
  | .route d m :: rest => .next { s with agenda := rest, routes := Tab.set 0#16 s.routes d m }
  | .shadowBase b :: rest => .next { s with agenda := rest, shadow := b }
  | .pasid n p :: rest => .next { s with agenda := rest, pasids := Tab.put s.pasids n p }
  | .msixMask n m :: rest => .next (({ s with agenda := rest } : State).setMsixMask n m)
  | [] => idleStep run s

/-! ### A word to run -/

/-- The boot's work as one instruction needs it: the monitor strand of R419 at the base of its image, the translation of the
page there, and a device whose homes answer (R418; log 17). -/
def State.withMonitor (s : State) : State :=
  let ptr := fun (pa : Nat) => natLe 8 (pa + 0x301)
  let put := fun (m : Tab Byte) (p : Nat × List Byte) => putBytes m p.1 p.2
  { s.placeMonitor 0x1_0000_0000#64 with
    agenda := [.issue 0], dies := State.reset.dies, homes := [], memBytes := 0xA0_0000_0000
    storeQ := [], tiles := [], capFifo := [], eph := [], expired := [], frameKd := []
    mem := [(0x20_0000, ptr 0x20_1000), (0x20_1000, ptr 0x20_2000), (0x20_2020, ptr 0x20_3000),
            (0x20_3000, ptr 0x20_4000), (0x20_4000, natLe 8 (0x69 + 0x100 * 2 ^ 29))].foldl put s.mem
    tags := [0x20_0000, 0x20_1000, 0x20_2000, 0x20_3000, 0x20_4000].foldl (fun t pa => Tab.set tagReset t (pa / 128) 0#16) s.tags }

end Sys2Proof.Machine
end

