-- ==== Sys2Proof/Machine/Step.lean ====
section
/-! DEFINITION. One step of the machine, and placing a word where the next step fetches it. -/

namespace Sys2Proof.Machine

/-- One step: what the agenda holds next, with time passing beside it. -/
def step (s : State) : Host.Outcome State Fault Refusal := advance exec s

/-- The monitor strand of R419 in place, with an instruction of `nbits` bits `w` at its pc: DPA 0x100_0000. -/
def State.withFetchWord (s : State) (nbits w : Nat) : State :=
  let s1 := s.withMonitor
  { s1 with mem := putBytes s1.mem 0x100_0000 (natLe 8 (w % 2 ^ nbits)), tags := Tab.set tagReset s1.tags 0x2_0000 0#16 }

end Sys2Proof.Machine
end

