-- ==== Sys2Proof/Safety.lean ====
section
/-! DEFINITION. What counts as a well-formed and undisturbed machine: the words in which the claims are stated. -/

namespace Sys2Proof

/-- The events of the opcode table: what the machine does beside its instructions, and what reaches it from outside. -/
def Instr.isEvent : Instr → Bool
  | .evTeamAdmission | .evPreemption .. | .evTeamReclaim .. | .evCaravanCompletion .. | .evWaitwReevaluate ..
  | .evIdleWake .. | .evAccessPerform .. | .evAtomicApply .. | .evPriResponse .. | .evHostInvalidation ..
  | .evCopyRowRequest .. | .evCopyRowComplete .. | .evCopyRowFault .. | .evRecodePageStart .. | .evRecodePageReencode ..
  | .evFrameMigration .. | .evFrameSwitch .. | .evTileCapacityGrant | .evTileLineReserve .. | .evTileCommit ..
  | .evTileRelease .. | .evXsendLanding .. | .evXredReduce .. | .evExchangeOpComplete .. | .evExchangePeerTimeout ..
  | .evExchangePeerClose .. | .evAsyncTrapDelivery .. | .evWatchdogExpiry .. | .evEphemeralExpiry .. | .evSoftError ..
  | .evDctlCommandDone .. | .evHostWrite .. | .evTagWindowWrite .. | .evHostRead .. | .evMmioRegisterWrite ..
  | .evHostAtomicop .. | .evCxlMemRequest .. | .evWeatreInboundRequest .. | .evFlitRetry .. | .evLinkFailure ..
  | .evDeviceUnreachable .. | .evLinkLayerRetry .. | .evLongHaulAck .. | .evLhcfgWrite .. | .evQuotaRecordWrite ..
  | .evViReset .. | .evViResetComplete .. | .evCounterSnapshot .. | .evCounterClear .. | .evEvqheadWrite ..
  | .evEvqstatWrite .. | .evMailboxDoorbell | .evDctlAdmit .. | .evDctlDrain .. | .evDctlWb .. | .evDctlMig ..
  | .evDctlQuiesce .. | .evDctlRst .. | .evDctlRetrain .. | .evOperatingPointChange .. | .evPcapEstimate .. | .evThermalTrip
  | .evThermalReset | .evDeviceReset | .evBootPuf .. | .evBootDhcp .. | .evBootFetch .. | .evBootVerify .. | .evBootRetry
  | .evBootBist .. | .evBootDice | .evMonitorStart .. | .evLinkStateChange .. | .evExchangePeerOpen ..
  | .evEthernetTransportGaveUp .. | .evConfigurationRequest .. => true
  | _ => false

namespace Machine

/-- The canonical form of memory: bytes and line tags by rising address, with no entry equal to what an unlisted address
reads as. -/
def Memory.wf (s : State) : Bool := Tab.wf 0#8 s.mem && Tab.wf tagReset s.tags

/-- A byte of device, host, CXL or domain memory by DPA. -/
def State.byteAt (s : State) (pa : Nat) : Byte := Tab.get 0#8 s.mem pa

/-- The tag of a line by number (DPA / 128). -/
def State.tagAt (s : State) (ln : Nat) : BitVec 16 := Tab.get tagReset s.tags ln

/-- An instruction with these slots passes every check that precedes its own (R37), with its operands resolved in `c`: its
privilege, its specifiers, lanes, overlap and the queues, which can serve it. -/
def Issues (i : Instr) (us : List Use) (s : State) (c : Ctx) (mk : Mk := .all) (overlap : Ctx → Res Unit := fun _ => .ok ()) :
    Prop := ready i s us mk overlap = .ok c

/-- An instruction with these slots raises a cause: its issue is charged, TSTART is zero where it has a queue destination, a
refused host translation is spent, and the cause is delivered (R101, R211, R244, R385). -/
def State.raises (s : State) (i : Instr) (us : List Use) (t : Trap) : State :=
  let u := (if us.any Use.pushes then s.setMe { s.me with tstart := 0#64 } else s).chargeIssue i
  (u.spendFor t).deliver u.cur t

/-- A slot that names its register directly. -/
def Use.direct (u : Use) : Prop := ∃ n, u.o = .reg n

/-- A byte of memory by DPA as memory beyond the cores holds it: a line of VCLS zero holds zeros. -/
def State.readByte (s : State) (pa : Nat) : Nat :=
  let l := s.homeView false 0#6 (pa / 128)
  if l.cls = 3 then 0 else nbits l.data (8 * (pa % 128)) 8

/-- A byte of host or CXL memory without a shadow region, whose line the LLC holds dirty, not at all, or as it stands outside; or
a byte of other memory. -/
def State.settled (s : State) (pa : Nat) : Prop :=
  match s.region pa with
  | .host | .cxl => s.shadow = none ∧ ∀ h, Tab.find s.hostLines (pa / 128) = some h → h.dirty = false →
      leNat h.data = bytesNat s.mem (128 * (pa / 128)) 128
  | _ => True

/-- Bytes of memory that a store at a translated address may write beside its own: those of its leaves' A and D bits, those past a
narrow layout in a line of host or CXL memory, and the shadow tag of a CXL line (R57, R227, R245). -/
def State.sideBytes (s : State) (x : Xlat) (pa : Nat) : Prop :=
  (∃ p ∈ x.upd, p.1 = pa) ∨
    ((s.region x.pa = .host ∨ s.region x.pa = .cxl) ∧ pa / 128 = x.pa / 128 ∧ lineBits x.cfmt ≤ 8 * (pa % 128)) ∨
    (s.region x.pa = .cxl ∧ ∃ b, s.shadow = some b ∧ (pa = b + 2 * (x.pa % 2 ^ 48 / 128) ∨ pa = b + 2 * (x.pa % 2 ^ 48 / 128) + 1))

/-- The slots of the instructions that read scalar registers and write at most one: the scalar arithmetic, the reads of
control, identity and index registers, and the jumps and branches. -/
def scalarUses (i : Instr) : Option (List Use) :=
  match i with
  | .add d a b | .sub d a b | .mul d a b | .mulh d a b | .mulhu d a b | .div d a b | .divu d a b | .rem d a b | .remu d a b
  | .and d a b | .or d a b | .xor d a b | .shl d a b | .shr d a b | .sra d a b | .slt d a b | .sltu d a b | .min d a b
  | .max d a b | .minu d a b | .maxu d a b => some ([rdS .a a] ++ srcBUse b ++ [wrS d])
  | .clz d a | .ctz d a | .popc d a | .bfx d a _ _ _ | .lih d a _ | .fsqrt _ _ d a | .fcvt _ _ _ d a | .fclass _ d a
  | .jr d a _ => some [rdS .a a, wrS d]
  | .bfi d a b _ _ | .fadd _ _ d a b | .fsub _ _ d a b | .fmul _ _ d a b | .fdiv _ _ d a b | .fmin _ d a b | .fmax _ d a b
  | .fcmp _ _ d a b => some [rdS .a a, rdS .b b, wrS d]
  | .sel d a b x | .fma _ _ d a b x => some [rdS .a a, rdS .b b, rdS .c x, wrS d]
  | .li d _ | .jal d _ | .crd d _ | .getid d _ | .ixget d _ => some [wrS d]
  | .beq a b _ | .bne a b _ | .blt a b _ | .bge a b _ | .bltu a b _ | .bgeu a b _ => some [rdS .a a, rdS .b b]
  | .jmp _ => some []
  | _ => none

/-- The flags that a scalar instruction may raise (R131, R136). -/
def scalarFlags (i : Instr) : Flags :=
  match i with
  | .div _ _ _ => fDZ ||| fSAT
  | .divu _ _ _ | .rem _ _ _ | .remu _ _ _ => fDZ
  | .fdiv _ _ _ _ _ => fNV ||| fDZ ||| fOF ||| fUF ||| fNX
  | .fcmp _ _ _ _ _ => fNV
  | .fadd _ _ _ _ _ | .fsub _ _ _ _ _ | .fmul _ _ _ _ _ | .fma _ _ _ _ _ _ | .fsqrt _ _ _ _ | .fmin _ _ _ _ | .fmax _ _ _ _
  | .fcvt _ _ _ _ _ => fNV ||| fOF ||| fUF ||| fNX
  | _ => 0#7

/-- A state that differs from another in nothing but strands, teams and virtual interfaces, and in these only in the acting
strand, the queues of its team and the counters of its virtual interface. -/
structure OwnOnly (s t : State) : Prop where
  rest : t = { s with strands := t.strands, teams := t.teams, vis := t.vis }
  strands : ∀ sid, sid ≠ s.cur → t.strand sid = s.strand sid
  teams : ∀ n, n ≠ s.me.team → t.team n = s.team n
  queues : t.team s.me.team = { s.myTeam with queues := (t.team s.me.team).queues }
  vis : ∀ n, n ≠ s.myVi → t.vi n = s.vi n
  counters : t.vi s.myVi = { s.vi s.myVi with counters := (t.vi s.myVi).counters }

end Machine
end Sys2Proof
end

