-- ==== Sys2Proof/Certificates/Slice0/Obligations.lean ====
section
/-! DEFINITION. The statements for the provers. -/

open Sys2Proof Sys2Proof.Machine

/-! ### Words and steps -/

/-- R22–R33: decoding an encoded instruction gives it back, with every operand at every value its encoding admits. -/
def Obligations.DecodeEncode : Prop :=
  ∀ i : Instr, i.wf = true → i.hasWord = true → decode (encode i) = .ok i

/-- R25–R33: a word that decodes is the word of a well-formed instruction: every word has one meaning. -/
def Obligations.EncodeDecode : Prop :=
  ∀ (w : Word) i, decode w = .ok i → i.wf = true ∧ i.hasWord = true ∧ encode i = w

/-- Words of several families, field by field as Tables 2.1–2.5 place them. -/
def Obligations.DecodedWords : Prop :=
  decode (0x01#8 ++ 0#5 ++ 3#7 ++ 1#7 ++ 2#7 ++ 0#7 ++ 0#7 ++ 0#16) = .ok (.add (.reg 3) (.reg 1) (.op (.reg 2))) ∧
  decode (0x01#8 ++ 0#5 ++ 3#7 ++ 1#7 ++ 0#7 ++ 0#7 ++ 0x40#7 ++ 0xFFFF#16) = .ok (.add (.reg 3) (.reg 1) (.imm 0xFFFF)) ∧
  decode (0x1C#8 ++ 0#5 ++ 5#7 ++ 0#7 ++ 7#37) = .ok (.li (.reg 5) 7) ∧
  decode (0x23#8 ++ 0#5 ++ 1#7 ++ 0x41#7 ++ 4#37) = .ok (.beq (.reg 1) (.ix 1) 4) ∧
  decode (0x33#8 ++ 0#5 ++ 3#7 ++ 1#7 ++ 2#7 ++ 0#7 ++ (2#3 ++ 0#1 ++ 1#3) ++ 0#16) =
    .ok (.fdiv .f32 .rtz (.reg 3) (.reg 1) (.reg 2)) ∧
  decode (0x40#8 ++ 0#5 ++ 3#7 ++ 1#7 ++ 0x4A#7 ++ 1#7 ++ (6#3 ++ 0#2 ++ 1#2) ++ 8#16) =
    .ok (.ld 6 (.sp .acq) (.reg 3) (.reg 1) (.q 2) 8) ∧
  decode (0x41#8 ++ 0#5 ++ 3#7 ++ 1#7 ++ 2#7 ++ 0#7 ++ (3#3 ++ 2#2 ++ 2#2) ++ 8#16) =
    .ok (.st 3 (.mem .sys .rel) (.reg 3) (.reg 1) (.reg 2) 8) ∧
  decode (0x70#8 ++ 2#4 ++ 1#1 ++ 3#7 ++ 1#7 ++ 2#7 ++ 0#7 ++ (1#3 ++ 1#1 ++ 1#1 ++ 0#2) ++ 0#16) =
    .ok (.vadd (.m 1 true) .rne true true (.reg 3) (.reg 1) (.reg 2)) ∧
  decode (0xC6#8 ++ 0#5 ++ 0#7 ++ 5#7 ++ 0#37) = .ok (.cpcancel 5) ∧
  decode (0xD1#8 ++ 0#56) = .ok .exit ∧ decode (0xF1#8 ++ 0#56) = .ok .tret ∧
  decode (0xFA#8 ++ 0#5 ++ 3#7 ++ 1#7 ++ 0#37) = .ok (.idle (.reg 3) (.reg 1)) ∧
  (∀ x : BitVec 56, decode (0x00#8 ++ x) = .error 0 ∧ decode (0xFF#8 ++ x) = .error 0 ∧ decode (0x29#8 ++ x) = .error 0)

/-- R22, R37, R386: a strand's turn: a pending cause that can be taken, else the fetch, the decoder's ILLEGAL, or exactly the
decoded instruction; time passes beside it. Whose turn it is, the agenda's order, the waits and deficits that `prepare` writes, and
where nothing is planned the alternation of engines and strands, are the model's choice (log 4). What passing time changes: the
model's counter and agenda, CYCLE, REFCNT, watchdog counts and usage counters alone; a fetch's effects are those of its translation
and its charge (log 122). -/
def Obligations.StepRunsDecoded : Prop :=
  ((∀ (s : State) sid rest, s.agenda = .issue sid :: rest → let s0 : State := { s with agenda := rest }
    s0.mayIssue sid = true → s0.deprived exec sid = false →
    let s1 := s0.prepare exec sid (s0.afterIssue exec sid false)
    (∀ p, s1.firstPend s1.me = some p → step s = .next (s1.takePend sid p).clock) ∧
    (s1.firstPend s1.me = none →
      (∀ t, s1.fetch = .error (.trap t) → step s = .next ((s1.spendFor t).deliver sid t).clock) ∧
      (∀ x w i, s1.fetch = .ok (x, w) → decode w = .ok i → step s = clocked (exec i (((s1.used x).fillHost x).chargeFetch x.pa))) ∧
      (∀ x w sub, s1.fetch = .ok (x, w) → decode w = .error sub → let s2 := ((s1.used x).fillHost x).chargeFetch x.pa
        step s = .next (s2.deliver sid { cause := .illegal, v0 := w, v1 := w64 sub }).clock))) ∧
  (∀ (s : State) i rest, s.agenda = .event i :: rest → step s = clocked (exec i { s with agenda := rest })) ∧
  (∀ (s : State) sid st x w i, s.agenda = [] → s.tick % 2 = 0 → (s.strands.filter fun p => s.mayIssue p.1) = [(sid, st)] →
    let s1 := s.prepare exec sid (s.afterIssue exec sid true)
    s1.firstPend s1.me = none → s1.fetch = .ok (x, w) → decode w = .ok i →
    step s = clocked (exec i (((s1.used x).fillHost x).chargeFetch x.pa)))) ∧
  (∀ (s : State) sid drr, ∃ strands turnAt cyc, s.prepare exec sid drr = { s with cur := sid, drr, strands, turnAt, cyc } ∧
    ∀ k, ∃ w n, (s.prepare exec sid drr).strand k = { s.strand k with waited := w, nmax := n }) ∧
  (∀ s : State, ∃ strands vis cycles dies agenda,
    s.clock = { s with strands, vis, cycles, dies, agenda, tick := s.tick + 1 } ∧
    (∀ sid, ∃ n, (s.clock.strand sid) = { s.strand sid with wdrem := n }) ∧
    (∀ n, ∃ k, s.clock.vi n = { s.vi n with counters := k }) ∧
    (∀ d, ∃ k, s.clock.die d = { s.die d with refcnt := k }))

/-! ### Whole-machine rules -/

/-- The canonical form of memory: every step keeps it. -/
def Obligations.StepKeepsMemory : Prop :=
  ∀ s t : State, Memory.wf s = true → step s = .next t → Memory.wf t = true

/-- R408, Tables 3.5 and 17.1 in part: the machine after reset. -/
def Obligations.ResetState : Prop :=
  Memory.wf State.reset = true ∧ State.reset.boot.stage = 0 ∧ State.reset.boot.halted = false ∧ State.reset.strands = [] ∧
  State.reset.teams = [] ∧ State.reset.caravans = [] ∧ State.reset.tiles = [] ∧ State.reset.linksUp = 0#16 ∧
  (∀ pa, State.reset.byteAt pa = 0#8) ∧ (∀ ln, tagCls (State.reset.tagAt ln) = 3) ∧
  (∀ d, d < 4 → (State.reset.die d).state = .online) ∧ (∀ n, (State.reset.vi n).en = false) ∧
  (∃ t, step State.reset = .next t ∧ t.mem = [] ∧ t.strands = [])

/-- Memories in canonical form that read alike are equal. -/
def Obligations.EqualReadsEqualMemory : Prop :=
  ∀ s t : State, Memory.wf s = true → Memory.wf t = true → (∀ pa, s.byteAt pa = t.byteAt pa) →
    (∀ ln, s.tagAt ln = t.tagAt ln) → s.mem = t.mem ∧ s.tags = t.tags

/-- R384, R385: which level takes a cause, and what delivery writes: xPC, xCAUSE, xVAL0–3, xSTAT, the privilege and the pc, with
CR.TSTART and CR.MSTEP zero; every other register of the strand stays, as does all outside it. What the trap ends is the model's record
of the instruction that waits and of its loads (logs 5, 71, 118). -/
def Obligations.TrapDelivery : Prop :=
  (∀ (s : State) sid t async second lvl l esc, let st := s.strand sid
    s.takingLevel st (baseLevel t st.priv second lvl) async = some (l, esc) →
    let u := s.deliver sid t async second lvl
    let x := u.lvlRegs (u.strand sid) l
    let old := s.lvlRegs st l
    x.pc = (if t.cause = .trapcall then st.pc + 8#64 else st.pc) ∧ x.cause = w64 t.cause.code ∧
    x.v0 = t.v0 ∧ x.v1 = t.v1 ∧ x.v2 = t.v2 ∧ x.v3 = t.v3 ∧ x.vec = old.vec ∧
    bits x.stat 0 1 = 1 ∧ bits x.stat 1 1 = (if async then 1 else 0) ∧
    bits x.stat 2 2 = (if l = .user then 0 else st.priv.num) ∧
    bits x.stat 4 1 = (if l ≠ .user ∧ esc = true then 1 else 0) ∧
    bits x.stat 5 1 = (if l = .user then 0 else bits old.stat 5 1) ∧ bits x.stat 6 10 = 0 ∧
    bits x.stat 16 10 = bits st.tstart 0 10 ∧ bits x.stat 26 6 = 0 ∧ bits x.stat 32 2 = bits st.mstep 0 2 ∧ bits x.stat 34 30 = 0 ∧
    (u.strand sid).pc = old.vec ∧ (u.strand sid).priv = Priv.max st.priv l ∧ (u.strand sid).run = .active ∧
    (u.strand sid).tstart = 0#64 ∧ (u.strand sid).mstep = 0#64 ∧
    (∀ k, k ≠ l → u.lvlRegs (u.strand sid) k = s.lvlRegs st k) ∧
    u.strand sid = { st with ut := (u.strand sid).ut, st := (u.strand sid).st, mt := (u.strand sid).mt, pc := old.vec
                             priv := Priv.max st.priv l, run := .active, tstart := 0#64, mstep := 0#64, sstep := none, xlast := none
                             got := [], late := [], shun := [], reqs := 0, charged := false, homing := none } ∧
    u = { s with strands := u.strands } ∧ ∀ k, k ≠ sid → u.strand k = s.strand k) ∧
  (∀ (s : State) st base async l esc, s.takingLevel st base async = some (l, esc) ↔
    (base.num ≤ l.num ∧ (s.lvlRegs st l).vec ≠ 0#64 ∧ (async = false → bits (s.lvlRegs st l).stat 0 1 = 0) ∧
      (∀ k : Priv, base.num ≤ k.num → k.num < l.num →
        (s.lvlRegs st k).vec = 0#64 ∨ async = false ∧ bits (s.lvlRegs st k).stat 0 1 = 1) ∧ esc = decide (l ≠ base))) ∧
  (∀ (s : State) sid t, let st := s.strand sid
    s.takingLevel st (baseLevel t st.priv false none) false = none →
    let u := s.setStrand sid { st with run := .stopped }
    s.deliver sid t = if s.viNo st = 0 then u else u.viReset (s.viNo st))

/-- R35, R405: an instruction below its least privilege raises PRIVILEGE with its word, and has none of its effect. -/
def Obligations.PrivilegeFault : Prop :=
  ∀ (i : Instr) (s : State),
    (match i with
      | .kdsetAssign _ _ _ _ | .kdsetNewkey _ _ _ _ | .kdsetRetire _ _ _ _ | .homemap _ _ _ | .idle _ _ => s.me.priv ≠ .mon
      | .stPatch _ _ _ _ _ _ | .palwr _ _ | .ctxsave _ _ _ _ _ _ _ | .ctxrstr _ _ _ | .tlbinv _ _ _
      | .rcstart _ _ _ _ _ | .rcstat _ _ => s.me.priv = .user
      | .crd _ n => crAccess n.toNat s.me.priv = .none
      | .cwr n _ => crAccess n.toNat s.me.priv ≠ .rw
      | .crsw _ n _ => crAccess n.toNat s.me.priv ≠ .rw
      | _ => False) →
    ∃ us, exec i s = .next (s.raises i us { cause := .privilege, v0 := encode i })

/-- R26–R28, R106, R116, R122, R210, R398: how direct, indirect and queue specifiers resolve, and their faults. -/
def Obligations.OperandRules : Prop :=
  ((∀ i (s : State) a b d, privOk i s.me.priv = true → (needsLanes (opOf i) = true → s.myCar.service = false) →
    ∃ c, Issues i [rdS .a (.reg a), rdS .b (.reg b), wrS (.reg d)] s c ∧ c.s_ .a = s.me.getS a.toNat ∧
      c.s_ .b = s.me.getS b.toNat ∧ c.td = .reg d.toNat ∧ c.ix = [] ∧ c.pops = []) ∧
  (∀ i (s : State) mk a b d, privOk i s.me.priv = true →
    ((∀ n ∈ [a, b, d], bitAt s.me.vpresent n.toNat = true) → s.myCar.service = false →
      ∃ c, Issues i [rdV .a (.reg a), rdV .b (.reg b), wrV (.reg d)] s c mk ∧ c.v_ .a = VOp.ofReg (s.me.getV a.toNat) a.toNat ∧
        c.v_ .b = VOp.ofReg (s.me.getV b.toNat) b.toNat ∧ c.td = .reg d.toNat) ∧
    (bitAt s.me.vpresent a.toNat = false → ready i s [rdV .a (.reg a), rdV .b (.reg b), wrV (.reg d)] mk (fun _ => .ok ()) =
      .error (.trap { cause := .vabsent, v0 := w64 a.toNat, v1 := 0#64 })) ∧
    ((∀ n ∈ [a, b, d], bitAt s.me.vpresent n.toNat = true) → s.myCar.service = true → needsLanes (opOf i) = true →
      ready i s [rdV .a (.reg a), rdV .b (.reg b), wrV (.reg d)] mk (fun _ => .ok ()) =
        .error (.trap { cause := .noLanes, v0 := encode i }))) ∧
  (∀ i (s : State) n d (base len off step : Nat) (wrap auto : Nat), privOk i s.me.priv = true → needsLanes (opOf i) = false →
    base < 64 → len < 64 → off < 64 → step < 16 → wrap < 2 → auto < 3 →
    s.me.getI n.toNat = w64 (base + len * 2 ^ 6 + off * 2 ^ 12 + step * 2 ^ 18 + auto * 2 ^ 22 + wrap * 2 ^ 24) →
    let b := if len = 0 then 64 else len
    let st : Int := if step < 8 then step else (step : Int) - 16
    let adj : Int := if auto = 2 then (off : Int) + st else off
    (base + b > 64 → ready i s [rdS .a (.ix n), wrS (.reg d)] .all (fun _ => .ok ()) =
      .error (.trap { cause := .bound, v0 := w64 n.toNat, v1 := w64 (base + b), v2 := 1#64 })) ∧
    (base + b ≤ 64 → wrap = 0 → (adj < 0 ∨ (b : Int) ≤ adj) →
      ready i s [rdS .a (.ix n), wrS (.reg d)] .all (fun _ => .ok ()) =
        .error (.trap { cause := .bound, v0 := w64 n.toNat, v1 := BitVec.ofInt 64 adj, v2 := 0#64 })) ∧
    (base + b ≤ 64 → (wrap = 1 ∨ (0 ≤ adj ∧ adj < b)) →
    let o := if wrap = 1 then (adj % b).toNat else adj.toNat
    (auto = 0 → ∃ c, Issues i [rdS .a (.ix n), wrS (.reg d)] s c ∧ c.s_ .a = s.me.getS (base + o) ∧ c.ix = []) ∧
    (auto = 1 → wrap = 1 → ∃ c, Issues i [rdS .a (.ix n), wrS (.reg d)] s c ∧ c.s_ .a = s.me.getS (base + o) ∧
      c.ix = [(n.toNat, (((o : Int) + st) % b).toNat)]) ∧
    (auto = 1 → wrap = 0 → 0 ≤ (o : Int) + st → (o : Int) + st ≤ min b 63 →
      ∃ c, Issues i [rdS .a (.ix n), wrS (.reg d)] s c ∧ c.s_ .a = s.me.getS (base + o) ∧
        c.ix = [(n.toNat, ((o : Int) + st).toNat)]) ∧
    (auto = 2 → ∃ c, Issues i [rdS .a (.ix n), wrS (.reg d)] s c ∧ c.s_ .a = s.me.getS (base + o) ∧
      c.ix = [(n.toNat, o)]) ∧
    (auto = 1 → wrap = 0 → ((o : Int) + st < 0 ∨ (o : Int) + st > min b 63) →
      ready i s [rdS .a (.ix n), wrS (.reg d)] .all (fun _ => .ok ()) =
        .error (.trap { cause := .bound, v0 := w64 n.toNat, v1 := BitVec.ofInt 64 (o + st), v2 := 2#64 })))) ∧
  (∀ i (s : State) n d (base len off : Nat), privOk i s.me.priv = true → s.myCar.service = false →
    base < 64 → len < 64 → off < 64 → let b := if len = 0 then 64 else len
    (s.me.getI n.toNat = w64 (base + len * 2 ^ 6 + off * 2 ^ 12 + 2 ^ 24 + 2 ^ 25) →
      (base + b ≤ 48 → bitAt s.me.vpresent (base + off % b) = true → bitAt s.me.vpresent d.toNat = true →
        ∃ c, Issues i [rdV .a (.ix n), wrV (.reg d)] s c ∧
          c.v_ .a = VOp.ofReg (s.me.getV (base + off % b)) (base + off % b)) ∧
      (base + b > 48 → ready i s [rdV .a (.ix n), wrV (.reg d)] .all (fun _ => .ok ()) =
        .error (.trap { cause := .bound, v0 := w64 n.toNat, v1 := w64 (base + b), v2 := 1#64 })) ∧
      ready i s [rdS .a (.ix n), wrS (.reg d)] .all (fun _ => .ok ()) =
        .error (.trap { cause := .illegal, v0 := encode i, v1 := 6#64, v2 := w64 n.toNat })) ∧
    (s.me.getI n.toNat = w64 (base + len * 2 ^ 6 + off * 2 ^ 12 + 2 ^ 24 + 2 ^ 26) → base + b ≤ 12 →
      ∃ c, Issues i [rdM .a (.ix n), wrM (.reg d)] s c ∧ c.m_ .a = s.me.getM (base + off % b)))) ∧
  (∀ i (s : State) mk n d (base len off l : Nat), privOk i s.me.priv = true → s.myCar.service = false →
    base < 64 → len < 64 → off < 64 → l < 48 →
    s.me.getI n.toNat = w64 (base + len * 2 ^ 6 + off * 2 ^ 12 + 2 ^ 25 + 2 ^ 27 + l * 2 ^ 28) →
    let b := if len = 0 then 64 else len
    let v := s.me.getV l
    let k : Nat → Int := fun j => (off : Int) + (match v.elem j with | .fin neg num _ => Val.snum neg num | _ => 0)
    base + b ≤ 48 → off < b → isWInt v.fmt = true → bitAt s.me.vpresent l = true → s.me.vlen ≤ cap v.fmt →
    (∀ j ∈ s.me.actives mk, v.psnAt (j / 16) = false ∧ 0 ≤ k j ∧ k j < b ∧ bitAt s.me.vpresent (base + (k j).toNat) = true) →
    bitAt s.me.vpresent d.toNat = true →
    ∃ c, Issues i [rdV .a (.ix n), wrV (.reg d)] s c mk ∧
      c.ta = .lane (base + off) ((s.me.actives mk).map fun j => (j, base + (k j).toNat)) ∧
      ∀ j ∈ s.me.actives mk, (c.v_ .a).code j = (s.me.getV (base + (k j).toNat)).code j) ∧
  (∀ i (s : State) q d x, privOk i s.me.priv = true → needsLanes (opOf i) = false → q.toNat < s.myCar.wb.queues →
    Tab.find s.myTeam.queues q.toNat = some x → x.vec = false →
    (nbits x.cons.toNat s.me.idx 1 = 1 → s.queueTaken q.toNat = false → ∀ w rest, x.entries = .sc w :: rest →
      ∃ c, Issues i [rdS .a (.q q), wrS (.reg d)] s c ∧ c.s_ .a = w ∧ c.pops = [(q.toNat, 1)]) ∧
    (nbits x.cons.toNat s.me.idx 1 = 1 → x.entries = [] → s.queueClosed s.myTeam x = false →
      ready i s [rdS .a (.q q), wrS (.reg d)] .all (fun _ => .ok ()) = .error .stall) ∧
    (nbits x.cons.toNat s.me.idx 1 = 1 → x.entries = [] → s.queueClosed s.myTeam x = true →
      ready i s [rdS .a (.q q), wrS (.reg d)] .all (fun _ => .ok ()) =
        .error (.trap { cause := .queueEnd, v0 := w64 q.toNat, v1 := 0#64, v2 := 0#64 })) ∧
    (nbits x.cons.toNat s.me.idx 1 ≠ 1 →
      ready i s [rdS .a (.q q), wrS (.reg d)] .all (fun _ => .ok ()) =
        .error (.trap { cause := .access, v0 := w64 q.toNat, v1 := 3#64 }))) ∧
  (∀ i (s : State) q a x, privOk i s.me.priv = true → needsLanes (opOf i) = false → q.toNat < s.myCar.wb.queues →
    Tab.find s.myTeam.queues q.toNat = some x → x.vec = false →
    (nbits x.prod.toNat s.me.idx 1 ≠ 1 → ready i s [rdS .a (.reg a), wrS (.q q)] .all (fun _ => .ok ()) =
      .error (.trap { cause := .access, v0 := w64 q.toNat, v1 := 2#64 })) ∧
    (nbits x.prod.toNat s.me.idx 1 = 1 → nbits x.pclosed.toNat s.me.idx 1 = 1 →
      ready i s [rdS .a (.reg a), wrS (.q q)] .all (fun _ => .ok ()) =
        .error (.trap { cause := .queueEnd, v0 := w64 q.toNat, v1 := 3#64, v2 := 1#64 })) ∧
    (nbits x.prod.toNat s.me.idx 1 = 1 → nbits x.pclosed.toNat s.me.idx 1 ≠ 1 →
      (x.depth ≤ x.entries.length → ready i s [rdS .a (.reg a), wrS (.q q)] .all (fun _ => .ok ()) = .error .stall) ∧
      (x.entries.length < x.depth → ∃ c, Issues i [rdS .a (.reg a), wrS (.q q)] s c ∧ c.td = .push q.toNat ∧
        ∀ w, Tab.find (c.putS s w).myTeam.queues q.toNat = some { x with entries := x.entries ++ [.sc w] })))

/-! ### Frames -/

/-- R28, R116, R122: what the completion of any instruction changes of the state `u` that holds its results: the pc, TSTART and
MSTEP, the offsets that auto-increments move, the entries that were popped, and one usage counter; all memory stays. -/
def Obligations.CompletionFrame : Prop :=
  ∀ (c : Ctx) (u : State) pc keepT, c.me.sstep = none →
    let t := complete c { s := u, pc, keepT }
    OwnOnly u t ∧
    t.me = { u.me with i := t.me.i, pc := pc.getD (c.me.pc + 8#64), tstart := if keepT then u.me.tstart else 0#64,
                       mstep := if keepT then u.me.mstep else 0#64, got := [], late := t.me.late, reqs := 0
                       homing := none, charged := false } ∧
    (∀ l ∈ t.me.late, l ∈ u.me.late) ∧
    (∀ n, Tab.find c.ix n = none → t.me.getI n = u.me.getI n) ∧
    (∀ n o, c.ix = [(n, o)] → t.me.getI n = setBits (u.me.getI n) 12 6 o) ∧
    (∀ q, Tab.find c.pops q = none → Tab.find (t.team u.me.team).queues q = Tab.find u.myTeam.queues q) ∧
    (∀ q k x, c.pops = [(q, k)] → Tab.find u.myTeam.queues q = some x →
      Tab.find (t.team u.me.team).queues q = some { x with entries := x.entries.drop k }) ∧
    (∀ k, k ≠ slotCounter (opOf c.i) → Tab.get 0#64 (t.vi u.myVi).counters k = Tab.get 0#64 (u.vi u.myVi).counters k) ∧
    (∀ pa, t.byteAt pa = u.byteAt pa) ∧ (∀ ln, t.tagAt ln = u.tagAt ln)

/-- R28, R116, R122, R131, R136: what a scalar instruction that completes leaves unchanged. -/
def Obligations.ScalarFrame : Prop :=
  ∀ i us (s : State) c t, scalarUses i = some us → Issues i us s c → s.me.sstep = none →
    (∀ d a imm, i = .jr d a imm → (c.s_ .a + imm.signExtend 64).toNat % 8 = 0) → exec i s = .next t →
    OwnOnly s t ∧
    t.me = { s.me with s := t.me.s, i := t.me.i, fctl := t.me.fctl, pc := t.me.pc, tstart := 0#64, mstep := 0#64,
                       got := [], late := t.me.late, reqs := 0, homing := none, charged := false } ∧
    (∀ l ∈ t.me.late, l ∈ s.me.late) ∧
    (∀ n, c.td ≠ .reg n → t.me.getS n = s.me.getS n) ∧ t.me.getS 0 = 0#64 ∧
    (∀ n, Tab.find c.ix n = none → t.me.getI n = s.me.getI n) ∧
    (∀ k, k < 64 → t.me.fctl.getLsbD k = true → s.me.fctl.getLsbD k = true ∨ (8 ≤ k ∧ (scalarFlags i).getLsbD (k - 8) = true)) ∧
    (∀ k, s.me.fctl.getLsbD k = true → t.me.fctl.getLsbD k = true) ∧
    (∀ q, Tab.find c.pops q = none → c.td ≠ .push q → Tab.find (t.team s.me.team).queues q = Tab.find s.myTeam.queues q) ∧
    (∀ k, k ≠ slotCounter (opOf i) → Tab.get 0#64 (t.vi s.myVi).counters k = Tab.get 0#64 (s.vi s.myVi).counters k) ∧
    (∀ pa, t.byteAt pa = s.byteAt pa) ∧ (∀ ln, t.tagAt ln = s.tagAt ln)

/-- R28, R122, R147, R148, R398: what a vector or mask result leaves unchanged. The statements of results say that an
instruction answers such a state. -/
def Obligations.VectorFrame : Prop :=
  ∀ i us (s : State) c mk w fl n x, Issues i us s c mk → s.me.sstep = none → c.td = .reg n →
    (let t := complete c { s := (c.putV s w).raise fl }
     OwnOnly s t ∧
     t.me = { s.me with v := t.me.v, vdirty := s.me.vdirty ||| BitVec.ofNat 64 (2 ^ n), i := t.me.i, fctl := t.me.fctl,
                        pc := s.me.pc + 8#64, tstart := 0#64, mstep := 0#64, got := [], late := t.me.late, reqs := 0
                        homing := none, charged := false } ∧
     (∀ k, k ≠ n → t.me.getV k = s.me.getV k) ∧ (t.me.getV n).fmt = w.fmt ∧
     (∀ k, (k < 8 ∨ 15 ≤ k) → t.me.fctl.getLsbD k = s.me.fctl.getLsbD k) ∧
     (∀ k, Tab.find c.ix k = none → t.me.getI k = s.me.getI k) ∧
     (isNarrow w.fmt = false → (∀ v, (w.enc v).1 < 2 ^ elemBits w.fmt) →
       (∀ j y k f, w.el j = .raw y k f → y < 2 ^ elemBits w.fmt) → (s.me.getV n).fmt = w.fmt → ∀ j, j < cap w.fmt → w.act j = false → w.pad j = false →
       (t.me.getV n).code j = (s.me.getV n).code j) ∧
     (∀ pa, t.byteAt pa = s.byteAt pa) ∧ (∀ ln, t.tagAt ln = s.tagAt ln)) ∧
    (let t := complete c { s := (c.putM s x).raise fl }
     OwnOnly s t ∧
     t.me = { s.me with m := t.me.m, i := t.me.i, fctl := t.me.fctl, pc := s.me.pc + 8#64, tstart := 0#64, mstep := 0#64,
                        got := [], late := t.me.late, reqs := 0, homing := none, charged := false } ∧
     (∀ k, k ≠ n → t.me.getM k = s.me.getM k) ∧ t.me.getM n = x ∧ (∀ pa, t.byteAt pa = s.byteAt pa))

/-- R227, R257, R277: what ST leaves unchanged: every byte of memory but those it stores and its leaves', or all of it while
the store waits in the queue of its core; every register. `s2` is the state after the earlier stores that R282 and R290 put first.
The lines of any planned store: every byte of every other line. -/
def Obligations.StoreFrame : Prop :=
  (∀ sz sp d a b imm (s : State) c x s1 s2, Issues (.st sz sp d a b imm) [rdS .a a, rdS .b b, rdS .d d] s c →
    let va := c.s_ .a + c.s_ .b + imm.signExtend 64
    let n := 2 ^ sz.toNat
    va.toNat % n = 0 → s.locate sp.isSp .store va n (n == 4 || n == 8) = .ok (.mem x) → s.regOff (.mem x) = none →
    s.free true sp.isSp va n = .ok () → s.requests 1 = .ok () → s.order sp = .ok s1 →
    (if queues s1 sp x = true then s1.fenced = .ok s2 else s1.notHeld true (.mem x) = .ok () ∧ s1.inOrder (.mem x) = .ok s2) →
    ∃ t, exec (.st sz sp d a b imm) s = .next t ∧
    (∀ pa, (queues s1 sp x = true ∨ pa < x.pa ∨ x.pa + n ≤ pa) → ¬s2.sideBytes x pa → s2.settled pa →
      t.readByte pa = s2.readByte pa) ∧
    (∀ ln, (queues s1 sp x = true ∨ ln ≠ x.pa / 128) → (∀ p ∈ x.upd, p.1 / 128 ≠ ln) → t.tagAt ln = s2.tagAt ln) ∧
    (s.me.sstep = none →
      t.me = { s.me with i := t.me.i, pc := s.me.pc + 8#64, tstart := 0#64, mstep := 0#64, got := [], late := t.me.late
                         reqs := 0, homing := none, charged := false }) ∧
    (∀ k, Tab.find c.ix k = none → t.me.getI k = s.me.getI k) ∧ ∀ sid, sid ≠ s.cur → t.strand sid = s.strand sid) ∧
  (∀ (s : State) sp sf r ls pa, (∀ l ∈ ls, ∀ x, l.loc = .mem x ∨ l.page = some x → pa / 128 ≠ x.pa / 128 ∧ ¬s.sideBytes x pa) →
    s.settled pa → (s.writeLines sp sf r ls).1.readByte pa = s.readByte pa)

/-! ### Scalar integers -/

/-- R130, R131: S[D] of the scalar forms with two sources. R131: the divisions, with their corners and the flags DZ and SAT. -/
def Obligations.ScalarIntegerResults : Prop :=
  (∀ p ∈ ([(Instr.add, fun a b => a + b), (.sub, fun a b => a - b), (.mul, fun a b => a * b),
      (.mulh, fun a b => BitVec.ofInt 64 (a.toInt * b.toInt / 2 ^ 64)),
      (.mulhu, fun a b => BitVec.ofNat 64 (a.toNat * b.toNat / 2 ^ 64)),
      (.and, fun a b => a &&& b), (.or, fun a b => a ||| b), (.xor, fun a b => a ^^^ b),
      (.shl, fun a b => a <<< (b.toNat % 64)), (.shr, fun a b => a >>> (b.toNat % 64)),
      (.sra, fun a b => a.sshiftRight (b.toNat % 64)),
      (.slt, fun a b => if a.toInt < b.toInt then 1 else 0), (.sltu, fun a b => if a.toNat < b.toNat then 1 else 0),
      (.min, fun a b => if a.toInt < b.toInt then a else b), (.max, fun a b => if a.toInt > b.toInt then a else b),
      (.minu, fun a b => if a.toNat < b.toNat then a else b), (.maxu, fun a b => if a.toNat > b.toNat then a else b)]
      : List ((Opnd → Opnd → SrcB → Instr) × (Word → Word → Word))),
    ∀ d a b s c, Issues (p.1 d a b) ([rdS .a a] ++ srcBUse b ++ [wrS d]) s c →
      exec (p.1 d a b) s = .next (complete c { s := (c.putS s (p.2 (c.s_ .a) (c.sB b))).raise 0#7 })) ∧
  (∀ p ∈ ([(Instr.div, fun a b => if b = 0 then (0xFFFF_FFFF_FFFF_FFFF#64, fDZ)
        else if a.toInt = -2 ^ 63 ∧ b.toInt = -1 then (0x7FFF_FFFF_FFFF_FFFF#64, fSAT)
        else (BitVec.ofInt 64 (a.toInt.tdiv b.toInt), 0#7)),
      (.divu, fun a b => if b = 0 then (0xFFFF_FFFF_FFFF_FFFF#64, fDZ) else (BitVec.ofNat 64 (a.toNat / b.toNat), 0#7)),
      (.rem, fun a b => if b = 0 then (a, fDZ) else if a.toInt = -2 ^ 63 ∧ b.toInt = -1 then (0, 0#7)
        else (BitVec.ofInt 64 (a.toInt - b.toInt * a.toInt.tdiv b.toInt), 0#7)),
      (.remu, fun a b => if b = 0 then (a, fDZ) else (a - b * BitVec.ofNat 64 (a.toNat / b.toNat), 0#7))]
      : List ((Opnd → Opnd → SrcB → Instr) × (Word → Word → Word × Flags))),
    ∀ d a b s c, Issues (p.1 d a b) ([rdS .a a] ++ srcBUse b ++ [wrS d]) s c →
      exec (p.1 d a b) s = .next (complete c
        { s := (c.putS s (p.2 (c.s_ .a) (c.sB b)).1).raise (p.2 (c.s_ .a) (c.sB b)).2 }))

/-- R130, R132, R133: the other scalar integer forms. -/
def Obligations.ScalarFieldAndLoadResults : Prop :=
  (∀ p ∈ ([(Instr.clz, clzW), (.ctz, ctzW), (.popc, popW)] : List ((Opnd → Opnd → Instr) × (Word → Word))),
    ∀ d a s c, Issues (p.1 d a) [rdS .a a, wrS d] s c →
      exec (p.1 d a) s = .next (complete c { s := c.putS s (p.2 (c.s_ .a)) })) ∧
  (∀ d a pos len1 sx s c, Issues (.bfx d a pos len1 sx) [rdS .a a, wrS d] s c →
    exec (.bfx d a pos len1 sx) s = .next (complete c { s := c.putS s (bfxW (c.s_ .a) pos.toNat (len1.toNat + 1) sx) })) ∧
  (∀ d a b pos len1 s c, Issues (.bfi d a b pos len1) [rdS .a a, rdS .b b, wrS d] s c →
    exec (.bfi d a b pos len1) s = .next (complete c
      { s := c.putS s (setBits (c.s_ .a) pos.toNat (len1.toNat + 1) (c.s_ .b).toNat) })) ∧
  (∀ d a b x s c, Issues (.sel d a b x) [rdS .a a, rdS .b b, rdS .c x, wrS d] s c →
    exec (.sel d a b x) s = .next (complete c { s := c.putS s (if c.s_ .c ≠ 0 then c.s_ .a else c.s_ .b) })) ∧
  (∀ d imm s c, Issues (.li d imm) [wrS d] s c →
    exec (.li d imm) s = .next (complete c { s := c.putS s (imm.signExtend 64) })) ∧
  (∀ d a imm s c, Issues (.lih d a imm) [rdS .a a, wrS d] s c →
    exec (.lih d a imm) s = .next (complete c { s := c.putS s (imm ++ (c.s_ .a).extractLsb' 0 37) }))

/-- What CLZ, CTZ and POPC count (Table 5.6), and the fields of BFX and BFI (R132). -/
def Obligations.BitFieldFunctions : Prop :=
  clzW 0 = 64 ∧ ctzW 0 = 64 ∧
  (∀ a : Word, a ≠ 0 → (clzW a).toNat < 64 ∧ a.getLsbD (63 - (clzW a).toNat) = true ∧
    ∀ k, 63 - (clzW a).toNat < k → a.getLsbD k = false) ∧
  (∀ a : Word, a ≠ 0 → (ctzW a).toNat < 64 ∧ a.getLsbD (ctzW a).toNat = true ∧
    ∀ k, k < (ctzW a).toNat → a.getLsbD k = false) ∧
  (∀ a : Word, (popW a).toNat = ((List.range 64).filter fun k => a.getLsbD k).length) ∧
  (∀ (a : Word) pos len sx k, 1 ≤ len → pos + len ≤ 64 → k < 64 →
    (bfxW a pos len sx).getLsbD k =
      if k < len then a.getLsbD (pos + k) else (sx && a.getLsbD (pos + len - 1))) ∧
  (∀ (a b : Word) pos len k, 1 ≤ len → pos + len ≤ 64 → k < 64 →
    (setBits a pos len b.toNat).getLsbD k = if pos ≤ k ∧ k < pos + len then b.getLsbD (k - pos) else a.getLsbD k)

/-! ### Jumps, branches and traps that instructions raise -/

/-- R24, R134, R135: where jumps and branches go, and what links hold. R134: a JR to a target that is no multiple of 8 raises MISALIGNED and writes nothing. -/
def Obligations.JumpsAndBranches : Prop :=
  ((∀ off s c, Issues (.jmp off) [] s c →
    exec (.jmp off) s = .next (complete c { s := s, pc := some (s.me.pc + 8#64 * off.signExtend 64) })) ∧
  (∀ d off s c, Issues (.jal d off) [wrS d] s c →
    exec (.jal d off) s = .next (complete c
      { s := c.putS s (s.me.pc + 8#64), pc := some (s.me.pc + 8#64 * off.signExtend 64) })) ∧
  (∀ d a imm s c, Issues (.jr d a imm) [rdS .a a, wrS d] s c → (c.s_ .a + imm.signExtend 64).toNat % 8 = 0 →
    exec (.jr d a imm) s = .next (complete c
      { s := c.putS s (s.me.pc + 8#64), pc := some (c.s_ .a + imm.signExtend 64) })) ∧
  (∀ p ∈ ([(Instr.beq, fun a b => decide (a = b)), (.bne, fun a b => decide (a ≠ b)),
      (.blt, fun a b => decide (a.toInt < b.toInt)), (.bge, fun a b => decide (a.toInt ≥ b.toInt)),
      (.bltu, fun a b => decide (a.toNat < b.toNat)), (.bgeu, fun a b => decide (a.toNat ≥ b.toNat))]
      : List ((Opnd → Opnd → BitVec 37 → Instr) × (Word → Word → Bool))),
    ∀ a b off s c, Issues (p.1 a b off) [rdS .a a, rdS .b b] s c →
      exec (p.1 a b off) s = .next (complete c { s := s, pc := some (if p.2 (c.s_ .a) (c.s_ .b)
        then s.me.pc + 8#64 * off.signExtend 64 else s.me.pc + 8#64) }))) ∧
  (∀ d a imm s c, Issues (.jr d a imm) [rdS .a a, wrS d] s c → (c.s_ .a + imm.signExtend 64).toNat % 8 ≠ 0 →
    exec (.jr d a imm) s = .next (s.raises (.jr d a imm) [rdS .a a, wrS d]
      { cause := .misaligned, v0 := c.s_ .a + imm.signExtend 64 }))

/-- R401: TRAP and BRK deliver their traps, with TVAL0 = IMM16 (their state otherwise changes by delivery alone). R401: the pc that TRAP and BRK save at the level that takes them: that of the next instruction, or their own. R402: TRET from the level of the strand's privilege, and
all that it leaves as it was; that the three low bits of xPC name no part of the pc is DEDUCED (log 92). -/
def Obligations.TrapInstructions : Prop :=
  ((∀ imm s, exec (.trap imm) s = .next (s.raises (.trap imm) [] { cause := .trapcall, v0 := imm.setWidth 64 })) ∧
  (∀ imm s, exec (.brk imm) s = .next (s.raises (.brk imm) [] { cause := .breakpoint, v0 := imm.setWidth 64 }))) ∧
  ((∀ imm (s : State) l esc, s.takingLevel s.me (baseLevel { cause := .trapcall } s.me.priv false none) false = some (l, esc) →
    ∃ t, exec (.trap imm) s = .next t ∧ (t.lvlRegs t.me l).pc = s.me.pc + 8#64 ∧ (t.lvlRegs t.me l).v0 = imm.setWidth 64) ∧
  (∀ imm (s : State) l esc, s.takingLevel s.me (baseLevel { cause := .breakpoint } s.me.priv false none) false = some (l, esc) →
    ∃ t, exec (.brk imm) s = .next t ∧ (t.lvlRegs t.me l).pc = s.me.pc ∧ (t.lvlRegs t.me l).v0 = imm.setWidth 64)) ∧
  (∀ s : State, let x := s.lvlRegs s.me s.me.priv
    (x.hnd = false → exec .tret s = .next (s.raises .tret [] { cause := .privilege, v0 := encode .tret })) ∧
    (x.hnd = true → s.me.sstep = none → ∃ t, exec .tret s = .next t ∧ t.me.pc = x.pc &&& ~~~7#64 ∧
      t.me.tstart.toNat = bits x.stat 16 10 ∧ t.me.mstep.toNat = bits x.stat 32 2 ∧
      t.me.priv = (if s.me.priv = .user then .user else Priv.min (Priv.ofNum (bits x.stat 2 2)) s.me.priv) ∧
      (let y := t.lvlRegs t.me s.me.priv
       bits y.stat 0 1 = 0 ∧ bits y.stat 16 10 = 0 ∧ bits y.stat 32 2 = 0 ∧
       (∀ k, 1 ≤ k → k < 64 → (k < 16 ∨ 26 ≤ k) → (k < 32 ∨ 34 ≤ k) → y.stat.getLsbD k = x.stat.getLsbD k) ∧
       y.pc = x.pc ∧ y.cause = x.cause ∧ y.v0 = x.v0 ∧ y.v1 = x.v1 ∧ y.v2 = x.v2 ∧ y.v3 = x.v3 ∧ y.vec = x.vec) ∧
      (∀ l, l ≠ s.me.priv → t.lvlRegs t.me l = s.lvlRegs s.me l) ∧
      t.me = { s.me with pc := x.pc &&& ~~~7#64, tstart := t.me.tstart, mstep := t.me.mstep, priv := t.me.priv, ut := t.me.ut
                         st := t.me.st, mt := t.me.mt, got := [], late := [], reqs := 0, homing := none, charged := false
                         sstep := if s.me.priv ≠ .user ∧ bitAt x.stat 5 = true then some s.me.priv else none } ∧
      t = { s with strands := t.strands, teams := t.teams, vis := t.vis } ∧ (∀ sid, sid ≠ s.cur → t.strand sid = s.strand sid) ∧
      (∀ n, ∃ k, t.vi n = { s.vi n with counters := k }) ∧
      (s.me.priv = .user ∨ x.cause ≠ w64 Cause.preempt.code → t.teams = s.teams) ∧
      (∀ n, t.team n = { s.team n with noVictim := (t.team n).noVictim })))

/-! ### Scalar floating point -/

/-- Table 5.8: the arithmetic of exact values, rounded once into the type under the effective mode, with the flags of both
(R136); FMIN and FMAX. R137–R139: comparison with NV for NaNs, the conversions by KIND, and the class word. -/
def Obligations.ScalarFloatResults : Prop :=
  ((∀ p ∈ ([(Instr.fadd, addV), (.fsub, fun m x y => addV m x y.negate), (.fmul, fun _ => mulV), (.fdiv, fun _ => divV)]
      : List ((FTy → Rm → Opnd → Opnd → Opnd → Instr) × (RMode → Val → Val → Val × Flags))),
    ∀ t rm d a b s c, Issues (p.1 t rm d a b) [rdS .a a, rdS .b b, wrS d] s c →
      let m := s.me.rmode rm
      let r := p.2 m (fval t (c.s_ .a)) (fval t (c.s_ .b))
      exec (p.1 t rm d a b) s = .next (complete c
        { s := (c.putS s (w64 (roundTo t.fmt m r.1).1)).raise (r.2 ||| (roundTo t.fmt m r.1).2) })) ∧
  (∀ p ∈ ([(Instr.fmin, minV), (.fmax, maxV)] : List ((FTy → Opnd → Opnd → Opnd → Instr) × (Val → Val → Val × Flags))),
    ∀ t d a b s c, Issues (p.1 t d a b) [rdS .a a, rdS .b b, wrS d] s c →
      let m := s.me.rmode .fctl
      let r := p.2 (fval t (c.s_ .a)) (fval t (c.s_ .b))
      exec (p.1 t d a b) s = .next (complete c
        { s := (c.putS s (w64 (roundTo t.fmt m r.1).1)).raise (r.2 ||| (roundTo t.fmt m r.1).2) })) ∧
  (∀ t rm d a s c, Issues (.fsqrt t rm d a) [rdS .a a, wrS d] s c →
    let m := s.me.rmode rm
    let r := sqrtV (fval t (c.s_ .a))
    exec (.fsqrt t rm d a) s = .next (complete c
      { s := (c.putS s (w64 (roundTo t.fmt m r.1).1)).raise (r.2 ||| (roundTo t.fmt m r.1).2) })) ∧
  (∀ t rm d a b x s c, Issues (.fma t rm d a b x) [rdS .a a, rdS .b b, rdS .c x, wrS d] s c →
    let m := s.me.rmode rm
    let r := fmaV m (fval t (c.s_ .a)) (fval t (c.s_ .b)) (fval t (c.s_ .c))
    exec (.fma t rm d a b x) s = .next (complete c
      { s := (c.putS s (w64 (roundTo t.fmt m r.1).1)).raise (r.2 ||| (roundTo t.fmt m r.1).2) }))) ∧
  ((∀ t cond d a b s c, Issues (.fcmp t cond d a b) [rdS .a a, rdS .b b, wrS d] s c → cond.toNat ≤ 4 →
    let x := fval t (c.s_ .a)
    let y := fval t (c.s_ .b)
    let un := x.isUnord || y.isUnord
    let r := match cond.toNat with
      | 0 => !un && x.eq y
      | 1 => un || !x.eq y
      | 2 => !un && x.lt y
      | 3 => !un && (x.lt y || x.eq y)
      | _ => un
    let nv := if cond.toNat = 2 ∨ cond.toNat = 3 then un else x.isSig || y.isSig
    exec (.fcmp t cond d a b) s = .next (complete c
      { s := (c.putS s (if r then 1#64 else 0#64)).raise (if nv then fNV else 0#7) })) ∧
  (∀ t rm src d a s c, Issues (.fcvt t rm (.flt src) d a) [rdS .a a, wrS d] s c →
    let v := fval src (c.s_ .a)
    let r := roundTo t.fmt (s.me.rmode rm) v
    exec (.fcvt t rm (.flt src) d a) s = .next (complete c
      { s := (c.putS s (w64 r.1)).raise ((if v.isSig then fNV else 0#7) ||| r.2) })) ∧
  (∀ t rm d a s c, Issues (.fcvt t rm .fromI d a) [rdS .a a, wrS d] s c →
    let r := roundTo t.fmt (s.me.rmode rm) (Val.ofInt (c.s_ .a).toInt)
    exec (.fcvt t rm .fromI d a) s = .next (complete c { s := (c.putS s (w64 r.1)).raise r.2 })) ∧
  (∀ t rm d a s c, Issues (.fcvt t rm .fromN d a) [rdS .a a, wrS d] s c →
    let r := roundTo t.fmt (s.me.rmode rm) (Val.ofNat (c.s_ .a).toNat)
    exec (.fcvt t rm .fromN d a) s = .next (complete c { s := (c.putS s (w64 r.1)).raise r.2 })) ∧
  (∀ t rm d a s c, Issues (.fcvt t rm .toI d a) [rdS .a a, wrS d] s c →
    let r := intConvert 0x04#6 (s.me.rmode rm) false (fval t (c.s_ .a))
    exec (.fcvt t rm .toI d a) s = .next (complete c { s := (c.putS s (w64 r.1)).raise r.2 })) ∧
  (∀ t rm d a s c, Issues (.fcvt t rm .toN d a) [rdS .a a, wrS d] s c →
    let r := intConvert 0x08#6 (s.me.rmode rm) false (fval t (c.s_ .a))
    exec (.fcvt t rm .toN d a) s = .next (complete c { s := (c.putS s (w64 r.1)).raise r.2 })) ∧
  (∀ t d a s c, Issues (.fclass t d a) [rdS .a a, wrS d] s c →
    exec (.fclass t d a) s = .next (complete c { s := c.putS s (classWord t (c.s_ .a)) })))

/-! ### Scalar memory -/

/-- R256: LD of bytes in memory or in the scratchpad window. R223: LD and ST of the device's registers. -/
def Obligations.ScalarLoadResult : Prop :=
  (∀ sz sp d a b imm s c l s1, Issues (.ld sz sp d a b imm) [rdS .a a, rdS .b b, wrS d] s c →
    let va := c.s_ .a + c.s_ .b + imm.signExtend 64
    let n := 2 ^ (sz.toNat % 4)
    va.toNat % n = 0 → s.locate sp.isSp .load va n (n == 4 || n == 8) = .ok l → s.regOff l = none →
    s.free false sp.isSp va n = .ok () → s.requests 1 = .ok () → s.order sp = .ok s1 →
    let r := fun (v : Nat) => if sz.toNat < 4 then BitVec.ofNat 64 v else (BitVec.ofNat (8 * n) v).signExtend 64
    (∀ x q, l = .mem x → s1.forwarded sp x n = some q → exec (.ld sz sp d a b imm) s = .next (complete c
      { s := c.putS ((s1.markRead q).touch l) (r (nbits (s1.coreLine x).data (8 * l.off) (8 * n))),
        lines := some l.accessed })) ∧
    ((∀ x, l = .mem x → s1.forwarded sp x n = none) → ∀ s2, s1.notHeld false l = .ok () → s1.loadOrder l = .ok s2 →
      (s2.seen l).cls ≠ 2 → exec (.ld sz sp d a b imm) s = .next (complete c
        { s := c.putS (s2.touch l) (r (nbits (s2.seen l).data (8 * l.off) (8 * n))), lines := some l.accessed }))) ∧
  ((∀ sz sp d a b imm s c l off s1 s2, Issues (.ld sz sp d a b imm) [rdS .a a, rdS .b b, wrS d] s c →
    let va := c.s_ .a + c.s_ .b + imm.signExtend 64
    let n := 2 ^ (sz.toNat % 4)
    va.toNat % n = 0 → s.locate sp.isSp .load va n (n == 4 || n == 8) = .ok l → s.regOff l = some off →
    s.order sp = .ok s1 → s1.loadOrder l = .ok s2 →
    exec (.ld sz sp d a b imm) s = .next (complete c { s := c.putS (s2.touch l) (ldExtend sz (s2.regLoad off n)) }) ∧
    (n = 4 ∨ n = 8)) ∧
  (∀ sz sp d a b imm s c l off s1 s2, Issues (.st sz sp d a b imm) [rdS .a a, rdS .b b, rdS .d d] s c →
    let va := c.s_ .a + c.s_ .b + imm.signExtend 64
    let n := 2 ^ sz.toNat
    va.toNat % n = 0 → s.locate sp.isSp .store va n (n == 4 || n == 8) = .ok l → s.regOff l = some off →
    s.order sp = .ok s1 → s1.inOrder l = .ok s2 →
    exec (.st sz sp d a b imm) s = .next (complete c
      { s := (s2.touch l).regStore off n ((c.s_ .d).toNat % 2 ^ (8 * n)) }) ∧
    (n = 4 ∨ n = 8)))

/-- R257: ST into memory, into the store queue of its core at CORE scope, or into the scratchpad window. R258: ST.PATCH writes eight bytes at the home of a page that is open to patching. R257: the line after a scalar store: the stored bytes, every other byte, FMT, DEM and VCLS. -/
def Obligations.ScalarStoreResult : Prop :=
  (∀ sz sp d a b imm s c l s1, Issues (.st sz sp d a b imm) [rdS .a a, rdS .b b, rdS .d d] s c →
    let va := c.s_ .a + c.s_ .b + imm.signExtend 64
    let n := 2 ^ sz.toNat
    va.toNat % n = 0 → s.locate sp.isSp .store va n (n == 4 || n == 8) = .ok l → s.regOff l = none →
    s.free true sp.isSp va n = .ok () → s.requests 1 = .ok () → s.order sp = .ok s1 →
    let v := (c.s_ .d).toNat % 2 ^ (8 * n)
    (∀ x s2, l = .mem x → queues s1 sp x = true → s1.fenced = .ok s2 →
      let q : Buffered := { core := s2.coreOf s2.me, sid := s2.cur, vi := s2.myVi, track := trackOf x.pa, pa := x.pa, va,
                            data := natLe n v, tag := none, eph := x.eph, ten := x.ten, cfmt := x.cfmt }
      exec (.st sz sp d a b imm) s =
        .next (complete c { s := ({ s2.used x with storeQ := (s2.used x).storeQ ++ [q] }).notify (x.pa / 128), lines := some l.accessed })) ∧
    (∀ x s2, l = .mem x → queues s1 sp x = false → s1.notHeld true l = .ok () → s1.inOrder l = .ok s2 →
      exec (.st sz sp d a b imm) s = .next (complete c
        { s := s2.putLine false (stLine (s2.lineOf l) l.off n v) l, lines := some l.accessed })) ∧
    (∀ t s2, l = .sp t → s1.inOrder l = .ok s2 →
      exec (.st sz sp d a b imm) s = .next (complete c
        { s := s2.putLine false (stLine (s2.lineOf l) l.off n v) l, lines := some l.accessed }))) ∧
  (∀ sc o d a b imm s c l s1 s2, Issues (.stPatch sc o d a b imm) [rdS .a a, rdS .b b, rdS .d d] s c →
    let va := c.s_ .a + c.s_ .b + imm.signExtend 64
    va.toNat % 8 = 0 → sc ≠ .core → s.locate false .patch va 8 = .ok l →
    s.free true false va 8 = .ok () → s.requests 1 = .ok () → s.order (.mem sc o) = .ok s1 → s1.notHeld true l = .ok () →
    s1.inOrder l = .ok s2 →
    exec (.stPatch sc o d a b imm) s = .next (complete c
      { s := s2.putLine false (stLine (s2.lineOf l) l.off 8 (c.s_ .d).toNat) l }) ∧
    (∃ x, l = .mem x ∧ x.ps = true)) ∧
  (∀ (l : LineV) off n v, l.data < 2 ^ 1024 → off + n ≤ 128 → v < 2 ^ (8 * n) →
    let r := stLine l off n v
    r.fmt = l.fmt ∧ tagDem r.tag = tagDem l.tag ∧ nbits r.data (8 * off) (8 * n) = v ∧
    (∀ k, k < 128 → (k < off ∨ off + n ≤ k) → nbits r.data (8 * k) 8 = if l.cls = 3 then 0 else nbits l.data (8 * k) 8) ∧
    r.cls = (if l.cls = 2 then 2
      else if isNarrow l.fmt ∧ ∃ k, k < segs (elemBits l.fmt) ∧ nbits r.data ((8 + 16 * elemBits l.fmt) * k) 8 = 0xFF then 1
      else 0))

/-- R327, R329, Table 13.2: AMO and CAS as one event at the home. -/
def Obligations.ScalarAtomicResult : Prop :=
  (∀ op w8 sp d a b imm s c l s0 s1 s2, Issues (.amo op w8 sp d a b imm) [rdS .a a, rdS .b b, rwS d] s c →
    let va := if op = .fxadd then c.s_ .a else c.s_ .a + imm.signExtend 64
    let n := if w8 then 8 else 4
    va.toNat % n = 0 →
    s.locate sp.isSp .atomic va n (extra := fun x => ensure (s.atomicAllowed false op x) .access va 7#64) = .ok l →
    s.notHeld true l = .ok () → s.free true sp.isSp va n = .ok () → s.requests 1 = .ok () → s.order sp = .ok s0 →
    s0.inOrder l = .ok s1 → s1.loadOrder l = .ok s2 →
    (s2.lineOf l).cls ≠ 2 → s2.lost l = false →
    let old := nbits (s2.lineOf l).data (8 * l.off) (8 * n)
    let v := (c.s_ .b).toNat % 2 ^ (8 * n)
    let r := atomicNew op n (imm.extractLsb' 0 11).toInt old v
    exec (.amo op w8 sp d a b imm) s = .next (complete c
      { s := c.putS ((s2.putLine false (stLine (s2.lineOf l) l.off n r.1) l).raise r.2) (BitVec.ofNat 64 old) })) ∧
  (∀ w8 sp d a b imm s c l s0 s1 s2, Issues (.cas w8 sp d a b imm) [rdS .a a, rdS .b b, rwS d] s c →
    let va := c.s_ .a + imm.signExtend 64
    let n := if w8 then 8 else 4
    va.toNat % n = 0 →
    s.locate sp.isSp .atomic va n (extra := fun x => ensure (s.atomicAllowed true .swap x) .access va 7#64) = .ok l →
    s.notHeld true l = .ok () → s.free true sp.isSp va n = .ok () → s.requests 1 = .ok () → s.order sp = .ok s0 →
    s0.inOrder l = .ok s1 → s1.loadOrder l = .ok s2 →
    let clean := match l with | .mem x => Loc.mem x.noDirty | o => o
    (s2.lineOf clean).cls ≠ 2 → s2.lost l = false →
    let old := nbits (s2.lineOf clean).data (8 * l.off) (8 * n)
    let v := (c.s_ .b).toNat % 2 ^ (8 * n)
    (old = c.sD.toNat % 2 ^ (8 * n) → exec (.cas w8 sp d a b imm) s = .next (complete c
      { s := c.putS ((s2.putLine false (stLine (s2.lineOf l) l.off n v) l).raise 0#7) (BitVec.ofNat 64 old) })) ∧
    (old ≠ c.sD.toNat % 2 ^ (8 * n) → exec (.cas w8 sp d a b imm) s = .next (complete c
      { s := c.putS ((s2.touch clean).raise 0#7) (BitVec.ofNat 64 old) })))

/-- Table 13.2, R326: the new word of each atomic operation. -/
def Obligations.AtomicFunctions : Prop :=
  ∀ n e old v, (n = 4 ∨ n = 8) → old < 2 ^ (8 * n) → v < 2 ^ (8 * n) →
    let sg := fun (x : Nat) => if x < 2 ^ (8 * n - 1) then (x : Int) else (x : Int) - 2 ^ (8 * n)
    atomicNew .add n e old v = ((old + v) % 2 ^ (8 * n), 0#7) ∧
    atomicNew .and n e old v = (old &&& v, 0#7) ∧ atomicNew .or n e old v = (old ||| v, 0#7) ∧
    atomicNew .xor n e old v = (old ^^^ v, 0#7) ∧ atomicNew .swap n e old v = (v, 0#7) ∧
    atomicNew .min n e old v = (if sg v < sg old then v else old, 0#7) ∧
    atomicNew .max n e old v = (if sg v > sg old then v else old, 0#7) ∧
    atomicNew .minu n e old v = (min old v, 0#7) ∧ atomicNew .maxu n e old v = (max old v, 0#7) ∧
    (∀ op n e, (atomicNew op n e old v).2 &&& ~~~(fNV ||| fOF ||| fUF ||| fNX ||| fSAT) = 0#7) ∧
    (match decodeFloat 0x0C#6 v with
      | .fin neg a b => n = 8 →
        let q := match (Val.fin neg a b).scale2 (-e) with | .fin _ p r => roundInt .rne neg p r | _ => (0, false)
        let t := sg old + q.1
        let nx := if q.2 then fNX else 0#7
        atomicNew .fxadd n e old v =
          (if t > 2 ^ 63 - 1 then (2 ^ 63 - 1, nx ||| fSAT) else if t < -2 ^ 63 then (2 ^ 63, nx ||| fSAT)
           else ((t % 2 ^ 64).toNat, nx))
      | _ => n = 8 → atomicNew .fxadd n e old v = (old, fNV))

/-- R290, R292, R247: FENCE, LSYNC, FLUSH and INVAL. A core's store queue is empty of its stores after it was drained, and the other cores' stores wait as before (R290). -/
def Obligations.OrderingResults : Prop :=
  ((∀ kind s c, Issues (.fence kind .core) [] s c → exec (.fence kind .core) s = .next (complete c { s := s })) ∧
  (∀ kind sc s c, Issues (.fence kind sc) [] s c → sc ≠ .core →
    exec (.fence kind sc) s = .next (complete c { s := s.fence kind })) ∧
  (∀ s c, Issues .lsync [] s c → exec .lsync s = .next (complete c { s := s })) ∧
  (∀ a b e imm s c ps s1, Issues (.flush a b e imm) [rdS .a a, rdS .b b, rdS .c e] s c →
    let va := c.s_ .a + c.s_ .b + imm.signExtend 64
    let len := (c.s_ .c).toNat
    leavesCanonical va len = none → s.rangePages (s.who s.me) va len (2 ^ 48) 0 = .ok ps → s.free true false va len = .ok () →
    s.fenced = .ok s1 → exec (.flush a b e imm) s = .next (complete c { s := ps.foldl (State.flushPage false) s1 })) ∧
  (∀ a b e imm s c ps s1, Issues (.inval a b e imm) [rdS .a a, rdS .b b, rdS .c e] s c →
    let va := c.s_ .a + c.s_ .b + imm.signExtend 64
    let len := (c.s_ .c).toNat
    leavesCanonical va len = none → s.rangePages (s.who s.me) va len (2 ^ 48) 0 = .ok ps → s.free true false va len = .ok () →
    s.fenced = .ok s1 → exec (.inval a b e imm) s = .next (complete c { s := ps.foldl (State.flushPage true) s1 }))) ∧
  (∀ (s : State) kind b, b ∈ s.storeQ → b.core = s.coreOf s.me →
    (kind ≠ 1#3 ∧ kind ≠ 2#3 ∧ b.sid = s.cur ∨ s.cur ∈ b.readBy) →
    ∃ q ∈ (s.fence kind).storeQ, q.pa = b.pa ∧ q.data = b.data ∧ q.tag = b.tag ∧
      (kind = 0#3 ∨ kind = 1#3 ∨ kind = 3#3 → s.cur ∈ q.beforeLoads) ∧
      (kind = 0#3 ∨ kind = 2#3 ∨ 4 ≤ kind.toNat → s.cur ∈ q.beforeStores)) ∧
  (∀ (s t : State) l, s.loadOrder l = .ok t → ∀ b ∈ t.storeQ, b.core = s.coreOf s.me → s.cur ∉ b.beforeLoads) ∧
  (∀ (s t : State), s.fenced = .ok t → ∀ b ∈ t.storeQ, b.core = s.coreOf s.me → s.cur ∉ b.beforeStores) ∧
  (∀ (s t : State) core, s.drainCore core = .ok t → t.storeQ = s.storeQ.filter fun b => b.core != core)

/-- R242, R256, R260, R323: what stops a load, a store or an atomic after its operands are read; none of it is performed. -/
def Obligations.ScalarMemoryFaults : Prop :=
  (∀ sz sp d a b imm s c, Issues (.ld sz sp d a b imm) [rdS .a a, rdS .b b, wrS d] s c →
    let va := c.s_ .a + c.s_ .b + imm.signExtend 64
    let n := 2 ^ (sz.toNat % 4)
    let us := [rdS .a a, rdS .b b, wrS d]
    (va.toNat % n ≠ 0 → exec (.ld sz sp d a b imm) s = .next (s.raises (.ld sz sp d a b imm) us { cause := .misaligned, v0 := va })) ∧
    (va.toNat % n = 0 → ∀ t, s.locate sp.isSp .load va n (n == 4 || n == 8) = .error (.trap t) →
      exec (.ld sz sp d a b imm) s = .next (s.raises (.ld sz sp d a b imm) us t)) ∧
    (va.toNat % n = 0 → ∀ l s1 s2, s.locate sp.isSp .load va n (n == 4 || n == 8) = .ok l → s.regOff l = none →
      s.free false sp.isSp va n = .ok () → s.requests 1 = .ok () → s.order sp = .ok s1 →
      (∀ x, l = .mem x → s1.forwarded sp x n = none) → s1.notHeld false l = .ok () → s1.loadOrder l = .ok s2 →
      (s2.seen l).cls = 2 →
      exec (.ld sz sp d a b imm) s =
        .next (s.raises (.ld sz sp d a b imm) us { cause := .poisonConsumed, v0 := va, v1 := w64 (s2.seen l).why }))) ∧
  (∀ sz sp d a b imm s c, Issues (.st sz sp d a b imm) [rdS .a a, rdS .b b, rdS .d d] s c →
    let va := c.s_ .a + c.s_ .b + imm.signExtend 64
    let n := 2 ^ sz.toNat
    let us := [rdS .a a, rdS .b b, rdS .d d]
    (va.toNat % n ≠ 0 → exec (.st sz sp d a b imm) s = .next (s.raises (.st sz sp d a b imm) us { cause := .misaligned, v0 := va })) ∧
    (va.toNat % n = 0 → ∀ t, s.locate sp.isSp .store va n (n == 4 || n == 8) = .error (.trap t) →
      exec (.st sz sp d a b imm) s = .next (s.raises (.st sz sp d a b imm) us t)))

/-! ### Control, index and identity registers, palettes -/

/-- R142: CRD reads; CWR and CRSW write under R119, CRSW after it took the old value. R119, R387: what a control register reads
after it was written: the whole value, but for RZ bits. That a write of TSTART or MSTEP keeps its value past the instruction is the
model's reading (log 19, DEDUCED). -/
def Obligations.ControlRegisterAccess : Prop :=
  ((∀ d n s c, Issues (.crd d n) [wrS d] s c →
    exec (.crd d n) s = .next (complete c { s := c.putS s (s.crRead n.toNat) })) ∧
  (∀ n a s c s1, Issues (.cwr n a) [rdS .a a] s c → s.crWrite n.toNat (c.s_ .a) = .ok s1 →
    exec (.cwr n a) s = .next (complete c { s := s1, keepT := n = 0x02 ∨ n = 0x03 })) ∧
  (∀ d n a s c s1, Issues (.crsw d n a) [rdS .a a, wrS d] s c → s.crWrite n.toNat (c.s_ .a) = .ok s1 →
    exec (.crsw d n a) s = .next (complete c { s := c.putS s1 (s.crRead n.toNat), keepT := n = 0x02 ∨ n = 0x03 })) ∧
  (∀ n a s c t, Issues (.cwr n a) [rdS .a a] s c → s.crWrite n.toNat (c.s_ .a) = .error (.trap t) →
    exec (.cwr n a) s = .next (s.raises (.cwr n a) [rdS .a a] t))) ∧
  (∀ p ∈ ([(0x00, BitVec.allOnes 64), (0x01, BitVec.allOnes 64), (0x02, BitVec.allOnes 64), (0x03, BitVec.allOnes 64),
      (0x05, BitVec.allOnes 64), (0x06, 0xFFFF_FFFF_FFFF#64), (0x07, 0xFFFF_FFFF_FFFF#64), (0x08, BitVec.allOnes 64),
      (0x09, 0xFF#64), (0x0A, BitVec.allOnes 64), (0x0B, BitVec.allOnes 64), (0x0C, BitVec.allOnes 64),
      (0x0D, BitVec.allOnes 64), (0x0E, ~~~7#64), (0x0F, 0x3_03FF_0003#64), (0x12, BitVec.allOnes 64),
      (0x18, BitVec.allOnes 64), (0x20, BitVec.allOnes 64), (0x21, 0xFF#64), (0x22, BitVec.allOnes 64),
      (0x23, BitVec.allOnes 64), (0x24, BitVec.allOnes 64), (0x25, BitVec.allOnes 64), (0x26, ~~~7#64),
      (0x27, 0x3_03FF_003F#64), (0x28, 0x7_FFFF_FFFF_F000#64), (0x29, BitVec.allOnes 64), (0x2B, 0xFFFF_FFFF#64),
      (0x2D, BitVec.allOnes 64), (0x40, BitVec.allOnes 64), (0x41, 0xFF#64), (0x42, BitVec.allOnes 64),
      (0x43, BitVec.allOnes 64), (0x44, BitVec.allOnes 64), (0x45, BitVec.allOnes 64), (0x46, ~~~7#64),
      (0x47, 0x3_03FF_003F#64), (0x48, 0x7_FFFF_FFFF_F000#64), (0x49, BitVec.allOnes 64), (0x4A, BitVec.allOnes 64)]
      : List (Nat × Word)),
    ∀ (s : State) w t, s.crWrite p.1 w = .ok t → t.crRead p.1 = w &&& p.2)

/-- R387: a CWR or CRSW of TPC, STPC or MTPC sets RSTART and RMSTEP of the same level's STAT to zero. -/
def Obligations.TrapPcWrites : Prop :=
  ∀ p ∈ ([(0x08#12, 0x0F), (0x20#12, 0x27), (0x40#12, 0x47)] : List (BitVec 12 × Nat)),
    (∀ a s c, Issues (.cwr p.1 a) [rdS .a a] s c →
      ∃ t, exec (.cwr p.1 a) s = .next (complete c { s := t }) ∧ t.crRead p.1.toNat = c.s_ .a ∧
        bits (t.crRead p.2) 16 10 = 0 ∧ bits (t.crRead p.2) 32 2 = 0) ∧
    (∀ d a s c, Issues (.crsw d p.1 a) [rdS .a a, wrS d] s c →
      ∃ t, exec (.crsw d p.1 a) s = .next (complete c { s := c.putS t (s.crRead p.1.toNat) }) ∧ t.crRead p.1.toNat = c.s_ .a ∧
        bits (t.crRead p.2) 16 10 = 0 ∧ bits (t.crRead p.2) 32 2 = 0)

/-- R140, R141: the index register instructions. R113, R114, R144, R145: lengths, capacities, identity and progress. R144: a register format that is no format code raises TAG_FORBIDDEN. -/
def Obligations.IndexAndLengthResults : Prop :=
  ((∀ d a s c, Issues (.ixset d a) [rdS .a a] s c →
    exec (.ixset d a) s = .next (complete c { s := s.setMe (s.me.setI d.toNat (c.s_ .a)) })) ∧
  (∀ d a s c, Issues (.ixget d a) [wrS d] s c →
    exec (.ixget d a) s = .next (complete c { s := c.putS s (s.me.getI a.toNat) })) ∧
  (∀ d n s c, Issues (.ixadv d n) (srcAUse n) s c →
    let x := s.me.getI d.toNat
    let b := if bits x 6 6 = 0 then 64 else bits x 6 6
    let v : Int := bits x 12 6 + (match n with | .op _ => (c.s_ .a).toInt | .imm k => k.toInt)
    (bits x 24 1 = 1 → exec (.ixadv d n) s = .next (complete c
      { s := s.setMe (s.me.setI d.toNat (setBits x 12 6 (v % b).toNat)) })) ∧
    (bits x 24 1 = 0 → 0 ≤ v → v ≤ min b 63 → exec (.ixadv d n) s = .next (complete c
      { s := s.setMe (s.me.setI d.toNat (setBits x 12 6 v.toNat)) })) ∧
    (bits x 24 1 = 0 → ¬(0 ≤ v ∧ v ≤ min b 63) → exec (.ixadv d n) s = .next (s.raises (.ixadv d n) (srcAUse n)
      { cause := .bound, v0 := w64 (d.toNat + 48), v1 := BitVec.ofInt 64 v, v2 := 2#64 }))) ∧
  (∀ d n s c, Issues (.ixoff d n) (srcAUse n) s c →
    let x := s.me.getI d.toNat
    let b := if bits x 6 6 = 0 then 64 else bits x 6 6
    let v : Int := match n with | .op _ => (c.s_ .a).toInt | .imm k => k.toInt
    let ok := if bits x 24 1 = 1 then 0 ≤ v ∧ v < b else 0 ≤ v ∧ v ≤ min b 63
    (ok → exec (.ixoff d n) s = .next (complete c
      { s := s.setMe (s.me.setI d.toNat (setBits x 12 6 v.toNat)) })) ∧
    (¬ok → exec (.ixoff d n) s = .next (s.raises (.ixoff d n) (srcAUse n)
      { cause := .bound, v0 := w64 (d.toNat + 48), v1 := BitVec.ofInt 64 v, v2 := 2#64 })))) ∧
  ((∀ d a f s c f', Issues (.vsetl d a f) ([rdS .a a] ++ fmtUse f ++ [wrS d]) s c →
    (f = .imm f' ∨ ∃ o, f = .reg o ∧ c.s_ .b = f'.setWidth 64 ∧ fmtReserved f' = false) →
    let n := min (c.s_ .a).toNat (cap f')
    let g := if isNarrow f' then 16 * ((n + 15) / 16) else n
    exec (.vsetl d a f) s = .next (complete c
      { s := c.putS (s.setMe { s.me with vl := w64 g, vfmt := f'.setWidth 64, vpad := w64 (g - n) }).reallocMine (w64 g) })) ∧
  (∀ d f s c f', Issues (.vgetcap d f) (fmtUse f ++ [wrS d]) s c →
    (f = .imm f' ∨ ∃ o, f = .reg o ∧ c.s_ .b = f'.setWidth 64 ∧ fmtReserved f' = false) →
    exec (.vgetcap d f) s = .next (complete c { s := c.putS s (w64 (cap f')) })) ∧
  (∀ d sel s c, Issues (.getid d sel) [wrS d] s c →
    exec (.getid d sel) s = .next (complete c { s := c.putS s (w64 (s.identity sel.toNat)) })) ∧
  (∀ a s c, Issues (.heartbeat a) [rdS .a a] s c →
    (s.myCar.wb.persist = false → exec (.heartbeat a) s = .next (complete c
      { s := s.setMe { s.me with progress := s.me.progress + c.s_ .a } })) ∧
    (s.myCar.wb.persist = true → exec (.heartbeat a) s = .next (complete c
      { s := s.setMe { s.me with progress := s.me.progress + c.s_ .a, wdrem := bits (s.vi s.myVi).wdwin 0 32,
                                 wdwin := bits (s.vi s.myVi).wdwin 0 32, wdExpired := false } })))) ∧
  (∀ d a o s c, Issues (.vsetl d a (.reg o)) ([rdS .a a] ++ [rdS .b o] ++ [wrS d]) s c →
    (64 ≤ (c.s_ .b).toNat ∨ fmtReserved ((c.s_ .b).setWidth 6) = true) →
    exec (.vsetl d a (.reg o)) s = .next (s.raises (.vsetl d a (.reg o)) ([rdS .a a] ++ [rdS .b o] ++ [wrS d]) { cause := .tagForbidden, v0 := 3#64, v1 := c.s_ .b })) ∧
  (∀ d o s c, Issues (.vgetcap d (.reg o)) ([rdS .b o] ++ [wrS d]) s c →
    (64 ≤ (c.s_ .b).toNat ∨ fmtReserved ((c.s_ .b).setWidth 6) = true) →
    exec (.vgetcap d (.reg o)) s = .next (s.raises (.vgetcap d (.reg o)) ([rdS .b o] ++ [wrS d]) { cause := .tagForbidden, v0 := 3#64, v1 := c.s_ .b }))

/-- R81–R83: PALSEL, PALRD and PALWR, where the slot may be used. Tables 3.9 and 3.10 in part, R73, R74: palette P0 on some pairs of formats. -/
def Obligations.PaletteResults : Prop :=
  ((∀ k s c, Issues (.palsel (.imm k)) [] s c → s.granted k.toNat = true →
    exec (.palsel (.imm k)) s = .next (complete c { s := s.setMe { s.me with palsel := k.setWidth 64 } })) ∧
  (∀ o s c, Issues (.palsel (.reg o)) [rdS .a o] s c → (c.s_ .a).toNat < 16 → s.granted (c.s_ .a).toNat = true →
    exec (.palsel (.reg o)) s = .next (complete c { s := s.setMe { s.me with palsel := c.s_ .a } })) ∧
  (∀ d a s c (slot cls : Nat) (fa fb : FmtCode), Issues (.palrd d a) [rdS .a a, wrS d] s c →
    slot < 16 → cls < 3 → fb.toNat % 8 = 0 → c.s_ .a = w64 (slot * 2 ^ 14 + cls * 2 ^ 12 + fa.toNat * 2 ^ 6 + fb.toNat) →
    s.granted slot = true →
    ∃ w, exec (.palrd d a) s = .next (complete c { s := c.putS s w }) ∧
      ∀ i, i < 8 → w.extractLsb' (8 * i) 8 = s.palEntry slot cls fa (fb + BitVec.ofNat 6 i)) ∧
  (∀ a b s c (slot cls : Nat) (fa fb : FmtCode), Issues (.palwr a b) [rdS .a a, rdS .b b] s c →
    1 ≤ slot → slot < 16 → cls < 3 → fb.toNat % 8 = 0 →
    c.s_ .a = w64 (slot * 2 ^ 14 + cls * 2 ^ 12 + fa.toNat * 2 ^ 6 + fb.toNat) → s.granted slot = true →
    ∃ t, exec (.palwr a b) s = .next (complete c { s := t }) ∧ t = { s with palettes := t.palettes } ∧
      (∀ i, i < 8 → t.palEntry slot cls fa (fb + BitVec.ofNat 6 i) = (c.s_ .b).extractLsb' (8 * i) 8) ∧
      ∀ sl k (f g : FmtCode), sl < 16 → k < 3 → ¬(sl = slot ∧ k = cls ∧ f = fa ∧ g.toNat / 8 = fb.toNat / 8) →
        t.palEntry sl k f g = s.palEntry sl k f g)) ∧
  ((∀ f : FmtCode, isIeee f = true → p0Arith f f = some f) ∧
  (∀ f g : FmtCode, isWInt f = true → isWInt g = true → isSInt f = isSInt g →
    p0Arith f g = some (if elemBits f < elemBits g then g else f)) ∧
  (∀ f g : FmtCode, isB f = true → isB g = true → p0Arith f g = some (if elemBits f < elemBits g then g else f)) ∧
  (∀ f : FmtCode, p0Arith 0#6 f = none ∧ p0Arith f 0#6 = none ∧ p0Mat 0#6 f = none) ∧
  (∀ f g : FmtCode, p0Arith f g = p0Arith g f ∧ p0Mat f g = p0Mat g f) ∧
  (∀ f g h : FmtCode, p0Arith f g = some h → fmtReserved h = false ∧ h ≠ 0#6) ∧
  (∀ f g h : FmtCode, p0Mat f g = some h → h = 0x03#6 ∨ h = 0x0B#6 ∨ h = 0x0C#6))

/-! ### Vector registers: tags, moves, elementwise forms -/

/-- R77, R78, R166–R171 where they touch tags, single elements and whole registers. R77: what a register holds after VTAG: the FMT, no data in the zero form, else the bits of the new layout. R79, R80, R166–R168: conversion, rescaling, moving, splats and index vectors. -/
def Obligations.TagAndMoveResults : Prop :=
  ((∀ zero d f s c f', Issues (.vtag zero d f) ((match f with | .imm _ => [] | .reg o => [rdS .a o]) ++
      [{ wrV d with whole := true }]) s c →
    (f = .imm f' ∨ ∃ o, f = .reg o ∧ c.s_ .a = f'.setWidth 64 ∧ fmtReserved f' = false) →
    exec (.vtag zero d f) s = .next (complete c { s := c.putImg s (retag c.oldD f' zero) })) ∧
  (∀ sel d a s c, Issues (.vgtag sel d a) [{ rdV .a a with whole := true }, wrS d] s c →
    let r := (c.v_ .a).img
    exec (.vgtag sel d a) s = .next (complete c
      { s := c.putS s (if sel = 0 then r.tag else if sel = 1 then r.valid else r.psn) })) ∧
  (∀ sel d a s c, Issues (.vvalid sel d a) [{ rdV .a a with whole := true }, wrM d] s c →
    ∃ x, exec (.vvalid sel d a) s = .next (complete c { s := c.putM s x }) ∧
      let r := (c.v_ .a).img
      ∀ j, j < 1024 → x.getLsbD j = (decide (j < s.me.vl.toNat) &&
        (let ok := decide (j / 16 < r.groups) && r.validAt (j / 16)
         if sel = 0 then ok && !r.psnAt (j / 16) else if sel = 1 then r.psnAt (j / 16) else !ok))) ∧
  (∀ mk rm d a s c, Issues (.vmov mk rm true d a) [{ rdV .a a with whole := true }, { wrV d with whole := true }] s c mk →
    exec (.vmov mk rm true d a) s = .next (complete c { s := c.putImg s (c.v_ .a).img })) ∧
  (∀ rm d a e s c j, Issues (.vext rm d a e) ([{ rdV .a a with whole := true }] ++ idxUse .b e ++ [wrS d]) s c →
    let v := c.v_ .a
    ((∃ k, e = .imm k ∧ j = k.toNat) ∨ ∃ o, e = .reg o ∧ j = (c.s_ .b).toNat) → j < cap v.fmt → v.psn j = false →
    (isStorage v.fmt = false → isNarrow v.fmt = false → exec (.vext rm d a e) s = .next (complete c
      { s := c.putS s
          (if isSInt v.fmt ∧ v.code j / 2 ^ (elemBits v.fmt - 1) = 1 then w64 (v.code j + 2 ^ 64 - 2 ^ elemBits v.fmt)
           else w64 (v.code j)) })) ∧
    ((isStorage v.fmt || isNarrow v.fmt) = true → exec (.vext rm d a e) s = .next (complete c
      { s := (c.putS s (w64 (roundTo 0x0B#6 (s.me.rmode rm) (v.elem j)).1)).raise
          ((if (v.elem j).isSig then fNV else 0#7) ||| (roundTo 0x0B#6 (s.me.rmode rm) (v.elem j)).2) }))) ∧
  (∀ rm d a e s c j, Issues (.vins rm d a e) ([rdS .a a] ++ idxUse .b e ++ [{ wrV d with whole := true }]) s c →
    let old := c.oldD
    let f := old.fmt
    ((∃ k, e = .imm k ∧ j = k.toNat) ∨ ∃ o, e = .reg o ∧ j = (c.s_ .b).toNat) → j < cap f →
    let w := (c.s_ .a).toNat
    let v := decodeFloat 0x0B#6 (w % 2 ^ 32)
    let el : El := if isStorage f || isNarrow f then .val v (convFlags f v) else .raw (w % 2 ^ elemBits f) 0
    let r := commit old { fmt := f, act := fun k => k == j, pad := fun _ => false, el := fun _ => el,
                          feed := fun _ => false, rm := s.me.rmode rm, enc := roundTo f (s.me.rmode rm) }
    exec (.vins rm d a e) s = .next (complete c { s := (c.putImg s { r.1 with psn := old.psn }).raise r.2 }))) ∧
  ((∀ r f, (retag r f true).fmt = f ∧ (retag r f true).vcls = 3 ∧ ∀ j, (retag r f true).elem j = Val.zero) ∧
  (∀ r f, let t := retag r f false
    t.fmt = f ∧ t.scale = r.scale ∧ t.vcls ≠ 3 ∧
    (∀ j, j < cap f → t.code j = nbits r.data.toNat (elemBits f * j) (elemBits f)) ∧
    (r.psn = 0#64 → t.psn = 0#64))) ∧
  ((∀ mk rm d a f s c, Issues (.vcvt mk rm d a f) [rdV .a a, wrV d] s c mk →
    let v := c.v_ .a
    let m := s.me.rmode rm
    v.fmt ≠ 0#6 → laneMismatch [v] = .ok () → capCheck c [v.fmt, f] = .ok () → laneConflict c f c.td = .ok () →
    exec (.vcvt mk rm d a f) s = .next (complete c
      { s := (c.putV s (c.vw f m (encConv f m (isWInt v.fmt)) [v]
          fun j => .val (v.elem j) (convFlags f (v.elem j)))).raise 0#7 })) ∧
  (∀ mk rm d a b s c, Issues (.vresc mk rm d a b) [rdV .a a, rdS .b b, wrV d] s c mk →
    let v := c.v_ .a
    let m := s.me.rmode rm
    v.fmt ≠ 0#6 → isWInt v.fmt = false → laneMismatch [v] = .ok () → capCheck c [v.fmt] = .ok () →
    laneConflict c v.fmt c.td = .ok () → -8192 ≤ (c.s_ .b).toInt → (c.s_ .b).toInt ≤ 8192 →
    exec (.vresc mk rm d a b) s = .next (complete c
      { s := (c.putV s (c.vw v.fmt m (roundTo v.fmt m) [v]
          fun j => .val ((v.elem j).scale2 (c.s_ .b).toInt) (sigNV [v.elem j]))).raise 0#7 })) ∧
  (∀ mk rm d a s c g0, Issues (.vmov mk rm false d a) [{ rdV .a a with whole := false }, { wrV d with whole := false }] s c mk →
    let v := c.v_ .a
    let m := s.me.rmode rm
    laneMismatch [v] = .ok () → capCheck c [v.fmt] = .ok () → restart c v.fmt = .ok g0 →
    exec (.vmov mk rm false d a) s = .next (complete c
      { s := (c.putV s (c.vw v.fmt m (encConv v.fmt m true) [v]
          (fun j => if v.fmt = 0#6 then .raw (v.code j) 0 else .val (v.elem j) 0#7) g0)).raise 0#7 })) ∧
  (∀ mk rm st d a f s c g0, Issues (.vsplat mk rm st d a f) [rdS .a a, wrV d] s c mk →
    let w := c.s_ .a
    let m := s.me.rmode rm
    let v := if st = 0 then Val.ofInt w.toInt else if st = 1 then Val.ofNat w.toNat
      else if st = 2 then decodeFloat 0x0C#6 w.toNat else decodeFloat 0x0B#6 (w.toNat % 2 ^ 32)
    capCheck c [f] = .ok () → restart c f = .ok g0 →
    exec (.vsplat mk rm st d a f) s = .next (complete c
      { s := (c.putV s (c.vw f m (encConv f m (decide (st.toNat < 2))) []
          (fun _ => if f = 0#6 then .raw (w.toNat % 256) 0 else .val v (convFlags f v)) g0)).raise 0#7 })) ∧
  (∀ mk rm count d f s c g0, Issues (.viota mk rm count d f) [wrV d] s c mk →
    let m := s.me.rmode rm
    capCheck c [f] = .ok () → restart c f = .ok g0 →
    exec (.viota mk rm count d f) s = .next (complete c
      { s := (c.putV s (c.vw f m (encConv f m true) []
          (fun j => .val (Val.ofNat (if count then ((List.range j).filter c.isAct).length else j)) 0#7) g0)).raise 0#7 })))

/-- R158, R159: the elementwise forms, their palette lookups and their element values. R159, R161: the forms with a third operand, and comparison. -/
def Obligations.ElementwiseResults : Prop :=
  ((∀ p ∈ ([(Instr.vadd, 0, addV), (.vsub, 0, fun m x y => addV m x y.negate), (.vmul, 1, fun _ => mulV)]
      : List ((Mk → Rm → Bool → Bool → Opnd → Opnd → Opnd → Instr) × Nat × (RMode → Val → Val → Val × Flags))),
    ∀ mk rm sat wide d a b s c f0 mix g0, Issues (p.1 mk rm sat wide d a b) [rdV .a a, rdV .b b, wrV d] s c mk →
      let va := c.v_ .a
      let vb := c.v_ .b
      let m := s.me.rmode rm
      palette s p.2.1 va.fmt vb.fmt = .ok (f0, mix) →
      let f := if wide then widen f0 else f0
      vecChecks c [va, vb] f = .ok g0 →
      exec (p.1 mk rm sat wide d a b) s = .next (complete c
        { s := (c.putV s (c.vw f m (encArith f m sat) [va, vb]
            (fun j => .val (p.2.2 m (va.elem j) (vb.elem j)).1 (p.2.2 m (va.elem j) (vb.elem j)).2) g0)).raise mix })) ∧
  (∀ p ∈ ([(Instr.vmin, minV), (.vmax, maxV)]
      : List ((Mk → Rm → Bool → Opnd → Opnd → Opnd → Instr) × (Val → Val → Val × Flags))),
    ∀ mk rm sat d a b s c f mix g0, Issues (p.1 mk rm sat d a b) [rdV .a a, rdV .b b, wrV d] s c mk →
      let va := c.v_ .a
      let vb := c.v_ .b
      let m := s.me.rmode rm
      palette s 0 va.fmt vb.fmt = .ok (f, mix) → vecChecks c [va, vb] f = .ok g0 →
      exec (p.1 mk rm sat d a b) s = .next (complete c
        { s := (c.putV s (c.vw f m (encArith f m sat) [va, vb]
            (fun j => .val (p.2 (va.elem j) (vb.elem j)).1 (p.2 (va.elem j) (vb.elem j)).2) g0)).raise mix })) ∧
  (∀ mk rm sat d a b s c f mix g0, Issues (.vdiv mk rm sat d a b) [rdV .a a, rdV .b b, wrV d] s c mk →
    let va := c.v_ .a
    let vb := c.v_ .b
    let m := s.me.rmode rm
    palette s 1 va.fmt vb.fmt = .ok (f, mix) → vecChecks c [va, vb] f = .ok g0 →
    exec (.vdiv mk rm sat d a b) s = .next (complete c
      { s := (c.putV s
          (c.vw f m (encArith f m sat) [va, vb] (divEl f m va vb) g0)).raise mix })) ∧
  (∀ p ∈ ([(Instr.vabs, fun v => (v.abs, 0#7)), (.vneg, fun v => (v.negate, 0#7))]
      : List ((Mk → Rm → Bool → Opnd → Opnd → Instr) × (Val → Val × Flags))),
    ∀ mk rm sat d a s c f mix g0, Issues (p.1 mk rm sat d a) [rdV .a a, wrV d] s c mk →
      let va := c.v_ .a
      let m := s.me.rmode rm
      palette s 0 va.fmt va.fmt = .ok (f, mix) → vecChecks c [va] f = .ok g0 →
      exec (p.1 mk rm sat d a) s = .next (complete c
        { s := (c.putV s (c.vw f m (encArith f m sat) [va]
            (fun j => .val (p.2 (va.elem j)).1 (p.2 (va.elem j)).2) g0)).raise mix })) ∧
  (∀ p ∈ ([(Instr.vsqrt, sqrtV), (.vrsqrt, rsqrtV), (.vrcp, rcpV), (.vexp2, exp2V), (.vlog2, log2V)]
      : List ((Mk → Rm → Opnd → Opnd → Instr) × (Val → Val × Flags))),
    ∀ mk rm d a s c f mix g0, Issues (p.1 mk rm d a) [rdV .a a, wrV d] s c mk →
      let va := c.v_ .a
      let m := s.me.rmode rm
      palette s 1 va.fmt va.fmt = .ok (f, mix) → isWInt f = false → vecChecks c [va] f = .ok g0 →
      exec (p.1 mk rm d a) s = .next (complete c
        { s := (c.putV s (c.vw f m (encArith f m false) [va]
            (fun j => .val (p.2 (va.elem j)).1 (p.2 (va.elem j)).2) g0)).raise mix }))) ∧
  ((∀ mk rm sat wide d a b x s c q f0 mix1 mix2 g0,
    Issues (.vfma mk rm sat wide d a b x) [rdV .a a, rdV .b b, rdV .c x, wrV d] s c mk →
    let va := c.v_ .a
    let vb := c.v_ .b
    let vc := c.v_ .c
    let m := s.me.rmode rm
    palette s 1 va.fmt vb.fmt = .ok (q, mix1) → palette s 0 q vc.fmt = .ok (f0, mix2) →
    let f := if wide then widen f0 else f0
    vecChecks c [va, vb, vc] f = .ok g0 →
    exec (.vfma mk rm sat wide d a b x) s = .next (complete c
      { s := (c.putV s (c.vw f m (encArith f m sat) [va, vb, vc]
          (fun j => let r := fmaV m (va.elem j) (vb.elem j) (vc.elem j); .val r.1 r.2) g0)).raise (mix1 ||| mix2) })) ∧
  (∀ mk rm sat d a b x s c q f mix1 mix2 g0,
    Issues (.vclip mk rm sat d a b x) [rdV .a a, rdV .b b, rdV .c x, wrV d] s c mk →
    let va := c.v_ .a
    let vb := c.v_ .b
    let vc := c.v_ .c
    let m := s.me.rmode rm
    palette s 0 va.fmt vb.fmt = .ok (q, mix1) → palette s 0 q vc.fmt = .ok (f, mix2) →
    vecChecks c [va, vb, vc] f = .ok g0 →
    exec (.vclip mk rm sat d a b x) s = .next (complete c
      { s := (c.putV s (c.vw f m (encArith f m sat) [va, vb, vc]
          (fun j => let r1 := maxV (va.elem j) (vb.elem j); let r2 := minV r1.1 (vc.elem j); .val r2.1 (r1.2 ||| r2.2))
          g0)).raise (mix1 ||| mix2) })) ∧
  (∀ mk rm sat d a b x s c f mix g0,
    Issues (.vsel mk rm sat d a b x) [rdV .a a, rdV .b b, rdM .c x, wrV d] s c mk →
    let va := c.v_ .a
    let vb := c.v_ .b
    let m := s.me.rmode rm
    let pick := fun j => if (c.m_ .c).getLsbD j then va else vb
    palette s 0 va.fmt vb.fmt = .ok (f, mix) → vecChecks c [va, vb] f = .ok g0 →
    exec (.vsel mk rm sat d a b x) s = .next (complete c
      { s := (c.putV s
          { c.vw f m (encArith f m sat) [] (fun j => .val ((pick j).elem j) 0#7) g0 with
            feed := fun j => (pick j).psn j }).raise mix })) ∧
  (∀ mk cond d a b s c f mix, Issues (.vcmp mk cond d a b) [rdV .a a, rdV .b b, wrM d] s c mk →
    let va := c.v_ .a
    let vb := c.v_ .b
    palette s 0 va.fmt vb.fmt = .ok (f, mix) → laneMismatch [va, vb] = .ok () → capCheck c [va.fmt, vb.fmt] = .ok () →
    s.me.tstart = 0#64 → (∀ j ∈ c.actives, va.psn j = false ∧ vb.psn j = false) →
    ∃ x fl, exec (.vcmp mk cond d a b) s = .next (complete c { s := (c.putM s x).raise fl }) ∧
      fl = c.actives.foldl (fun f j => f ||| (cmpV cond.toNat (va.elem j) (vb.elem j)).2) mix ∧
      ∀ j, j < 1024 → x.getLsbD j = if s.me.padFrom ≤ j then false
        else if s.me.maskBit mk j then (cmpV cond.toNat (va.elem j) (vb.elem j)).1
        else (s.me.getM (c.rnum .d)).getLsbD j))

/-- R162, R163: logic and shifts on codes. R406: VDOT4's four micro-steps, and the step that traps keeps the results of those before it. -/
def Obligations.LogicShiftDotResults : Prop :=
  ((∀ p ∈ ([(Instr.vand, fun x y => x &&& y), (.vor, fun x y => x ||| y), (.vxor, fun x y => x ^^^ y)]
      : List ((Mk → Opnd → Opnd → Opnd → Instr) × (Nat → Nat → Nat))),
    ∀ mk d a b s c g0, Issues (p.1 mk d a b) [rdV .a a, rdV .b b, wrV d] s c mk →
      let va := c.v_ .a
      let vb := c.v_ .b
      let m := s.me.rmode .fctl
      (va.fmt = 0#6 ∨ isWInt va.fmt = true) → va.fmt = vb.fmt → vecChecks c [va, vb] va.fmt = .ok g0 →
      exec (p.1 mk d a b) s = .next (complete c
        { s := (c.putV s (c.vw va.fmt m (encConv va.fmt m true) [va, vb]
            (fun j => .raw (p.2 (va.code j) (vb.code j) % 2 ^ elemBits va.fmt) 0) g0)).raise 0#7 })) ∧
  (∀ mk d a s c g0, Issues (.vnot mk d a) [rdV .a a, wrV d] s c mk →
    let va := c.v_ .a
    let m := s.me.rmode .fctl
    (va.fmt = 0#6 ∨ isWInt va.fmt = true) → vecChecks c [va] va.fmt = .ok g0 →
    exec (.vnot mk d a) s = .next (complete c
      { s := (c.putV s (c.vw va.fmt m (encConv va.fmt m true) [va]
          (fun j => .raw ((2 ^ 64 - 1 - va.code j) % 2 ^ elemBits va.fmt) 0) g0)).raise 0#7 })) ∧
  (∀ p ∈ ([(Instr.vshl, fun _ x n => x * 2 ^ n), (.vshr, fun _ x n => x / 2 ^ n),
      (.vsra, fun w x n => if x / 2 ^ (w - 1) = 1 then x / 2 ^ n + 2 ^ w - 2 ^ (w - n) else x / 2 ^ n)]
      : List ((Mk → Opnd → Opnd → IdxSel 6 → Instr) × (Nat → Nat → Nat → Nat))),
    (∀ mk d a k s c g0, Issues (p.1 mk d a (.imm k)) ([rdV .a a] ++ [] ++ [wrV d]) s c mk →
      let va := c.v_ .a
      let m := s.me.rmode .fctl
      let w := elemBits va.fmt
      isWInt va.fmt = true → vecChecks c [va] va.fmt = .ok g0 →
      exec (p.1 mk d a (.imm k)) s = .next (complete c
        { s := (c.putV s (c.vw va.fmt m (encConv va.fmt m true) [va]
            (fun j => .raw (p.2 w (va.code j) (k.toNat % w) % 2 ^ w) 0) g0)).raise 0#7 })) ∧
    (∀ mk d a o s c g0, Issues (p.1 mk d a (.reg o)) ([rdV .a a] ++ [rdV .b o] ++ [wrV d]) s c mk →
      let va := c.v_ .a
      let vb := c.v_ .b
      let m := s.me.rmode .fctl
      let w := elemBits va.fmt
      isWInt va.fmt = true → isWInt vb.fmt = true → vecChecks c [va, vb] va.fmt = .ok g0 →
      exec (p.1 mk d a (.reg o)) s = .next (complete c
        { s := (c.putV s (c.vw va.fmt m (encConv va.fmt m true) [va, vb]
            (fun j => .raw (p.2 w (va.code j) (vb.code j % w) % 2 ^ w) 0) g0)).raise 0#7 })))) ∧
  (∀ mk rm sat d a b s c, Issues (.vdot4 mk rm sat d a b)
      [{ rdV .a a with grp := 4, isGrp := true, late := true }, { rdV .b b with grp := 4, isGrp := true, late := true },
       { wrV d with late := true }] s c mk (fun c => do overlapCheck c .d 1 .a 4; overlapCheck c .d 1 .b 4) →
    let k := s.me.mstep.toNat
    (∀ q r, c.td = .push q → dotQueue c rm sat q = .ok r →
      exec (.vdot4 mk rm sat d a b) s = .next (complete c r)) ∧
    ((∀ q, c.td ≠ .push q) →
    (∀ t, dotSteps c rm sat (4 - k) k = .ok t →
      exec (.vdot4 mk rm sat d a b) s = .next (complete c { s := t })) ∧
    (∀ e t, dotSteps c rm sat (4 - k) k = .error (.trapIn e t) →
      exec (.vdot4 mk rm sat d a b) s = .next (t.raises (.vdot4 mk rm sat d a b) [] e))))

/-- R147, R150: the codes, poison and flags of a committed result of a wide format, element by element. -/
def Obligations.CommittedWideResult : Prop :=
  ∀ (old : VReg) (w : VW), isWide w.fmt = true → (∀ v, (w.enc v).1 < 2 ^ elemBits w.fmt) →
    (∀ j c k fl, w.el j = .raw c k fl → c < 2 ^ elemBits w.fmt) →
    let r := (commit old w).1
    r.fmt = w.fmt ∧ r.zero3 = false ∧
    (∀ j, j < cap w.fmt → 16 * w.g0 ≤ j →
      r.code j = if w.act j then (match w.el j with | .val v _ => (w.enc v).1 | .raw c _ _ => c)
        else if w.pad j then 0 else if old.fmt = w.fmt then old.code j else 0) ∧
    (∀ j, j < 16 * w.g0 → j < cap w.fmt → old.fmt = w.fmt → r.code j = old.code j ∧ r.psnAt (j / 16) = old.psnAt (j / 16)) ∧
    (∀ g, w.g0 ≤ g → g < cap w.fmt / 16 →
      let fed := (List.range 16).any fun k => w.act (16 * g + k) && w.feed (16 * g + k)
      let whole := (List.range 16).all fun k => w.act (16 * g + k) || w.pad (16 * g + k)
      r.psnAt g = (fed || (decide (old.fmt = w.fmt) && !whole && old.psnAt g)))

/-! ### Across lanes: reductions, permutations, packing, masks -/

/-- R164, R165: reductions over the fixed tree of active elements, and scans. log2Up k is the depth of the tree: the least k with L ≤ 2^k (R164). -/
def Obligations.ReductionResults : Prop :=
  ((∀ p ∈ ([(Instr.vrsum, addV), (.vrmax, fun _ => maxV), (.vrmin, fun _ => minV)]
      : List ((Mk → Rm → Bool → Bool → Opnd → Opnd → Instr) × (RMode → Val → Val → Val × Flags))),
    ∀ mk rm sat wide d a s c f0 mix, Issues (p.1 mk rm sat wide d a) [rdV .a a, wrV d] s c mk →
      let va := c.v_ .a
      let m := s.me.rmode rm
      let f := if wide then widen f0 else f0
      palette s 0 va.fmt va.fmt = .ok (f0, mix) → laneMismatch [va] = .ok () → capCheck c [va.fmt, f] = .ok () →
      laneConflict c f c.td = .ok () →
      let k := log2Up s.me.vl.toNat
      let r := redTree (p.2 m) (roundAcc f m sat) k
        ((List.range (2 ^ k)).map fun j => if c.isAct j then some (va.elem j) else none)
      exec (p.1 mk rm sat wide d a) s = .next (complete c
        { s := (c.putV s
            { fmt := f, act := fun j => j == 0, pad := fun j => j != 0, hush := c.isPad, el := fun _ => .val (r.1.getD Val.zero) 0#7,
              feed := fun _ => c.actives.any va.psn, rm := m, enc := encArith f m sat }).raise (mix ||| r.2) })) ∧
  (∀ mk rm sat wide op d a s c f0 mix, Issues (.vscan mk rm sat wide op d a) [rdV .a a, wrV d] s c mk →
    let va := c.v_ .a
    let m := s.me.rmode rm
    let f := if wide then widen f0 else f0
    palette s 0 va.fmt va.fmt = .ok (f0, mix) → laneMismatch [va] = .ok () → capCheck c [va.fmt, f] = .ok () →
    laneConflict c f c.td = .ok () →
    let g := if op = 0 then addV m else if op = 1 then maxV else minV
    let r := scanFrom va g (roundAcc f m sat) c.actives none false [] 0#7
    exec (.vscan mk rm sat wide op d a) s = .next (complete c
      { s := (c.putV s
          { c.vw f m (encArith f m sat) [] (fun j => .val (Tab.get (Val.zero, false) r.1 j).1 0#7) with
            feed := fun j => (Tab.get (Val.zero, false) r.1 j).2 }).raise (mix ||| r.2) }))) ∧
  (∀ n k, log2Up n ≤ k ↔ n ≤ 2 ^ k)

/-- R173–R177: the forms that move elements between positions. `src j` names the element that position j takes; a
position without one takes zero. R178–R180: unpacking, packing and the k largest magnitudes. R181, R182: the mask forms. That the
poison of V[B] feeds VSHUF (log 46) and which poison V[C] of VTOPK keeps (log 52) are the model's readings (DEDUCED). -/
def Obligations.PermutationResults : Prop :=
  (let moved := fun (c : Ctx) (s : State) (rm : Rm) (v : VOp) (src : Nat → Option Nat) (fed : Nat → Bool) =>
    ({ c.vw v.fmt (s.me.rmode rm) (encConv v.fmt (s.me.rmode rm) true) [] (fun j => match src j with
        | some k => if v.fmt = 0#6 then .raw (v.code k) 0 else .val (v.elem k) 0#7
        | none => if v.fmt = 0#6 then .raw 0 0 else .val Val.zero 0#7) with feed := fed } : VW)
  (∀ mk rm d a n s c, Issues (.vslup mk rm d a n) ([rdV .a a] ++ srcBUse n ++ [wrV d]) s c mk →
    let va := c.v_ .a
    let k := match n with | .imm i => i.toNat | .op _ => (c.s_ .b).toNat
    laneMismatch [va] = .ok () → capCheck c [va.fmt] = .ok () → laneConflict c va.fmt c.td = .ok () →
    let src := fun j => if k ≤ j then some (j - k) else none
    exec (.vslup mk rm d a n) s = .next (complete c
      { s := (c.putV s (moved c s rm va src fun j => (src j).any va.psn)).raise 0#7 })) ∧
  (∀ mk rm d a n s c, Issues (.vsldn mk rm d a n) ([rdV .a a] ++ srcBUse n ++ [wrV d]) s c mk →
    let va := c.v_ .a
    let k := match n with | .imm i => i.toNat | .op _ => (c.s_ .b).toNat
    laneMismatch [va] = .ok () → capCheck c [va.fmt] = .ok () → laneConflict c va.fmt c.td = .ok () →
    let src := fun j => if j + k < s.me.vl.toNat then some (j + k) else none
    exec (.vsldn mk rm d a n) s = .next (complete c
      { s := (c.putV s (moved c s rm va src fun j => (src j).any va.psn)).raise 0#7 })) ∧
  (∀ mk rm d a b s c, Issues (.vshuf mk rm d a b) [rdV .a a, rdV .b b, wrV d] s c mk →
    let va := c.v_ .a
    let vb := c.v_ .b
    vb.fmt ≠ 0#6 → laneMismatch [va, vb] = .ok () → capCheck c [va.fmt, vb.fmt] = .ok () →
    laneConflict c va.fmt c.td = .ok () →
    let src := fun j => indexOf (vb.elem j) s.me.vl.toNat
    exec (.vshuf mk rm d a b) s = .next (complete c
      { s := (c.putV s (moved c s rm va src fun j => vb.psn j || (src j).any va.psn)).raise 0#7 })) ∧
  (∀ mk rm d a b s c, Issues (.vlook mk rm d a b) [rdV .a a, rdV .b b, wrV d] s c mk →
    let va := c.v_ .a
    let vb := c.v_ .b
    va.fmt ≠ 0#6 → laneMismatch [va, vb] = .ok () → capCheck c [va.fmt, vb.fmt] = .ok () →
    laneConflict c vb.fmt c.td = .ok () →
    let src := fun j => indexOf (va.elem j) (cap vb.fmt)
    exec (.vlook mk rm d a b) s = .next (complete c
      { s := (c.putV s (moved c s rm vb src fun j => va.psn j || (src j).any vb.psn)).raise
          (if c.actives.any fun j => (src j).isNone then fSAT else 0#7) })) ∧
  (∀ mk rm d a s c, Issues (.vcomp mk rm d a) [rdV .a a, wrV d] s c mk →
    let va := c.v_ .a
    laneMismatch [va] = .ok () → capCheck c [va.fmt] = .ok () → laneConflict c va.fmt c.td = .ok () →
    let src := fun j => c.actives[j]?
    exec (.vcomp mk rm d a) s = .next (complete c
      { s := (c.putV s
          { moved c s rm va src (fun j => (src j).any va.psn) with
            act := fun j => decide (j < s.me.vl.toNat), pad := fun _ => false }).raise 0#7 })) ∧
  (∀ mk rm d a s c, Issues (.vexpd mk rm d a) [rdV .a a, wrV d] s c mk →
    let va := c.v_ .a
    laneMismatch [va] = .ok () → capCheck c [va.fmt] = .ok () → laneConflict c va.fmt c.td = .ok () →
    let src := fun j => c.actives.idxOf? j
    exec (.vexpd mk rm d a) s = .next (complete c
      { s := (c.putV s (moved c s rm va src fun j => (src j).any va.psn)).raise 0#7 })) ∧
  (∀ mk rm mode d a b s c, Issues (.vzip mk rm mode d a b) [rdV .a a, rdV .b b, wrV d] s c mk →
    let va := c.v_ .a
    let vb := c.v_ .b
    let m := s.me.rmode rm
    let l := s.me.vl.toNat
    let h := (l + 1) / 2
    let cat := fun k => if k < l then some (va, k) else if k < 2 * l then some (vb, k - l) else none
    let side := fun j => if j % 2 = 1 then vb else va
    let src : Nat → Option (VOp × Nat) := fun j =>
      if mode = 0 then some (side j, j / 2)
      else if mode = 1 then (if j / 2 + h < l then some (side j, j / 2 + h) else none)
      else if mode = 2 then cat (2 * j) else cat (2 * j + 1)
    va.fmt = vb.fmt → laneMismatch [va, vb] = .ok () → capCheck c [va.fmt, vb.fmt] = .ok () →
    laneConflict c va.fmt c.td = .ok () →
    exec (.vzip mk rm mode d a b) s = .next (complete c
      { s := (c.putV s
          { c.vw va.fmt m (encConv va.fmt m true) [] (fun j => match src j with
              | some (v, k) => if v.fmt = 0#6 then .raw (v.code k) 0 else .val (v.elem k) 0#7
              | none => if va.fmt = 0#6 then .raw 0 0 else .val Val.zero 0#7) with
            feed := fun j => (src j).any fun p => p.1.psn p.2 }).raise 0#7 }))) ∧
  ((∀ mk d a w1 f s c, Issues (.vunpk mk d a w1 f) [rdV .a a, wrV d] s c mk →
    let va := c.v_ .a
    let m := s.me.rmode .fctl
    let w := w1.toNat + 1
    va.fmt = 0#6 → laneMismatch [va] = .ok () → capCheck c [va.fmt, f] = .ok () → laneConflict c f c.td = .ok () →
    exec (.vunpk mk d a w1 f) s = .next (complete c
      { s := (c.putV s
          { c.vw f m (encConv f m true) [] (fun j =>
              let x := fieldOf va w j
              let y := clampInt (intMin f) (intMax f) (if isSInt f then sextN w x else (x : Int))
              .raw (wrapTo (elemBits f) y.1) 0 (if y.2 then fSAT else 0#7)) with
            feed := fun j => (fieldBytes w j).any fun b => decide (b < 1024) && va.psn b }).raise 0#7 })) ∧
  (∀ mk sat d a w1 s c, Issues (.vpack mk sat d a w1) [rdV .a a, wrV d] s c mk →
    let va := c.v_ .a
    let w := w1.toNat + 1
    isWInt va.fmt = true → laneMismatch [va] = .ok () → capCheck c [va.fmt, 0#6] = .ok () →
    w * s.me.vl.toNat ≤ 8192 → laneConflict c 0#6 c.td = .ok () →
    let lo : Int := if isSInt va.fmt then -(2 ^ (w - 1)) else 0
    let hi : Int := if isSInt va.fmt then 2 ^ (w - 1) - 1 else 2 ^ w - 1
    let one : Nat → Nat × Flags := fun j =>
      if sat then
        let y := clampInt lo hi (if isSInt va.fmt then sextN (elemBits va.fmt) (va.code j) else (va.code j : Int))
        (wrapTo w y.1, if y.2 then fSAT else 0#7)
      else (va.code j % 2 ^ w, 0#7)
    ∃ t, exec (.vpack mk sat d a w1) s = .next (complete c
        { s := t.raise (c.actives.foldl (fun f j => f ||| (one j).2) 0#7) }) ∧
      ((∀ b r, c.td ≠ .lane b r) → t = c.putImg s (packInto c.oldD w s.me.vl.toNat
        (fun j => if c.isAct j then some (one j).1 else none) (fun j => decide (j < s.me.padFrom) && !c.isAct j) va.psn))) ∧
  (∀ mk rm d a x k bs s c n, Issues (.vtopk mk rm d a x k bs)
      [rdV .a a, { rdV .c x with rd := false, wr := true }, { wrV d with grp := 2, isGrp := true }] s c mk
      (fun c => do overlapCheck c .d 2 .a 1; overlapCheck c .d 2 .c 1) →
    let va := c.v_ .a
    let f := va.fmt
    let m := s.me.rmode rm
    let l := s.me.vl.toNat
    let b := 64 * 2 ^ bs.toNat
    let nb := (l + b - 1) / b
    f ≠ 0#6 → laneMismatch [va] = .ok () → capCheck c [f] = .ok () → c.tc = .reg n →
    (List.range nb).foldl (fun t i => t + min k.toNat (min b (l - b * i))) 0 ≤ 256 →
    let kept : List (Nat × Bool) := (List.range nb).flatMap fun i =>
      let cs := (List.range (min b (l - b * i))).filterMap fun o =>
        if c.isAct (b * i + o) then some (va.elem (b * i + o), b * i + o) else none
      (keepTop k.toNat cs).map fun j => (j, cs.any fun y => va.psn y.2)
    let out := fun (g : FmtCode) (el : Nat → El) => ({
      fmt := g, act := fun j => decide (j < kept.length), pad := fun j => decide (kept.length ≤ j), hush := c.isPad, el := el
      feed := fun j => (kept[j]?).any fun y => y.2, rm := m, enc := encConv g m true } : VW)
    let at_ := fun (j : Nat) => ((kept[j]?).map fun y => y.1).getD 0
    let s1 := putVAt s c.td (out f fun j => .val (va.elem (at_ j)) 0#7)
    let s2 := putVAt s1 (c.td.plus 1) (out 0x03#6 fun j => .raw (at_ j) 0)
    let r := commit (s2.me.getV n) { c.vw f m (encConv f m true) [va] (fun j =>
      if kept.any fun y => y.1 == j then .val Val.zero 0#7 else .val (va.elem j) 0#7) with
        act := fun j => decide (j < s.me.padFrom) }
    exec (.vtopk mk rm d a x k bs) s = .next (complete c
      { s := s2.setMe ((s2.me.setV n
          { r.1 with psn := r.1.psn ||| psnOf va r.1.groups }).raise r.2) }))) ∧
  ((∀ tt d a b s c, Issues (.mlog tt d a b) [rdM .a a, rdM .b b, wrM d] s c →
    ∃ x, exec (.mlog tt d a b) s = .next (complete c { s := c.putM s x }) ∧
      ∀ j, j < 1024 → x.getLsbD j =
        tt.getLsbD (2 * (if (c.m_ .a).getLsbD j then 1 else 0) + (if (c.m_ .b).getLsbD j then 1 else 0))) ∧
  (∀ d a s c, Issues (.mpop d a) [rdM .a a, wrS d] s c →
    exec (.mpop d a) s = .next (complete c
      { s := c.putS s
          (w64 ((List.range (min s.me.vl.toNat 1024)).filter fun j => (c.m_ .a).getLsbD j).length) })) ∧
  (∀ d a s c, Issues (.mfirst d a) [rdM .a a, wrS d] s c →
    (∀ j, j < s.me.vl.toNat → j < 1024 → (c.m_ .a).getLsbD j = true → (∀ k, k < j → (c.m_ .a).getLsbD k = false) →
      exec (.mfirst d a) s = .next (complete c { s := c.putS s (w64 j) })) ∧
    ((∀ j, j < s.me.vl.toNat → j < 1024 → (c.m_ .a).getLsbD j = false) →
      exec (.mfirst d a) s = .next (complete c { s := c.putS s 0xFFFF_FFFF_FFFF_FFFF#64 }))) ∧
  (∀ d n s c, Issues (.mset d n) ((match n with | .op o => [rdS .a o] | .imm _ => []) ++ [wrM d]) s c →
    let k := match n with | .imm i => i.toNat | .op _ => (c.s_ .a).toNat
    ∃ x, exec (.mset d n) s = .next (complete c { s := c.putM s x }) ∧ ∀ j, j < 1024 → x.getLsbD j = decide (j < k)) ∧
  (∀ mk rm d a f s c, Issues (.mtov mk rm d a f) [rdM .a a, wrV d] s c mk →
    let m := s.me.rmode rm
    capCheck c [f] = .ok () → laneConflict c f c.td = .ok () →
    exec (.mtov mk rm d a f) s = .next (complete c
      { s := (c.putV s (c.vw f m (encConv f m true) []
          fun j => .val (Val.ofNat (if (c.m_ .a).getLsbD j then 1 else 0)) 0#7)).raise 0#7 })) ∧
  (∀ mk d a s c, Issues (.vtom mk d a) [rdV .a a, wrM d] s c mk →
    let va := c.v_ .a
    laneMismatch [va] = .ok () → capCheck c [va.fmt] = .ok () → (∀ j ∈ c.actives, va.psn j = false) →
    ∃ x, exec (.vtom mk d a) s = .next (complete c { s := c.putM s x }) ∧
      ∀ j, j < 1024 → x.getLsbD j = if s.me.padFrom ≤ j then false
        else if s.me.maskBit mk j then (!(va.elem j).isZero && va.elem j != .invalid)
        else (s.me.getM (c.rnum .d)).getLsbD j))

/-- R148: the mask that VCMP and VTOM write: results of the active elements, kept bits of the inactive ones below L − Q, zero
from there on. -/
def Obligations.MaskResultBits : Prop :=
  (∀ (st : Strand) mk old (p : Nat → Bool) j, j < 1024 →
    (maskResult st mk old p).getLsbD j =
      if st.padFrom ≤ j then false else if st.maskBit mk j then p j else old.getLsbD j) ∧
  (∀ (st : Strand) n inv j, j < 1024 → (st.maskBit .all j = true) ∧
    (st.maskBit (.m n inv) j = ((st.getM n.toNat).getLsbD j ^^ inv))) ∧
  (∀ (c : Ctx) (s : State) x n, c.td = .reg n → (c.putM s x).me.getM n = x ∧
    ∀ k, k ≠ n → (c.putM s x).me.getM k = s.me.getM k)

/-- R180: the elements that a block keeps are k, or all of them where they are fewer, in rising order, and none left out
ranks before one kept. -/
def Obligations.TopKeeps : Prop :=
  ∀ k (cands : List (Val × Nat)), (cands.map fun x => x.2).Pairwise (· < ·) →
    (∀ x ∈ cands, ∀ n a d, x.1 = .fin n a d → d ≠ 0) →
    (keepTop k cands).length = min k cands.length ∧ (keepTop k cands).Pairwise (· < ·) ∧
    ∀ x ∈ cands, ∀ y ∈ cands, x.2 ∈ keepTop k cands → ranksBefore y x = true → y.2 ∈ keepTop k cands

/-! ### Vector memory -/

/-- R262–R267: a vector load whose footprint is readable writes what memory holds, element by element. R154, R262: every element that a planned load takes lies in a line of the load's format, a zero line or a poisoned one,
and the length fits the format. -/
def Obligations.VectorLoadResults : Prop :=
  (let loaded := fun (_ : Ctx) (s : State) (rm : Rm) (p : LoadPlan) =>
    p.c1.putV (p.lines.foldl (fun s (q : Nat × Loc) => s.touch q.2) p.s1) (p.r.vw 0 p.g0 (s.me.rmode rm))
  let read := fun (p : LoadPlan) => some (memLines p.lines fun va => p.r.line (w64 va))
  (∀ mk rm ql trim d a b imm s c p, Issues (.vld mk rm ql trim d a b imm) [rdS .a a, rdS .b b, wrV d] s c mk →
    loadPlan c (qualSpace ql) (qualKb ql) trim false true (.byte (c.s_ .a + c.s_ .b + imm.signExtend 64)) = .ok p →
    p.fail = none → exec (.vld mk rm ql trim d a b imm) s = .next (complete c { s := loaded c s rm p, lines := read p })) ∧
  (∀ mk rm ql d a b imm s c p, Issues (.vlds mk rm ql d a b imm) [rdS .a a, rdS .b b, wrV d] s c mk →
    loadPlan c (qualSpace ql) (qualKb ql) false false true (.strided (c.s_ .a + imm.signExtend 64) (c.s_ .b)) = .ok p →
    p.fail = none → exec (.vlds mk rm ql d a b imm) s = .next (complete c { s := loaded c s rm p, lines := read p })) ∧
  (∀ mk rm ql d a b imm s c p, Issues (.vldx mk rm ql d a b imm) [rdS .a a, rdV .b b, wrV d] s c mk →
    loadPlan c (qualSpace ql) (qualKb ql) false false true (.indexed (c.s_ .a + imm.signExtend 64) (c.v_ .b) b.code) = .ok p →
    p.fail = none → exec (.vldx mk rm ql d a b imm) s = .next (complete c { s := loaded c s rm p, lines := read p })) ∧
  (∀ mk rm ql d a b imm s c p, Issues (.vldf mk rm ql d a b imm) [rdS .a a, rdS .b b, wrV d] s c mk →
    loadPlan c (qualSpace ql) (qualKb ql) false true false (.byte (c.s_ .a + c.s_ .b + imm.signExtend 64)) = .ok p →
    (p.fail = none → exec (.vldf mk rm ql d a b imm) s = .next (complete c { s := loaded c s rm p, lines := read p })) ∧
    (∀ n e, p.fail = some (n, e) → 0 < n → exec (.vldf mk rm ql d a b imm) s = .next (complete c
      { s :=
          ({ p.c1 with s := ((p.lines.foldl (fun s (q : Nat × Loc) => s.touch q.2) p.s1).spendFor e).trimVl n } : Ctx).putV
            (((p.lines.foldl (fun s (q : Nat × Loc) => s.touch q.2) p.s1).spendFor e).trimVl n) (p.r.vw 0 p.g0 (s.me.rmode rm)) }))) ∧
  (∀ mk rm sp d h b x s c man p, Issues (.vldm mk rm sp d h b x) [rdS .b b, rdS .c x, wrV d] s c mk →
    c.slotH h = .ok man → (sp.isSp && man.ten) = false → (∀ n, c.td ≠ .reg n) →
    loadPlan c sp none false false true (c.manForm man 1) = .ok p → p.fail = none →
    exec (.vldm mk rm sp d h b x) s = .next (complete c { s := loaded c s rm p, lines := read p })) ∧
  (∀ mk rm sp d h b x s c man p n, Issues (.vldm mk rm sp d h b x) [rdS .b b, rdS .c x, wrV d] s c mk →
    c.slotH h = .ok man → (sp.isSp && man.ten) = false → c.td = .reg n →
    loadPlan c sp none false false true (c.manForm man 1) = .ok p → p.fail = none →
    exec (.vldm mk rm sp d h b x) s = .next (complete c
      { s := putVAt (p.lines.foldl (fun s (q : Nat × Loc) => s.touch q.2) p.s1) (.reg (n + 0)) (p.r.vw 0 p.g0 (s.me.rmode rm)), lines := read p })) ∧
  (∀ mk rm sp d h b x k s c man p n, Issues (.vldg mk rm sp d h b x k)
      [rdS .b b, rdS .c x, { wrV d with grp := k.toNat, isGrp := true }] s c mk →
    c.slotH h = .ok man → (sp.isSp && man.ten) = false → c.td = .reg n →
    loadPlan c sp none false false false (c.manForm man k.toNat) = .ok p → p.fail = none →
    exec (.vldg mk rm sp d h b x k) s = .next (complete c
      { s := (List.range k.toNat).foldl (fun s row => putVAt s (.reg (n + row)) (p.r.vw row p.g0 (s.me.rmode rm)))
          (p.lines.foldl (fun s (q : Nat × Loc) => s.touch q.2) p.s1), lines := read p }))) ∧
  (∀ c sp kb trim first restarts fm p, loadPlan c sp kb trim first restarts fm = .ok p →
    (∀ x ∈ p.r.cells, (p.r.line x.va).cls = 2 ∨ (p.r.line x.va).cls = 3 ∨ (p.r.line x.va).fmt = p.r.f) ∧
    (p.fail = none → p.c1.me.vlen ≤ cap p.r.f))

/-- R268–R272: a vector store that passes its checks writes its lines in the page's format. R172, R323, R331, R332: VAMO in element order, and the images of VSAVE and VRSTR. -/
def Obligations.VectorStoreResults : Prop :=
  (let stored := fun (s : State) (rm : Rm) (p : StorePlan) =>
    let r := p.s1.writeLines p.sp (stFmt p.r p.t (s.me.rmode rm)) p.f p.lines
    r.1.raise r.2
  let written := fun (p : StorePlan) =>
    some (memLines (p.lines.map fun l => (l, l.loc)) fun _ => ({ data := 0, tag := tagReset } : LineV))
  (∀ mk rm sp d a b imm s c p, Issues (.vst mk rm sp d a b imm) [rdS .a a, rdS .b b, srcV d] s c mk →
    storePlan c sp (.byte (c.s_ .a + c.s_ .b + imm.signExtend 64)) [c.v_ .d] 0 = .ok p →
    exec (.vst mk rm sp d a b imm) s = .next (complete c { s := stored s rm p, lines := written p })) ∧
  (∀ mk rm sp d a b imm s c p, Issues (.vsts mk rm sp d a b imm) [rdS .a a, rdS .b b, srcV d] s c mk →
    storePlan c sp (.strided (c.s_ .a + imm.signExtend 64) (c.s_ .b)) [c.v_ .d] 0 = .ok p →
    exec (.vsts mk rm sp d a b imm) s = .next (complete c { s := stored s rm p, lines := written p })) ∧
  (∀ mk rm sp d a b imm s c p, Issues (.vstx mk rm sp d a b imm) [rdS .a a, rdV .b b, srcV d] s c mk →
    storePlan c sp (.indexed (c.s_ .a + imm.signExtend 64) (c.v_ .b) b.code) [c.v_ .d] 0 = .ok p →
    exec (.vstx mk rm sp d a b imm) s = .next (complete c { s := stored s rm p, lines := written p })) ∧
  (∀ mk rm sp d h b x s c man p, Issues (.vstm mk rm sp d h b x) [rdS .b b, rdS .c x, srcV d] s c mk →
    c.slotH h = .ok man → (sp.isSp && man.ten) = false → storePlan c sp (c.manForm man 1) [c.v_ .d] 0 = .ok p →
    exec (.vstm mk rm sp d h b x) s = .next (complete c { s := stored s rm p, lines := written p })) ∧
  (∀ mk rm sp d h b x k s c man p, Issues (.vstg mk rm sp d h b x k)
      [rdS .b b, rdS .c x, { srcV d with grp := k.toNat, isGrp := true }] s c mk →
    c.slotH h = .ok man → (sp.isSp && man.ten) = false →
    storePlan c sp (c.manForm man k.toNat) ((List.range k.toNat).map fun i =>
      VOp.ofReg (s.me.getV (c.rnum .d + i)) (c.rnum .d + i)) (c.rnum .d) = .ok p →
    exec (.vstg mk rm sp d h b x k) s = .next (complete c { s := stored s rm p, lines := written p }))) ∧
  ((∀ mk op noret sp d a b e x s c p,
    Issues (.vamo mk op noret sp d a b e x) ([rdS .a a, rdV .b b, rdV .c e] ++ if noret then [] else [wrV d]) s c mk →
    amoPlan c op noret sp = .ok p →
    let r := p.apply op x.toInt (c.v_ .c)
    exec (.vamo mk op noret sp d a b e x) s = .next (complete c
      { s := if noret then r.1.raise r.2.fl else c.putV (r.1.raise r.2.fl) (c.amoResult p.r r.2) })) ∧
  (∀ sc o a b e imm s c p t, Issues (.vsave sc o a b e imm) [rdS .a a, rdS .b b, { rdV .c e with whole := true }] s c →
    c.imagePlan true sc o (c.s_ .a + c.s_ .b + imm.signExtend 64) = .ok p → imageReady (.mem sc o) p.1 p.2 = .ok t →
    exec (.vsave sc o a b e imm) s = .next (complete c { s := writeImage (.mem sc o) (c.v_ .c).img p.1 t })) ∧
  (∀ sc o d a b imm s c p s2 bs n,
    Issues (.vrstr sc o d a b imm) [rdS .a a, rdS .b b, { wrV d with whole := true, late := true }] s c →
    c.imagePlan false sc o (c.s_ .a + c.s_ .b + imm.signExtend 64) = .ok p → readLines p.2 p.1 = .ok (s2, bs) →
    imageTag bs < 256 → fmtReserved (VReg.ofImage bs).fmt = false → c.td = .reg n →
    let t := p.1.foldl (fun s q => s.touch q.2) s2
    let t1 := t.setMe (t.me.setV n (VReg.ofImage bs))
    exec (.vrstr sc o d a b imm) s = .next (complete c
      { s := t1.setMe { t1.me with vpresent := t1.me.vpresent ||| w64 (2 ^ n) } })))

/-- R59, R60, R172: an image read back gives the register it was made from. -/
def Obligations.ImageRoundTrip : Prop :=
  ∀ r : VReg, r.data.toNat < 2 ^ (elemBits r.fmt * cap r.fmt) → r.psn.toNat < 2 ^ (cap r.fmt / 16) →
    (r.zero3 = true → r.data = 0#8192 ∧ r.scale = 0#512 ∧ r.psn = 0#64) →
    VReg.ofImage r.image = r ∧ r.image.length = 1152 ∧ imageTag r.image = r.tag.toNat

/-! ### Manifests and queues -/

/-- R253–R255: binding a manifest slot, reading a field and changing one. R254, R255: a field reads back as it was set, and the others keep their values. -/
def Obligations.ManifestResults : Prop :=
  ((∀ d a b imm s c l s0 s1 bs, Issues (.mnf d a b imm) [rdS .a a, rdS .b b] s c →
    let va := c.s_ .a + c.s_ .b + imm.signExtend 64
    va.toNat % 64 = 0 → s.locate false .load va 64 = .ok l → s.performEarlier = .ok s0 → s0.plainRead va 64 = .ok (s1, bs) →
    let r := Manifest.ofBytes bs
    (r.1.check r.2 = none → exec (.mnf d a b imm) s = .next (complete c { s := s1.setMe (s1.me.setH d.toNat r.1) })) ∧
    (∀ k, r.1.check r.2 = some k → exec (.mnf d a b imm) s = .next (s.raises (.mnf d a b imm) [rdS .a a, rdS .b b]
      { cause := .illegal, v0 := encode (.mnf d a b imm), v1 := w64 k }))) ∧
  (∀ d h sel s c m, Issues (.mnfget d h sel) [wrS d] s c → s.me.getH h.toNat = some m →
    exec (.mnfget d h sel) s = .next (complete c { s := c.putS s (m.field sel.toNat) })) ∧
  (∀ add d a sel s c m, Issues (.mnfset add d a sel) [rdS .a a] s c → s.me.getH d.toNat = some m →
    let k := sel.toNat
    let sgn := k = 0 ∨ 8 ≤ k
    let x : Int := if add ∨ sgn then (c.s_ .a).toInt else (c.s_ .a).toNat
    let v : Int := if add then (if sgn then (m.field k).toInt else ((m.field k).toNat : Int)) + x else x
    (fieldFits k v = true → (m.setField k v).check = none →
      exec (.mnfset add d a sel) s = .next (complete c { s := s.setMe (s.me.setH d.toNat (m.setField k v)) })) ∧
    (fieldFits k v = false → exec (.mnfset add d a sel) s = .next (s.raises (.mnfset add d a sel) [rdS .a a]
      { cause := .illegal, v0 := encode (.mnfset add d a sel), v1 := 0x14#64 })) ∧
    (fieldFits k v = true → ∀ e, (m.setField k v).check = some e →
      exec (.mnfset add d a sel) s = .next (s.raises (.mnfset add d a sel) [rdS .a a]
        { cause := .illegal, v0 := encode (.mnfset add d a sel), v1 := w64 e }))) ∧
  (∀ d h sel s c, Issues (.mnfget d h sel) [wrS d] s c → s.me.getH h.toNat = none →
    exec (.mnfget d h sel) s = .next (s.raises (.mnfget d h sel) [wrS d] { cause := .illegal, v0 := encode (.mnfget d h sel), v1 := 0x10#64 }))) ∧
  (∀ (m : Manifest) k v, k < 12 → m.dims.length = 4 → m.strides.length = 4 → fieldFits k v = true →
    (m.setField k v).field k = BitVec.ofInt 64 v ∧ ∀ j, j < 12 → j ≠ k → (m.setField k v).field j = m.field j)

/-- R208, R209, R214–R216: binding, closing and reading a queue. -/
def Obligations.QueueResults : Prop :=
  (∀ d a s c, Issues (.qbind d a) [rdS .a a] s c →
    let q := d.toNat
    let w := c.s_ .a
    let tm := s.myTeam
    let x : Queue := { vec := w.getLsbD 8, depth := bits w 0 5 + 1, prod := w.extractLsb' 16 16, cons := w.extractLsb' 32 16 }
    q < s.myCar.wb.queues → (∀ y, Tab.find tm.queues q = some y → y.entries = []) →
    (w = 0#64 → exec (.qbind d a) s = .next (complete c { s := s.setMyTeam { tm with queues := Tab.del tm.queues q } })) ∧
    (w ≠ 0#64 → qbindBad w s.myCar.wb.strands = false →
      (if x.vec then x.depth else 1) ≤ 28 * s.myCar.wb.queues - tm.unitsUsed q →
      exec (.qbind d a) s = .next (complete c { s := s.setMyTeam { tm with queues := Tab.put tm.queues q x } }))) ∧
  (∀ a s c x, Issues (.qclose a) [] s c → a.toNat < s.myCar.wb.queues → Tab.find s.myTeam.queues a.toNat = some x →
    nbits x.prod.toNat s.me.idx 1 = 1 →
    let y := { x with pclosed := x.pclosed ||| BitVec.ofNat 16 (2 ^ s.me.idx) }
    exec (.qclose a) s = .next (complete c
      { s := s.setMyTeam { s.myTeam with queues := Tab.put s.myTeam.queues a.toNat y } })) ∧
  (∀ d a s c, Issues (.qstat d a) [wrS d] s c → a.toNat < s.myCar.wb.queues →
    (∀ x, Tab.find s.myTeam.queues a.toNat = some x →
      exec (.qstat d a) s = .next (complete c { s := c.putS s (s.qstat s.myTeam x) })) ∧
    (Tab.find s.myTeam.queues a.toNat = none → exec (.qstat d a) s = .next (complete c { s := c.putS s 0#64 })))

/-! ### Canvases -/

/-- R184, R189, R194–R198: clearing, reading, writing, adding and inspecting canvases. R194, R195: writing a row or a column of a canvas from a vector. -/
def Obligations.CanvasResults : Prop :=
  ((∀ d cf mr s c cv, Issues (.czero d cf mr) (idxUse .a mr) s c → c.canvas d = .ok cv →
    let n := match mr with | .imm k => k.toNat + 1 | .reg _ => (c.s_ .a).toNat
    1 ≤ n → n ≤ 256 →
    exec (.czero d cf mr) s = .next (complete c { s := s.setCanvas d { cv with cf, mr := n, cells := [], psn := 0#256 } })) ∧
  (∀ mk rm sat d cn x f s c cv, Issues (.crrow mk rm sat d cn x f) (idxUse .b x ++ [wrV d]) s c mk → c.canvas cn = .ok cv →
    let n := match x with | .imm k => k.toNat | .reg _ => (c.s_ .b).toNat
    let m := s.me.rmode rm
    s.me.vl.toNat ≤ cap f → s.me.vl.toNat ≤ cv.nc → laneConflict c f c.td = .ok () → n < 256 →
    exec (.crrow mk rm sat d cn x f) s = .next (complete c
      { s := (c.putV s
          { fmt := f, act := c.isAct, pad := c.isPad, hush := c.isPad, rm := m, enc := encArith f m sat, el := fun j => .val (cv.val n j) 0#7
            feed := fun j => cv.poisoned n j }).raise 0#7 })) ∧
  (∀ mk rm sat hi d cn x f s c cv, Issues (.crcol mk rm sat hi d cn x f) (idxUse .b x ++ [wrV d]) s c mk →
    c.canvas cn = .ok cv →
    let n := match x with | .imm k => k.toNat | .reg _ => (c.s_ .b).toNat
    let m := s.me.rmode rm
    let lo := if hi then 128 else 0
    s.me.vl.toNat ≤ cap f → s.me.vl.toNat ≤ 256 - lo → laneConflict c f c.td = .ok () → n < cv.nc →
    exec (.crcol mk rm sat hi d cn x f) s = .next (complete c
      { s := (c.putV s
          { fmt := f, act := c.isAct, pad := c.isPad, hush := c.isPad, rm := m, enc := encArith f m sat, el := fun j => .val (cv.val (lo + j) n) 0#7
            feed := fun j => cv.poisoned (lo + j) n }).raise 0#7 })) ∧
  (∀ rm d a b s c x y z, Issues (.cadd rm d a b) [] s c → c.canvas a = .ok x → c.canvas b = .ok y → c.canvas d = .ok z →
    x.cf = y.cf →
    ∃ cv fl, exec (.cadd rm d a b) s = .next (complete c { s := (s.setCanvas d cv).raise fl }) ∧
      cv.cf = x.cf ∧ cv.mr = x.mr ∧ cv.psn = x.psn ||| y.psn ∧ cv.jb = z.jb ∧
      ∀ i j, i < 256 → j < x.nc → cv.cell i j =
        w64 (cellCode x.cf (s.me.rmode rm) (addV (s.me.rmode rm) (x.val i j) (y.val i j)).1).1) ∧
  (∀ d cn sel s c cv, Issues (.cstat d cn sel) [wrS d] s c → c.canvas cn = .ok cv →
    exec (.cstat d cn sel) s = .next (complete c
      { s := c.putS s
          (if sel = 0 then cv.summary else cv.psn.extractLsb' (64 * (sel.toNat - 1)) 64) }))) ∧
  (let step := fun (c : Ctx) (s : State) (rm : Rm) (cv : Canvas) (v : VOp) (at_ : Nat → Nat × Nat) =>
    c.actives.foldl (fun (z : Canvas × Flags) j =>
      let e := v.elem j
      let r := cellCode cv.cf (s.me.rmode rm) e
      let z1 := z.1.setCell (at_ j).1 (at_ j).2 r.1
      (if v.psn j then z1.poison (at_ j).1 (at_ j).2 else z1,
       z.2 ||| r.2 ||| (if cv.cf = 0x03#6 then 0#7 else convFlags cv.cf e))) (cv, 0#7)
  (∀ mk rm d x b s c cv, Issues (.cwrow mk rm d x b) (idxUse .a x ++ [rdV .b b]) s c mk → c.canvas d = .ok cv →
    let v := c.v_ .b
    let n := match x with | .imm k => k.toNat | .reg _ => (c.s_ .a).toNat
    v.fmt ≠ 0#6 → laneMismatch [v] = .ok () → s.me.vl.toNat ≤ cap v.fmt → s.me.vl.toNat ≤ cv.nc → n < 256 →
    let r := step c s rm cv v fun j => (n, j)
    exec (.cwrow mk rm d x b) s = .next (complete c { s := (s.setCanvas d r.1).raise r.2 })) ∧
  (∀ mk rm hi d x b s c cv, Issues (.cwcol mk rm hi d x b) (idxUse .a x ++ [rdV .b b]) s c mk → c.canvas d = .ok cv →
    let v := c.v_ .b
    let n := match x with | .imm k => k.toNat | .reg _ => (c.s_ .a).toNat
    let lo := if hi then 128 else 0
    v.fmt ≠ 0#6 → laneMismatch [v] = .ok () → s.me.vl.toNat ≤ cap v.fmt → s.me.vl.toNat ≤ 256 - lo → n < cv.nc →
    let r := step c s rm cv v fun j => (lo + j, n)
    exec (.cwcol mk rm hi d x b) s = .next (complete c { s := (s.setCanvas d r.1).raise r.2 })))

/-- R187–R193: COP and COPK accumulate outer products, one step after another. R190, R192: the cells after one outer-product step: a fused multiply-add in the active columns of the first MR rows, and
every other cell as it was. -/
def Obligations.OuterProductResults : Prop :=
  (let added := fun (c : Ctx) (s : State) (d : BitVec 3) (rm : Rm) (cv : Canvas) (steps : List CopStep) (mixes : List Flags) =>
    let r := steps.foldl (copStep s.tick (s.me.rmode rm) c.actives) (cv, 0#7)
    ((s.setCanvas d r.1).charge s.myVi 5
      (steps.foldl (fun n st => n + bitProd s.tick cv.cf st.fa st.vb.fmt * (cv.mr * c.actives.length)) 0)).raise
        (r.2 ||| mixes.foldl (fun a f => a ||| f) 0#7)
  let fits := fun (_ : Ctx) (s : State) (cv : Canvas) (steps : List CopStep) (mixes : List Flags) =>
    (steps.map fun st => palette s 2 st.fa st.vb.fmt) = (mixes.map fun f => .ok (cv.cf, f)) ∧
    laneMismatch (steps.flatMap fun st => [st.va, st.vb]) = .ok () ∧
    ∀ st ∈ steps, (∀ f, st.fa2 = some f → st.fa = 0x0C#6 ∧ f = 0x0C#6) ∧ s.me.vl.toNat ≤ cv.nc ∧
      cv.mr ≤ (if cv.pair then 2 else 1) * cap st.fa ∧ s.me.vl.toNat ≤ cap st.vb.fmt
  (∀ mk rm d a b s c cv mixes, s.copPair d = false → Issues (.cop mk rm d a b) [rdV .a a, rdV .b b] s c mk →
    c.canvas d = .ok cv → let steps := [CopStep.of (c.v_ .a) (c.v_ .b) none]
    fits c s cv steps mixes →
    exec (.cop mk rm d a b) s = .next (complete c { s := added c s d rm cv steps mixes })) ∧
  (∀ mk rm d a b s c cv mixes, s.copPair d = true → groupFits a 2 = true →
    Issues (.cop mk rm d a b) [{ rdV .a a with grp := 2, isGrp := true }, rdV .b b] s c mk →
    c.canvas d = .ok cv →
    let steps := [CopStep.of (c.v_ .a) (c.v_ .b) (some (c.readV (c.ta.plus 1)))]
    fits c s cv steps mixes →
    exec (.cop mk rm d a b) s = .next (complete c { s := added c s d rm cv steps mixes })) ∧
  (∀ mk rm d a b k s c cv mixes, let pair := s.copPair d
    let ka := if pair then 2 * k.toNat else k.toNat
    groupFits a ka = true →
    Issues (.copk mk rm d a b k) [{ rdV .a a with grp := ka, isGrp := true }, { rdV .b b with grp := k.toNat, isGrp := true }]
      s c mk → c.canvas d = .ok cv →
    let va := fun (t : Nat) => c.readV (c.ta.plus t)
    let vb := fun (t : Nat) => c.readV (c.tb.plus t)
    let steps := (List.range k.toNat).map fun t =>
      if pair then CopStep.of (va (2 * t)) (vb t) (some (va (2 * t + 1))) else CopStep.of (va t) (vb t) none
    fits c s cv steps mixes →
    exec (.copk mk rm d a b k) s = .next (complete c { s := added c s d rm cv steps mixes }))) ∧
  (∀ tick m cols (cv : Canvas) fl st, cols.Nodup → (∀ j ∈ cols, j < 256) →
    let r := (copStep tick m cols (cv, fl) st).1
    r.cf = cv.cf ∧ r.mr = cv.mr ∧ r.jb = cv.jb ∧
    ∀ i j, j < 256 → r.cell i j = if i < cv.mr ∧ j ∈ cols then
        w64 (copCode tick (256 * i + j) cv.cf m (fmaV m (quiet (st.row i)) (quiet (st.vb.elem j)) (quiet (cv.val i j))).1).1
      else cv.cell i j) ∧
  (∀ tick k cf m neg a b, (cf ≠ 0x03#6 → ∀ v, copCode tick k cf m v = cellCode cf m v) ∧
    copCode tick k cf m (.fin neg a b) = cellCode cf m (.fin neg a b) ∧
    copCode tick k 0x03#6 m (.inf neg) = (if neg then 2 ^ 31 else 2 ^ 31 - 1, fSAT))

/-! ### Tiles -/

/-- R199–R201, R306: CLD and CST that are no tile move their elements at once; with SCOPE they start a tile, which waits for
its capacity with its lines in reservation order. R204, R205, R317: CJOIN binds a canvas to its position of the joint canvas and gives it up; CSTJ joins the store of its
caravan, which starts as one tile with its last member. -/
def Obligations.TileTransferResults : Prop :=
  (let fits := fun (f : FmtCode) (l : LineV) => l.cls = 2 ∨ l.cls = 3 ∨ l.fmt = f
  (∀ rm atom sp d h b x ncol s c cv man p, Issues (.cld rm atom sp d h b x ncol) [rdS .b b, rdS .c x] s c →
    c.canvas d = .ok cv → c.slotH h = .ok man → (sp.isSp && man.ten) = false →
    let tf := c.tileForm false cv man atom sp ncol
    planTile c tf (ensure (tf.cols ≤ cv.nc) .capacity (w64 tf.cols) (cv.cf.setWidth 64)) = .ok p → p.f ≠ 0#6 → p.mismatch = none →
    (∀ s1 got, tf.atom = none → p.s.tileGather sp p.lines = .ok (s1, got) →
      (∀ l ∈ p.lines, fits p.f (s1.gathered got l.loc)) →
      let fed := p.lines.map fun l =>
        { line := s1.gathered got l.loc, els := l.cells.map fun (e : Nat × Nat × Nat) => (e.1, cellNo e.2.1 e.2.2) : Fed }
      let r := loadCells p.f (s.me.rmode rm) tf.rows tf.cols fed cv
      let s2 := p.lines.foldl (fun s l => s.touch l.loc) s1
      exec (.cld rm atom sp d h b x ncol) s = .next (complete c { s := (s2.setCanvas d r.1).raise r.2 })) ∧
    (∀ s1, tf.atom ≠ none → (∀ l ∈ p.lines, p.s.notHeld false l.loc = .ok ()) → p.s.readyTile false p.lines = .ok s1 →
      (∀ l ∈ p.lines, fits p.f (s1.lineOf l.loc)) →
      let q := c.part d cv.cf p.f rm tf.rows tf.cols (p.lines.map fun l => l.keep false fun i j => (cellNo i j, false))
      exec (.cld rm atom sp d h b x ncol) s = .next ((s1.startTile false [q]).chargeWait (.cld rm atom sp d h b x ncol)))) ∧
  (∀ rm atom sp d h b x ncol s c cv man p s1, Issues (.cst rm atom sp d h b x ncol) [rdS .b b, rdS .c x] s c →
    c.canvas d = .ok cv → c.slotH h = .ok man → (sp.isSp && man.ten) = false →
    let tf := c.tileForm true cv man atom sp ncol
    planTile c tf (ensure (tf.cols ≤ cv.nc) .capacity (w64 tf.cols) (cv.cf.setWidth 64)) = .ok p →
    let ls := p.lines.map (PlanLine.write cv tf.cols)
    storeTags cv p ls = .ok () →
    (tf.atom = none → p.s.storeLines sp p.t ls = .ok s1 →
      let r := s1.writeLines sp (stFmt cv.cf p.t (s.me.rmode rm)) p.f ls
      exec (.cst rm atom sp d h b x ncol) s = .next (complete c { s := r.1.raise r.2 })) ∧
    (tf.atom ≠ none → p.s.readyTile true p.lines = .ok s1 →
      exec (.cst rm atom sp d h b x ncol) s = .next ((s1.startTile true [c.storePart d cv rm tf p ls]).chargeWait (.cst rm atom sp d h b x ncol))))) ∧
  ((∀ d a p q s c cv, Issues (.cjoin d (.bind a p q)) [rdS .a a] s c → c.canvas d = .ok cv →
    let w := s.myCar.wb
    c.s_ .a = s.myCar.handle → w.jr ≠ 0 → p.toNat < w.jr → q.toNat < w.jc → s.myTeam.binding = none →
    (∀ t ∈ s.teams, t.1 ≠ s.me.team → t.2.caravan = s.myTeam.caravan →
      ∀ n, t.2.binding ≠ some (n, p.toNat, q.toNat)) →
    exec (.cjoin d (.bind a p q)) s = .next (complete c
      { s := s.setCanvas d { cv with jb := some (s.myCar.handle, p.toNat, q.toNat) } })) ∧
  (∀ d s c cv, Issues (.cjoin d .unbind) [] s c → c.canvas d = .ok cv →
    (cv.jb = none → exec (.cjoin d .unbind) s = .next (complete c { s := s })) ∧
    (cv.jb ≠ none → exec (.cjoin d .unbind) s = .next (complete c { s := s.unbind s.me.team }))) ∧
  (∀ rm sc o d h b x s c cv hd p q man pl s1, Issues (.cstj rm sc o d h b x) [rdS .b b, rdS .c x] s c →
    c.canvas d = .ok cv → cv.jb = some (hd, p, q) → c.slotH h = .ok man →
    let f0 := c.tileForm true cv man true (.mem sc o) 0#9
    let tf := { f0 with x0 := f0.x0 + cv.nc * q, y0 := f0.y0 + 256 * p, rows := 256, cols := cv.nc }
    planTile c tf = .ok pl →
    let ls := pl.lines.map (PlanLine.write cv tf.cols)
    storeTags cv pl ls = .ok () → s.jointBusy s.me.team s.myCar = false → pl.s.readyTile true pl.lines = .ok s1 →
    let part := { c.storePart d cv rm tf pl ls with p, q }
    let car := s1.myTeam.caravan
    let y := s1.car car
    let s3 := (s1.setCar car { y with joint := y.joint ++ [part] }).setMe { s1.me with run := .joint c.i, late := [] }
    exec (.cstj rm sc o d h b x) s = .next ((s3.formJoint car).chargeWait (.cstj rm sc o d h b x))))

/-- R306–R308: the events of a tile: its capacity, in the order of issue; its lines, one at a time in reservation order; the
commit of all its lines; and its release, which completes its instructions. -/
def Obligations.TileEvents : Prop :=
  (∀ s id rest t, s.capFifo = id :: rest → Tab.find s.tiles id = some t → s.hasCapacity t = true → s.movingHome t = false →
    exec .evTileCapacityGrant s = .next { s with
      tiles := Tab.put s.tiles id { t with granted := true, since := s.tileSeq }, tileSeq := s.tileSeq + 1, capFifo := rest }) ∧
  (∀ s id t ln p l, Tab.find s.tiles id = some t → t.granted = true → t.committed = false → t.order[t.bound]? = some ln →
    t.owner ln = some (p, l) → s.lineOffline l.eph ln l.va = none → s.blocked id t ln = false →
    (t.store = true → s.locked ln = false) →
    s.lineLinked ln = true → t.ext = none →
    exec (.evTileLineReserve id) s = .next { s with
      tiles := Tab.put s.tiles id { t with bound := t.bound + 1, since := s.tileSeq }, tileSeq := s.tileSeq + 1 }) ∧
  (∀ s id t, Tab.find s.tiles id = some t → t.granted = true → t.committed = false → t.ext = none →
    t.bound = t.order.length → s.marksFree id t = true → (∀ p ∈ t.parts, (if t.store then s.partConflict p else s.partMismatch p) = none) →
    let r := t.parts.foldl (fun (a : State × List TilePart) p =>
      let q := if t.store then a.1.flipPart t.hit p else a.1.loadPart p
      (q.1, a.2 ++ [{ p with flags := q.2 }])) (s, [])
    exec (.evTileCommit id) s = .next { r.1 with tiles := Tab.put r.1.tiles id { t with committed := true, parts := r.2 } }) ∧
  (∀ s id t, Tab.find s.tiles id = some t → t.committed = true → t.ext = none → t.order.all s.lineLinked = true →
    exec (.evTileRelease id) s = .next (t.parts.foldl State.finishPart (s.dropTile id))) ∧
  (∀ s id t, Tab.find s.tiles id = some t → t.bound < t.order.length →
    exec (.evTileCommit id) s = .next s ∧ (t.committed = false → exec (.evTileRelease id) s = .next s))

/-! ### Copy streams -/

/-- R335, R341–R344: starting a transfer, waiting for it, reading its progress, resuming and cancelling it. -/
def Obligations.CopyStreamResults : Prop :=
  (∀ k h b e ncol s c man f s1 d, Issues (.cpstart k h b e ncol) [rdS .b b, rdS .c e] s c →
    bits (c.s_ .c) 21 11 = 0 → c.startable k = .ok () → c.slotH h = .ok man → c.memFmt man = .ok (f, s1) →
    c.cpNarrow man f = .ok () →
    let x0 := bits (c.s_ .b) 0 32
    let n := ncolOf man ncol x0
    let ys := (List.range (bits (c.s_ .c) 32 32)).map (bits (c.s_ .b) 32 32 + ·)
    cpBound man f x0 n (rowsBound man ys) = .ok () →
    ({ c with s := s1 } : Ctx).startStream k h .start man f (c.cpRegion .start man f (rowsBox x0 n ys)) .rne x0 n
      (bits (c.s_ .c) 0 21) ys = .ok d →
    exec (.cpstart k h b e ncol) s = .next (complete c d)) ∧
  (∀ mk k h b e ncol s c man f s1 d, Issues (.cpgather mk k h b e ncol) [rdV .b b, rdS .c e] s c mk →
    bits (c.s_ .c) 21 11 = 0 → c.startable k = .ok () → c.slotH h = .ok man → c.memFmt man = .ok (f, s1) →
    c.cpNarrow man f = .ok () →
    let v := c.v_ .b
    let x0 := bits (c.s_ .c) 32 32
    let n := ncolOf man ncol x0
    let ys := c.actives.map fun j => (elemInt v j).toNat
    isWInt v.fmt = true → laneMismatch [v] = .ok () → capCheck c [v.fmt] = .ok () → consumeAs b v c.actives = .ok () →
    cpBound man f x0 n (.ok ()) = .ok () → (∀ j ∈ c.actives, 0 ≤ elemInt v j ∧ (elemInt v j).toNat < man.extent 1) →
    ({ c with s := s1 } : Ctx).startStream k h .gather man f (c.cpRegion .gather man f (rowsBox x0 n ys)) .rne x0 n
      (bits (c.s_ .c) 0 21) ys = .ok d →
    exec (.cpgather mk k h b e ncol) s = .next (complete c d)) ∧
  (∀ rm k h b e ncol s c man d, Issues (.cpscatter rm k h b e ncol) [rdS .b b, rdS .c e] s c →
    let dest := bits (c.s_ .c) 0 21
    let f := (s.myTeam.spLine (dest / 128)).fmt
    bits (c.s_ .c) 21 11 = 0 → c.startable k = .ok () → c.slotH h = .ok man →
    s.free false true (w64 (dest / 128 * 128)) 128 = .ok () → c.cpNarrow man f = .ok () →
    let x0 := bits (c.s_ .b) 0 32
    let n := ncolOf man ncol x0
    let ys := (List.range (bits (c.s_ .c) 32 32)).map (bits (c.s_ .b) 32 32 + ·)
    cpBound man f x0 n (rowsBound man ys) = .ok () →
    c.startStream k h .scatter man f (c.cpRegion .scatter man f (rowsBox x0 n ys)) (s.me.rmode rm).toRm x0 n dest ys = .ok d →
    exec (.cpscatter rm k h b e ncol) s = .next (complete c d)) ∧
  (∀ sc part d k s c x s1, Issues (.cpwait sc part d k) (partUse part ++ [wrS d]) s c → c.streamOf k = .ok x →
    (x.state = .done ∨ x.state = .idle ∨ (part ≠ none ∧ (c.s_ .b).toNat ≤ x.avail)) → s.order (.mem sc .acq) = .ok s1 →
    exec (.cpwait sc part d k) s = .next (complete c { s := c.putS s1 (w64 x.avail) })) ∧
  (∀ d k sel s c x, Issues (.cpavail d k sel) [wrS d] s c → c.streamOf k = .ok x →
    exec (.cpavail d k sel) s = .next (complete c { s := c.putS s (match sel.toNat with
      | 0 => s.cpStatus k.toNat x | 1 => w64 x.avail | 2 => w64 x.req | _ => w64 x.dest) })) ∧
  (∀ d k mode s c x, Issues (.cpresume d k mode) [wrS d] s c → c.streamOf k = .ok x →
    ((x.state ≠ .faulted ∨ x.fail = none) →
      exec (.cpresume d k mode) s = .next (complete c { s := c.putS s (wInt (-1)) })) ∧
    (∀ r t s1, x.state = .faulted → x.fail = some (r, t) →
      (if x.kind = .scatter then s.drainCore (s.coreOf s.me) = .ok s1 else s1 = s) →
      let y := { x with state := .active, fail := none, failLines := [] }
      let s2 := s1.withdrawCopy x k.toNat
      let s3 := if mode = 1#2 ∧ x.kind ≠ .scatter then s2.setMyTeam (s2.myTeam.skipRow x r) else s2
      exec (.cpresume d k mode) s = .next (complete c
        { s := c.putS (s3.setStream s.me.team k.toNat (if mode = 0#2 then y else y.arrive r)) 0#64 }))) ∧
  (∀ k s c x, Issues (.cpcancel k) [] s c → c.streamOf k = .ok x →
    exec (.cpcancel k) s = .next (complete c { s := s.cancelStream s.me.team k.toNat }))

/-- R333, R334, R338–R340: a row is requested once, in rising order; a row whose accesses succeed completes, and AVAIL is the
length of the completed prefix; one that fails stops its stream. -/
def Obligations.CopyRowEvents : Prop :=
  (∀ (s : State) team k x r, s.streamOf team k = some x → x.state = .active → r < x.req → r ∉ x.doneRows → r ∉ x.flight →
    (∀ q, q < r → q ∈ x.doneRows ∨ q ∈ x.flight) →
    s.hasRequests ((s.team team).core.getD 0) (Sys2Proof.Machine.rowLines x.rowlen) = true →
    exec (.evCopyRowRequest team k) s = .next (s.setStream team k { x with flight := x.flight ++ [r] })) ∧
  (∀ (s : State) team k r x s1, s.streamOf team k = some x → r ∈ x.flight → s.rowWork team k r x = .ok s1 →
    exec (.evCopyRowComplete team k r) s = .next s1) ∧
  (∀ (s : State) team k r x f, s.streamOf team k = some x → r ∈ x.flight → s.rowWork team k r x = .bad f →
    (exec (.evCopyRowComplete team k r) s = .next s) ∧
    ∃ t y, exec (.evCopyRowFault team k r) s = .next t ∧ (t.team team).stream k = y ∧ y.state = .faulted ∧ y.flight = x.flight.erase r) ∧
  (∀ (s : State) team k r x base, s.streamOf team k = some x → r ∈ x.flight → x.kind ≠ .scatter →
    let w := s.whoOf team x.user
    (if x.man.ten then (s.xlat w .load x.man.base).map some else .ok none) = .ok base →
    let v := s.rowCells w .load x base x.fmt (x.rows.getD r 0)
    v.ends = [] → (∀ c ∈ v.cells, s.held false (c.x.pa / 128) = false) →
    ∀ s0, (s.drainTracks w.core fun b => (rowLineList v.cells).any fun c => b.pa / 128 == c.x.pa / 128) = .ok s0 →
    ((∀ c ∈ v.cells, srcBad x.fmt (s0.lineAt c.x) = none) →
      ∃ t, exec (.evCopyRowComplete team k r) s = .next t ∧ (t.team team).stream k = x.arrive r) ∧
    ((∃ c ∈ rowLineList v.cells, srcBad x.fmt (s0.lineAt c.x) ≠ none) →
      ∃ t y, exec (.evCopyRowFault team k r) s = .next t ∧ (t.team team).stream k = y ∧ y.state = .faulted ∧
        y.flight = x.flight.erase r)) ∧
  (∀ (x : Stream) r, r < x.req → let y := x.arrive r
    r ∈ y.doneRows ∧ y.avail ≤ x.req ∧ (∀ q, q < y.avail → q ∈ y.doneRows) ∧ (y.avail < x.req → y.avail ∉ y.doneRows) ∧
    (y.state = .done → x.state = .active → y.avail = x.req ∧ y.il = [])) ∧
  (∀ (s : State) team k r x s1, s.streamOf team k = some x → s.rowWork team k r x = .ok s1 → x.kind ≠ .scatter →
    (s1.team team).stream k = x.arrive r)

/-! ### Strands -/

/-- R95, R89: LAUNCH creates a caravan of PENDING teams and writes its handle, or writes the result of Table 4.4. That −1 for a VI
without EN comes after −2, −3 and −4 is the model's reading (log 61, DEDUCED). -/
def Obligations.LaunchResults : Prop :=
  (∀ d a s c s1 s2 bs, Issues (.launch d a) [rdS .a a, wrS d] s c →
    (c.s_ .a).toNat % 128 = 0 → c.s.plainRead (c.s_ .a) 128 = .ok (s1, bs) → s1.drainCore (s1.coreOf s.me) = .ok s2 →
    let x := Waybill.ofBytes bs
    (∀ r, launchResult s2 bs x = .ok (some r) → exec (.launch d a) s =
      .next (complete c { s := c.putS (if r = -3 then s2.spendEntry x else s2) (wInt r) })) ∧
    (launchResult s2 bs x = .ok none →
      exec (.launch d a) s = .next (complete c { s := c.putS (s2.createCaravan x).1 (s2.createCaravan x).2 }))) ∧
  (∀ d a s c s1 s2 bs, Issues (.launch d a) [rdS .a a, wrS d] s c →
    (c.s_ .a).toNat % 128 = 0 → s.plainRead (c.s_ .a) 128 = .ok (s1, bs) → s1.drainCore (s1.coreOf s.me) = .ok s2 →
    let x := Waybill.ofBytes bs
    let bad := waybillMalformed bs x (s2.me.priv == .mon) (s2.seenDies s2.myVi).length
    let q := s2.vi s2.myVi
    let entry := s2.xlat { vi := s2.myVi, user := x.laneWeight != 0, core := s2.coreOf s2.me } .fetch x.entry
    let answers := fun (r : Int) => exec (.launch d a) s = .next (complete c { s := c.putS s2 (wInt r) })
    (bad = true → answers (-2)) ∧
    (bad = false → ∀ t, entry = .error (.trap t) →
      exec (.launch d a) s = .next (complete c { s := c.putS (s2.spendEntry x) (wInt (-3)) })) ∧
    (bad = false → ∀ y, entry = .ok y →
      (s2.myVi ≠ 0 → bits q.q2 24 2 < x.cls → answers (-4)) ∧
      (s2.myVi ≠ 0 → x.cls ≤ bits q.q2 24 2 → (q.en = false ∨ q.allows x.need x.need = false) → answers (-1)) ∧
      ((s2.myVi ≠ 0 → x.cls ≤ bits q.q2 24 2 ∧ q.en = true ∧ q.allows x.need x.need = true) →
        x.jr * x.jc ≤ 64 * ((List.range 4).filter fun d => nbits x.diemask.toNat d 1 == 1).length →
        exec (.launch d a) s = .next (complete c { s := c.putS (s2.createCaravan x).1 (s2.createCaravan x).2 })))) ∧
  (∀ (s : State) x, let r := s.createCaravan x
    r.2 = w64 ((s.vi s.myVi).launched % 2 ^ 31) ∧
    (∃ cv, Tab.find r.1.caravans s.nextCaravan = some cv ∧ cv.vi = s.myVi ∧ cv.handle = r.2 ∧ cv.wb = x ∧ cv.counter = x.lo ∧
      (cv.service = true ↔ s.me.priv = .mon ∧ x.laneWeight = 0) ∧ cv.teams = (List.range x.teams).map (s.nextTeam + ·)) ∧
    (∀ i, i < x.teams → ∃ tm, Tab.find r.1.teams (s.nextTeam + i) = some tm ∧ tm.caravan = s.nextCaravan ∧ tm.idx = i ∧
      tm.spLen = x.spbytes ∧ tm.core = none ∧ tm.strands = []) ∧
    (∀ n, n ≠ s.nextCaravan → Tab.find r.1.caravans n = Tab.find s.caravans n) ∧
    (∀ n, ¬(s.nextTeam ≤ n ∧ n < s.nextTeam + x.teams) → Tab.find r.1.teams n = Tab.find s.teams n))

/-- R97, R98, R102, R107, R111, R112: YIELD, SNEXT, BAR, WAKE and EXIT. R109, Table 4.7: WAITW completes where its condition holds, and parks its strand on the line where it does not. R108: a barrier whose last strand arrives completes the BAR of every strand of the team that has not exited, and none
before that. -/
def Obligations.StrandResults : Prop :=
  ((∀ s c, Issues .yield [] s c → exec .yield s = .next (complete c { s := s.setMe { s.me with waited := 0, nmax := 0 } })) ∧
  (∀ d s c, Issues (.snext d) [wrS d] s c →
    let x := s.myCar
    (x.wb.strip ≠ 0#64 → x.counter.toInt < x.wb.hi.toInt → exec (.snext d) s = .next (complete c
      { s := c.putS (s.setCar s.myTeam.caravan { x with counter := x.counter + x.wb.strip }) x.counter })) ∧
    (¬(x.wb.strip ≠ 0#64 ∧ x.counter.toInt < x.wb.hi.toInt) →
      exec (.snext d) s = .next (complete c { s := c.putS s 0xFFFF_FFFF_FFFF_FFFF#64 }))) ∧
  (∀ id s c, Issues (.bar id) [] s c →
    exec (.bar id) s = .next (((s.setMe { s.me with run := .parkBar id.toNat }).barrier s.me.team id.toNat).chargeWait (.bar id))) ∧
  (∀ sc a b imm s c x s1, Issues (.wake sc a b imm) [rdS .a a, rdS .b b] s c →
    s.reach (s.who s.me) .load (c.s_ .a + c.s_ .b + imm.signExtend 64) = .ok x → s.order (.mem sc .rel) = .ok s1 →
    let s2 := (s1.used x).notify (x.pa / 128)
    ((sc ≠ .sys ∨ ∀ d, s2.region x.pa ≠ .remote d) → exec (.wake sc a b imm) s = .next (complete c { s := s2 })) ∧
    (∀ d, sc = .sys → s2.region x.pa = .remote d →
      exec (.wake sc a b imm) s = .next (complete c { s := { s2 with out := s2.out ++ [.wake d (x.pa / 128)] } }))) ∧
  (∀ s c s1, Issues .exit [] s c → s.streamsActive = false → s.drainCore (s.coreOf s.me) = .ok s1 →
    exec .exit s = .next ((s1.charge s1.myVi 1 1).leave)) ∧
  (∀ s c, Issues .exit [] s c → s.streamsActive = true → exec .exit s = .next s)) ∧
  ((∀ cond sc d a b e imm s c l s1 v, Issues (.waitw cond sc d a b e imm) [rdS .a a, rdS .b b, rdS .c e, wrS d] s c →
    let va := c.s_ .a + c.s_ .b + imm.signExtend 64
    va.toNat % 8 = 0 → s.locate false .load va 8 = .ok l → s.loadAt (.mem sc .acq) va 8 l = .ok (s1, v) →
    (waitHolds cond (w64 v) (c.s_ .c) = true →
      exec (.waitw cond sc d a b e imm) s = .next (complete c { s := c.putS s1 (w64 v) })) ∧
    (waitHolds cond (w64 v) (c.s_ .c) = false →
      exec (.waitw cond sc d a b e imm) s =
        .next ((s1.setMe { s1.me with run := .parkWaitw (.waitw cond sc d a b e imm) l.line }).chargeWait
          (.waitw cond sc d a b e imm)))) ∧
  (∀ w k : Word, waitHolds 0#3 w k = (w == k) ∧ waitHolds 1#3 w k = (w != k) ∧
    waitHolds 2#3 w k = decide (w.toNat < k.toNat) ∧ waitHolds 3#3 w k = decide (w.toNat ≥ k.toNat) ∧
    waitHolds 4#3 w k = decide (w.toInt < k.toInt) ∧ waitHolds 5#3 w k = decide (w.toInt ≥ k.toInt) ∧
    waitHolds 6#3 w k = ((w &&& k) != 0#64) ∧ waitHolds 7#3 w k = ((w &&& k) == 0#64))) ∧
  (∀ (s : State) team id, let live := (s.team team).strands.filter fun k => (s.strand k).run != .exited
    ((∃ k ∈ live, (s.strand k).run ≠ .parkBar id) → s.barrier team id = s) ∧
    ((∀ k ∈ live, (s.strand k).run = .parkBar id ∧ (s.strand k).sstep = none) → live.Nodup →
      ∀ k ∈ live, ((s.barrier team id).strand k).run = .active ∧
        ((s.barrier team id).strand k).pc = (s.strand k).pc + 8#64))

/-! ### Contexts -/

/-- R403–R405: CTXSAVE writes the image of a trapped context and its length; CTXRSTR restores one that its checks accept. -/
def Obligations.ContextResults : Prop :=
  (∀ vec dirty msks mnfs d base imm s c x ls s1,
    Issues (.ctxsave vec dirty msks mnfs d base imm) (baseUses base ++ [wrS d]) s c → (vec = true ∨ dirty = false) →
    let va := c.imageVa base imm
    c.trapped va = .ok x →
    let vs := if vec then (if dirty then s.me.vpresent &&& s.me.vdirty else s.me.vpresent) else 0#64
    let len := strandLength vs msks mnfs
    s.linesFrom .store va 0 (len / 128) = .ok ls → noTensor va ls = .ok () →
    (∀ p ∈ ls, s.free true false p.1 128 = .ok ()) → s.requests ls.length = .ok () →
    ∀ s0, s.drainCore (s.coreOf s.me) = .ok s0 → imageReady (.mem .dev .rel) ls s0 = .ok s1 →
    let h : Header :=
      { len, features := if vec || msks then 3 else 1
        sect := 1 + (if vec then 2 else 0) + (if msks then 4 else 0) + (if mnfs then 8 else 0)
        vsaved := vs, handle := s.myCar.handle, idx := s.myTeam.idx, strand := s.me.idx }
    let sup := if s.me.priv = .mon then some (s.lvlRegs s.me .sup) else none
    let bs := h.bytes ++ s.me.coreBytes x sup ++ s.me.sections vs msks mnfs
    let s2 := writeUntLines (.mem .dev .rel) (ls.zip (imageLines ls.length bs)) s1
    exec (.ctxsave vec dirty msks mnfs d base imm) s =
      .next (complete c { s := c.putS (s2.setMe { s2.me with vdirty := s2.me.vdirty &&& ~~~vs }) (w64 len) })) ∧
  (∀ lzy base imm s c x s1 s2 s3 s4 hb pb ls bs, Issues (.ctxrstr lzy base imm) (baseUses base) s c →
    let va := c.imageVa base imm
    c.trapped va = .ok x → s.order (.mem .dev .acq) = .ok s1 →
    s1.imageRead va 0 1 = .ok (s2, hb) → headerReason hb = none →
    s2.imageRead va 6 1 = .ok (s3, pb) → bytesAt pb 104 8 ≤ (if s.me.priv = .mon then 1 else 0) →
    s3.imageRead va 0 (bytesAt hb 4 4 / 128) = .ok (s4, bs) → contentsMalformed bs (wordAt hb 24) lzy = false →
    s4.linesFrom .load va 0 (bytesAt hb 4 4 / 128) = .ok ls →
    let s5 := ls.foldl (fun s q => s.touch q.2) s4
    let st := s5.me.restoreImage bs s.me.priv x lzy s5.myCar.wb.persist (bits (s5.vi s5.myVi).wdwin 0 32)
    exec (.ctxrstr lzy base imm) s = .next (complete c { s := (s5.setMe st).reallocMine }))

/-- R396: the length of a strand image, and where the image of a vector register lies in it. R396, R404, Table 17.7: the CORE section of an image holds the registers that CTXRSTR takes from it. -/
def Obligations.ImageHoldsRegisters : Prop :=
  (∀ (st : Strand) (x : TrapRegs) (h : Header) sup vs masks mnfs,
    let bs := h.bytes ++ st.coreBytes x sup ++ st.sections vs masks mnfs
    let below := fun n => ((List.range n).filter fun k => k < 48 ∧ vs.getLsbD k).length
    bs.length = 128 + 1024 + 1152 * below 48 + 1536 * (if masks then 1 else 0) + 1024 * (if mnfs then 1 else 0) ∧
    strandLength vs masks mnfs = bs.length ∧
    ∀ j, j < 48 → vs.getLsbD j = true → (bs.drop (1152 + 1152 * below j)).take 1152 = (st.getV j).image) ∧
  (∀ (st : Strand) (x : TrapRegs) (h : Header) rest, let bs := h.bytes ++ st.coreBytes x none ++ rest
    (st.coreBytes x none).length = 1024 ∧ h.bytes.length = 128 ∧
    (∀ n, n < 64 → wordAt bs (128 + 8 * n) = st.getS n) ∧
    (∀ n, n < 8 → wordAt bs (640 + 8 * n) = st.getI n) ∧
    wordAt bs 704 = x.pc ∧ wordAt bs 712 = st.vl ∧ wordAt bs 720 = st.vfmt ∧ wordAt bs 728 = st.vpad ∧
    wordAt bs 736 = w64 (bits x.stat 16 10) ∧ wordAt bs 744 = w64 (bits x.stat 32 2) ∧ wordAt bs 752 = st.fctl ∧
    wordAt bs 760 = st.palsel ∧ wordAt bs 768 = st.vdirty ∧ wordAt bs 776 = st.vpresent ∧ wordAt bs 784 = st.ut.pc ∧
    wordAt bs 848 = st.progress ∧ wordAt bs 872 = w64 (bits x.stat 2 2))

/-! ### System -/

/-- R235, R236, R240, R248, R379, R380: TLBINV, RCSTART, RCSTAT, KDSET, HOMEMAP and IDLE. R238–R241, R379: the results of KDSET, the domain of a frame after it, and the home of a line after HOMEMAP. -/
def Obligations.SystemResults : Prop :=
  ((∀ ty a b s c s1 d, Issues (.tlbinv ty a b) [rdS .a a, rdS .b b] s c →
    (s.me.priv = .sup → b = .reg 0#6 ∧ ty.toNat < 2) →
    let n := if s.me.priv = .mon then (c.s_ .b).toNat else s.myVi
    n ≤ 255 → s.drainCore (s.coreOf s.me) = .ok s1 → tlbBody ty n (c.s_ .a) s1 = .ok d →
    exec (.tlbinv ty a b) s = .next (complete c d) ∧
      ∀ t ∈ d.s.tlb, t ∈ s1.tlb ∧ tlbDrops ty n (c.s_ .a) t = false) ∧
  (∀ rm d a b f s c s1, Issues (.rcstart rm d a b f) [rdS .a a, rdS .b b, wrS d] s c →
    (c.s_ .a).toNat % 0x20_0000 = 0 → let n := (c.s_ .b).toNat
    let running := (s.vi s.myVi).rc.state = .running
    (running → exec (.rcstart rm d a b f) s = .next (complete c { s := c.putS s (wInt (-1)) })) ∧
    (¬running → (n = 0 ∨ 65536 < n) → exec (.rcstart rm d a b f) s = .next (complete c { s := c.putS s (wInt (-2)) })) ∧
    (¬running → 1 ≤ n → n ≤ 65536 → s.drainCore (s.coreOf s.me) = .ok s1 →
      let rc : Recode := { state := .running, va := c.s_ .a, count := n, fmt := f, rm := (s.me.rmode rm).toRm }
      exec (.rcstart rm d a b f) s = .next (complete c
        { s := c.putS (s1.setVi s1.myVi { s1.vi s1.myVi with rc }) 0#64 }))) ∧
  (∀ d s c, Issues (.rcstat d false) [wrS d] s c →
    exec (.rcstat d false) s = .next (complete c { s := c.putS s (s.vi s.myVi).rc.status })) ∧
  (∀ d s c, Issues (.rcstat d true) [wrS d] s c → let r := (s.vi s.myVi).rc
    ((r.state = .running ∨ r.state = .failed) → exec (.rcstat d true) s = .next (complete c { s := c.putS s r.va })) ∧
    (∃ w, exec (.rcstat d true) s = .next (complete c { s := c.putS s w }))) ∧
  (∀ i d a b e s c r, i = .kdsetAssign d a b e ∨ i = .kdsetNewkey d a b e ∨ i = .kdsetRetire d a b e →
    Issues i [rdS .a a, rdS .b b, rdS .c e, wrS d] s c → kdsetBody c = .ok r → exec i s = .next (complete c r)) ∧
  (∀ d a b s c, Issues (.homemap d a b) [rdS .a a, rdS .b b, wrS d] s c →
    let h := (c.s_ .a).toNat
    let k := (c.s_ .b).toNat
    (∀ r, s.homemapResult h k = some r → exec (.homemap d a b) s = .next (complete c { s := c.putS s (wInt r) })) ∧
    (∀ s1, s.homemapResult h k = none → s.leaveSlice h = .ok s1 →
      exec (.homemap d a b) s = .next (complete c { s := c.putS (s1.moveHome h k) 0#64 })) ∧
    (∀ e, s.homemapResult h k = none → s.leaveSlice h = .error e → s.me.run = .active →
      exec (.homemap d a b) s = .next (s.setMe { s.me with homing := some h }))) ∧
  (∀ d a s c, Issues (.idle d a) [rdS .a a, wrS d] s c → (c.s_ .a).toNat < 128 →
    (c.s_ .a = 0#64 → exec (.idle d a) s = .next (complete c { s := c.putS s 0#64 })) ∧
    (s.mevt &&& c.s_ .a ≠ 0#64 → exec (.idle d a) s = .next (complete c
      { s := c.putS { s with mevt := s.mevt &&& ~~~(c.s_ .a) } (s.mevt &&& c.s_ .a) })) ∧
    (c.s_ .a ≠ 0#64 → s.mevt &&& c.s_ .a = 0#64 →
      exec (.idle d a) s = .next ((s.setMe { s.me with run := .parkIdle (.idle d a) }).chargeWait (.idle d a))))) ∧
  ((∀ c kd, let s := c.s
    kd = bits (c.s_ .c) 0 10 → bits (c.s_ .c) 10 2 = 0 →
    (s.keyed kd = false → kdsetBody c = .ok { s := c.putS s (wInt (-1)) }) ∧
    (∀ f n s1, s.keyed kd = true → c.s_ .a = w64 (0x10000 * f) → c.s_ .b = w64 n → 0x10000 * (f + n) ≤ s.memBytes →
      s.memBytes < 2 ^ 48 → bits (c.s_ .c) 12 52 = 0 →
      s.settleLines (fun ln => decide (512 * f ≤ ln) && decide (ln < 512 * f + 512 * n)) (fun _ => n != 0) = .ok s1 →
      let u := (s1.assign kd f n).forget fun ln => decide (512 * f ≤ ln) && decide (ln < 512 * f + 512 * n)
      kdsetBody c = .ok { s := c.putS u 0#64 } ∧
      (∀ g, f ≤ g → g < f + n → Tab.find (s1.assign kd f n).frameKd g = if kd = 0 then none else some (some kd)) ∧
      (∀ g, ¬(f ≤ g ∧ g < f + n) → Tab.find (s1.assign kd f n).frameKd g = Tab.find s1.frameKd g) ∧
      (∀ pa, f ≤ pa / 0x10000 → pa / 0x10000 < f + n → (s1.assign kd f n).byteAt pa = 0#8) ∧
      (∀ pa, ¬(f ≤ pa / 0x10000 ∧ pa / 0x10000 < f + n) → (s1.assign kd f n).byteAt pa = s1.byteAt pa))) ∧
  (∀ c kd, let s := c.s
    kd = bits (c.s_ .c) 0 10 → bits (c.s_ .c) 10 2 = 1 →
    (s.keyed kd = true → kdsetBody c = .ok { s := c.putS s (wInt (-1)) }) ∧
    (s.keyed kd = false → c.s_ .a = 0#64 → c.s_ .b = 0#64 → bits (c.s_ .c) 12 52 = 0 →
      kdsetBody c = .ok { s := c.putS { s with kds := kd :: s.kds } 0#64 })) ∧
  (∀ c kd, let s := c.s
    kd = bits (c.s_ .c) 0 10 → bits (c.s_ .c) 10 2 = 2 →
    ((kd = 0 ∨ s.keyed kd = false) → kdsetBody c = .ok { s := c.putS s (wInt (-1)) }) ∧
    (∀ s1, kd ≠ 0 → s.keyed kd = true → c.s_ .a = 0#64 → c.s_ .b = 0#64 → bits (c.s_ .c) 12 52 = 0 →
      s.settleLines (fun ln => Tab.find s.frameKd (ln / 512) == some (some kd))
        (fun _ => s.frameKd.any fun p => p.2 == some kd) = .ok s1 →
      let u := (s1.retireKd kd).forget fun ln => Tab.find s.frameKd (ln / 512) == some (some kd)
      kdsetBody c = .ok { s := c.putS u 0#64 } ∧ kd ∉ (s1.retireKd kd).kds ∧
      ∀ g, Tab.find (s1.retireKd kd).frameKd g =
        if Tab.find s1.frameKd g = some (some kd) then some none else Tab.find s1.frameKd g)) ∧
  (∀ (s : State) h k, h < 128 → k < 128 → (s.moveHome h k).homeOf h = k ∧
    (∀ g, g < 128 → g ≠ h → (s.moveHome h k).homeOf g = s.homeOf g)))

/-! ### Exchange -/

/-- R355–R365: opening a channel, starting a send and a reduction, waiting for operations and closing. R357: an operation that starts takes the next
sequence number of its channel, which it writes and keeps until it ends. Which free channel XOPEN takes, the lowest, is the model's
choice (log 72). -/
def Obligations.ExchangeResults : Prop :=
  ((∀ d a s c s0 s1 bs, Issues (.xopen d a) [rdS .a a, wrS d] s c → (c.s_ .a).toNat % 64 = 0 →
    s.drainCore (s.coreOf s.me) = .ok s0 → s0.plainRead (c.s_ .a) 64 = .ok (s1, bs) →
    let ch := Chan.ofBytes bs
    (recordMalformed bs ch = true → exec (.xopen d a) s = .next (complete c { s := c.putS s1 (wInt (-2)) })) ∧
    (recordMalformed bs ch = false → ∀ s2 tb n, c.readSpan s1 1026 (wordAt bs 16) (16 * ch.nrank) = .ok (s2, tb) →
      let es := (List.range ch.nrank).map fun k => (tb.drop (16 * k)).take 16
      s2.peersRefused ch es = false → s2.chanFree s2.myVi = some n →
      let s3 := s2.setChan s2.myVi n { ch with peers := es }
      exec (.xopen d a) s = .next (complete c { s := c.putS { s3 with out := s3.out ++ [.xopened s3.myVi n] } (w64 n) }))) ∧
  (∀ d a h e s c ch man f s1 base cs s2 r, Issues (.xsend d a h e) [rdS .a a, rdS .c e, wrS d] s c →
    c.liveChan = .ok ch → c.slotH h = .ok man → c.memFmt man = .ok (f, s1) → c.cpNarrow man f = .ok () →
    let dst := bits (c.s_ .c) 0 16
    let n := sourceBytes man f
    dst ≠ ch.rank → (dst < ch.nrank ∨ dst = 0xFFFF) → n ≤ 0x400_0000 →
    s1.sourceBase (s1.who s.me) man = .ok base → s1.regionCells (s1.who s.me) .load man base f = .ok cs →
    let il := [s1.regionEntry (s1.who s.me) man base f false]
    c.startable' s1 ch n il = .ok s2 →
    c.startOp s2 ch { seq := 0, kind := .send dst (bits (c.s_ .c) 16 48), src := man, fmt := f, elems := man.count, bytes := n, il }
      = .ok r →
    exec (.xsend d a h e) s = .next (complete c r)) ∧
  (∀ mode rm d a hb hc s c ch ms md f s1 g base cs ref ds s2 r, Issues (.xred mode rm d a hb hc) [rdS .a a, wrS d] s c →
    c.liveChan = .ok ch → c.slotH hb = .ok ms → c.slotH hc = .ok md → c.memFmt ms = .ok (f, s1) →
    c.cpNarrow ms f = .ok () → c.destFmt s1 md = .ok g → c.cpNarrow md g = .ok () →
    let n := sourceBytes ms f
    let w := s1.who s.me
    n ≤ 0x400_0000 → s1.sourceBase w ms = .ok base → s1.regionCells w .load ms base f = .ok cs →
    s1.xlat w .store md.base = .ok ref → let t := pageFmt ref g
    s1.regionCells w .store md (some ref) t = .ok ds → xredForbidden mode.toNat f g ch.comp ms = false →
    let e := if mode = 2#2 then md.count else ms.count
    (mode = 0#2 → e % ch.nrank = 0) → (mode ≠ 2#2 → md.count = if mode = 0#2 then e / ch.nrank else e) →
    xredPages g t (cellLines ds) = .ok () →
    let il := [s1.regionEntry w ms base f false, s1.regionEntry w md (some ref) t true]
    c.startable' s1 ch n il = .ok s2 →
    c.startOp s2 ch { seq := 0, kind := .red mode.toNat, src := ms, dst := md, fmt := f, g, rm := (s.me.rmode rm).toRm, elems := e,
                      bytes := n, il } = .ok r →
    exec (.xred mode rm d a hb hc) s = .next (complete c r)) ∧
  (∀ sc d a b s c ch s1, Issues (.xwait sc d a b) [rdS .a a, rdS .b b, wrS d] s c → c.chanOf = .ok ch →
    let last := s.me.xlast.getD ch.last
    let n := if c.s_ .b = 0#64 then last else (c.s_ .b).toNat
    let os := ch.ops.filter fun o => decide (o.seq ≤ n)
    n ≤ last → (∀ o ∈ os, o.pending = false ∧ (o.failed = none ∨ o.reported = true)) → s.order (.mem sc .acq) = .ok s1 →
    let fl := (os.filter fun o => !o.flagsRaised).foldl (fun (a : Word) o => a ||| o.flags) 0#64
    let ops := ch.ops.map fun o => if o.seq ≤ n then { o with flagsRaised := true } else o
    let s2 := (s1.setChan s.myVi (c.s_ .a).toNat { ch with ops }).raise (fl.setWidth 7)
    exec (.xwait sc d a b) s =
      .next (complete c { s := c.putS (s2.setMe { s2.me with xlast := none }) (Chan.statusOf os n) })) ∧
  (∀ a s c ch, Issues (.xclose a) [rdS .a a] s c → c.chanOf = .ok ch → (∀ o ∈ ch.ops, o.pending = false) →
    let v := s.vi s.myVi
    let n := (c.s_ .a).toNat
    let s1 := s.setVi s.myVi { v with chans := Tab.del v.chans n }
    exec (.xclose a) s = .next (complete c { s := { s1 with out := s1.out ++ [.xclosed s.myVi n] } }))) ∧
  (∀ (c : Ctx) s ch o, let n := (c.s_ .a).toNat
    ∃ t, c.startOp s ch o = .ok { s := c.putS t (w64 (ch.last + 1)) } ∧
      (∃ x, t.chan s.myVi n = some x ∧ x.last = ch.last + 1 ∧ x.peers = ch.peers ∧
        ∃ p, x.ops = ch.ops ++ [p] ∧ p.seq = ch.last + 1 ∧ p.sid = s.cur ∧ p.kind = o.kind ∧ p.il = o.il ∧ p.bytes = o.bytes) ∧
      (∀ v m, ¬(v = s.myVi ∧ m = n) → t.chan v m = s.chan v m) ∧ t.mem = s.mem ∧ t.strands = s.strands)

/-- R360–R366: the events of operations and peers. When the LINK bytes of a message are charged (log 31), the region of a receiver
(log 68) and the order in which a failure is noted (log 73) are the model's choices. -/
def Obligations.ExchangeEvents : Prop :=
  (∀ (s : State) vi cn seq ch o, s.chan vi cn = some ch → ch.op seq = some o → o.pending = true → ch.needs o = [] →
    exec (.evExchangeOpComplete vi cn seq) s = .next (s.setChan vi cn (ch.setOp { o with complete := true, il := [] }))) ∧
  (∀ (s : State) vi cn rank ch, s.chan vi cn = some ch →
    exec (.evExchangePeerTimeout vi cn rank) s = .next (s.setChan vi cn (ch.failRank rank 1)) ∧
    (ch.ether = true → exec (.evEthernetTransportGaveUp vi cn rank) s = .next (s.setChan vi cn (ch.failRank rank 6))) ∧
    (∃ t x, exec (.evExchangePeerClose vi cn rank) s = .next t ∧ t.chan vi cn = some x ∧
      x = { ch.failRank rank 5 with open_ := ch.open_.filter (· != rank) }) ∧
    (rank < ch.nrank → rank ∉ ch.open_ →
      exec (.evExchangePeerOpen vi cn rank) s = .next (s.setChan vi cn { ch with open_ := ch.open_ ++ [rank] }))) ∧
  (∀ (s : State) vi cn seq src dst off lines fate ch t, s.chan vi cn = some ch → src = ch.rank →
    s.sendLands vi cn seq dst fate = .ok t → exec (.evXsendLanding vi cn seq src dst off lines fate) s = .next t) ∧
  (∀ (s : State) vi cn seq src dst off lines fate ch t, s.chan vi cn = some ch → src ≠ ch.rank → dst = ch.rank →
    s.landHere vi cn seq src off lines fate = .ok t →
    exec (.evXsendLanding vi cn seq src dst off lines fate) s = .next t) ∧
  (∀ (s : State) vi cn seq dst off lines ch o rk off2 cs, s.chan vi cn = some ch → ch.op seq = some o → o.kind = .send rk off2 →
    o.pending = true → dst ∈ ch.needs o → dst ∈ ch.open_ → dst ∉ o.early → ch.behind seq dst = false →
    (ch.ether = true ∨ ch.device dst ∉ s.unreachable) → s.sourceCells vi o = .ok (.inl cs) →
    (∀ y ∈ cs, s.held false y.ln = false) → s.badLine o.fmt cs = none →
    let ls := s.packSource o cs
    let n := 128 * ls.length
    let r := s.sendParts ch o n [dst]
    let i := Instr.evXsendLanding vi cn seq ch.rank dst off lines .counted
    (r.2.allSent n [dst] = true →
      let o1 := { r.2 with landed := o.landed ++ [dst]
                           status := if cs.any fun y => (s.lineAt y.x).cls == 2 then o.status ||| 4#64 else o.status }
      let s1 := ((r.1.readRegion vi cs).setChan vi cn (ch.setOp o1)).charge vi (9 + ch.level % 4) n
      exec i s = .next { s1 with out := s1.out ++ [.xlanding vi cn o.seq dst ls true] }) ∧
    (r.2.allSent n [dst] = false → exec i s = .next ((r.1.setChan vi cn (ch.setOp r.2)).defer i))) ∧
  (∀ (s : State) vi cn seq src off lines sub v3 ch, s.chan vi cn = some ch → src ≠ ch.rank → src < ch.nrank →
    exec (.evXsendLanding vi cn seq src ch.rank off lines (.failed sub v3)) s =
      .next (s.setChan vi cn { ch with failed := true, heard := ch.heard <|> some (seq, w64 src) })) ∧
  (∀ (s : State) vi cn seq src off lines ch xs ax, s.chan vi cn = some ch → src ≠ ch.rank → src < ch.nrank →
    Tab.get 0 ch.recv src < seq → lines ≠ [] → 128 * off + 128 * lines.length ≤ ch.rxlen.toNat →
    (∀ l ∈ lines, tagAllowed (l.2 &&& 0x00FF#16) = true) →
    s.landAll vi ((List.range lines.length).map fun i => ch.rxbase + w64 (128 * off) + w64 (128 * i)) = .ok (.inl xs) →
    s.landPlace vi .atomic (ch.arrive + w64 (8 * src)) = .ok (.inl ax) →
    let s1 := ((lines.zip xs).foldl (fun s p => s.landLine vi p) s).landCount vi ax
    let s2 := s1.setChan vi cn { ch with recv := Tab.put ch.recv src seq }
    exec (.evXsendLanding vi cn seq src ch.rank off lines .counted) s =
      .next { s2 with out := s2.out ++ [.xanswer vi cn src seq none] }) ∧
  (∀ (s : State) vi cn seq peers ch o mode t, s.chan vi cn = some ch → ch.op seq = some o → o.kind = .red mode →
    ch.redReady o peers = true → s.reduceOp vi cn ch o mode peers = .ok t →
    exec (.evXredReduce vi cn seq peers) s = .next t) ∧
  (∀ (s : State) vi cn seq peers ch o mode src dst t, s.chan vi cn = some ch → ch.op seq = some o → o.kind = .red mode →
    ch.redReady o peers = true → s.redRegions vi o = .ok (.inl (src, dst, t)) →
    (∀ y ∈ src, s.held false y.ln = false) → (∀ y ∈ dst, s.held true y.ln = false) →
    partFailure ch o mode peers (if mode = 2 then none else s.badLine o.fmt src) = none →
    let mine := s.xsource o mode src
    let parts := allParts ch mine peers
    let r := if mode = 2 then reducePairs o parts.flatten (s.destNow dst) else reduceDense ch o mode parts
    let ls := destLines dst r.els
    s.destConflict o.g t ls = none →
    let z := s.sendParts ch o o.wire ch.peersOf
    (z.2.allSent o.wire ch.peersOf = true →
      let w := (z.1.readRegion vi src).writeDest vi o.g t o.rm.toMode ls
      let o1 := { z.2 with reduced := true, status := o.status ||| r.status, flags := o.flags ||| (r.fl ||| w.2).setWidth 64 }
      let s2 := (w.1.setChan vi cn (ch.setOp o1)).charge vi (9 + ch.level % 4) o.wire
      exec (.evXredReduce vi cn seq peers) s = .next { s2 with out := s2.out ++ [.xpart vi cn o.seq mine none] }) ∧
    (z.2.allSent o.wire ch.peersOf = false →
      exec (.evXredReduce vi cn seq peers) s = .next ((z.1.setChan vi cn (ch.setOp z.2)).defer (.evXredReduce vi cn seq peers)))) ∧
  (∀ (ch : Chan) rank sub, let x := ch.failRank rank sub
    x.ops.length = ch.ops.length ∧ ((∀ o ∈ ch.ops, o.pending = true → rank ∉ ch.needs o) → x = ch))

/-! ### Events -/

/-- R92, R96, R102, R103, R109, R282, R386, R392, R399: events of strands and their accesses, where they can happen. R219, R237,
R242, R244, Table 12.3: events of memory. The model's choices here: an atomic from outside that is deferred (log 39), the contents of
a team image (log 24), when a parked WAITW re-evaluates (log 42), what a copy row does at pre-emption (log 65), and the page of an
aperture line (log 75). -/
def Obligations.StrandAndMemoryEvents : Prop :=
  (∀ (i : Instr) s, i.isEvent = true → (∀ sid, i ≠ .evWaitwReevaluate sid ∧ i ≠ .evIdleWake sid) → ∃ t, exec i s = .next t) ∧
  ((∀ (s : State) id tm core, s.head = some (id, tm) → (s.car tm.caravan).wb.gang = false → (s.team id).saved = none →
    s.quotaAllows tm [] [] = true → core ∈ s.placesFor (s.car tm.caravan) → s.jointTaken tm core [] [] = false →
    (s.fit (s.useOf core [] []) tm).isSome = true →
    ∃ p, s.placeOne [] [] id tm = some p ∧ p.team = id ∧ p.core ∈ s.placesFor (s.car tm.caravan) ∧
      exec .evTeamAdmission s = .next ((s.settle p).realloc p.core)) ∧
  (∀ (s : State) p, let u := s.team p.team
    let t := (s.settle p).team p.team
    t.core = some p.core ∧ t.spPhys = p.phys ∧ t.places = u.places + 1 ∧ t.admitted = s.admitSeq ∧
    (u.places = 0 → t.spBase = p.phys ∧ t.strands = (List.range (s.car u.caravan).wb.strands).map (s.nextSid + ·) ∧
      ∀ i, i < (s.car u.caravan).wb.strands → ∃ k, (s.settle p).strand (s.nextSid + i) = { s.freshStrand p.team u i with slot := k })) ∧
  (∀ (s : State) h, s.head = some h → s.placeAll (s.batch h) = none →
    let vs := s.victims.filter fun v => !s.agenda.contains (.event (.evPreemption v))
    vs ≠ [] → exec .evTeamAdmission s = .next { s with agenda := s.agenda ++ vs.map fun v => .event (.evPreemption v) }) ∧
  (∀ (s : State) n tm, Tab.find s.teams n = some tm → tm.core ≠ none → tm.reclaimed = false → tm.strands ≠ [] →
    (∀ k ∈ tm.strands, (s.strand k).run = .exited) → (∀ p ∈ tm.streams, p.2.state ≠ .active) →
    let s1 := (tm.streams.filter fun p => p.2.state == .faulted).foldl (fun s p => s.cancelStream n p.1) s
    ((∀ k ∈ tm.strands, s1.heldEntries k = []) →
      exec (.evTeamReclaim n) s = .next (s1.setTeam n { s1.team n with core := none, reclaimed := true })) ∧
    ((∃ k ∈ tm.strands, s1.heldEntries k ≠ []) → exec (.evTeamReclaim n) s = .next s1)) ∧
  (∀ (s : State) n x, Tab.find s.caravans n = some x → (∀ t ∈ x.teams, (s.team t).reclaimed = true) →
    let tell := fun (u : State) =>
      if bitAt x.wb.wake 6 then u.postEvent x.vi { ty := 1, a := x.handle, vec := bits x.wb.wake 0 6 } else u
    (x.wb.doneaddr = 0#64 → exec (.evCaravanCompletion n) s = .next ((tell s).retire n)) ∧
    (∀ s1, x.wb.doneaddr ≠ 0#64 → s.bumpDone x = .ok s1 → exec (.evCaravanCompletion n) s = .next ((tell s1).retire n))) ∧
  (∀ (s : State) n c s1, s.chosen n = true → s.partners n = [n] → (s.team n).core = some c →
    (∀ k ∈ (s.team n).strands, s.mustWait (s.strand k) = false) →
    ((s.team n).strands.foldl State.stopLoad ((s.team n).strands.foldl State.leaveTile s)).drainCore c = .ok s1 →
    let s2 := s1.finishRows n
    s2.rowsInFlight n = false →
    (∀ s3, s2.saveTeam n = .ok s3 → exec (.evPreemption n) s = .next (s3.takeOff n)) ∧
    (bits (s2.vi (s2.car (s2.team n).caravan).vi).savebase 0 16 = 0 → (s2.team n).saved = none →
      exec (.evPreemption n) s = .next (s2.tellPreempt n 0 0#64 0#64))) ∧
  (∀ (s : State) sid st p c, Tab.find s.strands sid = some st → (s.team st.team).core = some c → s.firstPend st = some p →
    (st.run = .active → exec (.evAsyncTrapDelivery sid) s = .next (s.takePend sid p)) ∧
    (∀ i, st.run = .joint i → exec (.evAsyncTrapDelivery sid) s = .next ((s.leaveJoint sid).takePend sid p)) ∧
    (∀ id, st.run = .tile id → (Tab.get {} s.tiles id).begun = false →
      exec (.evAsyncTrapDelivery sid) s = .next ((s.abandon id fun _ => none).takePend sid p))) ∧
  (∀ (s : State) sid st, Tab.find s.strands sid = some st → s.watchdogDue st = true →
    exec (.evWatchdogExpiry sid) s = .next (s.expireWatchdog sid)) ∧
  (∀ (s : State) sid cond sc d a b e imm ln c l s1 v, (s.strand sid).run = .parkWaitw (.waitw cond sc d a b e imm) ln →
    let u := ({ s with cur := sid } : State).setStrand sid { s.strand sid with run := .active }
    let va := c.s_ .a + c.s_ .b + imm.signExtend 64
    Issues (.waitw cond sc d a b e imm) [rdS .a a, rdS .b b, rdS .c e, wrS d] u c → va.toNat % 8 = 0 →
    u.locate false .load va 8 = .ok l → u.loadAt (.mem sc .acq) va 8 l = .ok (s1, v) →
    (waitHolds cond (w64 v) (c.s_ .c) = true →
      exec (.evWaitwReevaluate sid) s = .next { complete c { s := c.putS s1 (w64 v) } with cur := s.cur }) ∧
    (waitHolds cond (w64 v) (c.s_ .c) = false →
      exec (.evWaitwReevaluate sid) s =
        .next { (s1.setMe { s1.me with run := .parkWaitw (.waitw cond sc d a b e imm) l.line }).chargeWait
          (.waitw cond sc d a b e imm) with cur := s.cur })) ∧
  (∀ (s : State) sid d a c, (s.strand sid).run = .parkIdle (.idle d a) →
    let u := ({ s with cur := sid } : State).setStrand sid { s.strand sid with run := .active }
    Issues (.idle d a) [rdS .a a, wrS d] u c → (c.s_ .a).toNat < 128 →
    (s.mevt &&& c.s_ .a ≠ 0#64 → exec (.evIdleWake sid) s = .next
      { complete c { s := c.putS { u with mevt := s.mevt &&& ~~~(c.s_ .a) } (s.mevt &&& c.s_ .a) } with cur := s.cur }) ∧
    (c.s_ .a ≠ 0#64 → s.mevt &&& c.s_ .a = 0#64 → exec (.evIdleWake sid) s = .next
      { (u.setMe { u.me with run := .parkIdle (.idle d a) }).chargeWait (.idle d a) with cur := s.cur })) ∧
  (∀ (s : State) sid cond sc d a b e imm ln t, (s.strand sid).run = .parkWaitw (.waitw cond sc d a b e imm) ln →
    exec (.waitw cond sc d a b e imm) (({ s with cur := sid }).setStrand sid { s.strand sid with run := .active }) = .next t →
    exec (.evWaitwReevaluate sid) s = .next { t with cur := s.cur }) ∧
  (∀ (s : State) sid d a t, (s.strand sid).run = .parkIdle (.idle d a) →
    exec (.idle d a) (({ s with cur := sid }).setStrand sid { s.strand sid with run := .active }) = .next t →
    exec (.evIdleWake sid) s = .next { t with cur := s.cur }) ∧
  (∀ (s : State) core track b, (s.storeQ.find? fun b => b.core == core && b.track == track) = some b →
    s.waitsAt b = false →
    exec (.evAccessPerform core track) s = .next ({ s with storeQ := s.storeQ.erase b }.performBuffered b)) ∧
  (∀ (s : State) core track, (∀ b ∈ s.storeQ, b.core = core → b.track ≠ track) →
    exec (.evAccessPerform core track) s = .next ((s.performLate core track).getD s))) ∧
  ((∀ (s : State) pa w8 op v x, let n := if w8 then 8 else 4
    pa % n = 0 → s.region pa = .dev → s.frameLive pa = true → pa / 0x10000 ∉ s.unbacked →
    s.homeOffline (s.ephLine (pa / 128)) pa = false →
    let i := Instr.evAtomicApply pa w8 op v x
    (s.held true (pa / 128) = true → exec i s = .next { s with deferred := s.deferred ++ [i] }) ∧
    (s.held true (pa / 128) = false → (s.homeLine (pa / 128)).cls = 2 →
      exec i s = .next { s with out := s.out ++ [.atomic 0#64 true] }) ∧
    (s.held true (pa / 128) = false → (s.homeLine (pa / 128)).cls ≠ 2 →
      let l := s.homeLine (pa / 128)
      let old := nbits l.data (8 * (pa % 128)) (8 * n)
      let new := match x with
        | .cmp k => if old = k.toNat % 2 ^ (8 * n) then some (v.toNat % 2 ^ (8 * n)) else none
        | .exp e => some (atomicNew op n e.toInt old (v.toNat % 2 ^ (8 * n))).1
      let s1 := match new with
        | some y => s.writeLine false (s.ephLine (pa / 128)) false (pa / 128) (stLine l (pa % 128) n y)
        | none => s
      exec i s = .next { s1 with out := s1.out ++ [.atomic (w64 old) false] })) ∧
  (∀ (s : State) pasid page ok, let k := atsName pasid page
    k ∈ s.priPending → exec (.evPriResponse ⟨pasid, page⟩ ok) s = .next
      { s with ats := Tab.put s.ats k ok, priPending := s.priPending.filter (· != k) }) ∧
  (∀ (s : State) pasid page, exec (.evHostInvalidation ⟨pasid, page⟩) s = .next
    { s with ats := Tab.del s.ats (atsName pasid page), out := s.out ++ [.ack] }) ∧
  (∀ (s : State) f, s.movable f = true → f ∉ s.moving →
    exec (.evFrameMigration f) s = .next { s with moving := f :: s.moving }) ∧
  (∀ (s : State) f, f ∈ s.moving → s.movable f = true → (∀ t ∈ s.tiles, s.tileInFrame t.2 f = false) →
    ∃ t, exec (.evFrameSwitch f) s = .next t ∧ t = { s with moving := t.moving, hbm := t.hbm } ∧
      (f ∈ t.hbm ↔ f ∉ s.hbm) ∧ f ∉ t.moving) ∧
  (∀ (s : State) ln, s.isExpired ln = true → ln ∉ s.expired →
    exec (.evEphemeralExpiry ln) s = .next { s with expired := ln :: s.expired }) ∧
  (∀ (s : State) team ln, exec (.evSoftError team ln true) s = .next s) ∧
  (∀ (s : State) ln, s.stagedBy ln = none → s.region (128 * ln) = .dev →
    exec (.evSoftError none ln false) s =
      .next (({ s with tags := Tab.set tagReset s.tags ln (s.homeLine ln).poison.tag } : State).strikeWindows ln)) ∧
  (∀ (s : State) n tm ln, Tab.find s.teams n = some tm → tm.outside (128 * ln) 128 = none →
    exec (.evSoftError (some n) ln false) s = .next (s.setTeam n (tm.setSpLine ln (tm.spLine ln).poison))) ∧
  (∀ (s : State) vi, let r := (s.vi vi).rc
    r.state = .running → r.busy = false →
    (s.tensorPage vi r.va r.fmt = .error .same →
      exec (.evRecodePageStart vi) s = .next (s.setVi vi { s.vi vi with rc := r.advance 0#7 })) ∧
    (∀ n, s.tensorPage vi r.va r.fmt = .error (.err n) →
      exec (.evRecodePageStart vi) s = .next (s.setVi vi { s.vi vi with rc := { r with state := .failed, err := n } })) ∧
    (∀ p, s.tensorPage vi r.va r.fmt = .ok p → s.held true (p.at' / 128) = false →
      (∀ u ∈ p.walk, s.held true (u.1 / 128) = false) →
      (vi = 0 ∨ (s.vi vi).backed.length + (s.toBack p r.fmt).length ≤ bits (s.vi vi).q1 0 24) →
      let s1 := (((p.walk.foldl State.orByte s).writeEntry p.at' (p.leaf ||| 0x400_0000#64)).dropPage vi r.va).forget
        fun ln => p.hasFrame (ln / 512)
      exec (.evRecodePageStart vi) s = .next (s1.setVi vi { s1.vi vi with rc := { r with busy := true } }))) ∧
  (∀ (s : State) vi p, let r := (s.vi vi).rc
    r.state = .running → r.busy = true → s.tensorPage vi r.va r.fmt = .ok p →
    let s0 := s.leaveJoints fun w => w.lines.any fun l => p.hasFrame (l.ln / 512)
    s0.pageInUse p = false → (∀ u ∈ p.marks r.fmt, s0.held true (u.1 / 128) = false) →
    ∃ t fl, exec (.evRecodePageReencode vi) s = .next t ∧ (t.vi vi).rc = r.advance fl))

/-- R246, R298, R301, R348–R353, R408: requests from outside and the events of links. The model's choices here: Unsupported Request
as the answer to what is refused (log 32), the address of a CXL.mem request (log 76) and its tag (log 113), the order of held
requests (log 112), and which registers the host port does not reach (log 123). -/
def Obligations.PortEvents : Prop :=
  (∀ (s : State) vi off k pa leaf, s.answers vi = true → off < 2 ^ 40 → s.stage2 vi (need2 k) off = .ok (pa, leaf) →
    s.checkPa vi k (w64 off) pa = .ok () → (k = .load ∨ pa / 0x10000 ∉ s.unbacked) →
    let e := (leaf.map fun l => l.1).getD 0#64
    let upd := match leaf with | some l => toSet l.1 l.2.1 (usedBits k) | none => []
    let x : Xlat := { pa, va := off, nc := bitAt e 27, eph := bitAt e 11, upd }
    s.leavesFree upd = .ok () → s.checkHome (w64 off) x = .ok () → s.recoding pa = false → s.held (k != .load) (pa / 128) = false →
    s.hostReach vi off k = .ok x) ∧
  (∀ (s : State) vi off data ido, s.deferred.any fromHost = true →
    let held := fun (i : Instr) => exec i s = .next { s with deferred := s.deferred ++ [i] }
    held (.evHostWrite vi off data false ido) ∧ (∀ tag, held (.evTagWindowWrite vi off tag)) ∧
    (∀ n, s.deferred.any strictWrite = true → held (.evHostRead vi (.aperture off) n))) ∧
  (∀ (s : State) vi off, (s.answers vi = false ∨ 2 ^ 40 ≤ off) → s.deferred.any fromHost = false →
    let turned := fun (i : Instr) => exec i s = .next { s with out := s.out ++ [.unsupported] }
    (∀ data relaxed ido, data ≠ [] → turned (.evHostWrite vi off data relaxed ido)) ∧
    (∀ n, 0 < n → s.deferred.any strictWrite = false → turned (.evHostRead vi (.aperture off) n)) ∧
    (∀ w8 op v, turned (.evHostAtomicop vi off w8 op v))) ∧
  (∀ (s : State) vi off data relaxed ido x, (relaxed = true ∨ s.deferred.any fromHost = false) → data ≠ [] →
    off % 128 + data.length ≤ 128 → s.hostReach vi off .store = .ok x →
    exec (.evHostWrite vi off data relaxed ido) s = .next (s.hostPut vi (s.pageFmtAt vi x.va) x data)) ∧
  (∀ (s : State) vi off tag x, s.deferred.any fromHost = false → s.hostReach vi (off / 2 * 128) .store = .ok x →
    ((off % 2 = 1 ∨ tagAllowed tag = false) → exec (.evTagWindowWrite vi off tag) s = .next s) ∧
    (off % 2 = 0 → tagAllowed tag = true → exec (.evTagWindowWrite vi off tag) s =
      .next (((s.used x).chargeLine vi x.pa).writeLine x.nc x.eph false (x.pa / 128)
        { data := (s.used x).rawData x.nc (x.pa / 128), tag }))) ∧
  (∀ (s : State) vi off n x, s.deferred.any strictWrite = false → 0 < n → off % 128 + n ≤ 128 → s.hostReach vi off .load = .ok x →
    let s1 := (s.used x).chargeLine vi x.pa
    let l := s1.homeView x.nc x.cfmt (x.pa / 128)
    exec (.evHostRead vi (.aperture off) n) s = .next { s1 with out := s1.out ++
      [.data (natLe n (nbits l.data (8 * (x.pa % 128)) (8 * n))) (l.cls == 2)] }) ∧
  (∀ (s : State) vi off x, s.deferred.any strictWrite = false → off % 2 = 0 → s.hostReach vi (off / 2 * 128) .load = .ok x →
    let s1 := (s.used x).chargeLine vi x.pa
    exec (.evHostRead vi (.tags off) 2) s = .next { s1 with out := s1.out ++
      [.data (natLe 2 (s1.homeView x.nc x.cfmt (x.pa / 128)).tag.toNat) false] }) ∧
  (∀ (s : State) vi off, s.deferred.any strictWrite = false → s.answers vi = true → vi < 256 → off + 8 ≤ 2 ^ 24 → off % 8 = 0 →
    exec (.evHostRead vi (.bar0 off) 8) s = .next { s with out := s.out ++
      [if (barReg vi off).monitorOnly then .unsupported else .data (natLe 8 (s.regRead (barReg vi off)).toNat) false] }) ∧
  (∀ (s : State) vi off w8 op v x, let n := if w8 then 8 else 4
    s.deferred.any fromHost = false → off % n = 0 → s.hostReach vi off .atomic = .ok x → s.region x.pa = .dev →
    exec (.evHostAtomicop vi off w8 op v) s =
      .next (State.replyAtomic (((s.used x).chargeLine vi x.pa).applyAtomic x.eph x.pa n (hostNew op n v)))) ∧
  (∀ (s : State) pa data n tag x, pa % 128 + data.length ≤ 128 → data ≠ [] → s.hostReach 0 pa .store = .ok x →
    let s1 := s.hostPut 0 (s.pageFmtAt 0 x.va) x data
    exec (.evCxlMemRequest pa true data n tag) s = .next { s1 with out := s1.out ++ [.cxl tag none] }) ∧
  (∀ (s : State) pa data n tag x, 0 < n → pa % 128 + n ≤ 128 → s.hostReach 0 pa .load = .ok x →
    let s1 := (s.used x).chargeLine 0 x.pa
    let l := s1.homeView x.nc x.cfmt (x.pa / 128)
    exec (.evCxlMemRequest pa false data n tag) s = .next { s1 with out := s1.out ++
      [.cxl tag (some (natLe n (nbits l.data (8 * (x.pa % 128)) (8 * n)), l.cls == 2))] }) ∧
  (∀ (s : State) src req, (s.boot.stage < 8 ∨ s.linksUp = 0#16 ∨ s.waitsBehind src req = true) →
    exec (.evWeatreInboundRequest src req) s = .next { s with deferred := s.deferred ++ [.evWeatreInboundRequest src req] }) ∧
  (∀ (s : State) src pa, 8 ≤ s.boot.stage → s.linksUp ≠ 0#16 → s.region (128 * (pa / 128)) = .dev →
    s.homeOffline (s.ephLine (pa / 128)) (128 * (pa / 128)) = false → s.frameLive (128 * (pa / 128)) = true →
    s.recoding (128 * (pa / 128)) = false → pa / 0x10000 ∉ s.unbacked →
    let free := fun (req : WeatreReq) => s.waitsBehind src req = false
    let ln := pa / 128
    let l := s.homeLine ln
    (∀ n, free (.load pa n) → s.held false ln = false → exec (.evWeatreInboundRequest src (.load pa n)) s =
      .next { s with out := s.out ++ [.weatre src (natLe n (nbits l.data (8 * (pa % 128)) (8 * n))) l.tag] }) ∧
    (∀ bs tag, free (.store pa bs tag) → s.held true ln = false → (tag.all tagAllowed) = true →
      exec (.evWeatreInboundRequest src (.store pa bs tag)) s = .next (s.writeLine false (s.ephLine ln)
        (decide (bs.length = 128)) ln (storedFrom l (pa % 128) bs tag))) ∧
    (∀ w8 op v x, let n := if w8 then 8 else 4
      free (.atomic pa w8 op v x) → s.held true ln = false → pa % n = 0 →
      exec (.evWeatreInboundRequest src (.atomic pa w8 op v x)) s =
        .next (State.replyAtomic (s.applyAtomic (s.ephLine ln) pa n (homeNew op n v x))))) ∧
  (∀ (s : State) src, 8 ≤ s.boot.stage → s.linksUp ≠ 0#16 →
    let perform := fun (r : WeatreReq) (t : State) => exec (.evWeatreInboundRequest src r) s = .next t
    (∀ excl lines, (∀ ln ∈ lines, s.lineShut excl ln = false ∧ s.recoding (128 * ln) = false) →
      perform (.reserve excl lines) (s.extReserve src excl lines)) ∧
    (∀ excl lines, (∃ ln ∈ lines, s.lineShut excl ln = true) →
      perform (.reserve excl lines) { s with out := s.out ++ [.unsupported] }) ∧
    (∀ tile ws, perform (.stage tile ws) (s.extStage tile ws)) ∧ (∀ tile, perform (.flip tile) (s.extFlip tile)) ∧
    (∀ tile, perform (.release tile) (s.extRelease tile)) ∧ (∀ pa, perform (.wake pa) (s.notify (pa / 128)))) ∧
  (∀ (s : State) k, k < 16 → exec (.evFlitRetry k) s = .next { s with out := s.out ++ [.resend k] }) ∧
  (∀ (s : State) k, k < 4 →
    ((Tab.get {} s.ports k).lost = [] → exec (.evLinkLayerRetry k) s = .next { s with out := s.out ++ [.portResend k] }) ∧
    ((Tab.get {} s.ports k).lost ≠ [] → exec (.evLinkLayerRetry k) s = .next
      { s with ports := Tab.modify s.ports k fun x => { x with lost := [] }, out := s.out ++ [.endToEnd k] })) ∧
  (∀ (s : State) k, k < 16 → s.linksUp.getLsbD k = true → ∃ t, exec (.evLinkFailure k) s = .next t ∧
    (∀ j, t.linksUp.getLsbD j = (s.linksUp.getLsbD j && decide (j ≠ k)))) ∧
  (∀ (s : State) dev, s.linked dev = false → dev ∉ s.unreachable → exec (.evDeviceUnreachable dev) s =
    .next ((((({ s with unreachable := dev :: s.unreachable } : State).loseStores dev).loseTiles dev).loseRanks dev))) ∧
  (∀ (s : State) dev, s.linked dev = false → dev ∈ s.unreachable →
    exec (.evDeviceUnreachable dev) s = .next (s.loseRanks dev)) ∧
  (∀ (s : State) port n, exec (.evLongHaulAck port n) s = .next
    { s with ports := Tab.modify s.ports port fun x =>
      { x with unacked := x.unacked - n, lost := if x.unacked ≤ n then [] else x.lost } }) ∧
  (∀ (s : State) link up, (8 ≤ s.boot.stage ∨ link = 16) → exec (.evLinkStateChange link up) s = .next (s.linkState link up)) ∧
  (∀ (s : State) fn, exec (.evConfigurationRequest fn) s = .next { s with out := s.out ++
    [if s.boot.stage < 8 then (if fn = 0 then .retryStatus else .unsupported)
     else if fn = 0 ∨ (s.vi fn).en = true then .ack else .unsupported] })

/-- R353, R370–R380, R414–R416, R447: events of the management registers, dies, power and temperature. The model's choices here: an
island from 256 up is throttled by a point below 7 (log 100), OP0 holds after a thermal trip (log 80), and what ends DRAIN
(log 81). -/
def Obligations.ManagementEvents : Prop :=
  (∀ (s : State) port v, port < 4 → exec (.evLhcfgWrite port v) s = .next (s.writeLhcfg port v)) ∧
  (∀ (s : State) vi off v, vi < 256 →
    exec (.evQuotaRecordWrite vi off v) s = .next (if 8 ≤ s.boot.stage then s.writeQuota vi off v else s)) ∧
  (∀ (s : State) vi, vi < 256 → exec (.evViReset vi) s = .next (s.viReset vi) ∧
    exec (.evCounterSnapshot vi) s = .next (s.snapshot vi) ∧ exec (.evCounterClear vi) s = .next (s.clearCounters vi)) ∧
  (∀ (s : State) vi v, vi < 256 → s.deferred.any fromHost = false →
    exec (.evEvqheadWrite vi v) s = .next (s.writeEvqhead vi v) ∧ exec (.evEvqstatWrite vi v) s = .next (s.writeEvqstat vi v)) ∧
  (∀ (s : State) vi s1, (s.vi vi).flrBusy = true → (∀ t ∈ s.tiles, ∀ p ∈ t.2.parts, p.vi ≠ vi) →
    drainWhere (fun b => b.vi == vi || s.ofReset vi (b.pa / 128)) s.storeQ s = .ok s1 →
    let s2 := (s1.viRevoke vi).forget (s1.ofReset vi)
    exec (.evViResetComplete vi) s =
      .next ((s2.setVi vi { s2.vi vi with flrBusy := false, flrDone := true }).setMevt 1)) ∧
  (∀ (s : State), s.deferred.any fromHost = false →
    ∃ t, exec .evMailboxDoorbell s = .next t ∧ t = { s with mevt := s.mevt ||| 1#64, agenda := t.agenda }) ∧
  (∀ (s : State) vi off v, s.deferred.any fromHost = false → (vi = 0 ∨ s.answers vi = true) → vi < 256 → off < 2 ^ 24 → off % 8 = 0 →
    exec (.evMmioRegisterWrite ⟨vi, off⟩ v) s = .next (if (barReg vi off).monitorOnly then
      { s with out := s.out ++ [.unsupported] } else s.regWrite (barReg vi off) v)) ∧
  (∀ (s : State) d v, d < 4 → exec (.evDctlAdmit d v) s = .next (s.dctlAdmit d (v.getLsbD 0)) ∧
    exec (.evDctlDrain d) s = .next (s.dctlCommand d .drain) ∧ exec (.evDctlWb d) s = .next (s.dctlCommand d .wb) ∧
    exec (.evDctlMig d) s = .next (s.dctlCommand d .mig) ∧ exec (.evDctlQuiesce d) s = .next (s.dctlCommand d .quiesce) ∧
    exec (.evDctlRst d) s = .next (s.dctlCommand d .rst) ∧ exec (.evDctlRetrain d) s = .next (s.dctlCommand d .retrain)) ∧
  (∀ (s : State) d ok repair,
    let ends := fun (c : DieCmd) (t : State) =>
      (s.die d).cmd = some c → exec (.evDctlCommandDone d ok repair) s = .next t
    (s.drained d = true → ends .drain (s.commandEnds d 0 fun x => { x with state := .drained })) ∧
    ends .wb ((s.writeBackDie d).commandEnds d 0 id) ∧
    (ok = true → ends .mig (s.commandEnds d 0 fun x => { x with migrated := true })) ∧
    (ok = false → ends .mig (s.commandEnds d 1 id)) ∧
    (s.quiet d = true → ends .quiesce (s.commandEnds d 0 fun x => { x with state := .quiesced })) ∧
    ends .rst ((s.zeroDie d).commandEnds d 0 fun x => { x with rstDone := true }) ∧
    (ok = true → ends .retrain (s.commandEnds d 0 fun x => { x with state := .ready, repair })) ∧
    (ok = false → ends .retrain (s.commandEnds d 3 fun x => { x with state := .failed, repair }))) ∧
  (∀ (s : State) d err f, d < 4 → let t := s.commandEnds d err f
    t.die d = { f (s.die d) with busy := false, cmd := none, err := err != 0, errc := err } ∧ t.mevt = s.mevt ||| 4#64 ∧
    ∀ k, k ≠ d → t.die k = s.die k) ∧
  (∀ (s : State) i p, i < 256 → p ≤ 7 → p ≤ Tab.get s.opInit s.opmax i → (s.thermal = true → p = 0) →
    let t := { s with points := Tab.set 7 s.points i p }
    exec (.evOperatingPointChange i p) s = .next (if p < s.point i then t.throttle i else t)) ∧
  (∀ (s : State) i p, 256 ≤ i → i < 512 → p < 7 → exec (.evOperatingPointChange i p) s = .next (s.throttle i)) ∧
  (∀ (s : State) e, exec (.evPcapEstimate e) s = .next ((s.capVis e.vis).limitPower e.device e.loads)) ∧
  (∀ (s : State) watts vi, let q := bits (s.vi vi).q4 0 16
    ((s.capVis watts).vi vi).withheld = (if vi ≠ 0 ∧ q ≠ 0 ∧ q < Tab.get 0 watts vi
      then (Tab.get 0 watts vi - q, Tab.get 0 watts vi) else (0, 1))) ∧
  (∀ (s : State) i, (s.lowerPoint i).point i < s.point i ∨ s.point i = 0 ∧ s.lowerPoint i = s) ∧
  (∀ (s : State), ∃ t, exec .evThermalTrip s = .next t ∧ t.thermal = true ∧ (∀ i, i < 256 → Tab.get 7 t.points i = 0) ∧
    t.mevt = s.mevt ||| 0x40#64) ∧
  (∀ (s : State), s.thermal = true → exec .evThermalReset s = .next s.deviceReset) ∧
  (∀ (s : State), exec .evDeviceReset s = .next s.deviceReset)

/-- R408–R412, R417–R419: the stages of the boot. The model's choices here: what a device reset keeps (log 79), DIEOK (log 114), AD0
and FAIL 3 (log 78), where the page tables lie (log 35), and the place of the image and the checks of its object (log 115). -/
def Obligations.BootEvents : Prop :=
  (∀ (s : State), (s.boot.standsAt 0 = true ∨ s.boot.standsAt 1 = true) → ∃ t, exec (.evBootPuf true) s = .next t ∧ t.boot.stage = 2 ∧ t.boot.uds = true ∧
    (Tab.get {} t.ports 0).up = true) ∧
  (∀ (s : State), s.boot.standsAt 2 = true →
    exec (.evBootDhcp true) s = .next { s with boot := { s.boot with stage := 3 } }) ∧
  (∀ (s : State) (f : BootFile), s.boot.standsAt 3 = true →
    exec (.evBootFetch true f) s = .next { s with boot :=
      if f.len ≤ 2 ^ 30 then { s.boot with stage := 4, image := f.held } else s.boot.retrying 2 }) ∧
  (∀ (f : BootFile) a, (f.bytes.map Prod.fst).Nodup →
    Tab.get 0#8 f.held.bytes a = if a < f.len then Tab.get 0#8 f.bytes a else 0#8) ∧
  (∀ (s : State) x, s.boot.standsAt 4 = true → let f := s.boot.image
    exec (.evBootVerify x) s = .next { s with boot :=
      if f.headerOk = true ∧ x.rootHashes = true ∧ x.mldsa = true ∧ x.ecdsa = true ∧ x.minSvn ≤ f.svn
      then { s.boot with stage := 5, imgSvn := f.svn, config := f.slice f.cfgOff 64 } else s.boot.retrying 2 }) ∧
  (∀ (s : State), s.boot.waiting = true → s.boot.halted = false →
    exec .evBootRetry s = .next { s with boot := { s.boot with stage := 2, waiting := false } }) ∧
  (∀ (s : State) pass spare, s.boot.standsAt 5 = true → ∃ t, exec (.evBootBist pass spare) s = .next t ∧ t.boot.dieok = pass ∧
    let good := pass &&& spare
    let used := fun d => (cfgDieen s.boot.config).testBit d
    (t.boot.stage = 6 ∨ t.boot.halted = true ∧ t.boot.fail = 3) ∧
    (∀ d, d < 4 → (t.die d).inServ = (good.getLsbD d && used d)) ∧
    (∀ d, d < 4 → good.getLsbD d = false → (t.die d).state = .failed ∧ (t.die d).errc = 3 ∧ (t.die d).admits = false) ∧
    (∀ d, d < 4 → good.getLsbD d = true → used d = false → (t.die d).state = .ready ∧ (t.die d).admits = false)) ∧
  (∀ (s : State), s.boot.standsAt 6 = true →
    exec .evBootDice s = .next { s with boot := { s.boot with stage := 7, cdi := some s.boot.image, uds := false } }) ∧
  (∀ (s : State) keys, s.boot.standsAt 7 = true → let img := s.boot.image.object
    (configOk s.boot.config img && s.boot.image.objectOk && s.imageFits img) = false →
    exec (.evMonitorStart keys) s = .next { s with boot := s.boot.retrying 3 }) ∧
  (∀ (s : State) keys, s.boot.standsAt 7 = true → let img := s.boot.image.object
    configOk s.boot.config img = true → s.boot.image.objectOk = true → s.imageFits img = true →
    ∃ t, exec (.evMonitorStart keys) s = .next t ∧ t.boot.stage = 8 ∧ t.boot.svn = s.boot.imgSvn ∧
      t.devid = cfgDevid s.boot.config ∧ t.dplim = cfgDplim s.boot.config ∧ t.opInit = cfgOpmax s.boot.config ∧ t.cur = 0 ∧
      (t.strand 0).pc = 0x1_0000_0000#64 + w64 img.entry ∧ (t.strand 0).priv = .mon ∧ (t.strand 0).getS 1 = 0x100_0030_0000#64 ∧
      (t.vi 0).vtbase = 0x20_0000#64 ∧ (t.strands.length = 1)) ∧
  (∀ (s : State), s.deviceReset.boot.stage = 0 ∧ s.deviceReset.strands = [] ∧ s.deviceReset.teams = [] ∧
    (∀ pa, pa < 2 ^ 49 → s.deviceReset.byteAt pa = 0#8) ∧ ∀ pa, 2 ^ 49 ≤ pa → s.deviceReset.byteAt pa = s.byteAt pa)
end

