-- ==== Sys2Proof/Laws/Fields.lean ====
section
/-! SUPPORT. Each field of an instruction word reads back what the encoder wrote. -/

namespace Sys2Proof

@[simp] theorem Opnd.of_code (o : Opnd) : Opnd.of o.code = some o := by
  cases o with
  | reg n => revert n; decide
  | ix n => revert n; decide
  | q n => revert n; decide

@[simp] theorem of3_code3 (n : BitVec 3) : of3 (code3 n) = some n := by revert n; decide

@[simp] theorem of4_code4 (n : BitVec 4) : of4 (code4 n) = some n := by revert n; decide

theorem Mk.of_fields (mk : Mk) (h : mk.ok = true) : Mk.of mk.msk mk.minv = some mk := by
  cases mk with
  | all => rfl
  | m n inv => revert h; revert n inv; decide

@[simp] theorem Rm.of_code (rm : Rm) : Rm.of rm.code = some rm := by cases rm <;> rfl

@[simp] theorem FTy.of_code (t : FTy) : FTy.of t.code = some t := by cases t <;> rfl

@[simp] theorem Scope.of_code (sc : Scope) : Scope.of sc.code = some sc := by cases sc <;> rfl

@[simp] theorem Ord.of_code (o : Ord) : Ord.of o.code = o := by cases o <;> rfl

@[simp] theorem Aop.of_code (op : Aop) : Aop.of op.code = some op := by cases op <;> rfl

@[simp] theorem FCvtKind.of_code (k : FCvtKind) : FCvtKind.of k.code = some k := by
  cases k with
  | flt s => cases s <;> rfl
  | fromI => rfl
  | fromN => rfl
  | toI => rfl
  | toN => rfl

/-! ### Parts of joined fields -/

@[simp] theorem ofBool_beq (b : Bool) : (BitVec.ofBool b == 1#1) = b := by cases b <;> rfl

@[simp] theorem fn_hi (hi : BitVec 3) (lo : BitVec 4) : (hi ++ lo : BitVec 7).extractLsb' 4 3 = hi := by
  revert hi lo; decide

@[simp] theorem fn_lo (hi : BitVec 3) (lo : BitVec 4) : (hi ++ lo : BitVec 7).extractLsb' 0 4 = lo := by
  revert hi lo; decide

@[simp] theorem memFn_hi (hi : BitVec 3) (sc : Scope) (o : Ord) : (memFn hi sc o).extractLsb' 4 3 = hi := by
  revert hi; cases sc <;> cases o <;> decide

@[simp] theorem memFn_sc (hi : BitVec 3) (sc : Scope) (o : Ord) : (memFn hi sc o).extractLsb' 2 2 = sc.code := by
  revert hi; cases sc <;> cases o <;> decide

@[simp] theorem memFn_ord (hi : BitVec 3) (sc : Scope) (o : Ord) : (memFn hi sc o).extractLsb' 0 2 = o.code := by
  revert hi; cases sc <;> cases o <;> decide

@[simp] theorem Space.fn_hi (hi : BitVec 3) (sp : Space) : (sp.fn hi).extractLsb' 4 3 = hi := by
  cases sp <;> simp [Space.fn, memFn_hi]

@[simp] theorem Space.of_bit (hi : BitVec 3) (sp : Space) : Space.of sp.bit (sp.fn hi) = some sp := by
  cases sp <;> simp [Space.of, Space.bit, Space.fn, memFn_sc, memFn_ord]

@[simp] theorem Qual.fn_hi (hi : BitVec 3) (q : Qual) : (q.fn hi).extractLsb' 4 3 = hi := by
  cases q with
  | mem sc o => exact memFn_hi hi sc o
  | sp o => exact memFn_hi hi .core o
  | kb k => exact Sys2Proof.fn_hi hi k

@[simp] theorem Qual.of_fields (hi : BitVec 3) (q : Qual) (trim : Bool) : Qual.of (q.qual trim) (q.fn hi) = some q := by
  cases q with
  | mem sc o => cases trim <;> simp [Qual.of, Qual.qual, Qual.fn, Space.of, memFn_sc, memFn_ord]
  | sp o => cases trim <;> simp [Qual.of, Qual.qual, Qual.fn, Space.of, memFn_ord]
  | kb k => cases trim <;> simp [Qual.of, Qual.qual, Qual.fn, Sys2Proof.fn_lo]

@[simp] theorem Qual.trim_bit (q : Qual) (trim : Bool) : ((q.qual trim).extractLsb' 1 1 == 1#1) = trim := by
  cases q <;> cases trim <;> simp only [Qual.qual] <;> decide

@[simp] theorem vFn_rm (rm : Rm) (s w : Bool) (lo : BitVec 2) : (vFn rm s w lo).extractLsb' 4 3 = rm.code := by
  revert lo; cases rm <;> cases s <;> cases w <;> decide

@[simp] theorem vFn_sat (rm : Rm) (s w : Bool) (lo : BitVec 2) : ((vFn rm s w lo).extractLsb' 3 1 == 1#1) = s := by
  revert lo; cases rm <;> cases s <;> cases w <;> decide

@[simp] theorem vFn_wide (rm : Rm) (s w : Bool) (lo : BitVec 2) : ((vFn rm s w lo).extractLsb' 2 1 == 1#1) = w := by
  revert lo; cases rm <;> cases s <;> cases w <;> decide

@[simp] theorem vFn_lo (rm : Rm) (s w : Bool) (lo : BitVec 2) : (vFn rm s w lo).extractLsb' 0 2 = lo := by
  revert lo; cases rm <;> cases s <;> cases w <;> decide

/-! ### Parts of joins in general -/

theorem part_hi {a b : Nat} (x : BitVec a) (y : BitVec b) (s k : Nat) (z : BitVec k) (h : b ≤ s)
    (e : x.extractLsb' (s - b) k = z) : (x ++ y).extractLsb' s k = z := by
  rw [← e]; exact BitVec.extractLsb'_append_eq_of_le h

theorem part_lo {a b : Nat} (x : BitVec a) (y : BitVec b) (s k : Nat) (z : BitVec k) (h : s + k ≤ b)
    (e : y.extractLsb' s k = z) : (x ++ y).extractLsb' s k = z := by
  rw [← e]; exact BitVec.extractLsb'_append_eq_of_add_le h

theorem part_all {k : Nat} (x : BitVec k) : x.extractLsb' 0 k = x := BitVec.extractLsb'_eq_self

theorem join_parts {w : Nat} (x : BitVec w) (s j k : Nat) :
    (x.extractLsb' (s + j) k ++ x.extractLsb' s j : BitVec (k + j)) = x.extractLsb' s (k + j) := by
  apply BitVec.eq_of_getLsbD_eq
  intro i hi
  rw [BitVec.getLsbD_append]
  by_cases h : i < j
  · simp only [BitVec.getLsbD_extractLsb', h, if_true]
    simp; omega
  · simp only [BitVec.getLsbD_extractLsb', h, if_false]
    have e : s + j + (i - j) = s + i := by omega
    rw [e]
    have h1 : i - j < k := by omega
    simp [h1, hi]

/-- IMM37 cut into B, C, FN and IMM16 and joined again. -/
@[simp] theorem join37 (i : BitVec 37) :
    (i.extractLsb' 30 7 ++ i.extractLsb' 23 7 ++ i.extractLsb' 16 7 ++ i.extractLsb' 0 16 : BitVec 37) = i :=
  (congrArg (fun (x : BitVec 14) => (x ++ i.extractLsb' 16 7 ++ i.extractLsb' 0 16 : BitVec 37))
    (join_parts i 23 7 7)).trans <|
  (congrArg (fun (x : BitVec 21) => (x ++ i.extractLsb' 0 16 : BitVec 37)) (join_parts i 16 7 14)).trans <|
  (join_parts i 0 16 21).trans (part_all i)

@[simp] theorem join44 (i : BitVec 44) : (i.extractLsb' 37 7 ++ i.extractLsb' 0 37 : BitVec 44) = i :=
  (join_parts i 0 37 7).trans (part_all i)

theorem imm_lo {a b : Nat} (x : BitVec a) (y : BitVec b) : (x ++ y).extractLsb' 0 b = y :=
  part_lo x y 0 b y (by omega) (part_all y)

/-! ### Fields of IMM16 -/

@[simp] theorem imm_lo1 (x : BitVec 15) (y : BitVec 1) : (x ++ y : BitVec 16).extractLsb' 0 1 = y := imm_lo x y
@[simp] theorem imm_lo2 (x : BitVec 14) (y : BitVec 2) : (x ++ y : BitVec 16).extractLsb' 0 2 = y := imm_lo x y
@[simp] theorem imm_lo3 (x : BitVec 13) (y : BitVec 3) : (x ++ y : BitVec 16).extractLsb' 0 3 = y := imm_lo x y
@[simp] theorem imm_lo4 (x : BitVec 12) (y : BitVec 4) : (x ++ y : BitVec 16).extractLsb' 0 4 = y := imm_lo x y
@[simp] theorem imm_lo6 (x : BitVec 10) (y : BitVec 6) : (x ++ y : BitVec 16).extractLsb' 0 6 = y := imm_lo x y
@[simp] theorem imm_lo9 (x : BitVec 7) (y : BitVec 9) : (x ++ y : BitVec 16).extractLsb' 0 9 = y := imm_lo x y
@[simp] theorem imm_lo10 (x : BitVec 6) (y : BitVec 10) : (x ++ y : BitVec 16).extractLsb' 0 10 = y := imm_lo x y
@[simp] theorem imm_lo11 (x : BitVec 5) (y : BitVec 11) : (x ++ y : BitVec 16).extractLsb' 0 11 = y := imm_lo x y
@[simp] theorem imm_lo12 (x : BitVec 4) (y : BitVec 12) : (x ++ y : BitVec 16).extractLsb' 0 12 = y := imm_lo x y
@[simp] theorem imm37_lo27 (x : BitVec 10) (y : BitVec 27) : (x ++ y : BitVec 37).extractLsb' 0 27 = y := imm_lo x y

/-- Two six-bit fields in IMM16[11:0]. -/
@[simp] theorem imm_mid6 (x : BitVec 4) (y z : BitVec 6) : (x ++ y ++ z : BitVec 16).extractLsb' 6 6 = y :=
  part_hi (x ++ y) z 6 6 y (by decide) (imm_lo x y)

@[simp] theorem imm_bit12 (x : BitVec 3) (b : BitVec 1) (y z : BitVec 6) :
    (x ++ b ++ y ++ z : BitVec 16).extractLsb' 12 1 = b :=
  part_hi (x ++ b ++ y) z 12 1 b (by decide) (part_hi (x ++ b) y 6 1 b (by decide) (imm_lo x b))

@[simp] theorem imm_row (x : BitVec 2) (n : BitVec 8) (f : BitVec 6) : (x ++ n ++ f : BitVec 16).extractLsb' 6 8 = n :=
  part_hi (x ++ n) f 6 8 n (by decide) (imm_lo x n)

@[simp] theorem imm_w1 (x w : BitVec 4) (y : BitVec 2) (f : BitVec 6) : (x ++ w ++ y ++ f : BitVec 16).extractLsb' 8 4 = w :=
  part_hi (x ++ w ++ y) f 8 4 w (by decide) (part_hi (x ++ w) y 2 4 w (by decide) (imm_lo x w))

@[simp] theorem imm_w8 (x w : BitVec 4) (y : BitVec 8) : (x ++ w ++ y : BitVec 16).extractLsb' 8 4 = w :=
  part_hi (x ++ w) y 8 4 w (by decide) (imm_lo x w)

@[simp] theorem imm_bs (x : BitVec 1) (bs : BitVec 3) (y : BitVec 1) (k : BitVec 11) :
    (x ++ bs ++ y ++ k : BitVec 16).extractLsb' 12 3 = bs :=
  part_hi (x ++ bs ++ y) k 12 3 bs (by decide) (part_hi (x ++ bs) y 1 3 bs (by decide) (imm_lo x bs))

@[simp] theorem imm_e (e : BitVec 11) (b : BitVec 1) (op : BitVec 4) : (e ++ b ++ op : BitVec 16).extractLsb' 5 11 = e :=
  part_hi (e ++ b) op 5 11 e (by decide) (part_hi e b 1 11 e (by decide) (part_all e))

@[simp] theorem imm_e_sp (e : BitVec 11) (b : BitVec 1) (op : BitVec 4) : (e ++ b ++ op : BitVec 16).extractLsb' 4 1 = b :=
  part_hi (e ++ b) op 4 1 b (by decide) (imm_lo e b)

@[simp] theorem imm_p (x : BitVec 12) (q p : BitVec 2) : (x ++ q ++ p : BitVec 16).extractLsb' 2 2 = q :=
  part_hi (x ++ q) p 2 2 q (by decide) (imm_lo x q)

@[simp] theorem imm_atom (a b : BitVec 1) (x : BitVec 5) (n : BitVec 9) :
    (a ++ b ++ x ++ n : BitVec 16).extractLsb' 15 1 = a :=
  part_hi (a ++ b ++ x) n 15 1 a (by decide)
    (part_hi (a ++ b) x 6 1 a (by decide) (part_hi a b 1 1 a (by decide) (part_all a)))

@[simp] theorem imm_sp14 (a b : BitVec 1) (x : BitVec 5) (n : BitVec 9) :
    (a ++ b ++ x ++ n : BitVec 16).extractLsb' 14 1 = b :=
  part_hi (a ++ b ++ x) n 14 1 b (by decide) (part_hi (a ++ b) x 5 1 b (by decide) (imm_lo a b))

@[simp] theorem spImm_sp (sp : Space) (lo : BitVec 14) : (spImm sp lo).extractLsb' 14 1 = sp.bit :=
  part_hi (0#1 ++ sp.bit) lo 14 1 sp.bit (by decide) (imm_lo 0#1 sp.bit)

@[simp] theorem spImm_k (sp : Space) (k : BitVec 4) : (spImm sp (0#10 ++ k)).extractLsb' 0 4 = k :=
  part_lo (0#1 ++ sp.bit) (0#10 ++ k) 0 4 k (by decide) (imm_lo 0#10 k)

/-! ### The bits of FN -/

@[simp] theorem fn_bit0 (x : BitVec 6) (b : Bool) : ((x ++ BitVec.ofBool b : BitVec 7).extractLsb' 0 1 == 1#1) = b := by
  rw [show (x ++ BitVec.ofBool b : BitVec 7).extractLsb' 0 1 = BitVec.ofBool b from imm_lo x _]; simp

@[simp] theorem fn_lo2 (x : BitVec 5) (y : BitVec 2) : (x ++ y : BitVec 7).extractLsb' 0 2 = y := imm_lo x y
@[simp] theorem fn_lo3 (x : BitVec 4) (y : BitVec 3) : (x ++ y : BitVec 7).extractLsb' 0 3 = y := imm_lo x y

@[simp] theorem fType_rm (rm : BitVec 3) (t : BitVec 3) : (rm ++ 0#1 ++ t : BitVec 7).extractLsb' 4 3 = rm := by
  revert rm t; decide

@[simp] theorem fType_t (rm : BitVec 3) (t : BitVec 3) : (rm ++ 0#1 ++ t : BitVec 7).extractLsb' 0 3 = t := by
  revert rm t; decide

@[simp] theorem aopC_op (op : BitVec 4) (b : BitVec 1) : (0#2 ++ op ++ b : BitVec 7).extractLsb' 1 4 = op := by
  revert op b; decide

@[simp] theorem aopC_sp (op : BitVec 4) (b : BitVec 1) : (0#2 ++ op ++ b : BitVec 7).extractLsb' 0 1 = b := by
  revert op b; decide

@[simp] theorem not_patch (sz : BitVec 2) : (0#1 ++ sz = 7#3) = False := by revert sz; decide

/-- The bits of SZ, of W8 and of NORET. -/
@[simp] theorem Space.fn_sz (hi : BitVec 3) (sp : Space) :
    (sp.fn hi).extractLsb' 4 2 = hi.extractLsb' 0 2 := by
  revert hi
  cases sp with
  | mem sc o => cases sc <;> cases o <;> decide
  | sp o => cases o <;> decide

@[simp] theorem Space.fn_w8 (hi : BitVec 3) (sp : Space) :
    (sp.fn hi).extractLsb' 4 1 = hi.extractLsb' 0 1 := by
  revert hi
  cases sp with
  | mem sc o => cases sc <;> cases o <;> decide
  | sp o => cases o <;> decide

@[simp] theorem size_lo (sz : BitVec 2) : (0#1 ++ sz : BitVec 3).extractLsb' 0 2 = sz := by revert sz; decide

@[simp] theorem size_bit (x : BitVec 2) (b : BitVec 1) : (x ++ b : BitVec 3).extractLsb' 0 1 = b := by
  revert x b; decide

@[simp] theorem Rm.of_zero : Rm.of 0#3 = some .fctl := rfl

@[simp] theorem Opnd.of_zero : Opnd.of 0#7 = some (.reg 0#6) := rfl

@[simp] theorem rmFn_all (rm : Rm) (b : Bool) :
    ((rmFn rm (0#3 ++ BitVec.ofBool b)).extractLsb' 0 1 == 1#1) = b := by
  cases rm <;> cases b <;> rfl

@[simp] theorem rmFn_two (rm : Rm) (y : BitVec 2) : (rmFn rm (0#2 ++ y)).extractLsb' 0 2 = y := by
  revert y; cases rm <;> decide

@[simp] theorem rmFn_bit0 (rm : Rm) : (rmFn rm 0#4).extractLsb' 0 1 = 0#1 := by cases rm <;> rfl

@[simp] theorem rmFn_bit1 (rm : Rm) : (rmFn rm 1#4).extractLsb' 0 1 = 1#1 := by cases rm <;> rfl

/-- FN[16] of the row and column forms with an immediate. -/
@[simp] theorem rowImm_rm (rm : Rm) (s w : Bool) (lo : BitVec 2) :
    (vFn rm s w lo ||| 1#7).extractLsb' 4 3 = rm.code := by
  revert lo; cases rm <;> cases s <;> cases w <;> decide

@[simp] theorem rowImm_sat (rm : Rm) (s w : Bool) (lo : BitVec 2) :
    ((vFn rm s w lo ||| 1#7).extractLsb' 3 1 == 1#1) = s := by
  revert lo; cases rm <;> cases s <;> cases w <;> decide

@[simp] theorem rowImm_fn0 (rm : Rm) (s w : Bool) (lo : BitVec 2) :
    (vFn rm s w lo ||| 1#7).extractLsb' 0 1 = 1#1 := by
  revert lo; cases rm <;> cases s <;> cases w <;> decide

@[simp] theorem rowImm_fn1 (rm : Rm) (s w h : Bool) :
    ((vFn rm s w (BitVec.ofBool h ++ 0#1) ||| 1#7).extractLsb' 1 1 == 1#1) = h := by
  cases rm <;> cases s <;> cases w <;> cases h <;> rfl

@[simp] theorem row_fn0 (rm : Rm) (s w h : Bool) :
    (vFn rm s w (BitVec.ofBool h ++ 0#1)).extractLsb' 0 1 = 0#1 := by
  cases rm <;> cases s <;> cases w <;> cases h <;> rfl

@[simp] theorem vFn_fn0 (rm : Rm) (s w : Bool) : (vFn rm s w 0#2).extractLsb' 0 1 = 0#1 := by
  cases rm <;> cases s <;> cases w <;> rfl

@[simp] theorem row_fn1 (rm : Rm) (s w h : Bool) :
    ((vFn rm s w (BitVec.ofBool h ++ 0#1)).extractLsb' 1 1 == 1#1) = h := by
  cases rm <;> cases s <;> cases w <;> cases h <;> rfl

@[simp] theorem rmImm_rm (rm : Rm) : (rmFn rm 0#4 ||| 1#7).extractLsb' 4 3 = rm.code := by cases rm <;> rfl

@[simp] theorem rmImm_fn0 (rm : Rm) : (rmFn rm 0#4 ||| 1#7).extractLsb' 0 1 = 1#1 := by cases rm <;> rfl

/-- OFF44 cut into A and IMM37, and IMM37 into its fields. -/
@[simp] theorem join_off (i : BitVec 44) :
    (i.extractLsb' 37 7 ++ (i.extractLsb' 30 7 ++ i.extractLsb' 23 7 ++ i.extractLsb' 16 7 ++ i.extractLsb' 0 16 :
      BitVec 37) : BitVec 44) = i :=
  (congrArg (fun (x : BitVec 14) => (i.extractLsb' 37 7 ++ (x ++ i.extractLsb' 16 7 ++ i.extractLsb' 0 16 : BitVec 37) :
    BitVec 44)) (join_parts i 23 7 7)).trans <|
  (congrArg (fun (x : BitVec 21) => (i.extractLsb' 37 7 ++ (x ++ i.extractLsb' 0 16 : BitVec 37) : BitVec 44))
    (join_parts i 16 7 14)).trans <|
  (congrArg (fun (x : BitVec 37) => (i.extractLsb' 37 7 ++ x : BitVec 44)) (join_parts i 0 16 21)).trans (join44 i)

@[simp] theorem rm_bit0 (rm : BitVec 3) : (rm ++ 0#4 : BitVec 7).extractLsb' 0 1 = 0#1 := by revert rm; decide

@[simp] theorem rm_bit1 (rm : BitVec 3) : (rm ++ 1#4 : BitVec 7).extractLsb' 0 1 = 1#1 := by revert rm; decide

@[simp] theorem memFn_plain (hi : BitVec 3) (sc : Scope) : (memFn hi sc .plain).extractLsb' 0 1 = 0#1 := by
  revert hi; cases sc <;> decide

@[simp] theorem memFn_acq (hi : BitVec 3) (sc : Scope) : (memFn hi sc .acq).extractLsb' 0 1 = 1#1 := by
  revert hi; cases sc <;> decide

@[simp] theorem rmFn_rm (rm : Rm) (lo : BitVec 4) : (rmFn rm lo).extractLsb' 4 3 = rm.code := fn_hi rm.code lo

@[simp] theorem qual_space (sp : Space) : (Space.qual sp).extractLsb' 0 1 = sp.bit := imm_lo 0#6 sp.bit

end Sys2Proof
end

