-- ==== Sys2Proof/Laws/Tab.lean ====
section
/-! SUPPORT. Sparse tables: what a key reads as after a write, and that a write keeps the canonical form. -/

namespace Sys2Proof.Machine

variable {α : Type}

/-! ### Read after write -/

@[simp] theorem Tab.find_nil (k : Nat) : Tab.find ([] : Tab α) k = none := rfl

@[simp] theorem Tab.find_put_same (t : Tab α) (k : Nat) (v : α) : Tab.find (Tab.put t k v) k = some v := by
  induction t with
  | nil => simp [Tab.put, Tab.find]
  | cons p t ih =>
    obtain ⟨j, w⟩ := p
    simp only [Tab.put]
    split
    · simp [Tab.find]
    · split
      · simp [Tab.find]
      · simp [Tab.find, *]

theorem Tab.find_put_ne (t : Tab α) (k j : Nat) (v : α) (h : j ≠ k) : Tab.find (Tab.put t k v) j = Tab.find t j := by
  induction t with
  | nil => simp [Tab.put, Tab.find, h]
  | cons p t ih =>
    obtain ⟨i, w⟩ := p
    simp only [Tab.put]
    split
    · simp [Tab.find, h]
    · split
      · rename_i e; subst e; simp [Tab.find, h]
      · simp [Tab.find, ih]

@[simp] theorem Tab.find_del_same (t : Tab α) (k : Nat) : Tab.find (Tab.del t k) k = none := by
  induction t with
  | nil => rfl
  | cons p t ih =>
    obtain ⟨i, w⟩ := p
    simp only [Tab.del]
    split
    · exact ih
    · simp [Tab.find, *]

theorem Tab.find_del_ne (t : Tab α) (k j : Nat) (h : j ≠ k) : Tab.find (Tab.del t k) j = Tab.find t j := by
  induction t with
  | nil => rfl
  | cons p t ih =>
    obtain ⟨i, w⟩ := p
    simp only [Tab.del]
    split
    · rename_i e; subst e; simp [Tab.find, h, ih]
    · simp [Tab.find, ih]

@[simp] theorem Tab.get_put_same (d : α) (t : Tab α) (k : Nat) (v : α) : Tab.get d (Tab.put t k v) k = v := by
  simp [Tab.get]

theorem Tab.get_put_ne (d : α) (t : Tab α) (k j : Nat) (v : α) (h : j ≠ k) :
    Tab.get d (Tab.put t k v) j = Tab.get d t j := by simp [Tab.get, Tab.find_put_ne t k j v h]

@[simp] theorem Tab.get_set_same [DecidableEq α] (d : α) (t : Tab α) (k : Nat) (v : α) :
    Tab.get d (Tab.set d t k v) k = v := by
  unfold Tab.set
  split
  · rename_i e; simp [Tab.get, e]
  · simp

theorem Tab.get_set_ne [DecidableEq α] (d : α) (t : Tab α) (k j : Nat) (v : α) (h : j ≠ k) :
    Tab.get d (Tab.set d t k v) j = Tab.get d t j := by
  unfold Tab.set
  split
  · simp [Tab.get, Tab.find_del_ne t k j h]
  · exact Tab.get_put_ne d t k j v h

theorem Tab.find_modify_ne (t : Tab α) (k j : Nat) (f : α → α) (h : j ≠ k) :
    Tab.find (Tab.modify t k f) j = Tab.find t j := by
  unfold Tab.modify
  split
  · exact Tab.find_put_ne t k j _ h
  · rfl

/-! ### The canonical form -/

theorem Tab.above_mono {t : Tab α} {lo hi : Nat} (h : lo ≤ hi) (ht : Tab.above hi t = true) : Tab.above lo t = true := by
  cases t with
  | nil => rfl
  | cons p t =>
    simp only [Tab.above, Bool.and_eq_true, decide_eq_true_eq] at *
    exact ⟨by omega, ht.2⟩

theorem Tab.above_put {t : Tab α} {lo k : Nat} {v : α} (hk : lo < k) (ht : Tab.above lo t = true) :
    Tab.above lo (Tab.put t k v) = true := by
  induction t generalizing lo with
  | nil => simp [Tab.put, Tab.above, hk]
  | cons p t ih =>
    obtain ⟨j, w⟩ := p
    simp only [Tab.above, Bool.and_eq_true, decide_eq_true_eq] at ht
    simp only [Tab.put]
    split
    · rename_i h; simp [Tab.above, hk, h, ht.2]
    · split
      · rename_i e; subst e; simp [Tab.above, ht]
      · simp only [Tab.above, Bool.and_eq_true, decide_eq_true_eq]
        exact ⟨ht.1, ih (by omega) ht.2⟩

theorem Tab.above_del {t : Tab α} {lo k : Nat} (ht : Tab.above lo t = true) : Tab.above lo (Tab.del t k) = true := by
  induction t generalizing lo with
  | nil => rfl
  | cons p t ih =>
    obtain ⟨j, w⟩ := p
    simp only [Tab.above, Bool.and_eq_true, decide_eq_true_eq] at ht
    simp only [Tab.del]
    split
    · exact Tab.above_mono (by omega) (ih ht.2)
    · simp only [Tab.above, Bool.and_eq_true, decide_eq_true_eq]
      exact ⟨ht.1, ih ht.2⟩

theorem Tab.sorted_of_above {t : Tab α} {lo : Nat} (h : Tab.above lo t = true) : Tab.sorted t = true := by
  cases t with
  | nil => rfl
  | cons p t => simp only [Tab.above, Bool.and_eq_true] at h; exact h.2

theorem Tab.sorted_put {t : Tab α} {k : Nat} {v : α} (h : Tab.sorted t = true) : Tab.sorted (Tab.put t k v) = true := by
  cases t with
  | nil => rfl
  | cons p t =>
    obtain ⟨j, w⟩ := p
    simp only [Tab.put]
    split
    · simp only [Tab.sorted, Tab.above, Bool.and_eq_true, decide_eq_true_eq]; exact ⟨‹_›, h⟩
    · split
      · rename_i e; subst e; exact h
      · exact Tab.above_put (by omega) h

theorem Tab.sorted_del {t : Tab α} {k : Nat} (h : Tab.sorted t = true) : Tab.sorted (Tab.del t k) = true := by
  cases t with
  | nil => rfl
  | cons p t =>
    obtain ⟨j, w⟩ := p
    simp only [Tab.del]
    split
    · exact Tab.sorted_of_above (Tab.above_del h)
    · exact Tab.above_del h

theorem Tab.mem_put {t : Tab α} {k : Nat} {v : α} {p : Nat × α} (h : p ∈ Tab.put t k v) : p = (k, v) ∨ p ∈ t := by
  induction t with
  | nil => simpa [Tab.put] using h
  | cons q t ih =>
    obtain ⟨j, w⟩ := q
    simp only [Tab.put] at h
    split at h
    · simpa using h
    · split at h
      · simp only [List.mem_cons] at h ⊢; tauto
      · simp only [List.mem_cons] at h ⊢; rcases h with h | h
        · exact .inr (.inl h)
        · rcases ih h with h | h
          · exact .inl h
          · exact .inr (.inr h)

theorem Tab.mem_del {t : Tab α} {k : Nat} {p : Nat × α} (h : p ∈ Tab.del t k) : p ∈ t := by
  induction t with
  | nil => exact h
  | cons q t ih =>
    obtain ⟨j, w⟩ := q
    simp only [Tab.del] at h
    split at h
    · exact List.mem_cons_of_mem _ (ih h)
    · simp only [List.mem_cons] at h ⊢; exact h.imp_right ih

/-- Every write of a table keeps the canonical form. -/
theorem Tab.wf_set [DecidableEq α] {d : α} {t : Tab α} {k : Nat} {v : α} (h : Tab.wf d t = true) :
    Tab.wf d (Tab.set d t k v) = true := by
  simp only [Tab.wf, Bool.and_eq_true, List.all_eq_true, decide_eq_true_eq] at *
  unfold Tab.set
  split
  · exact ⟨Tab.sorted_del h.1, fun p hp => h.2 p (Tab.mem_del hp)⟩
  · refine ⟨Tab.sorted_put h.1, fun p hp => ?_⟩
    rcases Tab.mem_put hp with rfl | hp
    · assumption
    · exact h.2 p hp

theorem Tab.above_filter {t : Tab α} {lo : Nat} (f : Nat × α → Bool) (h : Tab.above lo t = true) :
    Tab.above lo (t.filter f) = true := by
  induction t generalizing lo with
  | nil => rfl
  | cons p t ih =>
    obtain ⟨j, w⟩ := p
    simp only [Tab.above, Bool.and_eq_true, decide_eq_true_eq] at h
    simp only [List.filter_cons]
    split
    · simp only [Tab.above, Bool.and_eq_true, decide_eq_true_eq]; exact ⟨h.1, ih h.2⟩
    · exact Tab.above_mono (by omega) (ih h.2)

theorem Tab.wf_filter [DecidableEq α] {d : α} {t : Tab α} (f : Nat × α → Bool) (h : Tab.wf d t = true) :
    Tab.wf d (t.filter f) = true := by
  simp only [Tab.wf, Bool.and_eq_true, List.all_eq_true, decide_eq_true_eq] at *
  refine ⟨?_, fun p hp => h.2 p (List.mem_of_mem_filter hp)⟩
  cases t with
  | nil => rfl
  | cons p t =>
    obtain ⟨j, w⟩ := p
    simp only [List.filter_cons]
    split
    · exact Tab.above_filter f h.1
    · exact Tab.sorted_of_above (Tab.above_filter f h.1)

end Sys2Proof.Machine
end

