-- ==== Sys2Proof/Laws/State.lean ====
section
/-! SUPPORT. The fields of the state and of a strand after each named update: one lemma for each field and update. -/

namespace Sys2Proof.Machine

/-! ### State.setMe -/

@[simp] theorem State.setMe_teams (s : State) (st : Strand) : (s.setMe st).teams = s.teams := rfl
@[simp] theorem State.setMe_caravans (s : State) (st : Strand) : (s.setMe st).caravans = s.caravans := rfl
@[simp] theorem State.setMe_nextSid (s : State) (st : Strand) : (s.setMe st).nextSid = s.nextSid := rfl
@[simp] theorem State.setMe_nextTeam (s : State) (st : Strand) : (s.setMe st).nextTeam = s.nextTeam := rfl
@[simp] theorem State.setMe_nextCaravan (s : State) (st : Strand) : (s.setMe st).nextCaravan = s.nextCaravan := rfl
@[simp] theorem State.setMe_launchSeq (s : State) (st : Strand) : (s.setMe st).launchSeq = s.launchSeq := rfl
@[simp] theorem State.setMe_admitSeq (s : State) (st : Strand) : (s.setMe st).admitSeq = s.admitSeq := rfl
@[simp] theorem State.setMe_cur (s : State) (st : Strand) : (s.setMe st).cur = s.cur := rfl
@[simp] theorem State.setMe_turnAt (s : State) (st : Strand) : (s.setMe st).turnAt = s.turnAt := rfl
@[simp] theorem State.setMe_cyc (s : State) (st : Strand) : (s.setMe st).cyc = s.cyc := rfl
@[simp] theorem State.setMe_agenda (s : State) (st : Strand) : (s.setMe st).agenda = s.agenda := rfl
@[simp] theorem State.setMe_deferred (s : State) (st : Strand) : (s.setMe st).deferred = s.deferred := rfl
@[simp] theorem State.setMe_tick (s : State) (st : Strand) : (s.setMe st).tick = s.tick := rfl
@[simp] theorem State.setMe_mem (s : State) (st : Strand) : (s.setMe st).mem = s.mem := rfl
@[simp] theorem State.setMe_tags (s : State) (st : Strand) : (s.setMe st).tags = s.tags := rfl
@[simp] theorem State.setMe_eph (s : State) (st : Strand) : (s.setMe st).eph = s.eph := rfl
@[simp] theorem State.setMe_expired (s : State) (st : Strand) : (s.setMe st).expired = s.expired := rfl
@[simp] theorem State.setMe_frameKd (s : State) (st : Strand) : (s.setMe st).frameKd = s.frameKd := rfl
@[simp] theorem State.setMe_kds (s : State) (st : Strand) : (s.setMe st).kds = s.kds := rfl
@[simp] theorem State.setMe_unbacked (s : State) (st : Strand) : (s.setMe st).unbacked = s.unbacked := rfl
@[simp] theorem State.setMe_moving (s : State) (st : Strand) : (s.setMe st).moving = s.moving := rfl
@[simp] theorem State.setMe_hbm (s : State) (st : Strand) : (s.setMe st).hbm = s.hbm := rfl
@[simp] theorem State.setMe_hostLines (s : State) (st : Strand) : (s.setMe st).hostLines = s.hostLines := rfl
@[simp] theorem State.setMe_storeQ (s : State) (st : Strand) : (s.setMe st).storeQ = s.storeQ := rfl
@[simp] theorem State.setMe_tlb (s : State) (st : Strand) : (s.setMe st).tlb = s.tlb := rfl
@[simp] theorem State.setMe_pasids (s : State) (st : Strand) : (s.setMe st).pasids = s.pasids := rfl
@[simp] theorem State.setMe_ats (s : State) (st : Strand) : (s.setMe st).ats = s.ats := rfl
@[simp] theorem State.setMe_priPending (s : State) (st : Strand) : (s.setMe st).priPending = s.priPending := rfl
@[simp] theorem State.setMe_palettes (s : State) (st : Strand) : (s.setMe st).palettes = s.palettes := rfl
@[simp] theorem State.setMe_vis (s : State) (st : Strand) : (s.setMe st).vis = s.vis := rfl
@[simp] theorem State.setMe_dies (s : State) (st : Strand) : (s.setMe st).dies = s.dies := rfl
@[simp] theorem State.setMe_cycles (s : State) (st : Strand) : (s.setMe st).cycles = s.cycles := rfl
@[simp] theorem State.setMe_points (s : State) (st : Strand) : (s.setMe st).points = s.points := rfl
@[simp] theorem State.setMe_throttled (s : State) (st : Strand) : (s.setMe st).throttled = s.throttled := rfl
@[simp] theorem State.setMe_powers (s : State) (st : Strand) : (s.setMe st).powers = s.powers := rfl
@[simp] theorem State.setMe_opmax (s : State) (st : Strand) : (s.setMe st).opmax = s.opmax := rfl
@[simp] theorem State.setMe_homes (s : State) (st : Strand) : (s.setMe st).homes = s.homes := rfl
@[simp] theorem State.setMe_tiles (s : State) (st : Strand) : (s.setMe st).tiles = s.tiles := rfl
@[simp] theorem State.setMe_nextTile (s : State) (st : Strand) : (s.setMe st).nextTile = s.nextTile := rfl
@[simp] theorem State.setMe_tileSeq (s : State) (st : Strand) : (s.setMe st).tileSeq = s.tileSeq := rfl
@[simp] theorem State.setMe_capFifo (s : State) (st : Strand) : (s.setMe st).capFifo = s.capFifo := rfl
@[simp] theorem State.setMe_drr (s : State) (st : Strand) : (s.setMe st).drr = s.drr := rfl
@[simp] theorem State.setMe_mevt (s : State) (st : Strand) : (s.setMe st).mevt = s.mevt := rfl
@[simp] theorem State.setMe_boot (s : State) (st : Strand) : (s.setMe st).boot = s.boot := rfl
@[simp] theorem State.setMe_devid (s : State) (st : Strand) : (s.setMe st).devid = s.devid := rfl
@[simp] theorem State.setMe_dplim (s : State) (st : Strand) : (s.setMe st).dplim = s.dplim := rfl
@[simp] theorem State.setMe_opInit (s : State) (st : Strand) : (s.setMe st).opInit = s.opInit := rfl
@[simp] theorem State.setMe_memBytes (s : State) (st : Strand) : (s.setMe st).memBytes = s.memBytes := rfl
@[simp] theorem State.setMe_routes (s : State) (st : Strand) : (s.setMe st).routes = s.routes := rfl
@[simp] theorem State.setMe_linksUp (s : State) (st : Strand) : (s.setMe st).linksUp = s.linksUp := rfl
@[simp] theorem State.setMe_unreachable (s : State) (st : Strand) : (s.setMe st).unreachable = s.unreachable := rfl
@[simp] theorem State.setMe_ports (s : State) (st : Strand) : (s.setMe st).ports = s.ports := rfl
@[simp] theorem State.setMe_shadow (s : State) (st : Strand) : (s.setMe st).shadow = s.shadow := rfl
@[simp] theorem State.setMe_thermal (s : State) (st : Strand) : (s.setMe st).thermal = s.thermal := rfl
@[simp] theorem State.setMe_regs (s : State) (st : Strand) : (s.setMe st).regs = s.regs := rfl
@[simp] theorem State.setMe_out (s : State) (st : Strand) : (s.setMe st).out = s.out := rfl

/-! ### State.setStrand -/

@[simp] theorem State.setStrand_teams (s : State) (i : Nat) (st : Strand) : (s.setStrand i st).teams = s.teams := rfl
@[simp] theorem State.setStrand_caravans (s : State) (i : Nat) (st : Strand) : (s.setStrand i st).caravans = s.caravans := rfl
@[simp] theorem State.setStrand_nextSid (s : State) (i : Nat) (st : Strand) : (s.setStrand i st).nextSid = s.nextSid := rfl
@[simp] theorem State.setStrand_nextTeam (s : State) (i : Nat) (st : Strand) : (s.setStrand i st).nextTeam = s.nextTeam := rfl
@[simp] theorem State.setStrand_nextCaravan (s : State) (i : Nat) (st : Strand) : (s.setStrand i st).nextCaravan = s.nextCaravan := rfl
@[simp] theorem State.setStrand_launchSeq (s : State) (i : Nat) (st : Strand) : (s.setStrand i st).launchSeq = s.launchSeq := rfl
@[simp] theorem State.setStrand_admitSeq (s : State) (i : Nat) (st : Strand) : (s.setStrand i st).admitSeq = s.admitSeq := rfl
@[simp] theorem State.setStrand_cur (s : State) (i : Nat) (st : Strand) : (s.setStrand i st).cur = s.cur := rfl
@[simp] theorem State.setStrand_turnAt (s : State) (i : Nat) (st : Strand) : (s.setStrand i st).turnAt = s.turnAt := rfl
@[simp] theorem State.setStrand_cyc (s : State) (i : Nat) (st : Strand) : (s.setStrand i st).cyc = s.cyc := rfl
@[simp] theorem State.setStrand_agenda (s : State) (i : Nat) (st : Strand) : (s.setStrand i st).agenda = s.agenda := rfl
@[simp] theorem State.setStrand_deferred (s : State) (i : Nat) (st : Strand) : (s.setStrand i st).deferred = s.deferred := rfl
@[simp] theorem State.setStrand_tick (s : State) (i : Nat) (st : Strand) : (s.setStrand i st).tick = s.tick := rfl
@[simp] theorem State.setStrand_mem (s : State) (i : Nat) (st : Strand) : (s.setStrand i st).mem = s.mem := rfl
@[simp] theorem State.setStrand_tags (s : State) (i : Nat) (st : Strand) : (s.setStrand i st).tags = s.tags := rfl
@[simp] theorem State.setStrand_eph (s : State) (i : Nat) (st : Strand) : (s.setStrand i st).eph = s.eph := rfl
@[simp] theorem State.setStrand_expired (s : State) (i : Nat) (st : Strand) : (s.setStrand i st).expired = s.expired := rfl
@[simp] theorem State.setStrand_frameKd (s : State) (i : Nat) (st : Strand) : (s.setStrand i st).frameKd = s.frameKd := rfl
@[simp] theorem State.setStrand_kds (s : State) (i : Nat) (st : Strand) : (s.setStrand i st).kds = s.kds := rfl
@[simp] theorem State.setStrand_unbacked (s : State) (i : Nat) (st : Strand) : (s.setStrand i st).unbacked = s.unbacked := rfl
@[simp] theorem State.setStrand_moving (s : State) (i : Nat) (st : Strand) : (s.setStrand i st).moving = s.moving := rfl
@[simp] theorem State.setStrand_hbm (s : State) (i : Nat) (st : Strand) : (s.setStrand i st).hbm = s.hbm := rfl
@[simp] theorem State.setStrand_hostLines (s : State) (i : Nat) (st : Strand) : (s.setStrand i st).hostLines = s.hostLines := rfl
@[simp] theorem State.setStrand_storeQ (s : State) (i : Nat) (st : Strand) : (s.setStrand i st).storeQ = s.storeQ := rfl
@[simp] theorem State.setStrand_tlb (s : State) (i : Nat) (st : Strand) : (s.setStrand i st).tlb = s.tlb := rfl
@[simp] theorem State.setStrand_pasids (s : State) (i : Nat) (st : Strand) : (s.setStrand i st).pasids = s.pasids := rfl
@[simp] theorem State.setStrand_ats (s : State) (i : Nat) (st : Strand) : (s.setStrand i st).ats = s.ats := rfl
@[simp] theorem State.setStrand_priPending (s : State) (i : Nat) (st : Strand) : (s.setStrand i st).priPending = s.priPending := rfl
@[simp] theorem State.setStrand_palettes (s : State) (i : Nat) (st : Strand) : (s.setStrand i st).palettes = s.palettes := rfl
@[simp] theorem State.setStrand_vis (s : State) (i : Nat) (st : Strand) : (s.setStrand i st).vis = s.vis := rfl
@[simp] theorem State.setStrand_dies (s : State) (i : Nat) (st : Strand) : (s.setStrand i st).dies = s.dies := rfl
@[simp] theorem State.setStrand_cycles (s : State) (i : Nat) (st : Strand) : (s.setStrand i st).cycles = s.cycles := rfl
@[simp] theorem State.setStrand_points (s : State) (i : Nat) (st : Strand) : (s.setStrand i st).points = s.points := rfl
@[simp] theorem State.setStrand_throttled (s : State) (i : Nat) (st : Strand) : (s.setStrand i st).throttled = s.throttled := rfl
@[simp] theorem State.setStrand_powers (s : State) (i : Nat) (st : Strand) : (s.setStrand i st).powers = s.powers := rfl
@[simp] theorem State.setStrand_opmax (s : State) (i : Nat) (st : Strand) : (s.setStrand i st).opmax = s.opmax := rfl
@[simp] theorem State.setStrand_homes (s : State) (i : Nat) (st : Strand) : (s.setStrand i st).homes = s.homes := rfl
@[simp] theorem State.setStrand_tiles (s : State) (i : Nat) (st : Strand) : (s.setStrand i st).tiles = s.tiles := rfl
@[simp] theorem State.setStrand_nextTile (s : State) (i : Nat) (st : Strand) : (s.setStrand i st).nextTile = s.nextTile := rfl
@[simp] theorem State.setStrand_tileSeq (s : State) (i : Nat) (st : Strand) : (s.setStrand i st).tileSeq = s.tileSeq := rfl
@[simp] theorem State.setStrand_capFifo (s : State) (i : Nat) (st : Strand) : (s.setStrand i st).capFifo = s.capFifo := rfl
@[simp] theorem State.setStrand_drr (s : State) (i : Nat) (st : Strand) : (s.setStrand i st).drr = s.drr := rfl
@[simp] theorem State.setStrand_mevt (s : State) (i : Nat) (st : Strand) : (s.setStrand i st).mevt = s.mevt := rfl
@[simp] theorem State.setStrand_boot (s : State) (i : Nat) (st : Strand) : (s.setStrand i st).boot = s.boot := rfl
@[simp] theorem State.setStrand_devid (s : State) (i : Nat) (st : Strand) : (s.setStrand i st).devid = s.devid := rfl
@[simp] theorem State.setStrand_dplim (s : State) (i : Nat) (st : Strand) : (s.setStrand i st).dplim = s.dplim := rfl
@[simp] theorem State.setStrand_opInit (s : State) (i : Nat) (st : Strand) : (s.setStrand i st).opInit = s.opInit := rfl
@[simp] theorem State.setStrand_memBytes (s : State) (i : Nat) (st : Strand) : (s.setStrand i st).memBytes = s.memBytes := rfl
@[simp] theorem State.setStrand_routes (s : State) (i : Nat) (st : Strand) : (s.setStrand i st).routes = s.routes := rfl
@[simp] theorem State.setStrand_linksUp (s : State) (i : Nat) (st : Strand) : (s.setStrand i st).linksUp = s.linksUp := rfl
@[simp] theorem State.setStrand_unreachable (s : State) (i : Nat) (st : Strand) : (s.setStrand i st).unreachable = s.unreachable := rfl
@[simp] theorem State.setStrand_ports (s : State) (i : Nat) (st : Strand) : (s.setStrand i st).ports = s.ports := rfl
@[simp] theorem State.setStrand_shadow (s : State) (i : Nat) (st : Strand) : (s.setStrand i st).shadow = s.shadow := rfl
@[simp] theorem State.setStrand_thermal (s : State) (i : Nat) (st : Strand) : (s.setStrand i st).thermal = s.thermal := rfl
@[simp] theorem State.setStrand_regs (s : State) (i : Nat) (st : Strand) : (s.setStrand i st).regs = s.regs := rfl
@[simp] theorem State.setStrand_out (s : State) (i : Nat) (st : Strand) : (s.setStrand i st).out = s.out := rfl

/-! ### State.setTeam -/

@[simp] theorem State.setTeam_strands (s : State) (i : Nat) (x : Team) : (s.setTeam i x).strands = s.strands := rfl
@[simp] theorem State.setTeam_caravans (s : State) (i : Nat) (x : Team) : (s.setTeam i x).caravans = s.caravans := rfl
@[simp] theorem State.setTeam_nextSid (s : State) (i : Nat) (x : Team) : (s.setTeam i x).nextSid = s.nextSid := rfl
@[simp] theorem State.setTeam_nextTeam (s : State) (i : Nat) (x : Team) : (s.setTeam i x).nextTeam = s.nextTeam := rfl
@[simp] theorem State.setTeam_nextCaravan (s : State) (i : Nat) (x : Team) : (s.setTeam i x).nextCaravan = s.nextCaravan := rfl
@[simp] theorem State.setTeam_launchSeq (s : State) (i : Nat) (x : Team) : (s.setTeam i x).launchSeq = s.launchSeq := rfl
@[simp] theorem State.setTeam_admitSeq (s : State) (i : Nat) (x : Team) : (s.setTeam i x).admitSeq = s.admitSeq := rfl
@[simp] theorem State.setTeam_cur (s : State) (i : Nat) (x : Team) : (s.setTeam i x).cur = s.cur := rfl
@[simp] theorem State.setTeam_turnAt (s : State) (i : Nat) (x : Team) : (s.setTeam i x).turnAt = s.turnAt := rfl
@[simp] theorem State.setTeam_cyc (s : State) (i : Nat) (x : Team) : (s.setTeam i x).cyc = s.cyc := rfl
@[simp] theorem State.setTeam_agenda (s : State) (i : Nat) (x : Team) : (s.setTeam i x).agenda = s.agenda := rfl
@[simp] theorem State.setTeam_deferred (s : State) (i : Nat) (x : Team) : (s.setTeam i x).deferred = s.deferred := rfl
@[simp] theorem State.setTeam_tick (s : State) (i : Nat) (x : Team) : (s.setTeam i x).tick = s.tick := rfl
@[simp] theorem State.setTeam_mem (s : State) (i : Nat) (x : Team) : (s.setTeam i x).mem = s.mem := rfl
@[simp] theorem State.setTeam_tags (s : State) (i : Nat) (x : Team) : (s.setTeam i x).tags = s.tags := rfl
@[simp] theorem State.setTeam_eph (s : State) (i : Nat) (x : Team) : (s.setTeam i x).eph = s.eph := rfl
@[simp] theorem State.setTeam_expired (s : State) (i : Nat) (x : Team) : (s.setTeam i x).expired = s.expired := rfl
@[simp] theorem State.setTeam_frameKd (s : State) (i : Nat) (x : Team) : (s.setTeam i x).frameKd = s.frameKd := rfl
@[simp] theorem State.setTeam_kds (s : State) (i : Nat) (x : Team) : (s.setTeam i x).kds = s.kds := rfl
@[simp] theorem State.setTeam_unbacked (s : State) (i : Nat) (x : Team) : (s.setTeam i x).unbacked = s.unbacked := rfl
@[simp] theorem State.setTeam_moving (s : State) (i : Nat) (x : Team) : (s.setTeam i x).moving = s.moving := rfl
@[simp] theorem State.setTeam_hbm (s : State) (i : Nat) (x : Team) : (s.setTeam i x).hbm = s.hbm := rfl
@[simp] theorem State.setTeam_hostLines (s : State) (i : Nat) (x : Team) : (s.setTeam i x).hostLines = s.hostLines := rfl
@[simp] theorem State.setTeam_storeQ (s : State) (i : Nat) (x : Team) : (s.setTeam i x).storeQ = s.storeQ := rfl
@[simp] theorem State.setTeam_tlb (s : State) (i : Nat) (x : Team) : (s.setTeam i x).tlb = s.tlb := rfl
@[simp] theorem State.setTeam_pasids (s : State) (i : Nat) (x : Team) : (s.setTeam i x).pasids = s.pasids := rfl
@[simp] theorem State.setTeam_ats (s : State) (i : Nat) (x : Team) : (s.setTeam i x).ats = s.ats := rfl
@[simp] theorem State.setTeam_priPending (s : State) (i : Nat) (x : Team) : (s.setTeam i x).priPending = s.priPending := rfl
@[simp] theorem State.setTeam_palettes (s : State) (i : Nat) (x : Team) : (s.setTeam i x).palettes = s.palettes := rfl
@[simp] theorem State.setTeam_vis (s : State) (i : Nat) (x : Team) : (s.setTeam i x).vis = s.vis := rfl
@[simp] theorem State.setTeam_dies (s : State) (i : Nat) (x : Team) : (s.setTeam i x).dies = s.dies := rfl
@[simp] theorem State.setTeam_cycles (s : State) (i : Nat) (x : Team) : (s.setTeam i x).cycles = s.cycles := rfl
@[simp] theorem State.setTeam_points (s : State) (i : Nat) (x : Team) : (s.setTeam i x).points = s.points := rfl
@[simp] theorem State.setTeam_throttled (s : State) (i : Nat) (x : Team) : (s.setTeam i x).throttled = s.throttled := rfl
@[simp] theorem State.setTeam_powers (s : State) (i : Nat) (x : Team) : (s.setTeam i x).powers = s.powers := rfl
@[simp] theorem State.setTeam_opmax (s : State) (i : Nat) (x : Team) : (s.setTeam i x).opmax = s.opmax := rfl
@[simp] theorem State.setTeam_homes (s : State) (i : Nat) (x : Team) : (s.setTeam i x).homes = s.homes := rfl
@[simp] theorem State.setTeam_tiles (s : State) (i : Nat) (x : Team) : (s.setTeam i x).tiles = s.tiles := rfl
@[simp] theorem State.setTeam_nextTile (s : State) (i : Nat) (x : Team) : (s.setTeam i x).nextTile = s.nextTile := rfl
@[simp] theorem State.setTeam_tileSeq (s : State) (i : Nat) (x : Team) : (s.setTeam i x).tileSeq = s.tileSeq := rfl
@[simp] theorem State.setTeam_capFifo (s : State) (i : Nat) (x : Team) : (s.setTeam i x).capFifo = s.capFifo := rfl
@[simp] theorem State.setTeam_drr (s : State) (i : Nat) (x : Team) : (s.setTeam i x).drr = s.drr := rfl
@[simp] theorem State.setTeam_mevt (s : State) (i : Nat) (x : Team) : (s.setTeam i x).mevt = s.mevt := rfl
@[simp] theorem State.setTeam_boot (s : State) (i : Nat) (x : Team) : (s.setTeam i x).boot = s.boot := rfl
@[simp] theorem State.setTeam_devid (s : State) (i : Nat) (x : Team) : (s.setTeam i x).devid = s.devid := rfl
@[simp] theorem State.setTeam_dplim (s : State) (i : Nat) (x : Team) : (s.setTeam i x).dplim = s.dplim := rfl
@[simp] theorem State.setTeam_opInit (s : State) (i : Nat) (x : Team) : (s.setTeam i x).opInit = s.opInit := rfl
@[simp] theorem State.setTeam_memBytes (s : State) (i : Nat) (x : Team) : (s.setTeam i x).memBytes = s.memBytes := rfl
@[simp] theorem State.setTeam_routes (s : State) (i : Nat) (x : Team) : (s.setTeam i x).routes = s.routes := rfl
@[simp] theorem State.setTeam_linksUp (s : State) (i : Nat) (x : Team) : (s.setTeam i x).linksUp = s.linksUp := rfl
@[simp] theorem State.setTeam_unreachable (s : State) (i : Nat) (x : Team) : (s.setTeam i x).unreachable = s.unreachable := rfl
@[simp] theorem State.setTeam_ports (s : State) (i : Nat) (x : Team) : (s.setTeam i x).ports = s.ports := rfl
@[simp] theorem State.setTeam_shadow (s : State) (i : Nat) (x : Team) : (s.setTeam i x).shadow = s.shadow := rfl
@[simp] theorem State.setTeam_thermal (s : State) (i : Nat) (x : Team) : (s.setTeam i x).thermal = s.thermal := rfl
@[simp] theorem State.setTeam_regs (s : State) (i : Nat) (x : Team) : (s.setTeam i x).regs = s.regs := rfl
@[simp] theorem State.setTeam_out (s : State) (i : Nat) (x : Team) : (s.setTeam i x).out = s.out := rfl

/-! ### State.setMyTeam -/

@[simp] theorem State.setMyTeam_strands (s : State) (x : Team) : (s.setMyTeam x).strands = s.strands := rfl
@[simp] theorem State.setMyTeam_caravans (s : State) (x : Team) : (s.setMyTeam x).caravans = s.caravans := rfl
@[simp] theorem State.setMyTeam_nextSid (s : State) (x : Team) : (s.setMyTeam x).nextSid = s.nextSid := rfl
@[simp] theorem State.setMyTeam_nextTeam (s : State) (x : Team) : (s.setMyTeam x).nextTeam = s.nextTeam := rfl
@[simp] theorem State.setMyTeam_nextCaravan (s : State) (x : Team) : (s.setMyTeam x).nextCaravan = s.nextCaravan := rfl
@[simp] theorem State.setMyTeam_launchSeq (s : State) (x : Team) : (s.setMyTeam x).launchSeq = s.launchSeq := rfl
@[simp] theorem State.setMyTeam_admitSeq (s : State) (x : Team) : (s.setMyTeam x).admitSeq = s.admitSeq := rfl
@[simp] theorem State.setMyTeam_cur (s : State) (x : Team) : (s.setMyTeam x).cur = s.cur := rfl
@[simp] theorem State.setMyTeam_turnAt (s : State) (x : Team) : (s.setMyTeam x).turnAt = s.turnAt := rfl
@[simp] theorem State.setMyTeam_cyc (s : State) (x : Team) : (s.setMyTeam x).cyc = s.cyc := rfl
@[simp] theorem State.setMyTeam_agenda (s : State) (x : Team) : (s.setMyTeam x).agenda = s.agenda := rfl
@[simp] theorem State.setMyTeam_deferred (s : State) (x : Team) : (s.setMyTeam x).deferred = s.deferred := rfl
@[simp] theorem State.setMyTeam_tick (s : State) (x : Team) : (s.setMyTeam x).tick = s.tick := rfl
@[simp] theorem State.setMyTeam_mem (s : State) (x : Team) : (s.setMyTeam x).mem = s.mem := rfl
@[simp] theorem State.setMyTeam_tags (s : State) (x : Team) : (s.setMyTeam x).tags = s.tags := rfl
@[simp] theorem State.setMyTeam_eph (s : State) (x : Team) : (s.setMyTeam x).eph = s.eph := rfl
@[simp] theorem State.setMyTeam_expired (s : State) (x : Team) : (s.setMyTeam x).expired = s.expired := rfl
@[simp] theorem State.setMyTeam_frameKd (s : State) (x : Team) : (s.setMyTeam x).frameKd = s.frameKd := rfl
@[simp] theorem State.setMyTeam_kds (s : State) (x : Team) : (s.setMyTeam x).kds = s.kds := rfl
@[simp] theorem State.setMyTeam_unbacked (s : State) (x : Team) : (s.setMyTeam x).unbacked = s.unbacked := rfl
@[simp] theorem State.setMyTeam_moving (s : State) (x : Team) : (s.setMyTeam x).moving = s.moving := rfl
@[simp] theorem State.setMyTeam_hbm (s : State) (x : Team) : (s.setMyTeam x).hbm = s.hbm := rfl
@[simp] theorem State.setMyTeam_hostLines (s : State) (x : Team) : (s.setMyTeam x).hostLines = s.hostLines := rfl
@[simp] theorem State.setMyTeam_storeQ (s : State) (x : Team) : (s.setMyTeam x).storeQ = s.storeQ := rfl
@[simp] theorem State.setMyTeam_tlb (s : State) (x : Team) : (s.setMyTeam x).tlb = s.tlb := rfl
@[simp] theorem State.setMyTeam_pasids (s : State) (x : Team) : (s.setMyTeam x).pasids = s.pasids := rfl
@[simp] theorem State.setMyTeam_ats (s : State) (x : Team) : (s.setMyTeam x).ats = s.ats := rfl
@[simp] theorem State.setMyTeam_priPending (s : State) (x : Team) : (s.setMyTeam x).priPending = s.priPending := rfl
@[simp] theorem State.setMyTeam_palettes (s : State) (x : Team) : (s.setMyTeam x).palettes = s.palettes := rfl
@[simp] theorem State.setMyTeam_vis (s : State) (x : Team) : (s.setMyTeam x).vis = s.vis := rfl
@[simp] theorem State.setMyTeam_dies (s : State) (x : Team) : (s.setMyTeam x).dies = s.dies := rfl
@[simp] theorem State.setMyTeam_cycles (s : State) (x : Team) : (s.setMyTeam x).cycles = s.cycles := rfl
@[simp] theorem State.setMyTeam_points (s : State) (x : Team) : (s.setMyTeam x).points = s.points := rfl
@[simp] theorem State.setMyTeam_throttled (s : State) (x : Team) : (s.setMyTeam x).throttled = s.throttled := rfl
@[simp] theorem State.setMyTeam_powers (s : State) (x : Team) : (s.setMyTeam x).powers = s.powers := rfl
@[simp] theorem State.setMyTeam_opmax (s : State) (x : Team) : (s.setMyTeam x).opmax = s.opmax := rfl
@[simp] theorem State.setMyTeam_homes (s : State) (x : Team) : (s.setMyTeam x).homes = s.homes := rfl
@[simp] theorem State.setMyTeam_tiles (s : State) (x : Team) : (s.setMyTeam x).tiles = s.tiles := rfl
@[simp] theorem State.setMyTeam_nextTile (s : State) (x : Team) : (s.setMyTeam x).nextTile = s.nextTile := rfl
@[simp] theorem State.setMyTeam_tileSeq (s : State) (x : Team) : (s.setMyTeam x).tileSeq = s.tileSeq := rfl
@[simp] theorem State.setMyTeam_capFifo (s : State) (x : Team) : (s.setMyTeam x).capFifo = s.capFifo := rfl
@[simp] theorem State.setMyTeam_drr (s : State) (x : Team) : (s.setMyTeam x).drr = s.drr := rfl
@[simp] theorem State.setMyTeam_mevt (s : State) (x : Team) : (s.setMyTeam x).mevt = s.mevt := rfl
@[simp] theorem State.setMyTeam_boot (s : State) (x : Team) : (s.setMyTeam x).boot = s.boot := rfl
@[simp] theorem State.setMyTeam_devid (s : State) (x : Team) : (s.setMyTeam x).devid = s.devid := rfl
@[simp] theorem State.setMyTeam_dplim (s : State) (x : Team) : (s.setMyTeam x).dplim = s.dplim := rfl
@[simp] theorem State.setMyTeam_opInit (s : State) (x : Team) : (s.setMyTeam x).opInit = s.opInit := rfl
@[simp] theorem State.setMyTeam_memBytes (s : State) (x : Team) : (s.setMyTeam x).memBytes = s.memBytes := rfl
@[simp] theorem State.setMyTeam_routes (s : State) (x : Team) : (s.setMyTeam x).routes = s.routes := rfl
@[simp] theorem State.setMyTeam_linksUp (s : State) (x : Team) : (s.setMyTeam x).linksUp = s.linksUp := rfl
@[simp] theorem State.setMyTeam_unreachable (s : State) (x : Team) : (s.setMyTeam x).unreachable = s.unreachable := rfl
@[simp] theorem State.setMyTeam_ports (s : State) (x : Team) : (s.setMyTeam x).ports = s.ports := rfl
@[simp] theorem State.setMyTeam_shadow (s : State) (x : Team) : (s.setMyTeam x).shadow = s.shadow := rfl
@[simp] theorem State.setMyTeam_thermal (s : State) (x : Team) : (s.setMyTeam x).thermal = s.thermal := rfl
@[simp] theorem State.setMyTeam_regs (s : State) (x : Team) : (s.setMyTeam x).regs = s.regs := rfl
@[simp] theorem State.setMyTeam_out (s : State) (x : Team) : (s.setMyTeam x).out = s.out := rfl

/-! ### State.setCar -/

@[simp] theorem State.setCar_strands (s : State) (i : Nat) (x : Caravan) : (s.setCar i x).strands = s.strands := rfl
@[simp] theorem State.setCar_teams (s : State) (i : Nat) (x : Caravan) : (s.setCar i x).teams = s.teams := rfl
@[simp] theorem State.setCar_nextSid (s : State) (i : Nat) (x : Caravan) : (s.setCar i x).nextSid = s.nextSid := rfl
@[simp] theorem State.setCar_nextTeam (s : State) (i : Nat) (x : Caravan) : (s.setCar i x).nextTeam = s.nextTeam := rfl
@[simp] theorem State.setCar_nextCaravan (s : State) (i : Nat) (x : Caravan) : (s.setCar i x).nextCaravan = s.nextCaravan := rfl
@[simp] theorem State.setCar_launchSeq (s : State) (i : Nat) (x : Caravan) : (s.setCar i x).launchSeq = s.launchSeq := rfl
@[simp] theorem State.setCar_admitSeq (s : State) (i : Nat) (x : Caravan) : (s.setCar i x).admitSeq = s.admitSeq := rfl
@[simp] theorem State.setCar_cur (s : State) (i : Nat) (x : Caravan) : (s.setCar i x).cur = s.cur := rfl
@[simp] theorem State.setCar_turnAt (s : State) (i : Nat) (x : Caravan) : (s.setCar i x).turnAt = s.turnAt := rfl
@[simp] theorem State.setCar_cyc (s : State) (i : Nat) (x : Caravan) : (s.setCar i x).cyc = s.cyc := rfl
@[simp] theorem State.setCar_agenda (s : State) (i : Nat) (x : Caravan) : (s.setCar i x).agenda = s.agenda := rfl
@[simp] theorem State.setCar_deferred (s : State) (i : Nat) (x : Caravan) : (s.setCar i x).deferred = s.deferred := rfl
@[simp] theorem State.setCar_tick (s : State) (i : Nat) (x : Caravan) : (s.setCar i x).tick = s.tick := rfl
@[simp] theorem State.setCar_mem (s : State) (i : Nat) (x : Caravan) : (s.setCar i x).mem = s.mem := rfl
@[simp] theorem State.setCar_tags (s : State) (i : Nat) (x : Caravan) : (s.setCar i x).tags = s.tags := rfl
@[simp] theorem State.setCar_eph (s : State) (i : Nat) (x : Caravan) : (s.setCar i x).eph = s.eph := rfl
@[simp] theorem State.setCar_expired (s : State) (i : Nat) (x : Caravan) : (s.setCar i x).expired = s.expired := rfl
@[simp] theorem State.setCar_frameKd (s : State) (i : Nat) (x : Caravan) : (s.setCar i x).frameKd = s.frameKd := rfl
@[simp] theorem State.setCar_kds (s : State) (i : Nat) (x : Caravan) : (s.setCar i x).kds = s.kds := rfl
@[simp] theorem State.setCar_unbacked (s : State) (i : Nat) (x : Caravan) : (s.setCar i x).unbacked = s.unbacked := rfl
@[simp] theorem State.setCar_moving (s : State) (i : Nat) (x : Caravan) : (s.setCar i x).moving = s.moving := rfl
@[simp] theorem State.setCar_hbm (s : State) (i : Nat) (x : Caravan) : (s.setCar i x).hbm = s.hbm := rfl
@[simp] theorem State.setCar_hostLines (s : State) (i : Nat) (x : Caravan) : (s.setCar i x).hostLines = s.hostLines := rfl
@[simp] theorem State.setCar_storeQ (s : State) (i : Nat) (x : Caravan) : (s.setCar i x).storeQ = s.storeQ := rfl
@[simp] theorem State.setCar_tlb (s : State) (i : Nat) (x : Caravan) : (s.setCar i x).tlb = s.tlb := rfl
@[simp] theorem State.setCar_pasids (s : State) (i : Nat) (x : Caravan) : (s.setCar i x).pasids = s.pasids := rfl
@[simp] theorem State.setCar_ats (s : State) (i : Nat) (x : Caravan) : (s.setCar i x).ats = s.ats := rfl
@[simp] theorem State.setCar_priPending (s : State) (i : Nat) (x : Caravan) : (s.setCar i x).priPending = s.priPending := rfl
@[simp] theorem State.setCar_palettes (s : State) (i : Nat) (x : Caravan) : (s.setCar i x).palettes = s.palettes := rfl
@[simp] theorem State.setCar_vis (s : State) (i : Nat) (x : Caravan) : (s.setCar i x).vis = s.vis := rfl
@[simp] theorem State.setCar_dies (s : State) (i : Nat) (x : Caravan) : (s.setCar i x).dies = s.dies := rfl
@[simp] theorem State.setCar_cycles (s : State) (i : Nat) (x : Caravan) : (s.setCar i x).cycles = s.cycles := rfl
@[simp] theorem State.setCar_points (s : State) (i : Nat) (x : Caravan) : (s.setCar i x).points = s.points := rfl
@[simp] theorem State.setCar_throttled (s : State) (i : Nat) (x : Caravan) : (s.setCar i x).throttled = s.throttled := rfl
@[simp] theorem State.setCar_powers (s : State) (i : Nat) (x : Caravan) : (s.setCar i x).powers = s.powers := rfl
@[simp] theorem State.setCar_opmax (s : State) (i : Nat) (x : Caravan) : (s.setCar i x).opmax = s.opmax := rfl
@[simp] theorem State.setCar_homes (s : State) (i : Nat) (x : Caravan) : (s.setCar i x).homes = s.homes := rfl
@[simp] theorem State.setCar_tiles (s : State) (i : Nat) (x : Caravan) : (s.setCar i x).tiles = s.tiles := rfl
@[simp] theorem State.setCar_nextTile (s : State) (i : Nat) (x : Caravan) : (s.setCar i x).nextTile = s.nextTile := rfl
@[simp] theorem State.setCar_tileSeq (s : State) (i : Nat) (x : Caravan) : (s.setCar i x).tileSeq = s.tileSeq := rfl
@[simp] theorem State.setCar_capFifo (s : State) (i : Nat) (x : Caravan) : (s.setCar i x).capFifo = s.capFifo := rfl
@[simp] theorem State.setCar_drr (s : State) (i : Nat) (x : Caravan) : (s.setCar i x).drr = s.drr := rfl
@[simp] theorem State.setCar_mevt (s : State) (i : Nat) (x : Caravan) : (s.setCar i x).mevt = s.mevt := rfl
@[simp] theorem State.setCar_boot (s : State) (i : Nat) (x : Caravan) : (s.setCar i x).boot = s.boot := rfl
@[simp] theorem State.setCar_devid (s : State) (i : Nat) (x : Caravan) : (s.setCar i x).devid = s.devid := rfl
@[simp] theorem State.setCar_dplim (s : State) (i : Nat) (x : Caravan) : (s.setCar i x).dplim = s.dplim := rfl
@[simp] theorem State.setCar_opInit (s : State) (i : Nat) (x : Caravan) : (s.setCar i x).opInit = s.opInit := rfl
@[simp] theorem State.setCar_memBytes (s : State) (i : Nat) (x : Caravan) : (s.setCar i x).memBytes = s.memBytes := rfl
@[simp] theorem State.setCar_routes (s : State) (i : Nat) (x : Caravan) : (s.setCar i x).routes = s.routes := rfl
@[simp] theorem State.setCar_linksUp (s : State) (i : Nat) (x : Caravan) : (s.setCar i x).linksUp = s.linksUp := rfl
@[simp] theorem State.setCar_unreachable (s : State) (i : Nat) (x : Caravan) : (s.setCar i x).unreachable = s.unreachable := rfl
@[simp] theorem State.setCar_ports (s : State) (i : Nat) (x : Caravan) : (s.setCar i x).ports = s.ports := rfl
@[simp] theorem State.setCar_shadow (s : State) (i : Nat) (x : Caravan) : (s.setCar i x).shadow = s.shadow := rfl
@[simp] theorem State.setCar_thermal (s : State) (i : Nat) (x : Caravan) : (s.setCar i x).thermal = s.thermal := rfl
@[simp] theorem State.setCar_regs (s : State) (i : Nat) (x : Caravan) : (s.setCar i x).regs = s.regs := rfl
@[simp] theorem State.setCar_out (s : State) (i : Nat) (x : Caravan) : (s.setCar i x).out = s.out := rfl

/-! ### State.setVi -/

@[simp] theorem State.setVi_strands (s : State) (i : Nat) (x : Vi) : (s.setVi i x).strands = s.strands := rfl
@[simp] theorem State.setVi_teams (s : State) (i : Nat) (x : Vi) : (s.setVi i x).teams = s.teams := rfl
@[simp] theorem State.setVi_caravans (s : State) (i : Nat) (x : Vi) : (s.setVi i x).caravans = s.caravans := rfl
@[simp] theorem State.setVi_nextSid (s : State) (i : Nat) (x : Vi) : (s.setVi i x).nextSid = s.nextSid := rfl
@[simp] theorem State.setVi_nextTeam (s : State) (i : Nat) (x : Vi) : (s.setVi i x).nextTeam = s.nextTeam := rfl
@[simp] theorem State.setVi_nextCaravan (s : State) (i : Nat) (x : Vi) : (s.setVi i x).nextCaravan = s.nextCaravan := rfl
@[simp] theorem State.setVi_launchSeq (s : State) (i : Nat) (x : Vi) : (s.setVi i x).launchSeq = s.launchSeq := rfl
@[simp] theorem State.setVi_admitSeq (s : State) (i : Nat) (x : Vi) : (s.setVi i x).admitSeq = s.admitSeq := rfl
@[simp] theorem State.setVi_cur (s : State) (i : Nat) (x : Vi) : (s.setVi i x).cur = s.cur := rfl
@[simp] theorem State.setVi_turnAt (s : State) (i : Nat) (x : Vi) : (s.setVi i x).turnAt = s.turnAt := rfl
@[simp] theorem State.setVi_cyc (s : State) (i : Nat) (x : Vi) : (s.setVi i x).cyc = s.cyc := rfl
@[simp] theorem State.setVi_agenda (s : State) (i : Nat) (x : Vi) : (s.setVi i x).agenda = s.agenda := rfl
@[simp] theorem State.setVi_deferred (s : State) (i : Nat) (x : Vi) : (s.setVi i x).deferred = s.deferred := rfl
@[simp] theorem State.setVi_tick (s : State) (i : Nat) (x : Vi) : (s.setVi i x).tick = s.tick := rfl
@[simp] theorem State.setVi_mem (s : State) (i : Nat) (x : Vi) : (s.setVi i x).mem = s.mem := rfl
@[simp] theorem State.setVi_tags (s : State) (i : Nat) (x : Vi) : (s.setVi i x).tags = s.tags := rfl
@[simp] theorem State.setVi_eph (s : State) (i : Nat) (x : Vi) : (s.setVi i x).eph = s.eph := rfl
@[simp] theorem State.setVi_expired (s : State) (i : Nat) (x : Vi) : (s.setVi i x).expired = s.expired := rfl
@[simp] theorem State.setVi_frameKd (s : State) (i : Nat) (x : Vi) : (s.setVi i x).frameKd = s.frameKd := rfl
@[simp] theorem State.setVi_kds (s : State) (i : Nat) (x : Vi) : (s.setVi i x).kds = s.kds := rfl
@[simp] theorem State.setVi_unbacked (s : State) (i : Nat) (x : Vi) : (s.setVi i x).unbacked = s.unbacked := rfl
@[simp] theorem State.setVi_moving (s : State) (i : Nat) (x : Vi) : (s.setVi i x).moving = s.moving := rfl
@[simp] theorem State.setVi_hbm (s : State) (i : Nat) (x : Vi) : (s.setVi i x).hbm = s.hbm := rfl
@[simp] theorem State.setVi_hostLines (s : State) (i : Nat) (x : Vi) : (s.setVi i x).hostLines = s.hostLines := rfl
@[simp] theorem State.setVi_storeQ (s : State) (i : Nat) (x : Vi) : (s.setVi i x).storeQ = s.storeQ := rfl
@[simp] theorem State.setVi_tlb (s : State) (i : Nat) (x : Vi) : (s.setVi i x).tlb = s.tlb := rfl
@[simp] theorem State.setVi_pasids (s : State) (i : Nat) (x : Vi) : (s.setVi i x).pasids = s.pasids := rfl
@[simp] theorem State.setVi_ats (s : State) (i : Nat) (x : Vi) : (s.setVi i x).ats = s.ats := rfl
@[simp] theorem State.setVi_priPending (s : State) (i : Nat) (x : Vi) : (s.setVi i x).priPending = s.priPending := rfl
@[simp] theorem State.setVi_palettes (s : State) (i : Nat) (x : Vi) : (s.setVi i x).palettes = s.palettes := rfl
@[simp] theorem State.setVi_dies (s : State) (i : Nat) (x : Vi) : (s.setVi i x).dies = s.dies := rfl
@[simp] theorem State.setVi_cycles (s : State) (i : Nat) (x : Vi) : (s.setVi i x).cycles = s.cycles := rfl
@[simp] theorem State.setVi_points (s : State) (i : Nat) (x : Vi) : (s.setVi i x).points = s.points := rfl
@[simp] theorem State.setVi_throttled (s : State) (i : Nat) (x : Vi) : (s.setVi i x).throttled = s.throttled := rfl
@[simp] theorem State.setVi_powers (s : State) (i : Nat) (x : Vi) : (s.setVi i x).powers = s.powers := rfl
@[simp] theorem State.setVi_opmax (s : State) (i : Nat) (x : Vi) : (s.setVi i x).opmax = s.opmax := rfl
@[simp] theorem State.setVi_homes (s : State) (i : Nat) (x : Vi) : (s.setVi i x).homes = s.homes := rfl
@[simp] theorem State.setVi_tiles (s : State) (i : Nat) (x : Vi) : (s.setVi i x).tiles = s.tiles := rfl
@[simp] theorem State.setVi_nextTile (s : State) (i : Nat) (x : Vi) : (s.setVi i x).nextTile = s.nextTile := rfl
@[simp] theorem State.setVi_tileSeq (s : State) (i : Nat) (x : Vi) : (s.setVi i x).tileSeq = s.tileSeq := rfl
@[simp] theorem State.setVi_capFifo (s : State) (i : Nat) (x : Vi) : (s.setVi i x).capFifo = s.capFifo := rfl
@[simp] theorem State.setVi_drr (s : State) (i : Nat) (x : Vi) : (s.setVi i x).drr = s.drr := rfl
@[simp] theorem State.setVi_mevt (s : State) (i : Nat) (x : Vi) : (s.setVi i x).mevt = s.mevt := rfl
@[simp] theorem State.setVi_boot (s : State) (i : Nat) (x : Vi) : (s.setVi i x).boot = s.boot := rfl
@[simp] theorem State.setVi_devid (s : State) (i : Nat) (x : Vi) : (s.setVi i x).devid = s.devid := rfl
@[simp] theorem State.setVi_dplim (s : State) (i : Nat) (x : Vi) : (s.setVi i x).dplim = s.dplim := rfl
@[simp] theorem State.setVi_opInit (s : State) (i : Nat) (x : Vi) : (s.setVi i x).opInit = s.opInit := rfl
@[simp] theorem State.setVi_memBytes (s : State) (i : Nat) (x : Vi) : (s.setVi i x).memBytes = s.memBytes := rfl
@[simp] theorem State.setVi_routes (s : State) (i : Nat) (x : Vi) : (s.setVi i x).routes = s.routes := rfl
@[simp] theorem State.setVi_linksUp (s : State) (i : Nat) (x : Vi) : (s.setVi i x).linksUp = s.linksUp := rfl
@[simp] theorem State.setVi_unreachable (s : State) (i : Nat) (x : Vi) : (s.setVi i x).unreachable = s.unreachable := rfl
@[simp] theorem State.setVi_ports (s : State) (i : Nat) (x : Vi) : (s.setVi i x).ports = s.ports := rfl
@[simp] theorem State.setVi_shadow (s : State) (i : Nat) (x : Vi) : (s.setVi i x).shadow = s.shadow := rfl
@[simp] theorem State.setVi_thermal (s : State) (i : Nat) (x : Vi) : (s.setVi i x).thermal = s.thermal := rfl
@[simp] theorem State.setVi_regs (s : State) (i : Nat) (x : Vi) : (s.setVi i x).regs = s.regs := rfl
@[simp] theorem State.setVi_out (s : State) (i : Nat) (x : Vi) : (s.setVi i x).out = s.out := rfl

/-! ### State.setDie -/

@[simp] theorem State.setDie_strands (s : State) (i : Nat) (x : Die) : (s.setDie i x).strands = s.strands := rfl
@[simp] theorem State.setDie_teams (s : State) (i : Nat) (x : Die) : (s.setDie i x).teams = s.teams := rfl
@[simp] theorem State.setDie_caravans (s : State) (i : Nat) (x : Die) : (s.setDie i x).caravans = s.caravans := rfl
@[simp] theorem State.setDie_nextSid (s : State) (i : Nat) (x : Die) : (s.setDie i x).nextSid = s.nextSid := rfl
@[simp] theorem State.setDie_nextTeam (s : State) (i : Nat) (x : Die) : (s.setDie i x).nextTeam = s.nextTeam := rfl
@[simp] theorem State.setDie_nextCaravan (s : State) (i : Nat) (x : Die) : (s.setDie i x).nextCaravan = s.nextCaravan := rfl
@[simp] theorem State.setDie_launchSeq (s : State) (i : Nat) (x : Die) : (s.setDie i x).launchSeq = s.launchSeq := rfl
@[simp] theorem State.setDie_admitSeq (s : State) (i : Nat) (x : Die) : (s.setDie i x).admitSeq = s.admitSeq := rfl
@[simp] theorem State.setDie_cur (s : State) (i : Nat) (x : Die) : (s.setDie i x).cur = s.cur := rfl
@[simp] theorem State.setDie_turnAt (s : State) (i : Nat) (x : Die) : (s.setDie i x).turnAt = s.turnAt := rfl
@[simp] theorem State.setDie_cyc (s : State) (i : Nat) (x : Die) : (s.setDie i x).cyc = s.cyc := rfl
@[simp] theorem State.setDie_agenda (s : State) (i : Nat) (x : Die) : (s.setDie i x).agenda = s.agenda := rfl
@[simp] theorem State.setDie_deferred (s : State) (i : Nat) (x : Die) : (s.setDie i x).deferred = s.deferred := rfl
@[simp] theorem State.setDie_tick (s : State) (i : Nat) (x : Die) : (s.setDie i x).tick = s.tick := rfl
@[simp] theorem State.setDie_mem (s : State) (i : Nat) (x : Die) : (s.setDie i x).mem = s.mem := rfl
@[simp] theorem State.setDie_tags (s : State) (i : Nat) (x : Die) : (s.setDie i x).tags = s.tags := rfl
@[simp] theorem State.setDie_eph (s : State) (i : Nat) (x : Die) : (s.setDie i x).eph = s.eph := rfl
@[simp] theorem State.setDie_expired (s : State) (i : Nat) (x : Die) : (s.setDie i x).expired = s.expired := rfl
@[simp] theorem State.setDie_frameKd (s : State) (i : Nat) (x : Die) : (s.setDie i x).frameKd = s.frameKd := rfl
@[simp] theorem State.setDie_kds (s : State) (i : Nat) (x : Die) : (s.setDie i x).kds = s.kds := rfl
@[simp] theorem State.setDie_unbacked (s : State) (i : Nat) (x : Die) : (s.setDie i x).unbacked = s.unbacked := rfl
@[simp] theorem State.setDie_moving (s : State) (i : Nat) (x : Die) : (s.setDie i x).moving = s.moving := rfl
@[simp] theorem State.setDie_hbm (s : State) (i : Nat) (x : Die) : (s.setDie i x).hbm = s.hbm := rfl
@[simp] theorem State.setDie_hostLines (s : State) (i : Nat) (x : Die) : (s.setDie i x).hostLines = s.hostLines := rfl
@[simp] theorem State.setDie_storeQ (s : State) (i : Nat) (x : Die) : (s.setDie i x).storeQ = s.storeQ := rfl
@[simp] theorem State.setDie_tlb (s : State) (i : Nat) (x : Die) : (s.setDie i x).tlb = s.tlb := rfl
@[simp] theorem State.setDie_pasids (s : State) (i : Nat) (x : Die) : (s.setDie i x).pasids = s.pasids := rfl
@[simp] theorem State.setDie_ats (s : State) (i : Nat) (x : Die) : (s.setDie i x).ats = s.ats := rfl
@[simp] theorem State.setDie_priPending (s : State) (i : Nat) (x : Die) : (s.setDie i x).priPending = s.priPending := rfl
@[simp] theorem State.setDie_palettes (s : State) (i : Nat) (x : Die) : (s.setDie i x).palettes = s.palettes := rfl
@[simp] theorem State.setDie_vis (s : State) (i : Nat) (x : Die) : (s.setDie i x).vis = s.vis := rfl
@[simp] theorem State.setDie_cycles (s : State) (i : Nat) (x : Die) : (s.setDie i x).cycles = s.cycles := rfl
@[simp] theorem State.setDie_points (s : State) (i : Nat) (x : Die) : (s.setDie i x).points = s.points := rfl
@[simp] theorem State.setDie_throttled (s : State) (i : Nat) (x : Die) : (s.setDie i x).throttled = s.throttled := rfl
@[simp] theorem State.setDie_powers (s : State) (i : Nat) (x : Die) : (s.setDie i x).powers = s.powers := rfl
@[simp] theorem State.setDie_opmax (s : State) (i : Nat) (x : Die) : (s.setDie i x).opmax = s.opmax := rfl
@[simp] theorem State.setDie_homes (s : State) (i : Nat) (x : Die) : (s.setDie i x).homes = s.homes := rfl
@[simp] theorem State.setDie_tiles (s : State) (i : Nat) (x : Die) : (s.setDie i x).tiles = s.tiles := rfl
@[simp] theorem State.setDie_nextTile (s : State) (i : Nat) (x : Die) : (s.setDie i x).nextTile = s.nextTile := rfl
@[simp] theorem State.setDie_tileSeq (s : State) (i : Nat) (x : Die) : (s.setDie i x).tileSeq = s.tileSeq := rfl
@[simp] theorem State.setDie_capFifo (s : State) (i : Nat) (x : Die) : (s.setDie i x).capFifo = s.capFifo := rfl
@[simp] theorem State.setDie_drr (s : State) (i : Nat) (x : Die) : (s.setDie i x).drr = s.drr := rfl
@[simp] theorem State.setDie_mevt (s : State) (i : Nat) (x : Die) : (s.setDie i x).mevt = s.mevt := rfl
@[simp] theorem State.setDie_boot (s : State) (i : Nat) (x : Die) : (s.setDie i x).boot = s.boot := rfl
@[simp] theorem State.setDie_devid (s : State) (i : Nat) (x : Die) : (s.setDie i x).devid = s.devid := rfl
@[simp] theorem State.setDie_dplim (s : State) (i : Nat) (x : Die) : (s.setDie i x).dplim = s.dplim := rfl
@[simp] theorem State.setDie_opInit (s : State) (i : Nat) (x : Die) : (s.setDie i x).opInit = s.opInit := rfl
@[simp] theorem State.setDie_memBytes (s : State) (i : Nat) (x : Die) : (s.setDie i x).memBytes = s.memBytes := rfl
@[simp] theorem State.setDie_routes (s : State) (i : Nat) (x : Die) : (s.setDie i x).routes = s.routes := rfl
@[simp] theorem State.setDie_linksUp (s : State) (i : Nat) (x : Die) : (s.setDie i x).linksUp = s.linksUp := rfl
@[simp] theorem State.setDie_unreachable (s : State) (i : Nat) (x : Die) : (s.setDie i x).unreachable = s.unreachable := rfl
@[simp] theorem State.setDie_ports (s : State) (i : Nat) (x : Die) : (s.setDie i x).ports = s.ports := rfl
@[simp] theorem State.setDie_shadow (s : State) (i : Nat) (x : Die) : (s.setDie i x).shadow = s.shadow := rfl
@[simp] theorem State.setDie_thermal (s : State) (i : Nat) (x : Die) : (s.setDie i x).thermal = s.thermal := rfl
@[simp] theorem State.setDie_regs (s : State) (i : Nat) (x : Die) : (s.setDie i x).regs = s.regs := rfl
@[simp] theorem State.setDie_out (s : State) (i : Nat) (x : Die) : (s.setDie i x).out = s.out := rfl

/-! ### Reading what was set -/

@[simp] theorem State.me_setMe (s : State) (st : Strand) : (s.setMe st).me = st := by simp [State.me, State.setMe]

@[simp] theorem State.strand_setStrand (s : State) (i : Nat) (st : Strand) : (s.setStrand i st).strand i = st := by
  simp [State.strand, State.setStrand]

theorem State.strand_setStrand_ne (s : State) (i j : Nat) (st : Strand) (h : j ≠ i) :
    (s.setStrand i st).strand j = s.strand j := by
  simp [State.strand, State.setStrand, Tab.get_put_ne, h]

theorem State.strand_setMe_ne (s : State) (j : Nat) (st : Strand) (h : j ≠ s.cur) :
    (s.setMe st).strand j = s.strand j := by
  simp [State.strand, State.setMe, Tab.get_put_ne, h]

theorem State.strand_cur (s : State) : s.strand s.cur = s.me := rfl

@[simp] theorem State.team_setTeam (s : State) (i : Nat) (x : Team) : (s.setTeam i x).team i = x := by
  simp [State.team, State.setTeam]

theorem State.team_setTeam_ne (s : State) (i j : Nat) (x : Team) (h : j ≠ i) : (s.setTeam i x).team j = s.team j := by
  simp [State.team, State.setTeam, Tab.get_put_ne, h]

@[simp] theorem State.car_setCar (s : State) (i : Nat) (x : Caravan) : (s.setCar i x).car i = x := by
  simp [State.car, State.setCar]

@[simp] theorem State.vi_setVi (s : State) (i : Nat) (x : Vi) : (s.setVi i x).vi i = x := by
  simp [State.vi, State.setVi]

theorem State.vi_setVi_ne (s : State) (i j : Nat) (x : Vi) (h : j ≠ i) : (s.setVi i x).vi j = s.vi j := by
  simp [State.vi, State.setVi, Tab.get_put_ne, h]

@[simp] theorem State.die_setDie (s : State) (i : Nat) (x : Die) : (s.setDie i x).die i = x := by
  simp [State.die, State.setDie]

@[simp] theorem State.team_setMe (s : State) (st : Strand) (i : Nat) : (s.setMe st).team i = s.team i := rfl

@[simp] theorem State.car_setMe (s : State) (st : Strand) (i : Nat) : (s.setMe st).car i = s.car i := rfl

@[simp] theorem State.vi_setMe (s : State) (st : Strand) (i : Nat) : (s.setMe st).vi i = s.vi i := rfl

@[simp] theorem State.carOf_setMe (s : State) (st x : Strand) : (s.setMe st).carOf x = s.carOf x := rfl

@[simp] theorem State.me_setVi (s : State) (i : Nat) (x : Vi) : (s.setVi i x).me = s.me := rfl

@[simp] theorem State.me_setTeam (s : State) (i : Nat) (x : Team) : (s.setTeam i x).me = s.me := rfl

@[simp] theorem State.me_setMyTeam (s : State) (x : Team) : (s.setMyTeam x).me = s.me := rfl

@[simp] theorem State.me_setCar (s : State) (i : Nat) (x : Caravan) : (s.setCar i x).me = s.me := rfl

@[simp] theorem State.strand_setVi (s : State) (i j : Nat) (x : Vi) : (s.setVi i x).strand j = s.strand j := rfl

@[simp] theorem State.strand_setTeam (s : State) (i j : Nat) (x : Team) : (s.setTeam i x).strand j = s.strand j := rfl

/-! ### Strand.setS -/

@[simp] theorem Strand.setS_team (st : Strand) (n : Nat) (w : Word) : (st.setS n w).team = st.team := by
  unfold Strand.setS; split <;> rfl
@[simp] theorem Strand.setS_idx (st : Strand) (n : Nat) (w : Word) : (st.setS n w).idx = st.idx := by
  unfold Strand.setS; split <;> rfl
@[simp] theorem Strand.setS_run (st : Strand) (n : Nat) (w : Word) : (st.setS n w).run = st.run := by
  unfold Strand.setS; split <;> rfl
@[simp] theorem Strand.setS_pc (st : Strand) (n : Nat) (w : Word) : (st.setS n w).pc = st.pc := by
  unfold Strand.setS; split <;> rfl
@[simp] theorem Strand.setS_priv (st : Strand) (n : Nat) (w : Word) : (st.setS n w).priv = st.priv := by
  unfold Strand.setS; split <;> rfl
@[simp] theorem Strand.setS_i (st : Strand) (n : Nat) (w : Word) : (st.setS n w).i = st.i := by
  unfold Strand.setS; split <;> rfl
@[simp] theorem Strand.setS_v (st : Strand) (n : Nat) (w : Word) : (st.setS n w).v = st.v := by
  unfold Strand.setS; split <;> rfl
@[simp] theorem Strand.setS_m (st : Strand) (n : Nat) (w : Word) : (st.setS n w).m = st.m := by
  unfold Strand.setS; split <;> rfl
@[simp] theorem Strand.setS_h (st : Strand) (n : Nat) (w : Word) : (st.setS n w).h = st.h := by
  unfold Strand.setS; split <;> rfl
@[simp] theorem Strand.setS_vl (st : Strand) (n : Nat) (w : Word) : (st.setS n w).vl = st.vl := by
  unfold Strand.setS; split <;> rfl
@[simp] theorem Strand.setS_vfmt (st : Strand) (n : Nat) (w : Word) : (st.setS n w).vfmt = st.vfmt := by
  unfold Strand.setS; split <;> rfl
@[simp] theorem Strand.setS_vpad (st : Strand) (n : Nat) (w : Word) : (st.setS n w).vpad = st.vpad := by
  unfold Strand.setS; split <;> rfl
@[simp] theorem Strand.setS_tstart (st : Strand) (n : Nat) (w : Word) : (st.setS n w).tstart = st.tstart := by
  unfold Strand.setS; split <;> rfl
@[simp] theorem Strand.setS_mstep (st : Strand) (n : Nat) (w : Word) : (st.setS n w).mstep = st.mstep := by
  unfold Strand.setS; split <;> rfl
@[simp] theorem Strand.setS_fctl (st : Strand) (n : Nat) (w : Word) : (st.setS n w).fctl = st.fctl := by
  unfold Strand.setS; split <;> rfl
@[simp] theorem Strand.setS_palsel (st : Strand) (n : Nat) (w : Word) : (st.setS n w).palsel = st.palsel := by
  unfold Strand.setS; split <;> rfl
@[simp] theorem Strand.setS_vdirty (st : Strand) (n : Nat) (w : Word) : (st.setS n w).vdirty = st.vdirty := by
  unfold Strand.setS; split <;> rfl
@[simp] theorem Strand.setS_vpresent (st : Strand) (n : Nat) (w : Word) : (st.setS n w).vpresent = st.vpresent := by
  unfold Strand.setS; split <;> rfl
@[simp] theorem Strand.setS_progress (st : Strand) (n : Nat) (w : Word) : (st.setS n w).progress = st.progress := by
  unfold Strand.setS; split <;> rfl
@[simp] theorem Strand.setS_ut (st : Strand) (n : Nat) (w : Word) : (st.setS n w).ut = st.ut := by
  unfold Strand.setS; split <;> rfl
@[simp] theorem Strand.setS_st (st : Strand) (n : Nat) (w : Word) : (st.setS n w).st = st.st := by
  unfold Strand.setS; split <;> rfl
@[simp] theorem Strand.setS_mt (st : Strand) (n : Nat) (w : Word) : (st.setS n w).mt = st.mt := by
  unfold Strand.setS; split <;> rfl
@[simp] theorem Strand.setS_sscratch (st : Strand) (n : Nat) (w : Word) : (st.setS n w).sscratch = st.sscratch := by
  unfold Strand.setS; split <;> rfl
@[simp] theorem Strand.setS_mscratch (st : Strand) (n : Nat) (w : Word) : (st.setS n w).mscratch = st.mscratch := by
  unfold Strand.setS; split <;> rfl
@[simp] theorem Strand.setS_vicur (st : Strand) (n : Nat) (w : Word) : (st.setS n w).vicur = st.vicur := by
  unfold Strand.setS; split <;> rfl
@[simp] theorem Strand.setS_wdrem (st : Strand) (n : Nat) (w : Word) : (st.setS n w).wdrem = st.wdrem := by
  unfold Strand.setS; split <;> rfl
@[simp] theorem Strand.setS_wdwin (st : Strand) (n : Nat) (w : Word) : (st.setS n w).wdwin = st.wdwin := by
  unfold Strand.setS; split <;> rfl
@[simp] theorem Strand.setS_wdExpired (st : Strand) (n : Nat) (w : Word) : (st.setS n w).wdExpired = st.wdExpired := by
  unfold Strand.setS; split <;> rfl
@[simp] theorem Strand.setS_pend (st : Strand) (n : Nat) (w : Word) : (st.setS n w).pend = st.pend := by
  unfold Strand.setS; split <;> rfl
@[simp] theorem Strand.setS_sstep (st : Strand) (n : Nat) (w : Word) : (st.setS n w).sstep = st.sstep := by
  unfold Strand.setS; split <;> rfl
@[simp] theorem Strand.setS_lanes (st : Strand) (n : Nat) (w : Word) : (st.setS n w).lanes = st.lanes := by
  unfold Strand.setS; split <;> rfl
@[simp] theorem Strand.setS_slot (st : Strand) (n : Nat) (w : Word) : (st.setS n w).slot = st.slot := by
  unfold Strand.setS; split <;> rfl
@[simp] theorem Strand.setS_waited (st : Strand) (n : Nat) (w : Word) : (st.setS n w).waited = st.waited := by
  unfold Strand.setS; split <;> rfl
@[simp] theorem Strand.setS_nmax (st : Strand) (n : Nat) (w : Word) : (st.setS n w).nmax = st.nmax := by
  unfold Strand.setS; split <;> rfl
@[simp] theorem Strand.setS_xlast (st : Strand) (n : Nat) (w : Word) : (st.setS n w).xlast = st.xlast := by
  unfold Strand.setS; split <;> rfl
@[simp] theorem Strand.setS_got (st : Strand) (n : Nat) (w : Word) : (st.setS n w).got = st.got := by
  unfold Strand.setS; split <;> rfl
@[simp] theorem Strand.setS_late (st : Strand) (n : Nat) (w : Word) : (st.setS n w).late = st.late := by
  unfold Strand.setS; split <;> rfl
@[simp] theorem Strand.setS_charged (st : Strand) (n : Nat) (w : Word) : (st.setS n w).charged = st.charged := by
  unfold Strand.setS; split <;> rfl
@[simp] theorem Strand.setS_shun (st : Strand) (n : Nat) (w : Word) : (st.setS n w).shun = st.shun := by
  unfold Strand.setS; split <;> rfl
@[simp] theorem Strand.setS_reqs (st : Strand) (n : Nat) (w : Word) : (st.setS n w).reqs = st.reqs := by
  unfold Strand.setS; split <;> rfl
@[simp] theorem Strand.setS_homing (st : Strand) (n : Nat) (w : Word) : (st.setS n w).homing = st.homing := by
  unfold Strand.setS; split <;> rfl

/-! ### Strand.setI -/

@[simp] theorem Strand.setI_team (st : Strand) (n : Nat) (w : Word) : (st.setI n w).team = st.team := rfl
@[simp] theorem Strand.setI_idx (st : Strand) (n : Nat) (w : Word) : (st.setI n w).idx = st.idx := rfl
@[simp] theorem Strand.setI_run (st : Strand) (n : Nat) (w : Word) : (st.setI n w).run = st.run := rfl
@[simp] theorem Strand.setI_pc (st : Strand) (n : Nat) (w : Word) : (st.setI n w).pc = st.pc := rfl
@[simp] theorem Strand.setI_priv (st : Strand) (n : Nat) (w : Word) : (st.setI n w).priv = st.priv := rfl
@[simp] theorem Strand.setI_s (st : Strand) (n : Nat) (w : Word) : (st.setI n w).s = st.s := rfl
@[simp] theorem Strand.setI_v (st : Strand) (n : Nat) (w : Word) : (st.setI n w).v = st.v := rfl
@[simp] theorem Strand.setI_m (st : Strand) (n : Nat) (w : Word) : (st.setI n w).m = st.m := rfl
@[simp] theorem Strand.setI_h (st : Strand) (n : Nat) (w : Word) : (st.setI n w).h = st.h := rfl
@[simp] theorem Strand.setI_vl (st : Strand) (n : Nat) (w : Word) : (st.setI n w).vl = st.vl := rfl
@[simp] theorem Strand.setI_vfmt (st : Strand) (n : Nat) (w : Word) : (st.setI n w).vfmt = st.vfmt := rfl
@[simp] theorem Strand.setI_vpad (st : Strand) (n : Nat) (w : Word) : (st.setI n w).vpad = st.vpad := rfl
@[simp] theorem Strand.setI_tstart (st : Strand) (n : Nat) (w : Word) : (st.setI n w).tstart = st.tstart := rfl
@[simp] theorem Strand.setI_mstep (st : Strand) (n : Nat) (w : Word) : (st.setI n w).mstep = st.mstep := rfl
@[simp] theorem Strand.setI_fctl (st : Strand) (n : Nat) (w : Word) : (st.setI n w).fctl = st.fctl := rfl
@[simp] theorem Strand.setI_palsel (st : Strand) (n : Nat) (w : Word) : (st.setI n w).palsel = st.palsel := rfl
@[simp] theorem Strand.setI_vdirty (st : Strand) (n : Nat) (w : Word) : (st.setI n w).vdirty = st.vdirty := rfl
@[simp] theorem Strand.setI_vpresent (st : Strand) (n : Nat) (w : Word) : (st.setI n w).vpresent = st.vpresent := rfl
@[simp] theorem Strand.setI_progress (st : Strand) (n : Nat) (w : Word) : (st.setI n w).progress = st.progress := rfl
@[simp] theorem Strand.setI_ut (st : Strand) (n : Nat) (w : Word) : (st.setI n w).ut = st.ut := rfl
@[simp] theorem Strand.setI_st (st : Strand) (n : Nat) (w : Word) : (st.setI n w).st = st.st := rfl
@[simp] theorem Strand.setI_mt (st : Strand) (n : Nat) (w : Word) : (st.setI n w).mt = st.mt := rfl
@[simp] theorem Strand.setI_sscratch (st : Strand) (n : Nat) (w : Word) : (st.setI n w).sscratch = st.sscratch := rfl
@[simp] theorem Strand.setI_mscratch (st : Strand) (n : Nat) (w : Word) : (st.setI n w).mscratch = st.mscratch := rfl
@[simp] theorem Strand.setI_vicur (st : Strand) (n : Nat) (w : Word) : (st.setI n w).vicur = st.vicur := rfl
@[simp] theorem Strand.setI_wdrem (st : Strand) (n : Nat) (w : Word) : (st.setI n w).wdrem = st.wdrem := rfl
@[simp] theorem Strand.setI_wdwin (st : Strand) (n : Nat) (w : Word) : (st.setI n w).wdwin = st.wdwin := rfl
@[simp] theorem Strand.setI_wdExpired (st : Strand) (n : Nat) (w : Word) : (st.setI n w).wdExpired = st.wdExpired := rfl
@[simp] theorem Strand.setI_pend (st : Strand) (n : Nat) (w : Word) : (st.setI n w).pend = st.pend := rfl
@[simp] theorem Strand.setI_sstep (st : Strand) (n : Nat) (w : Word) : (st.setI n w).sstep = st.sstep := rfl
@[simp] theorem Strand.setI_lanes (st : Strand) (n : Nat) (w : Word) : (st.setI n w).lanes = st.lanes := rfl
@[simp] theorem Strand.setI_slot (st : Strand) (n : Nat) (w : Word) : (st.setI n w).slot = st.slot := rfl
@[simp] theorem Strand.setI_waited (st : Strand) (n : Nat) (w : Word) : (st.setI n w).waited = st.waited := rfl
@[simp] theorem Strand.setI_nmax (st : Strand) (n : Nat) (w : Word) : (st.setI n w).nmax = st.nmax := rfl
@[simp] theorem Strand.setI_xlast (st : Strand) (n : Nat) (w : Word) : (st.setI n w).xlast = st.xlast := rfl
@[simp] theorem Strand.setI_got (st : Strand) (n : Nat) (w : Word) : (st.setI n w).got = st.got := rfl
@[simp] theorem Strand.setI_late (st : Strand) (n : Nat) (w : Word) : (st.setI n w).late = st.late := rfl
@[simp] theorem Strand.setI_charged (st : Strand) (n : Nat) (w : Word) : (st.setI n w).charged = st.charged := rfl
@[simp] theorem Strand.setI_shun (st : Strand) (n : Nat) (w : Word) : (st.setI n w).shun = st.shun := rfl
@[simp] theorem Strand.setI_reqs (st : Strand) (n : Nat) (w : Word) : (st.setI n w).reqs = st.reqs := rfl
@[simp] theorem Strand.setI_homing (st : Strand) (n : Nat) (w : Word) : (st.setI n w).homing = st.homing := rfl

/-! ### Strand.setV -/

@[simp] theorem Strand.setV_team (st : Strand) (n : Nat) (r : VReg) : (st.setV n r).team = st.team := rfl
@[simp] theorem Strand.setV_idx (st : Strand) (n : Nat) (r : VReg) : (st.setV n r).idx = st.idx := rfl
@[simp] theorem Strand.setV_run (st : Strand) (n : Nat) (r : VReg) : (st.setV n r).run = st.run := rfl
@[simp] theorem Strand.setV_pc (st : Strand) (n : Nat) (r : VReg) : (st.setV n r).pc = st.pc := rfl
@[simp] theorem Strand.setV_priv (st : Strand) (n : Nat) (r : VReg) : (st.setV n r).priv = st.priv := rfl
@[simp] theorem Strand.setV_s (st : Strand) (n : Nat) (r : VReg) : (st.setV n r).s = st.s := rfl
@[simp] theorem Strand.setV_i (st : Strand) (n : Nat) (r : VReg) : (st.setV n r).i = st.i := rfl
@[simp] theorem Strand.setV_m (st : Strand) (n : Nat) (r : VReg) : (st.setV n r).m = st.m := rfl
@[simp] theorem Strand.setV_h (st : Strand) (n : Nat) (r : VReg) : (st.setV n r).h = st.h := rfl
@[simp] theorem Strand.setV_vl (st : Strand) (n : Nat) (r : VReg) : (st.setV n r).vl = st.vl := rfl
@[simp] theorem Strand.setV_vfmt (st : Strand) (n : Nat) (r : VReg) : (st.setV n r).vfmt = st.vfmt := rfl
@[simp] theorem Strand.setV_vpad (st : Strand) (n : Nat) (r : VReg) : (st.setV n r).vpad = st.vpad := rfl
@[simp] theorem Strand.setV_tstart (st : Strand) (n : Nat) (r : VReg) : (st.setV n r).tstart = st.tstart := rfl
@[simp] theorem Strand.setV_mstep (st : Strand) (n : Nat) (r : VReg) : (st.setV n r).mstep = st.mstep := rfl
@[simp] theorem Strand.setV_fctl (st : Strand) (n : Nat) (r : VReg) : (st.setV n r).fctl = st.fctl := rfl
@[simp] theorem Strand.setV_palsel (st : Strand) (n : Nat) (r : VReg) : (st.setV n r).palsel = st.palsel := rfl
@[simp] theorem Strand.setV_vpresent (st : Strand) (n : Nat) (r : VReg) : (st.setV n r).vpresent = st.vpresent := rfl
@[simp] theorem Strand.setV_progress (st : Strand) (n : Nat) (r : VReg) : (st.setV n r).progress = st.progress := rfl
@[simp] theorem Strand.setV_ut (st : Strand) (n : Nat) (r : VReg) : (st.setV n r).ut = st.ut := rfl
@[simp] theorem Strand.setV_st (st : Strand) (n : Nat) (r : VReg) : (st.setV n r).st = st.st := rfl
@[simp] theorem Strand.setV_mt (st : Strand) (n : Nat) (r : VReg) : (st.setV n r).mt = st.mt := rfl
@[simp] theorem Strand.setV_sscratch (st : Strand) (n : Nat) (r : VReg) : (st.setV n r).sscratch = st.sscratch := rfl
@[simp] theorem Strand.setV_mscratch (st : Strand) (n : Nat) (r : VReg) : (st.setV n r).mscratch = st.mscratch := rfl
@[simp] theorem Strand.setV_vicur (st : Strand) (n : Nat) (r : VReg) : (st.setV n r).vicur = st.vicur := rfl
@[simp] theorem Strand.setV_wdrem (st : Strand) (n : Nat) (r : VReg) : (st.setV n r).wdrem = st.wdrem := rfl
@[simp] theorem Strand.setV_wdwin (st : Strand) (n : Nat) (r : VReg) : (st.setV n r).wdwin = st.wdwin := rfl
@[simp] theorem Strand.setV_wdExpired (st : Strand) (n : Nat) (r : VReg) : (st.setV n r).wdExpired = st.wdExpired := rfl
@[simp] theorem Strand.setV_pend (st : Strand) (n : Nat) (r : VReg) : (st.setV n r).pend = st.pend := rfl
@[simp] theorem Strand.setV_sstep (st : Strand) (n : Nat) (r : VReg) : (st.setV n r).sstep = st.sstep := rfl
@[simp] theorem Strand.setV_lanes (st : Strand) (n : Nat) (r : VReg) : (st.setV n r).lanes = st.lanes := rfl
@[simp] theorem Strand.setV_slot (st : Strand) (n : Nat) (r : VReg) : (st.setV n r).slot = st.slot := rfl
@[simp] theorem Strand.setV_waited (st : Strand) (n : Nat) (r : VReg) : (st.setV n r).waited = st.waited := rfl
@[simp] theorem Strand.setV_nmax (st : Strand) (n : Nat) (r : VReg) : (st.setV n r).nmax = st.nmax := rfl
@[simp] theorem Strand.setV_xlast (st : Strand) (n : Nat) (r : VReg) : (st.setV n r).xlast = st.xlast := rfl
@[simp] theorem Strand.setV_got (st : Strand) (n : Nat) (r : VReg) : (st.setV n r).got = st.got := rfl
@[simp] theorem Strand.setV_late (st : Strand) (n : Nat) (r : VReg) : (st.setV n r).late = st.late := rfl
@[simp] theorem Strand.setV_charged (st : Strand) (n : Nat) (r : VReg) : (st.setV n r).charged = st.charged := rfl
@[simp] theorem Strand.setV_shun (st : Strand) (n : Nat) (r : VReg) : (st.setV n r).shun = st.shun := rfl
@[simp] theorem Strand.setV_reqs (st : Strand) (n : Nat) (r : VReg) : (st.setV n r).reqs = st.reqs := rfl
@[simp] theorem Strand.setV_homing (st : Strand) (n : Nat) (r : VReg) : (st.setV n r).homing = st.homing := rfl

/-! ### Strand.setM -/

@[simp] theorem Strand.setM_team (st : Strand) (n : Nat) (x : BitVec 1024) : (st.setM n x).team = st.team := rfl
@[simp] theorem Strand.setM_idx (st : Strand) (n : Nat) (x : BitVec 1024) : (st.setM n x).idx = st.idx := rfl
@[simp] theorem Strand.setM_run (st : Strand) (n : Nat) (x : BitVec 1024) : (st.setM n x).run = st.run := rfl
@[simp] theorem Strand.setM_pc (st : Strand) (n : Nat) (x : BitVec 1024) : (st.setM n x).pc = st.pc := rfl
@[simp] theorem Strand.setM_priv (st : Strand) (n : Nat) (x : BitVec 1024) : (st.setM n x).priv = st.priv := rfl
@[simp] theorem Strand.setM_s (st : Strand) (n : Nat) (x : BitVec 1024) : (st.setM n x).s = st.s := rfl
@[simp] theorem Strand.setM_i (st : Strand) (n : Nat) (x : BitVec 1024) : (st.setM n x).i = st.i := rfl
@[simp] theorem Strand.setM_v (st : Strand) (n : Nat) (x : BitVec 1024) : (st.setM n x).v = st.v := rfl
@[simp] theorem Strand.setM_h (st : Strand) (n : Nat) (x : BitVec 1024) : (st.setM n x).h = st.h := rfl
@[simp] theorem Strand.setM_vl (st : Strand) (n : Nat) (x : BitVec 1024) : (st.setM n x).vl = st.vl := rfl
@[simp] theorem Strand.setM_vfmt (st : Strand) (n : Nat) (x : BitVec 1024) : (st.setM n x).vfmt = st.vfmt := rfl
@[simp] theorem Strand.setM_vpad (st : Strand) (n : Nat) (x : BitVec 1024) : (st.setM n x).vpad = st.vpad := rfl
@[simp] theorem Strand.setM_tstart (st : Strand) (n : Nat) (x : BitVec 1024) : (st.setM n x).tstart = st.tstart := rfl
@[simp] theorem Strand.setM_mstep (st : Strand) (n : Nat) (x : BitVec 1024) : (st.setM n x).mstep = st.mstep := rfl
@[simp] theorem Strand.setM_fctl (st : Strand) (n : Nat) (x : BitVec 1024) : (st.setM n x).fctl = st.fctl := rfl
@[simp] theorem Strand.setM_palsel (st : Strand) (n : Nat) (x : BitVec 1024) : (st.setM n x).palsel = st.palsel := rfl
@[simp] theorem Strand.setM_vdirty (st : Strand) (n : Nat) (x : BitVec 1024) : (st.setM n x).vdirty = st.vdirty := rfl
@[simp] theorem Strand.setM_vpresent (st : Strand) (n : Nat) (x : BitVec 1024) : (st.setM n x).vpresent = st.vpresent := rfl
@[simp] theorem Strand.setM_progress (st : Strand) (n : Nat) (x : BitVec 1024) : (st.setM n x).progress = st.progress := rfl
@[simp] theorem Strand.setM_ut (st : Strand) (n : Nat) (x : BitVec 1024) : (st.setM n x).ut = st.ut := rfl
@[simp] theorem Strand.setM_st (st : Strand) (n : Nat) (x : BitVec 1024) : (st.setM n x).st = st.st := rfl
@[simp] theorem Strand.setM_mt (st : Strand) (n : Nat) (x : BitVec 1024) : (st.setM n x).mt = st.mt := rfl
@[simp] theorem Strand.setM_sscratch (st : Strand) (n : Nat) (x : BitVec 1024) : (st.setM n x).sscratch = st.sscratch := rfl
@[simp] theorem Strand.setM_mscratch (st : Strand) (n : Nat) (x : BitVec 1024) : (st.setM n x).mscratch = st.mscratch := rfl
@[simp] theorem Strand.setM_vicur (st : Strand) (n : Nat) (x : BitVec 1024) : (st.setM n x).vicur = st.vicur := rfl
@[simp] theorem Strand.setM_wdrem (st : Strand) (n : Nat) (x : BitVec 1024) : (st.setM n x).wdrem = st.wdrem := rfl
@[simp] theorem Strand.setM_wdwin (st : Strand) (n : Nat) (x : BitVec 1024) : (st.setM n x).wdwin = st.wdwin := rfl
@[simp] theorem Strand.setM_wdExpired (st : Strand) (n : Nat) (x : BitVec 1024) : (st.setM n x).wdExpired = st.wdExpired := rfl
@[simp] theorem Strand.setM_pend (st : Strand) (n : Nat) (x : BitVec 1024) : (st.setM n x).pend = st.pend := rfl
@[simp] theorem Strand.setM_sstep (st : Strand) (n : Nat) (x : BitVec 1024) : (st.setM n x).sstep = st.sstep := rfl
@[simp] theorem Strand.setM_lanes (st : Strand) (n : Nat) (x : BitVec 1024) : (st.setM n x).lanes = st.lanes := rfl
@[simp] theorem Strand.setM_slot (st : Strand) (n : Nat) (x : BitVec 1024) : (st.setM n x).slot = st.slot := rfl
@[simp] theorem Strand.setM_waited (st : Strand) (n : Nat) (x : BitVec 1024) : (st.setM n x).waited = st.waited := rfl
@[simp] theorem Strand.setM_nmax (st : Strand) (n : Nat) (x : BitVec 1024) : (st.setM n x).nmax = st.nmax := rfl
@[simp] theorem Strand.setM_xlast (st : Strand) (n : Nat) (x : BitVec 1024) : (st.setM n x).xlast = st.xlast := rfl
@[simp] theorem Strand.setM_got (st : Strand) (n : Nat) (x : BitVec 1024) : (st.setM n x).got = st.got := rfl
@[simp] theorem Strand.setM_late (st : Strand) (n : Nat) (x : BitVec 1024) : (st.setM n x).late = st.late := rfl
@[simp] theorem Strand.setM_charged (st : Strand) (n : Nat) (x : BitVec 1024) : (st.setM n x).charged = st.charged := rfl
@[simp] theorem Strand.setM_shun (st : Strand) (n : Nat) (x : BitVec 1024) : (st.setM n x).shun = st.shun := rfl
@[simp] theorem Strand.setM_reqs (st : Strand) (n : Nat) (x : BitVec 1024) : (st.setM n x).reqs = st.reqs := rfl
@[simp] theorem Strand.setM_homing (st : Strand) (n : Nat) (x : BitVec 1024) : (st.setM n x).homing = st.homing := rfl

/-! ### Strand.setH -/

@[simp] theorem Strand.setH_team (st : Strand) (n : Nat) (x : Manifest) : (st.setH n x).team = st.team := rfl
@[simp] theorem Strand.setH_idx (st : Strand) (n : Nat) (x : Manifest) : (st.setH n x).idx = st.idx := rfl
@[simp] theorem Strand.setH_run (st : Strand) (n : Nat) (x : Manifest) : (st.setH n x).run = st.run := rfl
@[simp] theorem Strand.setH_pc (st : Strand) (n : Nat) (x : Manifest) : (st.setH n x).pc = st.pc := rfl
@[simp] theorem Strand.setH_priv (st : Strand) (n : Nat) (x : Manifest) : (st.setH n x).priv = st.priv := rfl
@[simp] theorem Strand.setH_s (st : Strand) (n : Nat) (x : Manifest) : (st.setH n x).s = st.s := rfl
@[simp] theorem Strand.setH_i (st : Strand) (n : Nat) (x : Manifest) : (st.setH n x).i = st.i := rfl
@[simp] theorem Strand.setH_v (st : Strand) (n : Nat) (x : Manifest) : (st.setH n x).v = st.v := rfl
@[simp] theorem Strand.setH_m (st : Strand) (n : Nat) (x : Manifest) : (st.setH n x).m = st.m := rfl
@[simp] theorem Strand.setH_vl (st : Strand) (n : Nat) (x : Manifest) : (st.setH n x).vl = st.vl := rfl
@[simp] theorem Strand.setH_vfmt (st : Strand) (n : Nat) (x : Manifest) : (st.setH n x).vfmt = st.vfmt := rfl
@[simp] theorem Strand.setH_vpad (st : Strand) (n : Nat) (x : Manifest) : (st.setH n x).vpad = st.vpad := rfl
@[simp] theorem Strand.setH_tstart (st : Strand) (n : Nat) (x : Manifest) : (st.setH n x).tstart = st.tstart := rfl
@[simp] theorem Strand.setH_mstep (st : Strand) (n : Nat) (x : Manifest) : (st.setH n x).mstep = st.mstep := rfl
@[simp] theorem Strand.setH_fctl (st : Strand) (n : Nat) (x : Manifest) : (st.setH n x).fctl = st.fctl := rfl
@[simp] theorem Strand.setH_palsel (st : Strand) (n : Nat) (x : Manifest) : (st.setH n x).palsel = st.palsel := rfl
@[simp] theorem Strand.setH_vdirty (st : Strand) (n : Nat) (x : Manifest) : (st.setH n x).vdirty = st.vdirty := rfl
@[simp] theorem Strand.setH_vpresent (st : Strand) (n : Nat) (x : Manifest) : (st.setH n x).vpresent = st.vpresent := rfl
@[simp] theorem Strand.setH_progress (st : Strand) (n : Nat) (x : Manifest) : (st.setH n x).progress = st.progress := rfl
@[simp] theorem Strand.setH_ut (st : Strand) (n : Nat) (x : Manifest) : (st.setH n x).ut = st.ut := rfl
@[simp] theorem Strand.setH_st (st : Strand) (n : Nat) (x : Manifest) : (st.setH n x).st = st.st := rfl
@[simp] theorem Strand.setH_mt (st : Strand) (n : Nat) (x : Manifest) : (st.setH n x).mt = st.mt := rfl
@[simp] theorem Strand.setH_sscratch (st : Strand) (n : Nat) (x : Manifest) : (st.setH n x).sscratch = st.sscratch := rfl
@[simp] theorem Strand.setH_mscratch (st : Strand) (n : Nat) (x : Manifest) : (st.setH n x).mscratch = st.mscratch := rfl
@[simp] theorem Strand.setH_vicur (st : Strand) (n : Nat) (x : Manifest) : (st.setH n x).vicur = st.vicur := rfl
@[simp] theorem Strand.setH_wdrem (st : Strand) (n : Nat) (x : Manifest) : (st.setH n x).wdrem = st.wdrem := rfl
@[simp] theorem Strand.setH_wdwin (st : Strand) (n : Nat) (x : Manifest) : (st.setH n x).wdwin = st.wdwin := rfl
@[simp] theorem Strand.setH_wdExpired (st : Strand) (n : Nat) (x : Manifest) : (st.setH n x).wdExpired = st.wdExpired := rfl
@[simp] theorem Strand.setH_pend (st : Strand) (n : Nat) (x : Manifest) : (st.setH n x).pend = st.pend := rfl
@[simp] theorem Strand.setH_sstep (st : Strand) (n : Nat) (x : Manifest) : (st.setH n x).sstep = st.sstep := rfl
@[simp] theorem Strand.setH_lanes (st : Strand) (n : Nat) (x : Manifest) : (st.setH n x).lanes = st.lanes := rfl
@[simp] theorem Strand.setH_slot (st : Strand) (n : Nat) (x : Manifest) : (st.setH n x).slot = st.slot := rfl
@[simp] theorem Strand.setH_waited (st : Strand) (n : Nat) (x : Manifest) : (st.setH n x).waited = st.waited := rfl
@[simp] theorem Strand.setH_nmax (st : Strand) (n : Nat) (x : Manifest) : (st.setH n x).nmax = st.nmax := rfl
@[simp] theorem Strand.setH_xlast (st : Strand) (n : Nat) (x : Manifest) : (st.setH n x).xlast = st.xlast := rfl
@[simp] theorem Strand.setH_got (st : Strand) (n : Nat) (x : Manifest) : (st.setH n x).got = st.got := rfl
@[simp] theorem Strand.setH_late (st : Strand) (n : Nat) (x : Manifest) : (st.setH n x).late = st.late := rfl
@[simp] theorem Strand.setH_charged (st : Strand) (n : Nat) (x : Manifest) : (st.setH n x).charged = st.charged := rfl
@[simp] theorem Strand.setH_shun (st : Strand) (n : Nat) (x : Manifest) : (st.setH n x).shun = st.shun := rfl
@[simp] theorem Strand.setH_reqs (st : Strand) (n : Nat) (x : Manifest) : (st.setH n x).reqs = st.reqs := rfl
@[simp] theorem Strand.setH_homing (st : Strand) (n : Nat) (x : Manifest) : (st.setH n x).homing = st.homing := rfl

/-! ### Strand.raise -/

@[simp] theorem Strand.raise_team (st : Strand) (f : Flags) : (st.raise f).team = st.team := rfl
@[simp] theorem Strand.raise_idx (st : Strand) (f : Flags) : (st.raise f).idx = st.idx := rfl
@[simp] theorem Strand.raise_run (st : Strand) (f : Flags) : (st.raise f).run = st.run := rfl
@[simp] theorem Strand.raise_pc (st : Strand) (f : Flags) : (st.raise f).pc = st.pc := rfl
@[simp] theorem Strand.raise_priv (st : Strand) (f : Flags) : (st.raise f).priv = st.priv := rfl
@[simp] theorem Strand.raise_s (st : Strand) (f : Flags) : (st.raise f).s = st.s := rfl
@[simp] theorem Strand.raise_i (st : Strand) (f : Flags) : (st.raise f).i = st.i := rfl
@[simp] theorem Strand.raise_v (st : Strand) (f : Flags) : (st.raise f).v = st.v := rfl
@[simp] theorem Strand.raise_m (st : Strand) (f : Flags) : (st.raise f).m = st.m := rfl
@[simp] theorem Strand.raise_h (st : Strand) (f : Flags) : (st.raise f).h = st.h := rfl
@[simp] theorem Strand.raise_vl (st : Strand) (f : Flags) : (st.raise f).vl = st.vl := rfl
@[simp] theorem Strand.raise_vfmt (st : Strand) (f : Flags) : (st.raise f).vfmt = st.vfmt := rfl
@[simp] theorem Strand.raise_vpad (st : Strand) (f : Flags) : (st.raise f).vpad = st.vpad := rfl
@[simp] theorem Strand.raise_tstart (st : Strand) (f : Flags) : (st.raise f).tstart = st.tstart := rfl
@[simp] theorem Strand.raise_mstep (st : Strand) (f : Flags) : (st.raise f).mstep = st.mstep := rfl
@[simp] theorem Strand.raise_palsel (st : Strand) (f : Flags) : (st.raise f).palsel = st.palsel := rfl
@[simp] theorem Strand.raise_vdirty (st : Strand) (f : Flags) : (st.raise f).vdirty = st.vdirty := rfl
@[simp] theorem Strand.raise_vpresent (st : Strand) (f : Flags) : (st.raise f).vpresent = st.vpresent := rfl
@[simp] theorem Strand.raise_progress (st : Strand) (f : Flags) : (st.raise f).progress = st.progress := rfl
@[simp] theorem Strand.raise_ut (st : Strand) (f : Flags) : (st.raise f).ut = st.ut := rfl
@[simp] theorem Strand.raise_st (st : Strand) (f : Flags) : (st.raise f).st = st.st := rfl
@[simp] theorem Strand.raise_mt (st : Strand) (f : Flags) : (st.raise f).mt = st.mt := rfl
@[simp] theorem Strand.raise_sscratch (st : Strand) (f : Flags) : (st.raise f).sscratch = st.sscratch := rfl
@[simp] theorem Strand.raise_mscratch (st : Strand) (f : Flags) : (st.raise f).mscratch = st.mscratch := rfl
@[simp] theorem Strand.raise_vicur (st : Strand) (f : Flags) : (st.raise f).vicur = st.vicur := rfl
@[simp] theorem Strand.raise_wdrem (st : Strand) (f : Flags) : (st.raise f).wdrem = st.wdrem := rfl
@[simp] theorem Strand.raise_wdwin (st : Strand) (f : Flags) : (st.raise f).wdwin = st.wdwin := rfl
@[simp] theorem Strand.raise_wdExpired (st : Strand) (f : Flags) : (st.raise f).wdExpired = st.wdExpired := rfl
@[simp] theorem Strand.raise_pend (st : Strand) (f : Flags) : (st.raise f).pend = st.pend := rfl
@[simp] theorem Strand.raise_sstep (st : Strand) (f : Flags) : (st.raise f).sstep = st.sstep := rfl
@[simp] theorem Strand.raise_lanes (st : Strand) (f : Flags) : (st.raise f).lanes = st.lanes := rfl
@[simp] theorem Strand.raise_slot (st : Strand) (f : Flags) : (st.raise f).slot = st.slot := rfl
@[simp] theorem Strand.raise_waited (st : Strand) (f : Flags) : (st.raise f).waited = st.waited := rfl
@[simp] theorem Strand.raise_nmax (st : Strand) (f : Flags) : (st.raise f).nmax = st.nmax := rfl
@[simp] theorem Strand.raise_xlast (st : Strand) (f : Flags) : (st.raise f).xlast = st.xlast := rfl
@[simp] theorem Strand.raise_got (st : Strand) (f : Flags) : (st.raise f).got = st.got := rfl
@[simp] theorem Strand.raise_late (st : Strand) (f : Flags) : (st.raise f).late = st.late := rfl
@[simp] theorem Strand.raise_charged (st : Strand) (f : Flags) : (st.raise f).charged = st.charged := rfl
@[simp] theorem Strand.raise_shun (st : Strand) (f : Flags) : (st.raise f).shun = st.shun := rfl
@[simp] theorem Strand.raise_reqs (st : Strand) (f : Flags) : (st.raise f).reqs = st.reqs := rfl
@[simp] theorem Strand.raise_homing (st : Strand) (f : Flags) : (st.raise f).homing = st.homing := rfl

/-! ### Register files -/

@[simp] theorem Strand.getS_zero (st : Strand) : st.getS 0 = 0#64 := rfl

@[simp] theorem Strand.setS_zero (st : Strand) (w : Word) : st.setS 0 w = st := rfl

theorem Strand.getS_setS (st : Strand) (n : Nat) (w : Word) (h : n ≠ 0) : (st.setS n w).getS n = w := by
  simp [Strand.getS, Strand.setS, h]

theorem Strand.getS_setS_ne (st : Strand) (n k : Nat) (w : Word) (h : k ≠ n) : (st.setS n w).getS k = st.getS k := by
  by_cases hn : n = 0 <;> by_cases hk : k = 0 <;> simp [Strand.setS, Strand.getS, hn, hk, Tab.get_set_ne, h]

@[simp] theorem Strand.getI_setI (st : Strand) (n : Nat) (w : Word) : (st.setI n w).getI n = w := by
  simp [Strand.getI, Strand.setI]

theorem Strand.getI_setI_ne (st : Strand) (n k : Nat) (w : Word) (h : k ≠ n) : (st.setI n w).getI k = st.getI k :=
  Tab.get_set_ne _ _ _ _ _ h

@[simp] theorem Strand.getV_setV (st : Strand) (n : Nat) (r : VReg) : (st.setV n r).getV n = r := by
  simp [Strand.getV, Strand.setV]

theorem Strand.getV_setV_ne (st : Strand) (n k : Nat) (r : VReg) (h : k ≠ n) : (st.setV n r).getV k = st.getV k :=
  Tab.get_set_ne _ _ _ _ _ h

@[simp] theorem Strand.getM_setM (st : Strand) (n : Nat) (x : BitVec 1024) : (st.setM n x).getM n = x := by
  simp [Strand.getM, Strand.setM]

theorem Strand.getM_setM_ne (st : Strand) (n k : Nat) (x : BitVec 1024) (h : k ≠ n) :
    (st.setM n x).getM k = st.getM k := Tab.get_set_ne _ _ _ _ _ h

@[simp] theorem Strand.getH_setH (st : Strand) (n : Nat) (x : Manifest) : (st.setH n x).getH n = some x := by
  simp [Strand.getH, Strand.setH]

theorem Strand.getH_setH_ne (st : Strand) (n k : Nat) (x : Manifest) (h : k ≠ n) :
    (st.setH n x).getH k = st.getH k := Tab.find_put_ne _ _ _ _ h

end Sys2Proof.Machine
end

