-- ==== Sys2Proof/Laws/Issue.lean ====
section
/-! SUPPORT. What resolving the operands of an instruction, issuing it and completing it can do. -/

namespace Sys2Proof.Machine

/-! ### Monadic steps -/

theorem Res.bind_eq_ok {α β : Type} {x : Res α} {f : α → Res β} {b : β} :
    (x >>= f) = .ok b ↔ ∃ a, x = .ok a ∧ f a = .ok b := by
  cases x <;> simp [bind, Except.bind]

theorem Res.ok_bind {α β : Type} (a : α) (f : α → Res β) : ((.ok a : Res α) >>= f) = f a := rfl

@[simp] theorem ensure_true (cse : Cause) (v0 v1 v2 v3 : Word) : ensure true cse v0 v1 v2 v3 = .ok () := rfl

theorem ensure_eq_ok {p : Bool} {cse : Cause} {v0 v1 v2 v3 : Word} {u : Unit} :
    ensure p cse v0 v1 v2 v3 = .ok u ↔ p = true := by
  cases p <;> simp [ensure, raise]

/-! ### Resolution leaves the state, the instruction and the mask of its context -/

@[simp] theorem Ctx.setTgt_s (c : Ctx) (sl : Slot) (t : Tgt) : (c.setTgt sl t).s = c.s := by cases sl <;> rfl
@[simp] theorem Ctx.setTgt_i (c : Ctx) (sl : Slot) (t : Tgt) : (c.setTgt sl t).i = c.i := by cases sl <;> rfl
@[simp] theorem Ctx.setTgt_mask (c : Ctx) (sl : Slot) (t : Tgt) : (c.setTgt sl t).mask = c.mask := by cases sl <;> rfl
@[simp] theorem Ctx.setTgt_ix (c : Ctx) (sl : Slot) (t : Tgt) : (c.setTgt sl t).ix = c.ix := by cases sl <;> rfl
@[simp] theorem Ctx.setTgt_pops (c : Ctx) (sl : Slot) (t : Tgt) : (c.setTgt sl t).pops = c.pops := by cases sl <;> rfl
@[simp] theorem Ctx.setTgt_tdRd (c : Ctx) (sl : Slot) (t : Tgt) : (c.setTgt sl t).tdRd = c.tdRd := by cases sl <;> rfl

/-- What two contexts of one instruction share. -/
def Ctx.Same (c c' : Ctx) : Prop := c'.s = c.s ∧ c'.i = c.i ∧ c'.mask = c.mask

theorem Ctx.Same.refl (c : Ctx) : c.Same c := ⟨rfl, rfl, rfl⟩

theorem Ctx.Same.trans {a b c : Ctx} (h : a.Same b) (k : b.Same c) : a.Same c :=
  ⟨k.1.trans h.1, k.2.1.trans h.2.1, k.2.2.trans h.2.2⟩

theorem resolveQueue_same {c c' : Ctx} {u : Use} {q : Nat} (h : resolveQueue c u q = .ok c') : c.Same c' := by
  unfold resolveQueue at h
  simp only [Res.bind_eq_ok] at h
  obtain ⟨_, -, h⟩ := h
  split at h <;> split at h <;> cases h <;> simp [Ctx.Same]

theorem resolveUse_same {c c' : Ctx} {u : Use} (h : resolveUse c u = .ok c') : c.Same c' := by
  unfold resolveUse at h
  split at h
  · exact resolveQueue_same h
  · split at h
    · obtain ⟨_, -, h⟩ := Res.bind_eq_ok.mp h
      cases h; simp [Ctx.Same]
    · cases h; simp [Ctx.Same]
  · rename_i n _
    obtain ⟨r, -, h⟩ := Res.bind_eq_ok.mp h
    have key : ∀ c1 : Ctx, c.Same c1 → ∀ t, c.Same (c1.setTgt u.slot t) := fun c1 k t => by
      simpa [Ctx.Same] using k
    have hc : c.Same (match r.new with | some o => { c with ix := Tab.put c.ix n.toNat o } | none => c) := by
      split <;> simp [Ctx.Same]
    simp only at h
    split at h
    · obtain ⟨_, -, h⟩ := Res.bind_eq_ok.mp h
      cases h; exact key _ hc _
    · obtain ⟨_, -, h⟩ := Res.bind_eq_ok.mp h
      split at h
      · obtain ⟨_, -, h⟩ := Res.bind_eq_ok.mp h
        cases h; exact key _ hc _
      · cases h; exact key _ hc _

theorem resolveAll_same {us : List Use} {c c' : Ctx} (h : resolveAll c us = .ok c') : c.Same c' := by
  induction us generalizing c with
  | nil => cases h; exact Ctx.Same.refl _
  | cons u us ih =>
    obtain ⟨_, h1, h2⟩ := Res.bind_eq_ok.mp h
    exact (resolveUse_same h1).trans (ih h2)

theorem lanesHeld_ok {i : Instr} {us : List Use} {c : Ctx} :
    lanesHeld i us c = .ok () ↔ (!(needsLanes (opOf i) && c.s.myCar.service)) = true := by
  unfold lanesHeld
  cases needsLanes (opOf i) && c.s.myCar.service
  · exact ⟨fun _ => rfl, fun _ => rfl⟩
  · refine ⟨fun h => ?_, fun h => by cases h⟩
    simp only [if_true] at h
    split at h
    · obtain ⟨_, -, h⟩ := Res.bind_eq_ok.mp h
      cases h
    · cases h

/-- What the checks before an instruction's own establish. -/
theorem ready_ok {i : Instr} {s : State} {us : List Use} {mk : Mk} {ov : Ctx → Res Unit} {c : Ctx} :
    ready i s us mk ov = .ok c ↔ privOk i s.me.priv = true ∧ resolveAll { s, i, mask := mk, us } us = .ok c ∧
      (!(needsLanes (opOf i) && s.myCar.service)) = true ∧ ov c = .ok () ∧ forEach (queueFault c) us = .ok () ∧
      queuesReady c us = true := by
  unfold ready
  simp only [Res.bind_eq_ok, ensure_eq_ok]
  constructor
  · rintro ⟨_, hp, c', hc, ⟨⟩, hl, ⟨⟩, ho, ⟨⟩, hq, h⟩
    have e : c'.s = s := (resolveAll_same hc).1
    split at h
    · cases h; exact ⟨hp, hc, e ▸ lanesHeld_ok.mp hl, ho, hq, ‹_›⟩
    · cases h
  · rintro ⟨hp, hc, hl, ho, hq, hr⟩
    have e : c.s = s := (resolveAll_same hc).1
    exact ⟨(), hp, c, hc, (), lanesHeld_ok.mpr (e.symm ▸ hl), (), ho, (), hq, by rw [if_pos hr]; rfl⟩

/-- A ready instruction's context is one of the state that it issues in. -/
theorem ready_same {i : Instr} {s : State} {us : List Use} {mk : Mk} {ov : Ctx → Res Unit} {c : Ctx}
    (h : ready i s us mk ov = .ok c) : c.s = s ∧ c.i = i ∧ c.mask = mk :=
  resolveAll_same (ready_ok.mp h).2.1

/-! ### Issue -/

theorem issue_ready {i : Instr} {s : State} {us : List Use} {body : Ctx → Res Done} {mk : Mk} {ov : Ctx → Res Unit}
    {c : Ctx} (h : ready i s us mk ov = .ok c) :
    issue i s us body mk ov = match body c with
      | .error e => stopIssue i s us e
      | .ok d => .next (complete c d) := by
  simp only [issue, h]

theorem issue_stop {i : Instr} {s : State} {us : List Use} {body : Ctx → Res Done} {mk : Mk} {ov : Ctx → Res Unit}
    {e : Stop} (h : ready i s us mk ov = .error e) : issue i s us body mk ov = stopIssue i s us e := by
  simp only [issue, h]

/-- An instruction that issues completes, or stops as `stopIssue` says. -/
theorem issue_cases (i : Instr) (s : State) (us : List Use) (body : Ctx → Res Done) (mk : Mk) (ov : Ctx → Res Unit) :
    (∃ c d, ready i s us mk ov = .ok c ∧ body c = .ok d ∧ issue i s us body mk ov = .next (complete c d)) ∨
      ∃ e, issue i s us body mk ov = stopIssue i s us e := by
  unfold issue
  split
  · exact .inr ⟨_, rfl⟩
  · split
    · exact .inr ⟨_, rfl⟩
    · exact .inl ⟨_, _, ‹_›, ‹_›, rfl⟩

end Sys2Proof.Machine
end

