-- ==== Sys2Proof/Laws/Mem.lean ====
section
/-! SUPPORT. The canonical form of memory: the operations that write bytes or tags keep it, and reset and a placed word have
it. What a byte reads as after a write. -/

namespace Sys2Proof.Machine

theorem Memory.wf_iff {s : State} :
    Memory.wf s = true ↔ Tab.wf 0#8 s.mem = true ∧ Tab.wf tagReset s.tags = true := by
  simp [Memory.wf]

/-- A state with the memory of another. -/
theorem Memory.wf_of_eq {s t : State} (hm : t.mem = s.mem) (ht : t.tags = s.tags) (h : Memory.wf s = true) :
    Memory.wf t = true := by
  simpa [Memory.wf, hm, ht] using h

/-! ### Bytes -/

theorem putBytes_wf {t : Tab Byte} {pa : Nat} {bs : List Byte} (h : Tab.wf 0#8 t = true) :
    Tab.wf 0#8 (putBytes t pa bs) = true := by
  induction bs generalizing t pa with
  | nil => exact h
  | cons b bs ih => exact ih (Tab.wf_set h)

/-- A byte outside the bytes written reads as before. -/
theorem get_putBytes_ne {t : Tab Byte} {pa k : Nat} {bs : List Byte} (h : k < pa ∨ pa + bs.length ≤ k) :
    Tab.get 0#8 (putBytes t pa bs) k = Tab.get 0#8 t k := by
  induction bs generalizing t pa with
  | nil => rfl
  | cons b bs ih =>
    simp only [List.length_cons] at h
    simp only [putBytes]
    rw [ih (by omega), Tab.get_set_ne _ _ _ _ _ (by omega)]

/-- A byte written reads as it was written. -/
theorem get_putBytes_same {t : Tab Byte} {pa i : Nat} {bs : List Byte} (h : i < bs.length) :
    Tab.get 0#8 (putBytes t pa bs) (pa + i) = bs[i] := by
  induction bs generalizing t pa i with
  | nil => simp at h
  | cons b bs ih =>
    simp only [putBytes]
    cases i with
    | zero =>
      rw [get_putBytes_ne (by omega)]
      simp
    | succ i =>
      have := ih (t := Tab.set 0#8 t pa b) (pa := pa + 1) (i := i) (by simpa using h)
      simpa [Nat.add_assoc, Nat.add_comm 1 i] using this

/-! ### Operations over memory -/

theorem State.notify_wf {s : State} {ln : Nat} (h : Memory.wf s = true) : Memory.wf (s.notify ln) = true := h

theorem State.writeHost_wf {s : State} {nc : Bool} {ln : Nat} {l : LineV} (h : Memory.wf s = true) :
    Memory.wf (s.writeHost nc ln l) = true := by
  have hm := (Memory.wf_iff.mp h).1
  unfold State.writeHost
  split
  · refine Memory.wf_iff.mpr ⟨?_, (Memory.wf_iff.mp h).2⟩
    dsimp only
    split
    · exact putBytes_wf (putBytes_wf hm)
    · exact putBytes_wf hm
  · exact h

theorem State.revive_wf {s : State} {whole : Bool} {ln : Nat} (h : Memory.wf s = true) : Memory.wf (s.revive whole ln) = true := by
  unfold State.revive
  split <;> exact h

theorem State.writeLine_wf {s : State} {nc eph whole : Bool} {ln : Nat} {l : LineV} (h : Memory.wf s = true) :
    Memory.wf (s.writeLine nc eph whole ln l) = true := by
  simp only [State.writeLine]
  split
  · exact State.writeHost_wf h
  · exact State.writeHost_wf h
  · apply State.notify_wf
    split
    · exact Memory.wf_iff.mpr ⟨putBytes_wf (Memory.wf_iff.mp h).1, Tab.wf_set (Memory.wf_iff.mp h).2⟩
    · have k := Memory.wf_iff.mp (State.revive_wf (whole := whole) (ln := ln) h)
      exact Memory.wf_iff.mpr ⟨putBytes_wf k.1, Tab.wf_set k.2⟩

/-- A or D of an entry. -/
theorem State.orByte_wf {s : State} {p : Nat × Nat} (h : Memory.wf s = true) : Memory.wf (s.orByte p) = true := by
  simp only [State.orByte]
  split
  · exact State.writeHost_wf h
  · exact State.writeHost_wf h
  · apply State.notify_wf
    split
    · exact Memory.wf_iff.mpr ⟨putBytes_wf (Memory.wf_iff.mp h).1, Tab.wf_set (Memory.wf_iff.mp h).2⟩
    · exact Memory.wf_iff.mpr ⟨Tab.wf_set (Memory.wf_iff.mp h).1, (Memory.wf_iff.mp h).2⟩

theorem State.markLeaves_wf {upd : List (Nat × Nat)} {s : State} (h : Memory.wf s = true) :
    Memory.wf (upd.foldl State.orByte s) = true := by
  induction upd generalizing s with
  | nil => exact h
  | cons p upd ih => exact ih (State.orByte_wf h)

theorem State.used_wf {s : State} {x : Xlat} (h : Memory.wf s = true) : Memory.wf (s.used x) = true := by
  have k := State.markLeaves_wf (upd := x.upd) h
  simp only [State.used, State.keepOnStack]
  split <;> exact k

/-- A table entry that the recode engine writes. -/
theorem State.writeEntry_wf {s : State} {pa : Nat} {e : Word} (h : Memory.wf s = true) : Memory.wf (s.writeEntry pa e) = true :=
  State.writeLine_wf h

theorem State.charge_wf {s : State} {vi k n : Nat} (h : Memory.wf s = true) : Memory.wf (s.charge vi k n) = true := h

theorem State.chargeLine_wf {s : State} {vi pa : Nat} (h : Memory.wf s = true) : Memory.wf (s.chargeLine vi pa) = true := h

theorem State.performBuffered_wf {s : State} {b : Buffered} (h : Memory.wf s = true) :
    Memory.wf (s.performBuffered b) = true :=
  State.writeLine_wf (State.chargeLine_wf h)

theorem drainWhere_wf {p : Buffered → Bool} {bs : List Buffered} {s t : State} (h : Memory.wf s = true)
    (e : drainWhere p bs s = .ok t) : Memory.wf t = true := by
  induction bs generalizing s with
  | nil => cases e; exact h
  | cons b bs ih =>
    simp only [drainWhere] at e
    split at e
    · split at e
      · cases e
      · exact ih (State.performBuffered_wf (s := { s with storeQ := s.storeQ.erase b }) h) e
    · exact ih h e

theorem State.drainTracks_wf {s t : State} {core : Nat} {p : Buffered → Bool} (h : Memory.wf s = true)
    (e : s.drainTracks core p = .ok t) : Memory.wf t = true := drainWhere_wf h e

theorem State.drainCore_wf {s t : State} {core : Nat} (h : Memory.wf s = true) (e : s.drainCore core = .ok t) :
    Memory.wf t = true := drainWhere_wf h e

theorem State.writeBackHost_wf {s : State} {ln : Nat} (h : Memory.wf s = true) : Memory.wf (s.writeBackHost ln) = true := by
  have hm := (Memory.wf_iff.mp h).1
  have ht := (Memory.wf_iff.mp h).2
  simp only [State.writeBackHost]
  split
  · split
    · refine Memory.wf_iff.mpr ⟨?_, ht⟩
      dsimp only
      split
      · exact putBytes_wf (putBytes_wf hm)
      · exact putBytes_wf hm
    · exact h
  · exact h

theorem State.freshFrame_wf {s : State} {f : Nat} (h : Memory.wf s = true) : Memory.wf (s.freshFrame f) = true :=
  Memory.wf_iff.mpr ⟨Tab.wf_filter _ (Memory.wf_iff.mp h).1, Tab.wf_filter _ (Memory.wf_iff.mp h).2⟩

theorem State.assign_wf {s : State} {kd lo n : Nat} (h : Memory.wf s = true) : Memory.wf (s.assign kd lo n) = true := by
  suffices ∀ (l : List Nat) (u : State), Memory.wf u = true → Memory.wf (l.foldl (fun s i =>
      let f := lo + i
      let s1 := s.freshFrame f
      { s1 with frameKd := if kd = 0 then Tab.del s1.frameKd f else Tab.put s1.frameKd f (some kd) }) u) = true from
    this _ s h
  intro l
  induction l with
  | nil => exact fun _ hu => hu
  | cons i l ih => exact fun u hu => ih _ (State.freshFrame_wf (f := lo + i) hu)

theorem State.softError_wf {s : State} {team : Option Nat} {ln : Nat} (h : Memory.wf s = true) :
    Memory.wf (s.softError team ln) = true := by
  simp only [State.softError]
  split
  · split
    · split <;> exact h
    · exact h
  · split
    · exact h
    · split
      · exact Memory.wf_iff.mpr ⟨(Memory.wf_iff.mp h).1, Tab.wf_set (Memory.wf_iff.mp h).2⟩
      · exact h

theorem State.hostPut_wf {s : State} {vi : Nat} {f : FmtCode} {x : Xlat} {bs : List Byte} (h : Memory.wf s = true) :
    Memory.wf (s.hostPut vi f x bs) = true :=
  State.writeLine_wf (State.chargeLine_wf (State.used_wf h))

theorem State.extWrite_wf {s : State} {hit : List Nat} {w : ExtWrite} (h : Memory.wf s = true) :
    Memory.wf (s.extWrite hit w) = true := State.writeLine_wf h

theorem State.landLine_wf {s : State} {vi : Nat} {p : (List Byte × BitVec 16) × Xlat} (h : Memory.wf s = true) :
    Memory.wf (s.landLine vi p) = true := State.writeBackHost_wf (State.writeLine_wf (State.chargeLine_wf (State.used_wf h)))

theorem State.landCount_wf {s : State} {vi : Nat} {x : Xlat} (h : Memory.wf s = true) : Memory.wf (s.landCount vi x) = true := by
  simp only [State.landCount]
  split
  · exact h
  · exact State.writeBackHost_wf (State.writeLine_wf (State.chargeLine_wf (State.used_wf h)))

theorem State.applyAtomic_wf {s : State} {eph : Bool} {pa n : Nat} {new : Nat → Option Nat} (h : Memory.wf s = true) :
    Memory.wf (s.applyAtomic eph pa n new).1 = true := by
  simp only [State.applyAtomic]
  split
  · exact h
  · split
    · exact State.writeLine_wf h
    · exact h

/-! ### Boot, reset and a placed word -/

theorem State.deviceReset_wf {s : State} (h : Memory.wf s = true) : Memory.wf s.deviceReset = true :=
  Memory.wf_iff.mpr ⟨Tab.wf_filter _ (Memory.wf_iff.mp h).1, Tab.wf_filter _ (Memory.wf_iff.mp h).2⟩

theorem Tables.enter_wf {va lvl leaf fuel l table : Nat} {t : Tables} (h : Tab.wf 0#8 t.mem = true) :
    Tab.wf 0#8 (Tables.enter va lvl leaf fuel l table t).mem = true := by
  induction fuel generalizing l table t with
  | zero => exact h
  | succ fuel ih =>
    simp only [Tables.enter]
    split
    · exact putBytes_wf h
    · split
      · exact ih h
      · exact ih (putBytes_wf h)

theorem cleanLines_wf {t : Tab (BitVec 16)} {pa n : Nat} (h : Tab.wf tagReset t = true) :
    Tab.wf tagReset (cleanLines t pa n) = true := by
  unfold cleanLines
  induction List.range ((n + 127) / 128) generalizing t with
  | nil => exact h
  | cons i l ih => exact ih (Tab.wf_set h)

theorem State.reset_wf : Memory.wf State.reset = true := rfl

theorem foldl_putBytes_wf {ps : List (Nat × List Byte)} {t : Tab Byte} (h : Tab.wf 0#8 t = true) :
    Tab.wf 0#8 (ps.foldl (fun m (p : Nat × List Byte) => putBytes m p.1 p.2) t) = true := by
  induction ps generalizing t with
  | nil => exact h
  | cons p ps ih => exact ih (putBytes_wf h)

theorem State.withMonitor_wf {s : State} (h : Memory.wf s = true) : Memory.wf s.withMonitor = true := by
  rw [Memory.wf_iff] at h ⊢
  simp only [State.withMonitor]
  refine ⟨foldl_putBytes_wf h.1, ?_⟩
  simp only [List.foldl]
  exact Tab.wf_set (Tab.wf_set (Tab.wf_set (Tab.wf_set (Tab.wf_set h.2))))

theorem State.withFetchWord_wf {s : State} {n w : Nat} (h : Memory.wf s = true) : Memory.wf (s.withFetchWord n w) = true := by
  have k := Memory.wf_iff.mp (State.withMonitor_wf h)
  rw [Memory.wf_iff]
  simp only [State.withFetchWord]
  exact ⟨putBytes_wf k.1, Tab.wf_set k.2⟩

end Sys2Proof.Machine
end

