-- ==== Sys2Proof/Laws/PerInstr.lean ====
section
/-! SUPPORT. The family Words: the fields that the encoder gives an instruction build that instruction. One lemma for each
constructor. -/

namespace Sys2Proof

open Machine

/-- The fields of an instruction's word name the instruction. -/
def Laws.Words.Statement (i : Instr) : Prop := i.wf = true → i.hasWord = true → build (encodeR i) = some i

theorem Laws.Words.add (d : Opnd) (a : Opnd) (b : SrcB) :
    Statement (.add d a b) := by
  intro _ _
  change build (encInt 0x01#8 d a b) = _
  cases b <;> simp [build, buildInt, encInt, bDAB, RWord.srcB]

theorem Laws.Words.sub (d : Opnd) (a : Opnd) (b : SrcB) :
    Statement (.sub d a b) := by
  intro _ _
  change build (encInt 0x02#8 d a b) = _
  cases b <;> simp [build, buildInt, encInt, bDAB, RWord.srcB]

theorem Laws.Words.mul (d : Opnd) (a : Opnd) (b : SrcB) :
    Statement (.mul d a b) := by
  intro _ _
  change build (encInt 0x03#8 d a b) = _
  cases b <;> simp [build, buildInt, encInt, bDAB, RWord.srcB]

theorem Laws.Words.mulh (d : Opnd) (a : Opnd) (b : SrcB) :
    Statement (.mulh d a b) := by
  intro _ _
  change build (encInt 0x04#8 d a b) = _
  cases b <;> simp [build, buildInt, encInt, bDAB, RWord.srcB]

theorem Laws.Words.mulhu (d : Opnd) (a : Opnd) (b : SrcB) :
    Statement (.mulhu d a b) := by
  intro _ _
  change build (encInt 0x05#8 d a b) = _
  cases b <;> simp [build, buildInt, encInt, bDAB, RWord.srcB]

theorem Laws.Words.div (d : Opnd) (a : Opnd) (b : SrcB) :
    Statement (.div d a b) := by
  intro _ _
  change build (encInt 0x06#8 d a b) = _
  cases b <;> simp [build, buildInt, encInt, bDAB, RWord.srcB]

theorem Laws.Words.divu (d : Opnd) (a : Opnd) (b : SrcB) :
    Statement (.divu d a b) := by
  intro _ _
  change build (encInt 0x07#8 d a b) = _
  cases b <;> simp [build, buildInt, encInt, bDAB, RWord.srcB]

theorem Laws.Words.rem (d : Opnd) (a : Opnd) (b : SrcB) :
    Statement (.rem d a b) := by
  intro _ _
  change build (encInt 0x08#8 d a b) = _
  cases b <;> simp [build, buildInt, encInt, bDAB, RWord.srcB]

theorem Laws.Words.remu (d : Opnd) (a : Opnd) (b : SrcB) :
    Statement (.remu d a b) := by
  intro _ _
  change build (encInt 0x09#8 d a b) = _
  cases b <;> simp [build, buildInt, encInt, bDAB, RWord.srcB]

theorem Laws.Words.and (d : Opnd) (a : Opnd) (b : SrcB) :
    Statement (.and d a b) := by
  intro _ _
  change build (encInt 0x0A#8 d a b) = _
  cases b <;> simp [build, buildInt, encInt, bDAB, RWord.srcB]

theorem Laws.Words.or (d : Opnd) (a : Opnd) (b : SrcB) :
    Statement (.or d a b) := by
  intro _ _
  change build (encInt 0x0B#8 d a b) = _
  cases b <;> simp [build, buildInt, encInt, bDAB, RWord.srcB]

theorem Laws.Words.xor (d : Opnd) (a : Opnd) (b : SrcB) :
    Statement (.xor d a b) := by
  intro _ _
  change build (encInt 0x0C#8 d a b) = _
  cases b <;> simp [build, buildInt, encInt, bDAB, RWord.srcB]

theorem Laws.Words.shl (d : Opnd) (a : Opnd) (b : SrcB) :
    Statement (.shl d a b) := by
  intro _ _
  change build (encInt 0x0D#8 d a b) = _
  cases b <;> simp [build, buildInt, encInt, bDAB, RWord.srcB]

theorem Laws.Words.shr (d : Opnd) (a : Opnd) (b : SrcB) :
    Statement (.shr d a b) := by
  intro _ _
  change build (encInt 0x0E#8 d a b) = _
  cases b <;> simp [build, buildInt, encInt, bDAB, RWord.srcB]

theorem Laws.Words.sra (d : Opnd) (a : Opnd) (b : SrcB) :
    Statement (.sra d a b) := by
  intro _ _
  change build (encInt 0x0F#8 d a b) = _
  cases b <;> simp [build, buildInt, encInt, bDAB, RWord.srcB]

theorem Laws.Words.slt (d : Opnd) (a : Opnd) (b : SrcB) :
    Statement (.slt d a b) := by
  intro _ _
  change build (encInt 0x10#8 d a b) = _
  cases b <;> simp [build, buildInt, encInt, bDAB, RWord.srcB]

theorem Laws.Words.sltu (d : Opnd) (a : Opnd) (b : SrcB) :
    Statement (.sltu d a b) := by
  intro _ _
  change build (encInt 0x11#8 d a b) = _
  cases b <;> simp [build, buildInt, encInt, bDAB, RWord.srcB]

theorem Laws.Words.min (d : Opnd) (a : Opnd) (b : SrcB) :
    Statement (.min d a b) := by
  intro _ _
  change build (encInt 0x12#8 d a b) = _
  cases b <;> simp [build, buildInt, encInt, bDAB, RWord.srcB]

theorem Laws.Words.max (d : Opnd) (a : Opnd) (b : SrcB) :
    Statement (.max d a b) := by
  intro _ _
  change build (encInt 0x13#8 d a b) = _
  cases b <;> simp [build, buildInt, encInt, bDAB, RWord.srcB]

theorem Laws.Words.minu (d : Opnd) (a : Opnd) (b : SrcB) :
    Statement (.minu d a b) := by
  intro _ _
  change build (encInt 0x14#8 d a b) = _
  cases b <;> simp [build, buildInt, encInt, bDAB, RWord.srcB]

theorem Laws.Words.maxu (d : Opnd) (a : Opnd) (b : SrcB) :
    Statement (.maxu d a b) := by
  intro _ _
  change build (encInt 0x15#8 d a b) = _
  cases b <;> simp [build, buildInt, encInt, bDAB, RWord.srcB]

theorem Laws.Words.clz (d : Opnd) (a : Opnd) :
    Statement (.clz d a) := by
  intro _ _
  change build ({ op := 0x16#8, d := d.code, a := a.code }) = _
  simp [build, buildInt, bDA]

theorem Laws.Words.ctz (d : Opnd) (a : Opnd) :
    Statement (.ctz d a) := by
  intro _ _
  change build ({ op := 0x17#8, d := d.code, a := a.code }) = _
  simp [build, buildInt, bDA]

theorem Laws.Words.popc (d : Opnd) (a : Opnd) :
    Statement (.popc d a) := by
  intro _ _
  change build ({ op := 0x18#8, d := d.code, a := a.code }) = _
  simp [build, buildInt, bDA]

theorem Laws.Words.bfx (d : Opnd) (a : Opnd) (pos : BitVec 6) (len1 : BitVec 6) (sx : Bool) :
    Statement (.bfx d a pos len1 sx) := by
  intro _ _
  change build ({ op := 0x19#8, d := d.code, a := a.code, imm := 0#3 ++ BitVec.ofBool sx ++ len1 ++ pos }) = _
  simp [build, buildInt, ]

theorem Laws.Words.bfi (d : Opnd) (a : Opnd) (b : Opnd) (pos : BitVec 6) (len1 : BitVec 6) :
    Statement (.bfi d a b pos len1) := by
  intro _ _
  change build ({ op := 0x1A#8, d := d.code, a := a.code, b := b.code, imm := 0#4 ++ len1 ++ pos }) = _
  simp [build, buildInt, ]

theorem Laws.Words.sel (d : Opnd) (a : Opnd) (b : Opnd) (c : Opnd) :
    Statement (.sel d a b c) := by
  intro _ _
  change build ({ op := 0x1B#8, d := d.code, a := a.code, b := b.code, c := c.code }) = _
  simp [build, buildInt, ]

theorem Laws.Words.li (d : Opnd) (imm : BitVec 37) :
    Statement (.li d imm) := by
  intro _ _
  change build (encI37 0x1C#8 d.code 0#7 imm) = _
  simp [build, buildInt, encI37, RWord.imm37]

theorem Laws.Words.lih (d : Opnd) (a : Opnd) (imm : BitVec 27) :
    Statement (.lih d a imm) := by
  intro _ _
  change build (encI37 0x1D#8 d.code a.code (0#10 ++ imm)) = _
  simp [build, buildInt, encI37, RWord.imm37]

theorem Laws.Words.jmp (off : BitVec 44) :
    Statement (.jmp off) := by
  intro _ _
  change build (encJ 0x20#8 0#7 off) = _
  simp [build, buildCtl, encI37, encJ, RWord.off44, RWord.imm37]
  exact join_off off

theorem Laws.Words.jal (d : Opnd) (off : BitVec 44) :
    Statement (.jal d off) := by
  intro _ _
  change build (encJ 0x21#8 d.code off) = _
  simp [build, buildCtl, encI37, encJ, RWord.off44, RWord.imm37]
  exact join_off off

theorem Laws.Words.jr (d : Opnd) (a : Opnd) (imm : BitVec 16) :
    Statement (.jr d a imm) := by
  intro _ _
  change build ({ op := 0x22#8, d := d.code, a := a.code, imm := imm }) = _
  simp [build, buildCtl, ]

theorem Laws.Words.beq (a : Opnd) (b : Opnd) (off : BitVec 37) :
    Statement (.beq a b off) := by
  intro _ _
  change build (encI37 0x23#8 a.code b.code off) = _
  simp [build, buildCtl, encI37, bBr, RWord.imm37]

theorem Laws.Words.bne (a : Opnd) (b : Opnd) (off : BitVec 37) :
    Statement (.bne a b off) := by
  intro _ _
  change build (encI37 0x24#8 a.code b.code off) = _
  simp [build, buildCtl, encI37, bBr, RWord.imm37]

theorem Laws.Words.blt (a : Opnd) (b : Opnd) (off : BitVec 37) :
    Statement (.blt a b off) := by
  intro _ _
  change build (encI37 0x25#8 a.code b.code off) = _
  simp [build, buildCtl, encI37, bBr, RWord.imm37]

theorem Laws.Words.bge (a : Opnd) (b : Opnd) (off : BitVec 37) :
    Statement (.bge a b off) := by
  intro _ _
  change build (encI37 0x26#8 a.code b.code off) = _
  simp [build, buildCtl, encI37, bBr, RWord.imm37]

theorem Laws.Words.bltu (a : Opnd) (b : Opnd) (off : BitVec 37) :
    Statement (.bltu a b off) := by
  intro _ _
  change build (encI37 0x27#8 a.code b.code off) = _
  simp [build, buildCtl, encI37, bBr, RWord.imm37]

theorem Laws.Words.bgeu (a : Opnd) (b : Opnd) (off : BitVec 37) :
    Statement (.bgeu a b off) := by
  intro _ _
  change build (encI37 0x28#8 a.code b.code off) = _
  simp [build, buildCtl, encI37, bBr, RWord.imm37]

theorem Laws.Words.fadd (t : FTy) (rm : Rm) (d : Opnd) (a : Opnd) (b : Opnd) :
    Statement (.fadd t rm d a b) := by
  intro _ _
  change build (encF 0x30#8 t rm d a b.code) = _
  simp [build, buildCtl, encF, bF2, RWord.rm]

theorem Laws.Words.fsub (t : FTy) (rm : Rm) (d : Opnd) (a : Opnd) (b : Opnd) :
    Statement (.fsub t rm d a b) := by
  intro _ _
  change build (encF 0x31#8 t rm d a b.code) = _
  simp [build, buildCtl, encF, bF2, RWord.rm]

theorem Laws.Words.fmul (t : FTy) (rm : Rm) (d : Opnd) (a : Opnd) (b : Opnd) :
    Statement (.fmul t rm d a b) := by
  intro _ _
  change build (encF 0x32#8 t rm d a b.code) = _
  simp [build, buildCtl, encF, bF2, RWord.rm]

theorem Laws.Words.fdiv (t : FTy) (rm : Rm) (d : Opnd) (a : Opnd) (b : Opnd) :
    Statement (.fdiv t rm d a b) := by
  intro _ _
  change build (encF 0x33#8 t rm d a b.code) = _
  simp [build, buildCtl, encF, bF2, RWord.rm]

theorem Laws.Words.fsqrt (t : FTy) (rm : Rm) (d : Opnd) (a : Opnd) :
    Statement (.fsqrt t rm d a) := by
  intro _ _
  change build (encF 0x34#8 t rm d a) = _
  simp [build, buildCtl, encF, RWord.rm]

theorem Laws.Words.fma (t : FTy) (rm : Rm) (d : Opnd) (a : Opnd) (b : Opnd) (c : Opnd) :
    Statement (.fma t rm d a b c) := by
  intro _ _
  change build (encF 0x35#8 t rm d a b.code c.code) = _
  simp [build, buildCtl, encF, RWord.rm]

theorem Laws.Words.fmin (t : FTy) (d : Opnd) (a : Opnd) (b : Opnd) :
    Statement (.fmin t d a b) := by
  intro _ _
  change build (encF 0x36#8 t .fctl d a b.code) = _
  simp [build, buildCtl, encF, bF2, RWord.rm]

theorem Laws.Words.fmax (t : FTy) (d : Opnd) (a : Opnd) (b : Opnd) :
    Statement (.fmax t d a b) := by
  intro _ _
  change build (encF 0x37#8 t .fctl d a b.code) = _
  simp [build, buildCtl, encF, bF2, RWord.rm]

theorem Laws.Words.fcmp (t : FTy) (cond : BitVec 3) (d : Opnd) (a : Opnd) (b : Opnd) :
    Statement (.fcmp t cond d a b) := by
  intro _ _
  change build (encF 0x38#8 t .fctl d a b.code 0#7 (0#13 ++ cond)) = _
  simp [build, buildCtl, encF, bF2, RWord.rm]

theorem Laws.Words.fcvt (t : FTy) (rm : Rm) (kind : FCvtKind) (d : Opnd) (a : Opnd) :
    Statement (.fcvt t rm kind d a) := by
  intro _ _
  change build (encF 0x39#8 t rm d a 0#7 0#7 kind.code) = _
  simp [build, buildCtl, encF, RWord.rm]

theorem Laws.Words.fclass (t : FTy) (d : Opnd) (a : Opnd) :
    Statement (.fclass t d a) := by
  intro _ _
  change build (encF 0x3A#8 t .fctl d a) = _
  simp [build, buildCtl, encF]

theorem Laws.Words.ld (sz : BitVec 3) (sp : Space) (d : Opnd) (a : Opnd) (b : Opnd) (imm : BitVec 16) :
    Statement (.ld sz sp d a b imm) := by
  intro _ _
  change build ({ op := 0x40#8, d := d.code, a := a.code, b := b.code, c := sp.qual, fn := sp.fn sz, imm := imm }) = _
  simp [build, buildMem, RWord.spaceC]

theorem Laws.Words.st (sz : BitVec 2) (sp : Space) (d : Opnd) (a : Opnd) (b : Opnd) (imm : BitVec 16) :
    Statement (.st sz sp d a b imm) := by
  intro _ _
  change build ({ op := 0x41#8, d := d.code, a := a.code, b := b.code, c := sp.qual, fn := sp.fn (0#1 ++ sz), imm := imm }) = _
  simp [build, buildMem, RWord.spaceC]

theorem Laws.Words.stPatch (sc : Scope) (o : Ord) (d : Opnd) (a : Opnd) (b : Opnd) (imm : BitVec 16) :
    Statement (.stPatch sc o d a b imm) := by
  intro _ _
  change build ({ op := 0x41#8, d := d.code, a := a.code, b := b.code, fn := memFn 7#3 sc o, imm := imm }) = _
  simp [build, buildMem, RWord.scope, RWord.ord]

theorem Laws.Words.amo (op : Aop) (w8 : Bool) (sp : Space) (d : Opnd) (a : Opnd) (b : Opnd) (imm : BitVec 16) :
    Statement (.amo op w8 sp d a b imm) := by
  intro _ _
  change build ({ op := 0x42#8, d := d.code, a := a.code, b := b.code, c := 0#2 ++ op.code ++ sp.bit, fn := sp.fn (0b01#2 ++ BitVec.ofBool w8), imm := imm }) = _
  simp [build, buildMem, RWord.spaceC]

theorem Laws.Words.cas (w8 : Bool) (sp : Space) (d : Opnd) (a : Opnd) (b : Opnd) (imm : BitVec 16) :
    Statement (.cas w8 sp d a b imm) := by
  intro _ _
  change build ({ op := 0x43#8, d := d.code, a := a.code, b := b.code, c := sp.qual, fn := sp.fn (0b01#2 ++ BitVec.ofBool w8), imm := imm }) = _
  simp [build, buildMem, RWord.spaceC]

theorem Laws.Words.fence (kind : BitVec 3) (sc : Scope) :
    Statement (.fence kind sc) := by
  intro _ _
  change build ({ op := 0x44#8, fn := memFn kind sc .plain }) = _
  simp [build, buildMem, RWord.scope]

theorem Laws.Words.lsync :
    Statement .lsync := by
  intro _ _
  change build ({ op := 0x45#8 }) = _
  simp [build, buildMem, ]

theorem Laws.Words.flush (a : Opnd) (b : Opnd) (c : Opnd) (imm : BitVec 16) :
    Statement (.flush a b c imm) := by
  intro _ _
  change build ({ op := 0x46#8, a := a.code, b := b.code, c := c.code, imm := imm }) = _
  simp [build, buildMem, ]

theorem Laws.Words.inval (a : Opnd) (b : Opnd) (c : Opnd) (imm : BitVec 16) :
    Statement (.inval a b c imm) := by
  intro _ _
  change build ({ op := 0x47#8, a := a.code, b := b.code, c := c.code, imm := imm }) = _
  simp [build, buildMem, ]

theorem Laws.Words.ixset (d : BitVec 3) (a : Opnd) :
    Statement (.ixset d a) := by
  intro _ _
  change build ({ op := 0x50#8, d := code3 d, a := a.code }) = _
  simp [build, buildMem, ]

theorem Laws.Words.ixget (d : Opnd) (a : BitVec 3) :
    Statement (.ixget d a) := by
  intro _ _
  change build ({ op := 0x51#8, d := d.code, a := code3 a }) = _
  simp [build, buildMem, ]

theorem Laws.Words.ixadv (d : BitVec 3) (n : SrcB) :
    Statement (.ixadv d n) := by
  suffices hs : build (match n with | .op o => { op := 0x52#8, d := code3 d, a := o.code } | .imm i => { op := 0x52#8, d := code3 d, fn := 0x40#7, imm := i }) = some (.ixadv d n) from fun _ _ => hs
  cases n <;> simp [build, buildMem, ]

theorem Laws.Words.ixoff (d : BitVec 3) (n : SrcB) :
    Statement (.ixoff d n) := by
  suffices hs : build (match n with | .op o => { op := 0x53#8, d := code3 d, a := o.code } | .imm i => { op := 0x53#8, d := code3 d, fn := 0x40#7, imm := i }) = some (.ixoff d n) from fun _ _ => hs
  cases n <;> simp [build, buildMem, ]

theorem Laws.Words.crd (d : Opnd) (n : BitVec 12) :
    Statement (.crd d n) := by
  intro _ _
  change build ({ op := 0x54#8, d := d.code, imm := 0#4 ++ n }) = _
  simp [build, buildMem, ]

theorem Laws.Words.cwr (n : BitVec 12) (a : Opnd) :
    Statement (.cwr n a) := by
  intro _ _
  change build ({ op := 0x55#8, a := a.code, imm := 0#4 ++ n }) = _
  simp [build, buildMem, ]

theorem Laws.Words.crsw (d : Opnd) (n : BitVec 12) (a : Opnd) :
    Statement (.crsw d n a) := by
  intro _ _
  change build ({ op := 0x56#8, d := d.code, a := a.code, imm := 0#4 ++ n }) = _
  simp [build, buildMem, ]

theorem Laws.Words.vsetl (d : Opnd) (a : Opnd) (f : FmtSel) :
    Statement (.vsetl d a f) := by
  intro _ _
  change build (encFmtSel 0x57#8 d.code a.code 1#7 false f) = _
  cases f <;> simp [build, buildMem, encFmtSel, RWord.fmtSelB, RWord.fn0, RWord.fmt, fmt16]

theorem Laws.Words.vgetcap (d : Opnd) (f : FmtSel) :
    Statement (.vgetcap d f) := by
  intro _ _
  change build (encFmtSel 0x58#8 d.code 0#7 1#7 false f) = _
  cases f <;> simp [build, buildMem, encFmtSel, RWord.fmtSelB, RWord.fn0, RWord.fmt, fmt16]

theorem Laws.Words.palsel (n : IdxSel 4) :
    Statement (.palsel n) := by
  suffices hs : build (match n with | .imm k => { op := 0x59#8, fn := 0x40#7, imm := 0#12 ++ k } | .reg o => { op := 0x59#8, a := o.code }) = some (.palsel n) from fun _ _ => hs
  cases n <;> simp [build, buildMem, ]

theorem Laws.Words.palrd (d : Opnd) (a : Opnd) :
    Statement (.palrd d a) := by
  intro _ _
  change build ({ op := 0x5A#8, d := d.code, a := a.code }) = _
  simp [build, buildMem, bDA]

theorem Laws.Words.palwr (a : Opnd) (b : Opnd) :
    Statement (.palwr a b) := by
  intro _ _
  change build ({ op := 0x5B#8, a := a.code, b := b.code }) = _
  simp [build, buildMem, ]

theorem Laws.Words.getid (d : Opnd) (sel : BitVec 4) :
    Statement (.getid d sel) := by
  intro _ _
  change build ({ op := 0x5C#8, d := d.code, imm := 0#12 ++ sel }) = _
  simp [build, buildMem, ]

theorem Laws.Words.heartbeat (a : Opnd) :
    Statement (.heartbeat a) := by
  intro _ _
  change build ({ op := 0x5D#8, a := a.code }) = _
  simp [build, buildMem, ]

theorem Laws.Words.vtag (zero : Bool) (d : Opnd) (f : FmtSel) :
    Statement (.vtag zero d f) := by
  intro _ _
  change build (let r := encFmtSel 0x60#8 d.code 0#7 0x40#7 true f; { r with fn := r.fn ||| (0#6 ++ BitVec.ofBool zero) }) = _
  cases zero <;> cases f <;> simp [build, buildTag, encFmtSel, RWord.fn0, RWord.fmt, fmt16]

theorem Laws.Words.vgtag (sel : BitVec 2) (d : Opnd) (a : Opnd) :
    Statement (.vgtag sel d a) := by
  intro _ _
  change build ({ op := 0x61#8, d := d.code, a := a.code, fn := 0#5 ++ sel }) = _
  simp [build, buildTag, ]

theorem Laws.Words.vcvt (mk : Mk) (rm : Rm) (d : Opnd) (a : Opnd) (f : FmtCode) :
    Statement (.vcvt mk rm d a f) := by
  intro hw _
  have hm : mk.ok = true := by
    have h2 : (mk.ok && d.okV && a.okV && fmtOk f && f != 0#6) = true := hw
    simp only [Bool.and_eq_true] at h2
    simp only [h2]
  change build (encV 0x62#8 mk (rmFn rm) d a 0#7 0#7 (fmt16 f)) = _
  simp [build, buildTag, encV, RWord.rm, RWord.mk?, RWord.fmt, fmt16, Mk.of_fields, hm]

theorem Laws.Words.vresc (mk : Mk) (rm : Rm) (d : Opnd) (a : Opnd) (b : Opnd) :
    Statement (.vresc mk rm d a b) := by
  intro hw _
  have hm : mk.ok = true := by
    have h2 : (mk.ok && d.okV && a.okV) = true := hw
    simp only [Bool.and_eq_true] at h2
    simp only [h2]
  change build (encV 0x63#8 mk (rmFn rm) d a b.code) = _
  simp [build, buildTag, encV, RWord.rm, RWord.mk?, Mk.of_fields, hm]

theorem Laws.Words.vvalid (sel : BitVec 2) (d : Opnd) (a : Opnd) :
    Statement (.vvalid sel d a) := by
  intro _ _
  change build ({ op := 0x64#8, d := d.code, a := a.code, fn := 0#5 ++ sel }) = _
  simp [build, buildTag, ]

theorem Laws.Words.vsave (sc : Scope) (o : Ord) (a : Opnd) (b : Opnd) (c : Opnd) (imm : BitVec 16) :
    Statement (.vsave sc o a b c imm) := by
  intro _ _
  change build ({ op := 0x65#8, a := a.code, b := b.code, c := c.code, fn := memFn 0#3 sc o, imm := imm }) = _
  simp [build, buildTag, RWord.scope, RWord.ord]

theorem Laws.Words.vrstr (sc : Scope) (o : Ord) (d : Opnd) (a : Opnd) (b : Opnd) (imm : BitVec 16) :
    Statement (.vrstr sc o d a b imm) := by
  intro _ _
  change build ({ op := 0x66#8, d := d.code, a := a.code, b := b.code, fn := memFn 0#3 sc o, imm := imm }) = _
  simp [build, buildTag, RWord.scope, RWord.ord]

theorem Laws.Words.vmov (mk : Mk) (rm : Rm) (all : Bool) (d : Opnd) (a : Opnd) :
    Statement (.vmov mk rm all d a) := by
  intro hw _
  have hm : mk.ok = true := by
    have h2 : (mk.ok && d.okV && a.okV && (!all || (mk == .all && rm == .fctl))) = true := hw
    simp only [Bool.and_eq_true] at h2
    simp only [h2]
  change build (encV 0x67#8 mk (rmFn rm (0#3 ++ BitVec.ofBool all)) d a) = _
  simp [build, buildTag, encV, RWord.rm, RWord.mk?, RWord.fn0, Mk.of_fields, hm]

theorem Laws.Words.vsplat (mk : Mk) (rm : Rm) (st : BitVec 2) (d : Opnd) (a : Opnd) (f : FmtCode) :
    Statement (.vsplat mk rm st d a f) := by
  intro hw _
  have hm : mk.ok = true := by
    have h2 : (mk.ok && d.okV && fmtOk f) = true := hw
    simp only [Bool.and_eq_true] at h2
    simp only [h2]
  change build (encV 0x68#8 mk (rmFn rm (0#2 ++ st)) d a 0#7 0#7 (fmt16 f)) = _
  simp [build, buildTag, encV, RWord.rm, RWord.mk?, RWord.fmt, fmt16, Mk.of_fields, hm]

theorem Laws.Words.viota (mk : Mk) (rm : Rm) (count : Bool) (d : Opnd) (f : FmtCode) :
    Statement (.viota mk rm count d f) := by
  intro hw _
  have hm : mk.ok = true := by
    have h2 : (mk.ok && d.okV && fmtOk f && f != 0#6) = true := hw
    simp only [Bool.and_eq_true] at h2
    simp only [h2]
  change build (encV 0x69#8 mk (rmFn rm (0#3 ++ BitVec.ofBool count)) d (.reg 0#6) 0#7 0#7 (fmt16 f)) = _
  simp [build, buildTag, encV, RWord.rm, RWord.mk?, RWord.fn0, RWord.fmt, fmt16, Mk.of_fields, hm]

theorem Laws.Words.vext (rm : Rm) (d : Opnd) (a : Opnd) (e : IdxSel 10) :
    Statement (.vext rm d a e) := by
  suffices hs : build (match e with | .imm n => encV 0x6A#8 .all (rmFn rm 1#4) d a 0#7 0#7 (0#6 ++ n) | .reg o => encV 0x6A#8 .all (rmFn rm) d a o.code) = some (.vext rm d a e) from fun _ _ => hs
  cases e <;> simp [build, buildTag, encV, RWord.rm, RWord.idx10, RWord.fn0]

theorem Laws.Words.vins (rm : Rm) (d : Opnd) (a : Opnd) (e : IdxSel 10) :
    Statement (.vins rm d a e) := by
  suffices hs : build (match e with | .imm n => encV 0x6B#8 .all (rmFn rm 1#4) d a 0#7 0#7 (0#6 ++ n) | .reg o => encV 0x6B#8 .all (rmFn rm) d a o.code) = some (.vins rm d a e) from fun _ _ => hs
  cases e <;> simp [build, buildTag, encV, RWord.rm, RWord.idx10, RWord.fn0]

theorem Laws.Words.vadd (mk : Mk) (rm : Rm) (sat : Bool) (wide : Bool) (d : Opnd) (a : Opnd) (b : Opnd) :
    Statement (.vadd mk rm sat wide d a b) := by
  intro hw _
  have hm : mk.ok = true := by
    have h2 : (mk.ok && d.okV && a.okV && b.okV) = true := hw
    simp only [Bool.and_eq_true] at h2
    simp only [h2]
  change build (encV 0x70#8 mk (vFn rm sat wide) d a b.code) = _
  simp [build, buildVec, encV, bV3w, RWord.mk?, RWord.rm, RWord.sat, RWord.wide, Mk.of_fields, hm]

theorem Laws.Words.vsub (mk : Mk) (rm : Rm) (sat : Bool) (wide : Bool) (d : Opnd) (a : Opnd) (b : Opnd) :
    Statement (.vsub mk rm sat wide d a b) := by
  intro hw _
  have hm : mk.ok = true := by
    have h2 : (mk.ok && d.okV && a.okV && b.okV) = true := hw
    simp only [Bool.and_eq_true] at h2
    simp only [h2]
  change build (encV 0x71#8 mk (vFn rm sat wide) d a b.code) = _
  simp [build, buildVec, encV, bV3w, RWord.mk?, RWord.rm, RWord.sat, RWord.wide, Mk.of_fields, hm]

theorem Laws.Words.vmul (mk : Mk) (rm : Rm) (sat : Bool) (wide : Bool) (d : Opnd) (a : Opnd) (b : Opnd) :
    Statement (.vmul mk rm sat wide d a b) := by
  intro hw _
  have hm : mk.ok = true := by
    have h2 : (mk.ok && d.okV && a.okV && b.okV) = true := hw
    simp only [Bool.and_eq_true] at h2
    simp only [h2]
  change build (encV 0x72#8 mk (vFn rm sat wide) d a b.code) = _
  simp [build, buildVec, encV, bV3w, RWord.mk?, RWord.rm, RWord.sat, RWord.wide, Mk.of_fields, hm]

theorem Laws.Words.vfma (mk : Mk) (rm : Rm) (sat : Bool) (wide : Bool) (d : Opnd) (a : Opnd) (b : Opnd) (c : Opnd) :
    Statement (.vfma mk rm sat wide d a b c) := by
  intro hw _
  have hm : mk.ok = true := by
    have h2 : (mk.ok && d.okV && a.okV && b.okV && c.okV) = true := hw
    simp only [Bool.and_eq_true] at h2
    simp only [h2]
  change build (encV 0x73#8 mk (vFn rm sat wide) d a b.code c.code) = _
  simp [build, buildVec, encV, RWord.rm, RWord.mk?, RWord.sat, RWord.wide, Mk.of_fields, hm]

theorem Laws.Words.vmin (mk : Mk) (rm : Rm) (sat : Bool) (d : Opnd) (a : Opnd) (b : Opnd) :
    Statement (.vmin mk rm sat d a b) := by
  intro hw _
  have hm : mk.ok = true := by
    have h2 : (mk.ok && d.okV && a.okV && b.okV) = true := hw
    simp only [Bool.and_eq_true] at h2
    simp only [h2]
  change build (encV 0x74#8 mk (vFn rm sat false) d a b.code) = _
  simp [build, buildVec, encV, bV3w, RWord.mk?, RWord.rm, RWord.sat, Mk.of_fields, hm]

theorem Laws.Words.vmax (mk : Mk) (rm : Rm) (sat : Bool) (d : Opnd) (a : Opnd) (b : Opnd) :
    Statement (.vmax mk rm sat d a b) := by
  intro hw _
  have hm : mk.ok = true := by
    have h2 : (mk.ok && d.okV && a.okV && b.okV) = true := hw
    simp only [Bool.and_eq_true] at h2
    simp only [h2]
  change build (encV 0x75#8 mk (vFn rm sat false) d a b.code) = _
  simp [build, buildVec, encV, bV3w, RWord.mk?, RWord.rm, RWord.sat, Mk.of_fields, hm]

theorem Laws.Words.vabs (mk : Mk) (rm : Rm) (sat : Bool) (d : Opnd) (a : Opnd) :
    Statement (.vabs mk rm sat d a) := by
  intro hw _
  have hm : mk.ok = true := by
    have h2 : (mk.ok && d.okV && a.okV) = true := hw
    simp only [Bool.and_eq_true] at h2
    simp only [h2]
  change build (encV 0x76#8 mk (vFn rm sat false) d a) = _
  simp [build, buildVec, encV, bV2w, RWord.mk?, RWord.rm, RWord.sat, Mk.of_fields, hm]

theorem Laws.Words.vneg (mk : Mk) (rm : Rm) (sat : Bool) (d : Opnd) (a : Opnd) :
    Statement (.vneg mk rm sat d a) := by
  intro hw _
  have hm : mk.ok = true := by
    have h2 : (mk.ok && d.okV && a.okV) = true := hw
    simp only [Bool.and_eq_true] at h2
    simp only [h2]
  change build (encV 0x77#8 mk (vFn rm sat false) d a) = _
  simp [build, buildVec, encV, bV2w, RWord.mk?, RWord.rm, RWord.sat, Mk.of_fields, hm]

theorem Laws.Words.vdiv (mk : Mk) (rm : Rm) (sat : Bool) (d : Opnd) (a : Opnd) (b : Opnd) :
    Statement (.vdiv mk rm sat d a b) := by
  intro hw _
  have hm : mk.ok = true := by
    have h2 : (mk.ok && d.okV && a.okV && b.okV) = true := hw
    simp only [Bool.and_eq_true] at h2
    simp only [h2]
  change build (encV 0x78#8 mk (vFn rm sat false) d a b.code) = _
  simp [build, buildVec, encV, bV3w, RWord.mk?, RWord.rm, RWord.sat, Mk.of_fields, hm]

theorem Laws.Words.vsqrt (mk : Mk) (rm : Rm) (d : Opnd) (a : Opnd) :
    Statement (.vsqrt mk rm d a) := by
  intro hw _
  have hm : mk.ok = true := by
    have h2 : (mk.ok && d.okV && a.okV) = true := hw
    simp only [Bool.and_eq_true] at h2
    simp only [h2]
  change build (encV 0x79#8 mk (rmFn rm) d a) = _
  simp [build, buildVec, encV, bV2w, RWord.mk?, RWord.rm, Mk.of_fields, hm]

theorem Laws.Words.vrsqrt (mk : Mk) (rm : Rm) (d : Opnd) (a : Opnd) :
    Statement (.vrsqrt mk rm d a) := by
  intro hw _
  have hm : mk.ok = true := by
    have h2 : (mk.ok && d.okV && a.okV) = true := hw
    simp only [Bool.and_eq_true] at h2
    simp only [h2]
  change build (encV 0x7A#8 mk (rmFn rm) d a) = _
  simp [build, buildVec, encV, bV2w, RWord.mk?, RWord.rm, Mk.of_fields, hm]

theorem Laws.Words.vrcp (mk : Mk) (rm : Rm) (d : Opnd) (a : Opnd) :
    Statement (.vrcp mk rm d a) := by
  intro hw _
  have hm : mk.ok = true := by
    have h2 : (mk.ok && d.okV && a.okV) = true := hw
    simp only [Bool.and_eq_true] at h2
    simp only [h2]
  change build (encV 0x7B#8 mk (rmFn rm) d a) = _
  simp [build, buildVec, encV, bV2w, RWord.mk?, RWord.rm, Mk.of_fields, hm]

theorem Laws.Words.vexp2 (mk : Mk) (rm : Rm) (d : Opnd) (a : Opnd) :
    Statement (.vexp2 mk rm d a) := by
  intro hw _
  have hm : mk.ok = true := by
    have h2 : (mk.ok && d.okV && a.okV) = true := hw
    simp only [Bool.and_eq_true] at h2
    simp only [h2]
  change build (encV 0x7C#8 mk (rmFn rm) d a) = _
  simp [build, buildVec, encV, bV2w, RWord.mk?, RWord.rm, Mk.of_fields, hm]

theorem Laws.Words.vlog2 (mk : Mk) (rm : Rm) (d : Opnd) (a : Opnd) :
    Statement (.vlog2 mk rm d a) := by
  intro hw _
  have hm : mk.ok = true := by
    have h2 : (mk.ok && d.okV && a.okV) = true := hw
    simp only [Bool.and_eq_true] at h2
    simp only [h2]
  change build (encV 0x7D#8 mk (rmFn rm) d a) = _
  simp [build, buildVec, encV, bV2w, RWord.mk?, RWord.rm, Mk.of_fields, hm]

theorem Laws.Words.vclip (mk : Mk) (rm : Rm) (sat : Bool) (d : Opnd) (a : Opnd) (b : Opnd) (c : Opnd) :
    Statement (.vclip mk rm sat d a b c) := by
  intro hw _
  have hm : mk.ok = true := by
    have h2 : (mk.ok && d.okV && a.okV && b.okV && c.okV) = true := hw
    simp only [Bool.and_eq_true] at h2
    simp only [h2]
  change build (encV 0x7E#8 mk (vFn rm sat false) d a b.code c.code) = _
  simp [build, buildVec, encV, RWord.rm, RWord.mk?, RWord.sat, Mk.of_fields, hm]

theorem Laws.Words.vcmp (mk : Mk) (cond : BitVec 3) (d : Opnd) (a : Opnd) (b : Opnd) :
    Statement (.vcmp mk cond d a b) := by
  intro hw _
  have hm : mk.ok = true := by
    have h2 : (mk.ok && cond.toNat < 7 && d.okM && a.okV && b.okV) = true := hw
    simp only [Bool.and_eq_true] at h2
    simp only [h2]
  change build (encV 0x7F#8 mk 0#7 d a b.code 0#7 (0#13 ++ cond)) = _
  simp [build, buildVec, encV, bV3w, RWord.mk?, RWord.rm, Mk.of_fields, hm]

theorem Laws.Words.vsel (mk : Mk) (rm : Rm) (sat : Bool) (d : Opnd) (a : Opnd) (b : Opnd) (c : Opnd) :
    Statement (.vsel mk rm sat d a b c) := by
  intro hw _
  have hm : mk.ok = true := by
    have h2 : (mk.ok && d.okV && a.okV && b.okV && c.okM) = true := hw
    simp only [Bool.and_eq_true] at h2
    simp only [h2]
  change build (encV 0x80#8 mk (vFn rm sat false) d a b.code c.code) = _
  simp [build, buildVec, encV, RWord.rm, RWord.mk?, RWord.sat, Mk.of_fields, hm]

theorem Laws.Words.vand (mk : Mk) (d : Opnd) (a : Opnd) (b : Opnd) :
    Statement (.vand mk d a b) := by
  intro hw _
  have hm : mk.ok = true := by
    have h2 : (mk.ok && d.okV && a.okV && b.okV) = true := hw
    simp only [Bool.and_eq_true] at h2
    simp only [h2]
  change build (encV 0x81#8 mk 0#7 d a b.code) = _
  simp [build, buildVec, encV, bV3w, RWord.mk?, RWord.rm, Mk.of_fields, hm]

theorem Laws.Words.vor (mk : Mk) (d : Opnd) (a : Opnd) (b : Opnd) :
    Statement (.vor mk d a b) := by
  intro hw _
  have hm : mk.ok = true := by
    have h2 : (mk.ok && d.okV && a.okV && b.okV) = true := hw
    simp only [Bool.and_eq_true] at h2
    simp only [h2]
  change build (encV 0x82#8 mk 0#7 d a b.code) = _
  simp [build, buildVec, encV, bV3w, RWord.mk?, RWord.rm, Mk.of_fields, hm]

theorem Laws.Words.vxor (mk : Mk) (d : Opnd) (a : Opnd) (b : Opnd) :
    Statement (.vxor mk d a b) := by
  intro hw _
  have hm : mk.ok = true := by
    have h2 : (mk.ok && d.okV && a.okV && b.okV) = true := hw
    simp only [Bool.and_eq_true] at h2
    simp only [h2]
  change build (encV 0x83#8 mk 0#7 d a b.code) = _
  simp [build, buildVec, encV, bV3w, RWord.mk?, RWord.rm, Mk.of_fields, hm]

theorem Laws.Words.vnot (mk : Mk) (d : Opnd) (a : Opnd) :
    Statement (.vnot mk d a) := by
  intro hw _
  have hm : mk.ok = true := by
    have h2 : (mk.ok && d.okV && a.okV) = true := hw
    simp only [Bool.and_eq_true] at h2
    simp only [h2]
  change build (encV 0x84#8 mk 0#7 d a) = _
  simp [build, buildVec, encV, bV2w, RWord.mk?, RWord.rm, Mk.of_fields, hm]

theorem Laws.Words.vshl (mk : Mk) (d : Opnd) (a : Opnd) (b : IdxSel 6) :
    Statement (.vshl mk d a b) := by
  intro hw _
  have hm : mk.ok = true := by
    have h2 : (mk.ok && d.okV && a.okV && _) = true := hw
    simp only [Bool.and_eq_true] at h2
    simp only [h2]
  change build (encShift 0x85#8 mk d a b) = _
  cases b <;> simp [build, buildVec, encShift, encV, bVsh, RWord.mk?, RWord.shAmt, RWord.fn0, Mk.of_fields, hm]

theorem Laws.Words.vshr (mk : Mk) (d : Opnd) (a : Opnd) (b : IdxSel 6) :
    Statement (.vshr mk d a b) := by
  intro hw _
  have hm : mk.ok = true := by
    have h2 : (mk.ok && d.okV && a.okV && _) = true := hw
    simp only [Bool.and_eq_true] at h2
    simp only [h2]
  change build (encShift 0x86#8 mk d a b) = _
  cases b <;> simp [build, buildVec, encShift, encV, bVsh, RWord.mk?, RWord.shAmt, RWord.fn0, Mk.of_fields, hm]

theorem Laws.Words.vsra (mk : Mk) (d : Opnd) (a : Opnd) (b : IdxSel 6) :
    Statement (.vsra mk d a b) := by
  intro hw _
  have hm : mk.ok = true := by
    have h2 : (mk.ok && d.okV && a.okV && _) = true := hw
    simp only [Bool.and_eq_true] at h2
    simp only [h2]
  change build (encShift 0x87#8 mk d a b) = _
  cases b <;> simp [build, buildVec, encShift, encV, bVsh, RWord.mk?, RWord.shAmt, RWord.fn0, Mk.of_fields, hm]

theorem Laws.Words.vrsum (mk : Mk) (rm : Rm) (sat : Bool) (wide : Bool) (d : Opnd) (a : Opnd) :
    Statement (.vrsum mk rm sat wide d a) := by
  intro hw _
  have hm : mk.ok = true := by
    have h2 : (mk.ok && d.okV && a.okV) = true := hw
    simp only [Bool.and_eq_true] at h2
    simp only [h2]
  change build (encV 0x88#8 mk (vFn rm sat wide) d a) = _
  simp [build, buildVec, encV, bV2w, RWord.mk?, RWord.rm, RWord.sat, RWord.wide, Mk.of_fields, hm]

theorem Laws.Words.vrmax (mk : Mk) (rm : Rm) (sat : Bool) (wide : Bool) (d : Opnd) (a : Opnd) :
    Statement (.vrmax mk rm sat wide d a) := by
  intro hw _
  have hm : mk.ok = true := by
    have h2 : (mk.ok && d.okV && a.okV) = true := hw
    simp only [Bool.and_eq_true] at h2
    simp only [h2]
  change build (encV 0x89#8 mk (vFn rm sat wide) d a) = _
  simp [build, buildVec, encV, bV2w, RWord.mk?, RWord.rm, RWord.sat, RWord.wide, Mk.of_fields, hm]

theorem Laws.Words.vrmin (mk : Mk) (rm : Rm) (sat : Bool) (wide : Bool) (d : Opnd) (a : Opnd) :
    Statement (.vrmin mk rm sat wide d a) := by
  intro hw _
  have hm : mk.ok = true := by
    have h2 : (mk.ok && d.okV && a.okV) = true := hw
    simp only [Bool.and_eq_true] at h2
    simp only [h2]
  change build (encV 0x8A#8 mk (vFn rm sat wide) d a) = _
  simp [build, buildVec, encV, bV2w, RWord.mk?, RWord.rm, RWord.sat, RWord.wide, Mk.of_fields, hm]

theorem Laws.Words.vscan (mk : Mk) (rm : Rm) (sat : Bool) (wide : Bool) (op : BitVec 2) (d : Opnd) (a : Opnd) :
    Statement (.vscan mk rm sat wide op d a) := by
  intro hw _
  have hm : mk.ok = true := by
    have h2 : (mk.ok && op.toNat < 3 && d.okV && a.okV) = true := hw
    simp only [Bool.and_eq_true] at h2
    simp only [h2]
  change build (encV 0x8B#8 mk (vFn rm sat wide op) d a) = _
  simp [build, buildVec, encV, bV2w, RWord.mk?, RWord.rm, RWord.sat, RWord.wide, Mk.of_fields, hm]

theorem Laws.Words.vslup (mk : Mk) (rm : Rm) (d : Opnd) (a : Opnd) (n : SrcB) :
    Statement (.vslup mk rm d a n) := by
  intro hw _
  have hm : mk.ok = true := by
    have h2 : (mk.ok && d.okV && a.okV) = true := hw
    simp only [Bool.and_eq_true] at h2
    simp only [h2]
  change build (encVImm 0x8C#8 mk rm.code d a n) = _
  cases n <;> simp [build, buildVec, encV, encVImm, RWord.rm, RWord.mk?, RWord.srcFn0, RWord.fn0, Mk.of_fields, hm]

theorem Laws.Words.vsldn (mk : Mk) (rm : Rm) (d : Opnd) (a : Opnd) (n : SrcB) :
    Statement (.vsldn mk rm d a n) := by
  intro hw _
  have hm : mk.ok = true := by
    have h2 : (mk.ok && d.okV && a.okV) = true := hw
    simp only [Bool.and_eq_true] at h2
    simp only [h2]
  change build (encVImm 0x8D#8 mk rm.code d a n) = _
  cases n <;> simp [build, buildVec, encV, encVImm, RWord.rm, RWord.mk?, RWord.srcFn0, RWord.fn0, Mk.of_fields, hm]

theorem Laws.Words.vshuf (mk : Mk) (rm : Rm) (d : Opnd) (a : Opnd) (b : Opnd) :
    Statement (.vshuf mk rm d a b) := by
  intro hw _
  have hm : mk.ok = true := by
    have h2 : (mk.ok && d.okV && a.okV && b.okV) = true := hw
    simp only [Bool.and_eq_true] at h2
    simp only [h2]
  change build (encV 0x8E#8 mk (rmFn rm) d a b.code) = _
  simp [build, buildVec, encV, bV3w, RWord.mk?, RWord.rm, Mk.of_fields, hm]

theorem Laws.Words.vcomp (mk : Mk) (rm : Rm) (d : Opnd) (a : Opnd) :
    Statement (.vcomp mk rm d a) := by
  intro hw _
  have hm : mk.ok = true := by
    have h2 : (mk.ok && d.okV && a.okV) = true := hw
    simp only [Bool.and_eq_true] at h2
    simp only [h2]
  change build (encV 0x8F#8 mk (rmFn rm) d a) = _
  simp [build, buildVec, encV, bV2w, RWord.mk?, RWord.rm, Mk.of_fields, hm]

theorem Laws.Words.vexpd (mk : Mk) (rm : Rm) (d : Opnd) (a : Opnd) :
    Statement (.vexpd mk rm d a) := by
  intro hw _
  have hm : mk.ok = true := by
    have h2 : (mk.ok && d.okV && a.okV) = true := hw
    simp only [Bool.and_eq_true] at h2
    simp only [h2]
  change build (encV 0x90#8 mk (rmFn rm) d a) = _
  simp [build, buildVec, encV, bV2w, RWord.mk?, RWord.rm, Mk.of_fields, hm]

theorem Laws.Words.vzip (mk : Mk) (rm : Rm) (mode : BitVec 2) (d : Opnd) (a : Opnd) (b : Opnd) :
    Statement (.vzip mk rm mode d a b) := by
  intro hw _
  have hm : mk.ok = true := by
    have h2 : (mk.ok && d.okV && a.okV && b.okV) = true := hw
    simp only [Bool.and_eq_true] at h2
    simp only [h2]
  change build (encV 0x91#8 mk (rmFn rm (0#2 ++ mode)) d a b.code) = _
  simp [build, buildVec, encV, bV3w, RWord.mk?, RWord.rm, Mk.of_fields, hm]

theorem Laws.Words.vunpk (mk : Mk) (d : Opnd) (a : Opnd) (w1 : BitVec 4) (f : FmtCode) :
    Statement (.vunpk mk d a w1 f) := by
  intro hw _
  have hm : mk.ok = true := by
    have h2 : (mk.ok && d.okV && a.okV && isWInt f) = true := hw
    simp only [Bool.and_eq_true] at h2
    simp only [h2]
  change build (encV 0x92#8 mk 0#7 d a 0#7 0#7 (0#4 ++ w1 ++ 0#2 ++ f)) = _
  simp [build, buildVec, encV, RWord.mk?, RWord.fmt, Mk.of_fields, hm]

theorem Laws.Words.vpack (mk : Mk) (sat : Bool) (d : Opnd) (a : Opnd) (w1 : BitVec 4) :
    Statement (.vpack mk sat d a w1) := by
  intro hw _
  have hm : mk.ok = true := by
    have h2 : (mk.ok && d.okV && a.okV) = true := hw
    simp only [Bool.and_eq_true] at h2
    simp only [h2]
  change build (encV 0x93#8 mk (vFn .fctl sat false) d a 0#7 0#7 (0#4 ++ w1 ++ 0#8)) = _
  simp [build, buildVec, encV, RWord.mk?, RWord.sat, Mk.of_fields, hm]

theorem Laws.Words.vlook (mk : Mk) (rm : Rm) (d : Opnd) (a : Opnd) (b : Opnd) :
    Statement (.vlook mk rm d a b) := by
  intro hw _
  have hm : mk.ok = true := by
    have h2 : (mk.ok && d.okV && a.okV && b.okV) = true := hw
    simp only [Bool.and_eq_true] at h2
    simp only [h2]
  change build (encV 0x94#8 mk (rmFn rm) d a b.code) = _
  simp [build, buildVec, encV, bV3w, RWord.mk?, RWord.rm, Mk.of_fields, hm]

theorem Laws.Words.vtopk (mk : Mk) (rm : Rm) (d : Opnd) (a : Opnd) (c : Opnd) (k : BitVec 11) (bs : BitVec 3) :
    Statement (.vtopk mk rm d a c k bs) := by
  intro hw _
  have hm : mk.ok = true := by
    have h2 : (mk.ok && d.okVGroup 2 && a.okV && c.okV && bs.toNat < 5 && 1 ≤ k.toNat && k.toNat ≤ 64 * 2 ^ bs.toNat) = true := hw
    simp only [Bool.and_eq_true] at h2
    simp only [h2]
  change build (encV 0x95#8 mk (rmFn rm) d a 0#7 c.code (0#1 ++ bs ++ 0#1 ++ k)) = _
  simp [build, buildVec, encV, RWord.rm, RWord.mk?, Mk.of_fields, hm]

theorem Laws.Words.vdot4 (mk : Mk) (rm : Rm) (sat : Bool) (d : Opnd) (a : Opnd) (b : Opnd) :
    Statement (.vdot4 mk rm sat d a b) := by
  intro hw _
  have hm : mk.ok = true := by
    have h2 : (mk.ok && d.okV && a.okVGroup 4 && b.okVGroup 4) = true := hw
    simp only [Bool.and_eq_true] at h2
    simp only [h2]
  change build (encV 0x96#8 mk (vFn rm sat false) d a b.code) = _
  simp [build, buildVec, encV, bV3w, RWord.mk?, RWord.rm, RWord.sat, Mk.of_fields, hm]

theorem Laws.Words.mlog (tt : BitVec 4) (d : Opnd) (a : Opnd) (b : Opnd) :
    Statement (.mlog tt d a b) := by
  intro _ _
  change build ({ op := 0x97#8, d := d.code, a := a.code, b := b.code, imm := 0#12 ++ tt }) = _
  simp [build, buildVec, ]

theorem Laws.Words.mpop (d : Opnd) (a : Opnd) :
    Statement (.mpop d a) := by
  intro _ _
  change build ({ op := 0x98#8, d := d.code, a := a.code }) = _
  simp [build, buildVec, bDA]

theorem Laws.Words.mfirst (d : Opnd) (a : Opnd) :
    Statement (.mfirst d a) := by
  intro _ _
  change build ({ op := 0x99#8, d := d.code, a := a.code }) = _
  simp [build, buildVec, bDA]

theorem Laws.Words.mset (d : Opnd) (n : SrcB) :
    Statement (.mset d n) := by
  suffices hs : build (match n with | .op o => { op := 0x9A#8, d := d.code, a := o.code } | .imm i => { op := 0x9A#8, d := d.code, fn := 1#7, imm := i }) = some (.mset d n) from fun _ _ => hs
  cases n <;> simp [build, buildVec, RWord.srcFn0, RWord.fn0]

theorem Laws.Words.mtov (mk : Mk) (rm : Rm) (d : Opnd) (a : Opnd) (f : FmtCode) :
    Statement (.mtov mk rm d a f) := by
  intro hw _
  have hm : mk.ok = true := by
    have h2 : (mk.ok && d.okV && a.okM && (isWInt f || isIeee f)) = true := hw
    simp only [Bool.and_eq_true] at h2
    simp only [h2]
  change build (encV 0x9B#8 mk (rmFn rm) d a 0#7 0#7 (fmt16 f)) = _
  simp [build, buildVec, encV, RWord.rm, RWord.mk?, RWord.fmt, fmt16, Mk.of_fields, hm]

theorem Laws.Words.vtom (mk : Mk) (d : Opnd) (a : Opnd) :
    Statement (.vtom mk d a) := by
  intro hw _
  have hm : mk.ok = true := by
    have h2 : (mk.ok && d.okM && a.okV) = true := hw
    simp only [Bool.and_eq_true] at h2
    simp only [h2]
  change build (encV 0x9C#8 mk 0#7 d a) = _
  simp [build, buildVec, encV, RWord.mk?, Mk.of_fields, hm]

theorem Laws.Words.vld (mk : Mk) (rm : Rm) (ql : Qual) (trim : Bool) (d : Opnd) (a : Opnd) (b : Opnd) (imm : BitVec 16) :
    Statement (.vld mk rm ql trim d a b imm) := by
  intro hw _
  have hm : mk.ok = true := by
    have h2 : (mk.ok && ql.okLoad && d.okV && _) = true := hw
    simp only [Bool.and_eq_true] at h2
    simp only [h2]
  change build (encV 0xA0#8 mk (ql.fn rm.code) d a b.code (ql.qual trim) imm) = _
  simp [build, buildVmem, encV, bVld, RWord.mk?, RWord.rm, Mk.of_fields, hm]

theorem Laws.Words.vlds (mk : Mk) (rm : Rm) (ql : Qual) (d : Opnd) (a : Opnd) (b : Opnd) (imm : BitVec 16) :
    Statement (.vlds mk rm ql d a b imm) := by
  intro hw _
  have hm : mk.ok = true := by
    have h2 : (mk.ok && ql.okLoad && d.okV) = true := hw
    simp only [Bool.and_eq_true] at h2
    simp only [h2]
  change build (encV 0xA1#8 mk (ql.fn rm.code) d a b.code (ql.qual false) imm) = _
  simp [build, buildVmem, encV, bVld, RWord.mk?, RWord.rm, Mk.of_fields, hm]

theorem Laws.Words.vldx (mk : Mk) (rm : Rm) (ql : Qual) (d : Opnd) (a : Opnd) (b : Opnd) (imm : BitVec 16) :
    Statement (.vldx mk rm ql d a b imm) := by
  intro hw _
  have hm : mk.ok = true := by
    have h2 : (mk.ok && ql.okLoad && d.okV && b.okV) = true := hw
    simp only [Bool.and_eq_true] at h2
    simp only [h2]
  change build (encV 0xA2#8 mk (ql.fn rm.code) d a b.code (ql.qual false) imm) = _
  simp [build, buildVmem, encV, bVld, RWord.mk?, RWord.rm, Mk.of_fields, hm]

theorem Laws.Words.vldf (mk : Mk) (rm : Rm) (ql : Qual) (d : Opnd) (a : Opnd) (b : Opnd) (imm : BitVec 16) :
    Statement (.vldf mk rm ql d a b imm) := by
  intro hw _
  have hm : mk.ok = true := by
    have h2 : (mk.ok && ql.okLoad && d.okV) = true := hw
    simp only [Bool.and_eq_true] at h2
    simp only [h2]
  change build (encV 0xA3#8 mk (ql.fn rm.code) d a b.code (ql.qual false) imm) = _
  simp [build, buildVmem, encV, bVld, RWord.mk?, RWord.rm, Mk.of_fields, hm]

theorem Laws.Words.vldm (mk : Mk) (rm : Rm) (sp : Space) (d : Opnd) (h : BitVec 4) (b : Opnd) (c : Opnd) :
    Statement (.vldm mk rm sp d h b c) := by
  intro hw _
  have hm : mk.ok = true := by
    have h2 : (mk.ok && d.okV) = true := hw
    simp only [Bool.and_eq_true] at h2
    simp only [h2]
  change build ({ op := 0xA4#8, msk := mk.msk, minv := mk.minv, d := d.code, a := code4 h, b := b.code, c := c.code, fn := sp.fn rm.code, imm := spImm sp 0#14 }) = _
  simp [build, buildVmem, bVm, RWord.mk?, RWord.rm, RWord.spaceI, Mk.of_fields, hm]

theorem Laws.Words.vldg (mk : Mk) (rm : Rm) (sp : Space) (d : Opnd) (h : BitVec 4) (b : Opnd) (c : Opnd) (k : BitVec 4) :
    Statement (.vldg mk rm sp d h b c k) := by
  intro hw _
  have hm : mk.ok = true := by
    have h2 : (mk.ok && d.okVGroup k.toNat && d.noQ && 1 ≤ k.toNat && k.toNat ≤ 8) = true := hw
    simp only [Bool.and_eq_true] at h2
    simp only [h2]
  change build ({ op := 0xA5#8, msk := mk.msk, minv := mk.minv, d := d.code, a := code4 h, b := b.code, c := c.code, fn := sp.fn rm.code, imm := spImm sp (0#10 ++ k) }) = _
  simp [build, buildVmem, bVm, RWord.mk?, RWord.rm, RWord.spaceI, Mk.of_fields, hm]

theorem Laws.Words.vst (mk : Mk) (rm : Rm) (sp : Space) (d : Opnd) (a : Opnd) (b : Opnd) (imm : BitVec 16) :
    Statement (.vst mk rm sp d a b imm) := by
  intro hw _
  have hm : mk.ok = true := by
    have h2 : (mk.ok && sp.okOrd .acq && d.okV) = true := hw
    simp only [Bool.and_eq_true] at h2
    simp only [h2]
  change build (encV 0xA6#8 mk (sp.fn rm.code) d a b.code sp.qual imm) = _
  simp [build, buildVmem, encV, bVst, RWord.mk?, RWord.rm, RWord.spaceC, Mk.of_fields, hm]

theorem Laws.Words.vsts (mk : Mk) (rm : Rm) (sp : Space) (d : Opnd) (a : Opnd) (b : Opnd) (imm : BitVec 16) :
    Statement (.vsts mk rm sp d a b imm) := by
  intro hw _
  have hm : mk.ok = true := by
    have h2 : (mk.ok && sp.okOrd .acq && d.okV) = true := hw
    simp only [Bool.and_eq_true] at h2
    simp only [h2]
  change build (encV 0xA7#8 mk (sp.fn rm.code) d a b.code sp.qual imm) = _
  simp [build, buildVmem, encV, bVst, RWord.mk?, RWord.rm, RWord.spaceC, Mk.of_fields, hm]

theorem Laws.Words.vstx (mk : Mk) (rm : Rm) (sp : Space) (d : Opnd) (a : Opnd) (b : Opnd) (imm : BitVec 16) :
    Statement (.vstx mk rm sp d a b imm) := by
  intro hw _
  have hm : mk.ok = true := by
    have h2 : (mk.ok && sp.okOrd .acq && d.okV && b.okV) = true := hw
    simp only [Bool.and_eq_true] at h2
    simp only [h2]
  change build (encV 0xA8#8 mk (sp.fn rm.code) d a b.code sp.qual imm) = _
  simp [build, buildVmem, encV, bVst, RWord.mk?, RWord.rm, RWord.spaceC, Mk.of_fields, hm]

theorem Laws.Words.vstm (mk : Mk) (rm : Rm) (sp : Space) (d : Opnd) (h : BitVec 4) (b : Opnd) (c : Opnd) :
    Statement (.vstm mk rm sp d h b c) := by
  intro hw _
  have hm : mk.ok = true := by
    have h2 : (mk.ok && d.okV) = true := hw
    simp only [Bool.and_eq_true] at h2
    simp only [h2]
  change build ({ op := 0xA9#8, msk := mk.msk, minv := mk.minv, d := d.code, a := code4 h, b := b.code, c := c.code, fn := sp.fn rm.code, imm := spImm sp 0#14 }) = _
  simp [build, buildVmem, bVm, RWord.mk?, RWord.rm, RWord.spaceI, Mk.of_fields, hm]

theorem Laws.Words.vstg (mk : Mk) (rm : Rm) (sp : Space) (d : Opnd) (h : BitVec 4) (b : Opnd) (c : Opnd) (k : BitVec 4) :
    Statement (.vstg mk rm sp d h b c k) := by
  intro hw _
  have hm : mk.ok = true := by
    have h2 : (mk.ok && d.okVGroup k.toNat && d.noQ && 1 ≤ k.toNat && k.toNat ≤ 8) = true := hw
    simp only [Bool.and_eq_true] at h2
    simp only [h2]
  change build ({ op := 0xAA#8, msk := mk.msk, minv := mk.minv, d := d.code, a := code4 h, b := b.code, c := c.code, fn := sp.fn rm.code, imm := spImm sp (0#10 ++ k) }) = _
  simp [build, buildVmem, bVm, RWord.mk?, RWord.rm, RWord.spaceI, Mk.of_fields, hm]

theorem Laws.Words.vamo (mk : Mk) (op : Aop) (noret : Bool) (sp : Space) (d : Opnd) (a : Opnd) (b : Opnd) (c : Opnd) (e : BitVec 11) :
    Statement (.vamo mk op noret sp d a b c e) := by
  intro hw _
  have hm : mk.ok = true := by
    have h2 : (mk.ok && d.okV && d.noQ && a.noQ && b.okV && b.noQ && c.okV && c.noQ && (!noret || d == .reg 0#6) && (op == .fxadd || e == 0#11)) = true := hw
    simp only [Bool.and_eq_true] at h2
    simp only [h2]
  change build (encV 0xAB#8 mk (sp.fn (0#2 ++ BitVec.ofBool noret)) d a b.code c.code (e ++ sp.bit ++ op.code)) = _
  simp [build, buildVmem, encV, RWord.mk?, Mk.of_fields, hm]

theorem Laws.Words.mnf (d : BitVec 4) (a : Opnd) (b : Opnd) (imm : BitVec 16) :
    Statement (.mnf d a b imm) := by
  intro _ _
  change build ({ op := 0xAC#8, d := code4 d, a := a.code, b := b.code, imm := imm }) = _
  simp [build, buildVmem, ]

theorem Laws.Words.mnfget (d : Opnd) (h : BitVec 4) (sel : BitVec 4) :
    Statement (.mnfget d h sel) := by
  intro _ _
  change build ({ op := 0xAD#8, d := d.code, a := code4 h, imm := 0#12 ++ sel }) = _
  simp [build, buildVmem, ]

theorem Laws.Words.mnfset (add : Bool) (d : BitVec 4) (a : Opnd) (sel : BitVec 4) :
    Statement (.mnfset add d a sel) := by
  intro _ _
  change build ({ op := 0xAE#8, d := code4 d, a := a.code, fn := 0#6 ++ BitVec.ofBool add, imm := 0#12 ++ sel }) = _
  simp [build, buildVmem, RWord.fn0]

theorem Laws.Words.czero (d : BitVec 3) (cf : FmtCode) (mr : IdxSel 8) :
    Statement (.czero d cf mr) := by
  suffices hs : build (match mr with | .imm n => { op := 0xB0#8, d := code3 d, imm := 0#2 ++ n ++ cf } | .reg o => { op := 0xB0#8, d := code3 d, a := o.code, fn := 1#7, imm := fmt16 cf }) = some (.czero d cf mr) from fun _ _ => hs
  cases mr <;> simp [build, buildCanvas, RWord.fn0, RWord.fmt, fmt16]

theorem Laws.Words.cop (mk : Mk) (rm : Rm) (d : BitVec 3) (a : Opnd) (b : Opnd) :
    Statement (.cop mk rm d a b) := by
  intro hw _
  have hm : mk.ok = true := by
    have h2 : (mk.ok && a.okV && b.okV) = true := hw
    simp only [Bool.and_eq_true] at h2
    simp only [h2]
  change build ({ op := 0xB1#8, msk := mk.msk, minv := mk.minv, d := code3 d, a := a.code, b := b.code, fn := rmFn rm }) = _
  simp [build, buildCanvas, RWord.rm, RWord.mk?, Mk.of_fields, hm]

theorem Laws.Words.copk (mk : Mk) (rm : Rm) (d : BitVec 3) (a : Opnd) (b : Opnd) (k : BitVec 4) :
    Statement (.copk mk rm d a b k) := by
  intro hw _
  have hm : mk.ok = true := by
    have h2 : (mk.ok && a.okVGroup k.toNat && b.okVGroup k.toNat && 1 ≤ k.toNat && k.toNat ≤ 8) = true := hw
    simp only [Bool.and_eq_true] at h2
    simp only [h2]
  change build ({ op := 0xB2#8, msk := mk.msk, minv := mk.minv, d := code3 d, a := a.code, b := b.code, fn := rmFn rm, imm := 0#12 ++ k }) = _
  simp [build, buildCanvas, RWord.rm, RWord.mk?, Mk.of_fields, hm]

theorem Laws.Words.crrow (mk : Mk) (rm : Rm) (sat : Bool) (d : Opnd) (c : BitVec 3) (x : IdxSel 8) (f : FmtCode) :
    Statement (.crrow mk rm sat d c x f) := by
  intro hw _
  have hm : mk.ok = true := by
    have h2 : (mk.ok && d.okV && fmtOk f && f != 0#6) = true := hw
    simp only [Bool.and_eq_true] at h2
    simp only [h2]
  change build (encRowCol 0xB3#8 mk (vFn rm sat false) d.code (code3 c) 0#7 false x f) = _
  cases x <;> simp [build, buildCanvas, encRowCol, RWord.rm, RWord.mk?, RWord.sat, RWord.fmt, RWord.rowIdx, RWord.fn0, fmt16, Mk.of_fields, hm]

theorem Laws.Words.crcol (mk : Mk) (rm : Rm) (sat : Bool) (hi : Bool) (d : Opnd) (c : BitVec 3) (x : IdxSel 8) (f : FmtCode) :
    Statement (.crcol mk rm sat hi d c x f) := by
  intro hw _
  have hm : mk.ok = true := by
    have h2 : (mk.ok && d.okV && fmtOk f && f != 0#6) = true := hw
    simp only [Bool.and_eq_true] at h2
    simp only [h2]
  change build (encRowCol 0xB4#8 mk (vFn rm sat false (BitVec.ofBool hi ++ 0#1)) d.code (code3 c) 0#7 false x f) = _
  cases x <;> simp [build, buildCanvas, encRowCol, RWord.rm, RWord.mk?, RWord.sat, RWord.fn1, RWord.fmt, RWord.rowIdx, RWord.fn0, fmt16, Mk.of_fields, hm]

theorem Laws.Words.cwrow (mk : Mk) (rm : Rm) (d : BitVec 3) (x : IdxSel 8) (b : Opnd) :
    Statement (.cwrow mk rm d x b) := by
  intro hw _
  have hm : mk.ok = true := by
    have h2 : (mk.ok && b.okV) = true := hw
    simp only [Bool.and_eq_true] at h2
    simp only [h2]
  change build (encRowCol 0xB5#8 mk (rmFn rm) (code3 d) 0#7 b.code true x 0#6) = _
  cases x <;> simp [build, buildCanvas, encRowCol, RWord.rm, RWord.mk?, RWord.rowIdx, RWord.fn0, Mk.of_fields, hm]

theorem Laws.Words.cwcol (mk : Mk) (rm : Rm) (hi : Bool) (d : BitVec 3) (x : IdxSel 8) (b : Opnd) :
    Statement (.cwcol mk rm hi d x b) := by
  intro hw _
  have hm : mk.ok = true := by
    have h2 : (mk.ok && b.okV) = true := hw
    simp only [Bool.and_eq_true] at h2
    simp only [h2]
  change build (encRowCol 0xB6#8 mk (vFn rm false false (BitVec.ofBool hi ++ 0#1)) (code3 d) 0#7 b.code true x 0#6) = _
  cases x <;> simp [build, buildCanvas, encRowCol, RWord.rm, RWord.mk?, RWord.fn1, RWord.rowIdx, RWord.fn0, Mk.of_fields, hm]

theorem Laws.Words.cld (rm : Rm) (atom : Bool) (sp : Space) (d : BitVec 3) (h : BitVec 4) (b : Opnd) (c : Opnd) (ncol : BitVec 9) :
    Statement (.cld rm atom sp d h b c ncol) := by
  intro _ _
  change build ({ op := 0xB7#8, d := code3 d, a := code4 h, b := b.code, c := c.code, fn := sp.fn rm.code, imm := BitVec.ofBool atom ++ sp.bit ++ 0#5 ++ ncol }) = _
  simp [build, buildCanvas, bTile, RWord.rm, RWord.spaceI]

theorem Laws.Words.cst (rm : Rm) (atom : Bool) (sp : Space) (d : BitVec 3) (h : BitVec 4) (b : Opnd) (c : Opnd) (ncol : BitVec 9) :
    Statement (.cst rm atom sp d h b c ncol) := by
  intro _ _
  change build ({ op := 0xB8#8, d := code3 d, a := code4 h, b := b.code, c := c.code, fn := sp.fn rm.code, imm := BitVec.ofBool atom ++ sp.bit ++ 0#5 ++ ncol }) = _
  simp [build, buildCanvas, bTile, RWord.rm, RWord.spaceI]

theorem Laws.Words.cjoin (d : BitVec 3) (j : JoinSel) :
    Statement (.cjoin d j) := by
  suffices hs : build (match j with | .bind a p q => { op := 0xB9#8, d := code3 d, a := a.code, imm := 0#12 ++ q ++ p } | .unbind => { op := 0xB9#8, d := code3 d, fn := 1#7 }) = some (.cjoin d j) from fun _ _ => hs
  cases j <;> simp [build, buildCanvas, RWord.fn0]

theorem Laws.Words.cstj (rm : Rm) (sc : Scope) (o : Ord) (d : BitVec 3) (h : BitVec 4) (b : Opnd) (c : Opnd) :
    Statement (.cstj rm sc o d h b c) := by
  intro _ _
  change build ({ op := 0xBA#8, d := code3 d, a := code4 h, b := b.code, c := c.code, fn := memFn rm.code sc o }) = _
  simp [build, buildCanvas, RWord.rm, RWord.scope, RWord.ord]

theorem Laws.Words.cadd (rm : Rm) (d : BitVec 3) (a : BitVec 3) (b : BitVec 3) :
    Statement (.cadd rm d a b) := by
  intro _ _
  change build ({ op := 0xBB#8, d := code3 d, a := code3 a, b := code3 b, fn := rmFn rm }) = _
  simp [build, buildCanvas, RWord.rm]

theorem Laws.Words.cstat (d : Opnd) (c : BitVec 3) (sel : BitVec 3) :
    Statement (.cstat d c sel) := by
  intro _ _
  change build ({ op := 0xBC#8, d := d.code, a := code3 c, imm := 0#13 ++ sel }) = _
  simp [build, buildCanvas, ]

theorem Laws.Words.cpstart (k : BitVec 4) (h : BitVec 4) (b : Opnd) (c : Opnd) (ncol : BitVec 16) :
    Statement (.cpstart k h b c ncol) := by
  intro _ _
  change build ({ op := 0xC0#8, d := code4 k, a := code4 h, b := b.code, c := c.code, imm := ncol }) = _
  simp [build, buildTeam, ]

theorem Laws.Words.cpgather (mk : Mk) (k : BitVec 4) (h : BitVec 4) (b : Opnd) (c : Opnd) (ncol : BitVec 16) :
    Statement (.cpgather mk k h b c ncol) := by
  intro hw _
  have hm : mk.ok = true := by
    have h2 : (mk.ok && b.okV) = true := hw
    simp only [Bool.and_eq_true] at h2
    simp only [h2]
  change build ({ op := 0xC1#8, msk := mk.msk, minv := mk.minv, d := code4 k, a := code4 h, b := b.code, c := c.code, imm := ncol }) = _
  simp [build, buildTeam, RWord.mk?, Mk.of_fields, hm]

theorem Laws.Words.cpscatter (rm : Rm) (k : BitVec 4) (h : BitVec 4) (b : Opnd) (c : Opnd) (ncol : BitVec 16) :
    Statement (.cpscatter rm k h b c ncol) := by
  intro _ _
  change build ({ op := 0xC2#8, d := code4 k, a := code4 h, b := b.code, c := c.code, fn := rmFn rm, imm := ncol }) = _
  simp [build, buildTeam, RWord.rm]

theorem Laws.Words.cpwait (sc : Scope) (part : Option Opnd) (d : Opnd) (k : BitVec 4) :
    Statement (.cpwait sc part d k) := by
  suffices hs : build (match part with | none => { op := 0xC3#8, d := d.code, a := code4 k, fn := memFn 0#3 sc .plain } | some b => { op := 0xC3#8, d := d.code, a := code4 k, b := b.code, fn := memFn 0#3 sc .acq }) = some (.cpwait sc part d k) from fun _ _ => hs
  cases part <;> simp [build, buildTeam, RWord.fn0, RWord.scope]

theorem Laws.Words.cpavail (d : Opnd) (k : BitVec 4) (sel : BitVec 2) :
    Statement (.cpavail d k sel) := by
  intro _ _
  change build ({ op := 0xC4#8, d := d.code, a := code4 k, imm := 0#14 ++ sel }) = _
  simp [build, buildTeam, ]

theorem Laws.Words.cpresume (d : Opnd) (k : BitVec 4) (mode : BitVec 2) :
    Statement (.cpresume d k mode) := by
  intro _ _
  change build ({ op := 0xC5#8, d := d.code, a := code4 k, imm := 0#14 ++ mode }) = _
  simp [build, buildTeam, ]

theorem Laws.Words.cpcancel (k : BitVec 4) :
    Statement (.cpcancel k) := by
  intro _ _
  change build ({ op := 0xC6#8, a := code4 k }) = _
  simp [build, buildTeam, ]

theorem Laws.Words.qbind (d : BitVec 3) (a : Opnd) :
    Statement (.qbind d a) := by
  intro _ _
  change build ({ op := 0xC8#8, d := code3 d, a := a.code }) = _
  simp [build, buildTeam, ]

theorem Laws.Words.qclose (a : BitVec 3) :
    Statement (.qclose a) := by
  intro _ _
  change build ({ op := 0xC9#8, a := code3 a }) = _
  simp [build, buildTeam, ]

theorem Laws.Words.qstat (d : Opnd) (a : BitVec 3) :
    Statement (.qstat d a) := by
  intro _ _
  change build ({ op := 0xCA#8, d := d.code, a := code3 a }) = _
  simp [build, buildTeam, ]

theorem Laws.Words.launch (d : Opnd) (a : Opnd) :
    Statement (.launch d a) := by
  intro _ _
  change build ({ op := 0xD0#8, d := d.code, a := a.code }) = _
  simp [build, buildTeam, bDA]

theorem Laws.Words.exit :
    Statement .exit := by
  intro _ _
  change build ({ op := 0xD1#8 }) = _
  simp [build, buildTeam, ]

theorem Laws.Words.yield :
    Statement .yield := by
  intro _ _
  change build ({ op := 0xD2#8 }) = _
  simp [build, buildTeam, ]

theorem Laws.Words.bar (id : BitVec 2) :
    Statement (.bar id) := by
  intro _ _
  change build ({ op := 0xD3#8, imm := 0#14 ++ id }) = _
  simp [build, buildTeam, ]

theorem Laws.Words.waitw (cond : BitVec 3) (sc : Scope) (d : Opnd) (a : Opnd) (b : Opnd) (c : Opnd) (imm : BitVec 16) :
    Statement (.waitw cond sc d a b c imm) := by
  intro _ _
  change build ({ op := 0xD4#8, d := d.code, a := a.code, b := b.code, c := c.code, fn := memFn cond sc .plain, imm := imm }) = _
  simp [build, buildTeam, RWord.scope]

theorem Laws.Words.wake (sc : Scope) (a : Opnd) (b : Opnd) (imm : BitVec 16) :
    Statement (.wake sc a b imm) := by
  intro _ _
  change build ({ op := 0xD5#8, a := a.code, b := b.code, fn := memFn 0#3 sc .plain, imm := imm }) = _
  simp [build, buildTeam, RWord.scope]

theorem Laws.Words.snext (d : Opnd) :
    Statement (.snext d) := by
  intro _ _
  change build ({ op := 0xD6#8, d := d.code }) = _
  simp [build, buildTeam, ]

theorem Laws.Words.xopen (d : Opnd) (a : Opnd) :
    Statement (.xopen d a) := by
  intro _ _
  change build ({ op := 0xE0#8, d := d.code, a := a.code }) = _
  simp [build, buildSys, bDA]

theorem Laws.Words.xsend (d : Opnd) (a : Opnd) (h : BitVec 4) (c : Opnd) :
    Statement (.xsend d a h c) := by
  intro _ _
  change build ({ op := 0xE1#8, d := d.code, a := a.code, b := code4 h, c := c.code }) = _
  simp [build, buildSys, ]

theorem Laws.Words.xred (mode : BitVec 2) (rm : Rm) (d : Opnd) (a : Opnd) (hb : BitVec 4) (hc : BitVec 4) :
    Statement (.xred mode rm d a hb hc) := by
  intro _ _
  change build ({ op := 0xE2#8, d := d.code, a := a.code, b := code4 hb, c := code4 hc, fn := rmFn rm, imm := 0#14 ++ mode }) = _
  simp [build, buildSys, RWord.rm]

theorem Laws.Words.xwait (sc : Scope) (d : Opnd) (a : Opnd) (b : Opnd) :
    Statement (.xwait sc d a b) := by
  intro _ _
  change build ({ op := 0xE3#8, d := d.code, a := a.code, b := b.code, fn := memFn 0#3 sc .plain }) = _
  simp [build, buildSys, RWord.scope]

theorem Laws.Words.xclose (a : Opnd) :
    Statement (.xclose a) := by
  intro _ _
  change build ({ op := 0xE4#8, a := a.code }) = _
  simp [build, buildSys, ]

theorem Laws.Words.trap (imm : BitVec 16) :
    Statement (.trap imm) := by
  intro _ _
  change build ({ op := 0xF0#8, imm := imm }) = _
  simp [build, buildSys, ]

theorem Laws.Words.tret :
    Statement .tret := by
  intro _ _
  change build ({ op := 0xF1#8 }) = _
  simp [build, buildSys, ]

theorem Laws.Words.brk (imm : BitVec 16) :
    Statement (.brk imm) := by
  intro _ _
  change build ({ op := 0xF2#8, imm := imm }) = _
  simp [build, buildSys, ]

theorem Laws.Words.ctxsave (vec : Bool) (dirty : Bool) (msks : Bool) (mnfs : Bool) (d : Opnd) (base : CtxBase) (imm : BitVec 16) :
    Statement (.ctxsave vec dirty msks mnfs d base imm) := by
  intro _ _
  change build (encCtx 0xF3#8 d.code (0#2 ++ BitVec.ofBool mnfs ++ BitVec.ofBool msks ++ BitVec.ofBool dirty ++ BitVec.ofBool vec ++ 0#1) base imm) = _
  cases vec <;> cases dirty <;> cases msks <;> cases mnfs <;> cases base <;> simp [build, buildSys, encCtx, RWord.sat, RWord.wide, RWord.fn1, RWord.ctxBase, RWord.fn0]

theorem Laws.Words.ctxrstr (lzy : Bool) (base : CtxBase) (imm : BitVec 16) :
    Statement (.ctxrstr lzy base imm) := by
  intro _ _
  change build (encCtx 0xF4#8 0#7 (0#4 ++ BitVec.ofBool lzy ++ 0#2) base imm) = _
  cases lzy <;> cases base <;> simp [build, buildSys, encCtx, RWord.wide, RWord.ctxBase, RWord.fn0]

theorem Laws.Words.tlbinv (ty : BitVec 3) (a : Opnd) (b : Opnd) :
    Statement (.tlbinv ty a b) := by
  intro _ _
  change build ({ op := 0xF5#8, a := a.code, b := b.code, fn := 0#4 ++ ty }) = _
  simp [build, buildSys, ]

theorem Laws.Words.rcstart (rm : Rm) (d : Opnd) (a : Opnd) (b : Opnd) (f : FmtCode) :
    Statement (.rcstart rm d a b f) := by
  intro _ _
  change build ({ op := 0xF6#8, d := d.code, a := a.code, b := b.code, fn := rmFn rm, imm := fmt16 f }) = _
  simp [build, buildSys, RWord.rm, RWord.fmt, fmt16]

theorem Laws.Words.rcstat (d : Opnd) (page : Bool) :
    Statement (.rcstat d page) := by
  intro _ _
  change build ({ op := 0xF7#8, d := d.code, imm := 0#15 ++ BitVec.ofBool page }) = _
  simp [build, buildSys, ]

theorem Laws.Words.kdsetAssign (d : Opnd) (a : Opnd) (b : Opnd) (c : Opnd) :
    Statement (.kdsetAssign d a b c) := by
  intro _ _
  change build ({ op := 0xF8#8, d := d.code, a := a.code, b := b.code, c := c.code }) = _
  simp [build, buildSys, ]

theorem Laws.Words.kdsetNewkey (d : Opnd) (a : Opnd) (b : Opnd) (c : Opnd) :
    Statement (.kdsetNewkey d a b c) := by
  intro _ h; exact absurd (show false = true from h) (by decide)

theorem Laws.Words.kdsetRetire (d : Opnd) (a : Opnd) (b : Opnd) (c : Opnd) :
    Statement (.kdsetRetire d a b c) := by
  intro _ h; exact absurd (show false = true from h) (by decide)

theorem Laws.Words.homemap (d : Opnd) (a : Opnd) (b : Opnd) :
    Statement (.homemap d a b) := by
  intro _ _
  change build ({ op := 0xF9#8, d := d.code, a := a.code, b := b.code }) = _
  simp [build, buildSys, ]

theorem Laws.Words.idle (d : Opnd) (a : Opnd) :
    Statement (.idle d a) := by
  intro _ _
  change build ({ op := 0xFA#8, d := d.code, a := a.code }) = _
  simp [build, buildSys, ]

theorem Laws.Words.evTeamAdmission :
    Statement .evTeamAdmission := by
  intro _ h; exact absurd h (by decide)

theorem Laws.Words.evPreemption (team : Nat) :
    Statement (.evPreemption team) := by
  intro _ h; exact absurd (show false = true from h) (by decide)

theorem Laws.Words.evTeamReclaim (team : Nat) :
    Statement (.evTeamReclaim team) := by
  intro _ h; exact absurd (show false = true from h) (by decide)

theorem Laws.Words.evCaravanCompletion (caravan : Nat) :
    Statement (.evCaravanCompletion caravan) := by
  intro _ h; exact absurd (show false = true from h) (by decide)

theorem Laws.Words.evWaitwReevaluate (sid : Nat) :
    Statement (.evWaitwReevaluate sid) := by
  intro _ h; exact absurd (show false = true from h) (by decide)

theorem Laws.Words.evIdleWake (sid : Nat) :
    Statement (.evIdleWake sid) := by
  intro _ h; exact absurd (show false = true from h) (by decide)

theorem Laws.Words.evAccessPerform (core : Nat) (track : Nat) :
    Statement (.evAccessPerform core track) := by
  intro _ h; exact absurd (show false = true from h) (by decide)

theorem Laws.Words.evAtomicApply (pa : Nat) (w8 : Bool) (op : Aop) (v : Word) (x : AtomicArg) :
    Statement (.evAtomicApply pa w8 op v x) := by
  intro _ h; exact absurd (show false = true from h) (by decide)

theorem Laws.Words.evPriResponse (p : HostPage) (ok : Bool) :
    Statement (.evPriResponse p ok) := by
  intro _ h; exact absurd (show false = true from h) (by decide)

theorem Laws.Words.evHostInvalidation (p : HostPage) :
    Statement (.evHostInvalidation p) := by
  intro _ h; exact absurd (show false = true from h) (by decide)

theorem Laws.Words.evCopyRowRequest (team : Nat) (k : Nat) :
    Statement (.evCopyRowRequest team k) := by
  intro _ h; exact absurd (show false = true from h) (by decide)

theorem Laws.Words.evCopyRowComplete (team : Nat) (k : Nat) (row : Nat) :
    Statement (.evCopyRowComplete team k row) := by
  intro _ h; exact absurd (show false = true from h) (by decide)

theorem Laws.Words.evCopyRowFault (team : Nat) (k : Nat) (row : Nat) :
    Statement (.evCopyRowFault team k row) := by
  intro _ h; exact absurd (show false = true from h) (by decide)

theorem Laws.Words.evRecodePageStart (vi : Nat) :
    Statement (.evRecodePageStart vi) := by
  intro _ h; exact absurd (show false = true from h) (by decide)

theorem Laws.Words.evRecodePageReencode (vi : Nat) :
    Statement (.evRecodePageReencode vi) := by
  intro _ h; exact absurd (show false = true from h) (by decide)

theorem Laws.Words.evFrameMigration (frame : Nat) :
    Statement (.evFrameMigration frame) := by
  intro _ h; exact absurd (show false = true from h) (by decide)

theorem Laws.Words.evFrameSwitch (frame : Nat) :
    Statement (.evFrameSwitch frame) := by
  intro _ h; exact absurd (show false = true from h) (by decide)

theorem Laws.Words.evTileCapacityGrant :
    Statement .evTileCapacityGrant := by
  intro _ h; exact absurd h (by decide)

theorem Laws.Words.evTileLineReserve (tile : Nat) :
    Statement (.evTileLineReserve tile) := by
  intro _ h; exact absurd (show false = true from h) (by decide)

theorem Laws.Words.evTileCommit (tile : Nat) :
    Statement (.evTileCommit tile) := by
  intro _ h; exact absurd (show false = true from h) (by decide)

theorem Laws.Words.evTileRelease (tile : Nat) :
    Statement (.evTileRelease tile) := by
  intro _ h; exact absurd (show false = true from h) (by decide)

theorem Laws.Words.evXsendLanding (vi : Nat) (chan : Nat) (seq : Nat) (src : Nat) (dst : Nat) (off : Nat) (lines : List (List Byte × BitVec 16)) (fate : Landing) :
    Statement (.evXsendLanding vi chan seq src dst off lines fate) := by
  intro _ h; exact absurd (show false = true from h) (by decide)

theorem Laws.Words.evXredReduce (vi : Nat) (chan : Nat) (seq : Nat) (peers : List PeerPart) :
    Statement (.evXredReduce vi chan seq peers) := by
  intro _ h; exact absurd (show false = true from h) (by decide)

theorem Laws.Words.evExchangeOpComplete (vi : Nat) (chan : Nat) (seq : Nat) :
    Statement (.evExchangeOpComplete vi chan seq) := by
  intro _ h; exact absurd (show false = true from h) (by decide)

theorem Laws.Words.evExchangePeerTimeout (vi : Nat) (chan : Nat) (rank : Nat) :
    Statement (.evExchangePeerTimeout vi chan rank) := by
  intro _ h; exact absurd (show false = true from h) (by decide)

theorem Laws.Words.evExchangePeerClose (vi : Nat) (chan : Nat) (rank : Nat) :
    Statement (.evExchangePeerClose vi chan rank) := by
  intro _ h; exact absurd (show false = true from h) (by decide)

theorem Laws.Words.evAsyncTrapDelivery (sid : Nat) :
    Statement (.evAsyncTrapDelivery sid) := by
  intro _ h; exact absurd (show false = true from h) (by decide)

theorem Laws.Words.evWatchdogExpiry (sid : Nat) :
    Statement (.evWatchdogExpiry sid) := by
  intro _ h; exact absurd (show false = true from h) (by decide)

theorem Laws.Words.evEphemeralExpiry (line : Nat) :
    Statement (.evEphemeralExpiry line) := by
  intro _ h; exact absurd (show false = true from h) (by decide)

theorem Laws.Words.evSoftError (team : Option Nat) (line : Nat) (correctable : Bool) :
    Statement (.evSoftError team line correctable) := by
  intro _ h; exact absurd (show false = true from h) (by decide)

theorem Laws.Words.evDctlCommandDone (die : Nat) (ok : Bool) (repair : Nat) :
    Statement (.evDctlCommandDone die ok repair) := by
  intro _ h; exact absurd (show false = true from h) (by decide)

theorem Laws.Words.evHostWrite (vi : Nat) (off : Nat) (data : List Byte) (relaxed : Bool) (ido : Bool) :
    Statement (.evHostWrite vi off data relaxed ido) := by
  intro _ h; exact absurd (show false = true from h) (by decide)

theorem Laws.Words.evTagWindowWrite (vi : Nat) (off : Nat) (tag : BitVec 16) :
    Statement (.evTagWindowWrite vi off tag) := by
  intro _ h; exact absurd (show false = true from h) (by decide)

theorem Laws.Words.evHostRead (vi : Nat) (a : HostAddr) (n : Nat) :
    Statement (.evHostRead vi a n) := by
  intro _ h; exact absurd (show false = true from h) (by decide)

theorem Laws.Words.evHostAtomicop (vi : Nat) (off : Nat) (w8 : Bool) (op : HostAtomic) (v : Word) :
    Statement (.evHostAtomicop vi off w8 op v) := by
  intro _ h; exact absurd (show false = true from h) (by decide)

theorem Laws.Words.evCxlMemRequest (pa : Nat) (write : Bool) (data : List Byte) (n : Nat) (tag : Nat) :
    Statement (.evCxlMemRequest pa write data n tag) := by
  intro _ h; exact absurd (show false = true from h) (by decide)

theorem Laws.Words.evWeatreInboundRequest (src : Nat) (req : WeatreReq) :
    Statement (.evWeatreInboundRequest src req) := by
  intro _ h; exact absurd (show false = true from h) (by decide)

theorem Laws.Words.evFlitRetry (link : Nat) :
    Statement (.evFlitRetry link) := by
  intro _ h; exact absurd (show false = true from h) (by decide)

theorem Laws.Words.evLinkFailure (link : Nat) :
    Statement (.evLinkFailure link) := by
  intro _ h; exact absurd (show false = true from h) (by decide)

theorem Laws.Words.evDeviceUnreachable (dev : Nat) :
    Statement (.evDeviceUnreachable dev) := by
  intro _ h; exact absurd (show false = true from h) (by decide)

theorem Laws.Words.evLinkLayerRetry (port : Nat) :
    Statement (.evLinkLayerRetry port) := by
  intro _ h; exact absurd (show false = true from h) (by decide)

theorem Laws.Words.evLongHaulAck (port : Nat) (bytes : Nat) :
    Statement (.evLongHaulAck port bytes) := by
  intro _ h; exact absurd (show false = true from h) (by decide)

theorem Laws.Words.evLhcfgWrite (port : Nat) (v : Word) :
    Statement (.evLhcfgWrite port v) := by
  intro _ h; exact absurd (show false = true from h) (by decide)

theorem Laws.Words.evQuotaRecordWrite (vi : Nat) (off : Nat) (v : Word) :
    Statement (.evQuotaRecordWrite vi off v) := by
  intro _ h; exact absurd (show false = true from h) (by decide)

theorem Laws.Words.evViReset (vi : Nat) :
    Statement (.evViReset vi) := by
  intro _ h; exact absurd (show false = true from h) (by decide)

theorem Laws.Words.evViResetComplete (vi : Nat) :
    Statement (.evViResetComplete vi) := by
  intro _ h; exact absurd (show false = true from h) (by decide)

theorem Laws.Words.evCounterSnapshot (vi : Nat) :
    Statement (.evCounterSnapshot vi) := by
  intro _ h; exact absurd (show false = true from h) (by decide)

theorem Laws.Words.evCounterClear (vi : Nat) :
    Statement (.evCounterClear vi) := by
  intro _ h; exact absurd (show false = true from h) (by decide)

theorem Laws.Words.evEvqheadWrite (vi : Nat) (v : Word) :
    Statement (.evEvqheadWrite vi v) := by
  intro _ h; exact absurd (show false = true from h) (by decide)

theorem Laws.Words.evEvqstatWrite (vi : Nat) (v : Word) :
    Statement (.evEvqstatWrite vi v) := by
  intro _ h; exact absurd (show false = true from h) (by decide)

theorem Laws.Words.evMailboxDoorbell :
    Statement .evMailboxDoorbell := by
  intro _ h; exact absurd h (by decide)

theorem Laws.Words.evDctlAdmit (die : Nat) (v : Word) :
    Statement (.evDctlAdmit die v) := by
  intro _ h; exact absurd (show false = true from h) (by decide)

theorem Laws.Words.evDctlDrain (die : Nat) :
    Statement (.evDctlDrain die) := by
  intro _ h; exact absurd (show false = true from h) (by decide)

theorem Laws.Words.evDctlWb (die : Nat) :
    Statement (.evDctlWb die) := by
  intro _ h; exact absurd (show false = true from h) (by decide)

theorem Laws.Words.evDctlMig (die : Nat) :
    Statement (.evDctlMig die) := by
  intro _ h; exact absurd (show false = true from h) (by decide)

theorem Laws.Words.evDctlQuiesce (die : Nat) :
    Statement (.evDctlQuiesce die) := by
  intro _ h; exact absurd (show false = true from h) (by decide)

theorem Laws.Words.evDctlRst (die : Nat) :
    Statement (.evDctlRst die) := by
  intro _ h; exact absurd (show false = true from h) (by decide)

theorem Laws.Words.evDctlRetrain (die : Nat) :
    Statement (.evDctlRetrain die) := by
  intro _ h; exact absurd (show false = true from h) (by decide)

theorem Laws.Words.evMmioRegisterWrite (r : BarReg) (v : Word) :
    Statement (.evMmioRegisterWrite r v) := by
  intro _ h; exact absurd (show false = true from h) (by decide)

theorem Laws.Words.evOperatingPointChange (island : Nat) (point : Nat) :
    Statement (.evOperatingPointChange island point) := by
  intro _ h; exact absurd (show false = true from h) (by decide)

theorem Laws.Words.evPcapEstimate (e : PowerEstimate) :
    Statement (.evPcapEstimate e) := by
  intro _ h; exact absurd (show false = true from h) (by decide)

theorem Laws.Words.evThermalTrip :
    Statement .evThermalTrip := by
  intro _ h; exact absurd h (by decide)

theorem Laws.Words.evThermalReset :
    Statement .evThermalReset := by
  intro _ h; exact absurd h (by decide)

theorem Laws.Words.evDeviceReset :
    Statement .evDeviceReset := by
  intro _ h; exact absurd h (by decide)

theorem Laws.Words.evBootPuf (ok : Bool) :
    Statement (.evBootPuf ok) := by
  intro _ h; exact absurd (show false = true from h) (by decide)

theorem Laws.Words.evBootDhcp (ok : Bool) :
    Statement (.evBootDhcp ok) := by
  intro _ h; exact absurd (show false = true from h) (by decide)

theorem Laws.Words.evBootFetch (ok : Bool) (img : BootFile) :
    Statement (.evBootFetch ok img) := by
  intro _ h; exact absurd (show false = true from h) (by decide)

theorem Laws.Words.evBootVerify (c : ImageCheck) :
    Statement (.evBootVerify c) := by
  intro _ h; exact absurd (show false = true from h) (by decide)

theorem Laws.Words.evBootRetry :
    Statement .evBootRetry := by
  intro _ h; exact absurd h (by decide)

theorem Laws.Words.evBootBist (pass : BitVec 4) (spare : BitVec 4) :
    Statement (.evBootBist pass spare) := by
  intro _ h; exact absurd (show false = true from h) (by decide)

theorem Laws.Words.evBootDice :
    Statement .evBootDice := by
  intro _ h; exact absurd h (by decide)

theorem Laws.Words.evMonitorStart (keys : BootKeys) :
    Statement (.evMonitorStart keys) := by
  intro _ h; exact absurd (show false = true from h) (by decide)

theorem Laws.Words.evLinkStateChange (link : Nat) (up : Bool) :
    Statement (.evLinkStateChange link up) := by
  intro _ h; exact absurd (show false = true from h) (by decide)

theorem Laws.Words.evExchangePeerOpen (vi : Nat) (chan : Nat) (rank : Nat) :
    Statement (.evExchangePeerOpen vi chan rank) := by
  intro _ h; exact absurd (show false = true from h) (by decide)

theorem Laws.Words.evEthernetTransportGaveUp (vi : Nat) (chan : Nat) (rank : Nat) :
    Statement (.evEthernetTransportGaveUp vi chan rank) := by
  intro _ h; exact absurd (show false = true from h) (by decide)

theorem Laws.Words.evConfigurationRequest (fn : Nat) :
    Statement (.evConfigurationRequest fn) := by
  intro _ h; exact absurd (show false = true from h) (by decide)

end Sys2Proof
end

