-- ==== Sys2Proof/Tests/Slice0.lean ====
section
/-! SUPPORT. Tests: ill-formed terms that are refused, words written out from Tables 2.1–2.5, the premises of the statements
met by a concrete machine, and single steps. -/

namespace Sys2Proof.Tests

-- One kernel evaluation at a time: each of them asks for memory of its own.
set_option Elab.async false

open Sys2Proof.Machine

/-! ### A small machine -/

/-- A word placed in memory. -/
def putWord (m : Tab Byte) (p : Nat × Nat) : Tab Byte := putBytes m p.1 (natLe 8 p.2)

/-- A vector register whose codes are listed. -/
def vreg (f : FmtCode) (codes : List Nat) : VReg :=
  { fmt := f, zero3 := false, data := BitVec.ofNat 8192 (codes.foldr (fun x a => x + 2 ^ elemBits f * a) 0) }

/-- The monitor strand of R419, with registers. -/
def strand0 : Strand := {
  pc := 0x1_0000_0000#64, priv := .mon, vl := 4#64
  s := [(1, 5#64), (2, 7#64), (3, 0x1_0001_0000#64), (4, 0xFFFF_FFFF_FFFF_FFFE#64), (5, 0x1_0020_0000#64), (6, 8#64),
        (7, 0x3FF8_0000_0000_0000#64), (8, 0x4000_0000_0000_0000#64), (9, 2#64)]
  v := [(1, vreg 0x0B#6 [0x3F80_0000, 0x4000_0000, 0x4040_0000, 0x4080_0000]),
        (2, vreg 0x0B#6 [0x3F00_0000, 0x3F00_0000, 0xBF80_0000, 0x4120_0000]),
        (3, vreg 0x03#6 [1, 2, 3, 0xFFFF_FFFF]), (4, vreg 0x03#6 [3, 2, 1, 0]), (5, vreg 0#6 [0x12, 0x34, 0x56, 0x78]),
        (6, vreg 0x0C#6 [0x3FF0_0000_0000_0000, 0x4000_0000_0000_0000, 0, 0x3FF0_0000_0000_0000])]
  m := [(1, 0b0101#1024), (2, 0b0011#1024)]
  i := [(1, w64 (2 + 4 * 2 ^ 6 + 1 * 2 ^ 12 + 1 * 2 ^ 18 + 2 ^ 22 + 2 ^ 24)), (2, w64 (1 + 4 * 2 ^ 6))]
  h := [(1, { base := 0x1_0001_0000#64, fmt := 0x0B#8, rank := 2#8, dims := [4#32, 4#32, 0#32, 0#32],
              strides := [1#64, 4#64, 0#64, 0#64] })] }

/-- The machine of the tests: `strand0`, at whose pc lies ADD s3, s1, s2; a plain page at VA 0x1_0001_0000, which maps DPA
0x101_0000, and a tensor page of F32, DEMOTE and 2 MiB at VA 0x1_0020_0000, which maps DPA 0x120_0000, their A and D bits set; and a
team with four canvases, queues and copy streams and a scratchpad of 4 KiB. -/
def base : State :=
  let s := State.reset.withFetchWord 64 0x0100_3020_8000_0000
  let car := s.car 0
  let tm := s.team 0
  { s with strands := [(0, strand0)]
           mem := [(0x20_4008, 0xE7 + 0x101 * 2 ^ 29), (0x20_3008, 0x5E7 + 0x0B * 2 ^ 12 + 0x0B * 2 ^ 18 + 2 ^ 24 + 0x120 * 2 ^ 29),
                   (0x101_0000, 0x3F80_0000_0000_0005)].foldl putWord s.mem
           tags := Tab.set tagReset (Tab.set tagReset s.tags 0x2_0200 0#16) 0x2_4000 0x0B#16
           caravans := [(0, { car with wb := { car.wb with canvases := 4, queues := 4, kstreams := 4, spbytes := 4096 } })]
           teams := [(0, { tm with spLen := 4096, queues := [(0, { depth := 4, prod := 1#16, cons := 1#16, entries := [.sc 9#64] }),
             (1, { depth := 4, prod := 1#16, cons := 1#16 }), (2, { depth := 4, prod := 1#16, cons := 1#16, pclosed := 1#16 })] })] }

/-- What a next state shows. -/
def after {α : Type} (i : Instr) (s : State) (f : State → α) : Option α :=
  match exec i s with
  | .next t => some (f t)
  | _ => none

def sAfter (i : Instr) (s : State) (n : Nat) : Option Nat := after i s fun t => (t.me.getS n).toNat

/-- An instruction issues, and its context meets a condition. -/
def wit (i : Instr) (us : List Use) (s : State) (p : Ctx → Bool := fun _ => true) (mk : Mk := .all)
    (ov : Ctx → Res Unit := fun _ => .ok ()) : Bool :=
  match ready i s us mk ov with
  | .ok c => p c
  | .error _ => false

theorem wit_sound {i : Instr} {us : List Use} {s : State} {p : Ctx → Bool} {mk : Mk} {ov : Ctx → Res Unit}
    (h : wit i us s p mk ov = true) : ∃ c, Issues i us s c mk ov ∧ p c = true := by
  unfold wit at h
  split at h
  · exact ⟨_, ‹_›, h⟩
  · cases h

/-- A check succeeds, with a value that meets a condition. -/
def okAnd {α : Type} (x : Res α) (p : α → Bool := fun _ => true) : Bool :=
  match x with
  | .ok a => p a
  | .error _ => false

/-- A step or an instruction answers a next state. -/
def runs (o : Host.Outcome State Fault Refusal) (p : State → Bool := fun _ => true) : Bool :=
  match o with
  | .next t => p t
  | _ => false

def codes (st : Strand) (n k : Nat) : List Nat := (List.range k).map (st.getV n).code

abbrev r (n : Nat) : Opnd := .reg (BitVec.ofNat 6 n)

/-! ### Ill-formed terms: one for each check of WellFormed -/

theorem test_wf_scalar : ([
    .shl (.reg 1) (.reg 2) (.imm 64#16), .shr (.reg 1) (.reg 2) (.imm 64#16), .sra (.reg 1) (.reg 2) (.imm 0xFFFF#16),
    .bfx (.reg 1) (.reg 2) 1#6 63#6 false, .bfi (.reg 1) (.reg 2) (.reg 3) 60#6 4#6, .jal (.q 0) 0#44,
    .beq (.q 1) (.reg 1) 0#37, .bne (.reg 1) (.q 1) 0#37, .fcmp .f32 5#3 (.reg 1) (.reg 2) (.reg 3),
    .ld 7#3 (.sp .plain) (.reg 1) (.reg 2) (.reg 3) 0#16, .ld 3#3 (.mem .dev .rel) (.reg 1) (.reg 2) (.reg 3) 0#16,
    .st 3#2 (.sp .acq) (.reg 1) (.reg 2) (.reg 3) 0#16, .stPatch .core .plain (.reg 1) (.reg 2) (.reg 3) 0#16,
    .stPatch .dev .sc (.reg 1) (.reg 2) (.reg 3) 0#16, .amo .fadd32 true (.sp .plain) (.reg 1) (.reg 2) (.reg 3) 0#16,
    .amo .fadd64 false (.sp .plain) (.reg 1) (.reg 2) (.reg 3) 0#16, .amo .fxadd false (.sp .plain) (.reg 1) (.reg 2) (.reg 3) 0#16,
    .amo .fxadd true (.sp .plain) (.reg 1) (.reg 2) (.reg 3) 2048#16, .fence 5#3 .dev, .crd (.reg 1) 0x1A#12,
    .cwr 0x10#12 (.reg 1), .crsw (.reg 1) 0x19#12 (.reg 2), .vsetl (.reg 1) (.reg 2) (.imm 0x0F#6),
    .vgetcap (.reg 1) (.imm 0x33#6), .getid (.reg 1) 10#4, .waitw 0#3 .dev (.reg 1) (.reg 2) (.reg 3) (.reg 4) 0#16]
    : List Instr).map Instr.wf = List.replicate 25 false ++ [true] := by decide +kernel

theorem test_wf_vector : ([
    .vtag true (.reg 48) (.imm 1#6), .vtag true (.reg 1) (.imm 0x3F#6), .vgtag 3#2 (.reg 1) (.reg 2),
    .vcvt (.m 12 true) .rne (.reg 1) (.reg 2) 1#6, .vcvt .all .rne (.reg 1) (.reg 2) 0#6, .vvalid 3#2 (.reg 1) (.reg 2),
    .vvalid 0#2 (.reg 12) (.reg 2), .vvalid 0#2 (.q 1) (.reg 2), .vsave .dev .acq (.reg 1) (.reg 2) (.reg 3) 0#16,
    .vrstr .dev .rel (.reg 1) (.reg 2) (.reg 3) 0#16, .vmov .all .rtz true (.reg 1) (.reg 2), .vmov (.m 1 false) .fctl true (.reg 1) (.reg 2),
    .vsplat .all .rne 0#2 (.reg 1) (.reg 2) 0x0F#6, .viota .all .rne false (.reg 1) 0#6, .vext .rne (.reg 1) (.reg 50) (.imm 0#10),
    .vins .rne (.reg 50) (.reg 1) (.imm 0#10), .vadd .all .rne false false (.reg 1) (.reg 48) (.reg 2),
    .vfma .all .rne false false (.reg 1) (.reg 2) (.reg 3) (.reg 63), .vabs .all .rne false (.reg 48) (.reg 1),
    .vcmp .all 7#3 (.reg 1) (.reg 2) (.reg 3), .vsel .all .rne false (.reg 1) (.reg 2) (.reg 3) (.reg 12),
    .vshl .all (.reg 1) (.reg 2) (.reg (.reg 48)), .vscan .all .rne false false 3#2 (.reg 1) (.reg 2),
    .vunpk .all (.reg 1) (.reg 2) 0#4 0x0B#6, .vpack .all false (.reg 48) (.reg 1) 0#4,
    .vtopk .all .rne (.reg 47) (.reg 1) (.reg 2) 1#11 0#3, .vtopk .all .rne (.reg 1) (.reg 4) (.reg 5) 1#11 5#3,
    .vtopk .all .rne (.reg 1) (.reg 4) (.reg 5) 0#11 0#3, .vtopk .all .rne (.reg 1) (.reg 4) (.reg 5) 65#11 0#3,
    .vdot4 .all .rne false (.reg 1) (.reg 45) (.reg 4), .mlog 0#4 (.reg 12) (.reg 1) (.reg 2), .mpop (.reg 1) (.q 0),
    .mset (.q 0) (.imm 0#16), .mtov .all .rne (.reg 1) (.reg 2) 0x10#6, .vtom .all (.reg 1) (.reg 48)]
    : List Instr).map Instr.wf = List.replicate 35 false := by decide +kernel

theorem test_wf_memory_and_others : ([
    .vld .all .rne (.mem .dev .rel) false (.reg 1) (.reg 2) (.reg 3) 0#16, .vld .all .rne (.sp .plain) true (.reg 1) (.reg 2) (.reg 3) 0#16,
    .vlds .all .rne (.sp .rel) (.reg 1) (.reg 2) (.reg 3) 0#16, .vldx .all .rne (.kb 1) (.reg 1) (.reg 2) (.reg 48) 0#16,
    .vldm .all .rne (.sp .plain) (.reg 48) 0#4 (.reg 2) (.reg 3), .vldg .all .rne (.sp .plain) (.reg 41) 0#4 (.reg 2) (.reg 3) 8#4,
    .vldg .all .rne (.sp .plain) (.reg 1) 0#4 (.reg 2) (.reg 3) 0#4, .vldg .all .rne (.sp .plain) (.reg 1) 0#4 (.reg 2) (.reg 3) 9#4,
    .vst .all .rne (.sp .acq) (.reg 1) (.reg 2) (.reg 3) 0#16, .vstx .all .rne (.sp .plain) (.reg 1) (.reg 2) (.reg 48) 0#16,
    .vstm .all .rne (.sp .plain) (.reg 48) 0#4 (.reg 2) (.reg 3), .vstg .all .rne (.sp .plain) (.q 0) 0#4 (.reg 2) (.reg 3) 2#4,
    .vamo .all .add false (.sp .plain) (.q 1) (.reg 2) (.reg 3) (.reg 4) 0#11, .vamo .all .add true (.sp .plain) (.reg 1) (.reg 2) (.reg 3) (.reg 4) 0#11,
    .vamo .all .add false (.sp .plain) (.reg 1) (.reg 2) (.reg 3) (.reg 4) 1#11, .mnfget (.reg 1) 0#4 12#4,
    .mnfset false 0#4 (.reg 1) 12#4, .mnfset true 0#4 (.reg 1) 1#4, .czero 0#3 0x09#6 (.imm 0#8), .cop .all .rne 0#3 (.reg 48) (.reg 1),
    .copk .all .rne 0#3 (.reg 41) (.reg 1) 8#4, .copk .all .rne 0#3 (.reg 1) (.reg 1) 0#4, .crrow .all .rne false (.reg 1) 0#3 (.imm 0#8) 0#6,
    .crcol .all .rne false false (.reg 48) 0#3 (.imm 0#8) 1#6, .cwrow .all .rne 0#3 (.imm 0#8) (.reg 48), .cwcol (.m 12 false) .rne false 0#3 (.imm 0#8) (.reg 1),
    .cld .rne true (.mem .core .plain) 0#3 0#4 (.reg 1) (.reg 2) 0#9, .cld .rne false (.sp .rel) 0#3 0#4 (.reg 1) (.reg 2) 0#9,
    .cst .rne false (.mem .dev .acq) 0#3 0#4 (.reg 1) (.reg 2) 0#9, .cstj .rne .core .plain 0#3 0#4 (.reg 1) (.reg 2),
    .cstj .rne .dev .acq 0#3 0#4 (.reg 1) (.reg 2), .cstat (.reg 1) 0#3 5#3, .cpgather (.m 13 false) 0#4 0#4 (.reg 1) (.reg 2) 0#16,
    .cpresume (.reg 1) 0#4 3#2, .xred 3#2 .rne (.reg 1) (.reg 2) 0#4 0#4, .tlbinv 5#3 (.reg 0) (.reg 0), .tlbinv 0#3 (.reg 1) (.reg 0),
    .tlbinv 4#3 (.reg 0) (.reg 1), .rcstart .rne (.reg 1) (.reg 2) (.reg 3) 0#6, .rcstart .rne (.reg 1) (.reg 2) (.reg 3) 0x0F#6]
    : List Instr).map Instr.wf = List.replicate 40 false := by decide +kernel

/-! ### Words written out from the encodings of the spec -/

/-- A word of the R format, field by field (Table 2.1). -/
def rWord (op mask d a b c qual imm : Nat) : Word :=
  BitVec.ofNat 8 op ++ BitVec.ofNat 5 mask ++ BitVec.ofNat 7 d ++ BitVec.ofNat 7 a ++ BitVec.ofNat 7 b ++ BitVec.ofNat 7 c ++
    BitVec.ofNat 7 qual ++ BitVec.ofNat 16 imm

def decodes (w : Word) (i : Instr) : Bool :=
  match decode w with
  | .ok j => j == i
  | .error _ => false

theorem test_decode_scalar : ([
    (rWord 0x01 0 3 4 5 0 0 0, .add (.reg 3) (.reg 4) (.op (.reg 5))), (rWord 0x02 0 3 4 0x48 0 0 0, .sub (.reg 3) (.reg 4) (.op (.q 0))),
    (rWord 0x03 0 3 4 0 0 0x40 9, .mul (.reg 3) (.reg 4) (.imm 9#16)), (rWord 0x04 0 3 4 5 0 0 0, .mulh (.reg 3) (.reg 4) (.op (.reg 5))),
    (rWord 0x05 0 3 4 5 0 0 0, .mulhu (.reg 3) (.reg 4) (.op (.reg 5))), (rWord 0x06 0 3 4 5 0 0 0, .div (.reg 3) (.reg 4) (.op (.reg 5))),
    (rWord 0x07 0 3 4 5 0 0 0, .divu (.reg 3) (.reg 4) (.op (.reg 5))), (rWord 0x08 0 3 4 5 0 0 0, .rem (.reg 3) (.reg 4) (.op (.reg 5))),
    (rWord 0x09 0 3 4 5 0 0 0, .remu (.reg 3) (.reg 4) (.op (.reg 5))), (rWord 0x0A 0 3 4 5 0 0 0, .and (.reg 3) (.reg 4) (.op (.reg 5))),
    (0x0B00_9040_C000_0000#64, .or (.reg 9) (.reg 2) (.op (.reg 3))), (0x0C00_9102_0000_0000#64, .xor (.reg 9) (.reg 8) (.op (.reg 8))),
    (rWord 0x0D 0 3 4 0 0 0x40 63, .shl (.reg 3) (.reg 4) (.imm 63#16)), (rWord 0x0E 0 3 4 5 0 0 0, .shr (.reg 3) (.reg 4) (.op (.reg 5))),
    (rWord 0x0F 0 3 4 5 0 0 0, .sra (.reg 3) (.reg 4) (.op (.reg 5))), (rWord 0x10 0 3 4 5 0 0 0, .slt (.reg 3) (.reg 4) (.op (.reg 5))),
    (rWord 0x11 0 3 4 5 0 0 0, .sltu (.reg 3) (.reg 4) (.op (.reg 5))), (rWord 0x12 0 3 4 5 0 0 0, .min (.reg 3) (.reg 4) (.op (.reg 5))),
    (rWord 0x13 0 3 4 5 0 0 0, .max (.reg 3) (.reg 4) (.op (.reg 5))), (rWord 0x14 0 3 4 5 0 0 0, .minu (.reg 3) (.reg 4) (.op (.reg 5))),
    (rWord 0x15 0 3 4 5 0 0 0, .maxu (.reg 3) (.reg 4) (.op (.reg 5))), (rWord 0x16 0 3 4 0 0 0 0, .clz (.reg 3) (.reg 4)),
    (rWord 0x17 0 3 4 0 0 0 0, .ctz (.reg 3) (.reg 4)), (rWord 0x18 0 3 0x45 0 0 0 0, .popc (.reg 3) (.ix 5)),
    (rWord 0x19 0 3 4 0 0 0 (8 + 15 * 64 + 4096), .bfx (.reg 3) (.reg 4) 8#6 15#6 true),
    (rWord 0x1A 0 3 4 5 0 0 (8 + 15 * 64), .bfi (.reg 3) (.reg 4) (.reg 5) 8#6 15#6), (rWord 0x1B 0 3 4 5 6 0 0, .sel (.reg 3) (.reg 4) (.reg 5) (.reg 6)),
    (0x1C00_5000_0144_0128#64, .li (.reg 5) 0x144_0128#37), (0x1D00_50A0_0091_A2B3#64, .lih (.reg 5) (.reg 5) 0x91_A2B3#27),
    (0x2000_0000_0000_0004#64, .jmp 4#44), (0x2100_1FFF_FFFF_FFFF#64, .jal (.reg 1) (BitVec.allOnes 44)),
    (rWord 0x22 0 3 4 0 0 0 0xFFF8, .jr (.reg 3) (.reg 4) 0xFFF8#16), (0x2300_9020_0000_0001#64, .beq (.reg 9) (.reg 1) 1#37),
    (0x2400_901F_FFFF_FFFC#64, .bne (.reg 9) (.reg 0) (BitVec.ofInt 37 (-4))), (0x2500_9020_0000_0001#64, .blt (.reg 9) (.reg 1) 1#37),
    (0x2600_9020_0000_0001#64, .bge (.reg 9) (.reg 1) 1#37), (0x2700_9020_0000_0001#64, .bltu (.reg 9) (.reg 1) 1#37),
    (0x2800_9020_0000_0001#64, .bgeu (.reg 9) (.reg 1) 1#37), (rWord 0x30 0 3 4 5 0 0x10 0, .fadd .f64 .rne (.reg 3) (.reg 4) (.reg 5)),
    (rWord 0x31 0 3 4 5 0 0x21 0, .fsub .f32 .rtz (.reg 3) (.reg 4) (.reg 5)), (rWord 0x32 0 3 4 5 0 0x32 0, .fmul .f16 .rdn (.reg 3) (.reg 4) (.reg 5)),
    (rWord 0x33 0 3 4 5 0 0x43 0, .fdiv .bf16 .rup (.reg 3) (.reg 4) (.reg 5)), (rWord 0x34 0 3 4 0 0 0x51 0, .fsqrt .f32 .rna (.reg 3) (.reg 4)),
    (0x3501_6285_4801_0000#64, .fma .f32 .fctl (.reg 22) (.reg 20) (.reg 21) (.reg 16)),
    (rWord 0x36 0 3 4 5 0 1 0, .fmin .f32 (.reg 3) (.reg 4) (.reg 5)), (rWord 0x37 0 3 4 5 0 0 0, .fmax .f64 (.reg 3) (.reg 4) (.reg 5)),
    (rWord 0x38 0 3 4 5 0 1 2, .fcmp .f32 2#3 (.reg 3) (.reg 4) (.reg 5)), (rWord 0x39 0 3 4 0 0 0x10 8, .fcvt .f64 .rne (.flt .f32) (.reg 3) (.reg 4)),
    (rWord 0x39 0 3 4 0 0 0x11 3, .fcvt .f32 .rne .toI (.reg 3) (.reg 4)), (rWord 0x3A 0 3 4 0 0 2 0, .fclass .f16 (.reg 3) (.reg 4)),
    (0x4000_62A0_0035_0000#64, .ld 3#3 (.mem .dev .acq) (.reg 6) (.reg 21) (.reg 0) 0#16),
    (0x4100_E180_00A0_0000#64, .st 2#2 (.sp .plain) (.reg 14) (.reg 12) (.reg 0) 0#16),
    (0x4100_52A0_003A_0000#64, .st 3#2 (.mem .sys .rel) (.reg 5) (.reg 21) (.reg 0) 0#16),
    (rWord 0x41 0 3 4 5 0 0x76 0xFFF8, .stPatch .dev .rel (.reg 3) (.reg 4) (.reg 5) 0xFFF8#16),
    (0x4200_6281_4034_0008#64, .amo .add true (.mem .dev .plain) (.reg 6) (.reg 20) (.reg 5) 8#16),
    (0x4200_0281_4B34_0000#64, .amo .fxadd true (.mem .dev .plain) (.reg 0) (.reg 20) (.reg 5) 0#16),
    (0x4300_6281_C037_0000#64, .cas true (.mem .dev .sc) (.reg 6) (.reg 20) (.reg 7) 0#16),
    (0x4400_0000_0004_0000#64, .fence 0#3 .dev), (0x4500_0000_0000_0000#64, .lsync),
    (0x4600_0280_0A80_0000#64, .flush (.reg 20) (.reg 0) (.reg 21) 0#16), (rWord 0x47 0 0 4 5 6 0 8, .inval (.reg 4) (.reg 5) (.reg 6) 8#16)]
    : List (Word × Instr)).all (fun p => decodes p.1 p.2) = true := by decide +kernel

theorem test_decode_registers : ([
    (0x5000_20A0_0000_0000#64, .ixset 2#3 (.reg 5)), (0x5100_B040_0000_0000#64, .ixget (.reg 11) 2#3),
    (rWord 0x52 0 2 0 0 0 0x40 0xFFFF, .ixadv 2#3 (.imm 0xFFFF#16)), (rWord 0x53 0 2 4 0 0 0 0, .ixoff 2#3 (.op (.reg 4))),
    (0x5403_F000_0000_0021#64, .crd (.reg 63) 0x21#12), (0x5500_0000_0000_0007#64, .cwr 7#12 (.reg 0)),
    (rWord 0x56 0 6 0 0 0 0 0x4A, .crsw (.reg 6) 0x4A#12 (.reg 0)), (0x5700_50C0_0000_0013#64, .vsetl (.reg 5) (.reg 6) (.imm 0x13#6)),
    (rWord 0x57 0 3 4 5 0 1 0, .vsetl (.reg 3) (.reg 4) (.reg (.reg 5))), (rWord 0x58 0 3 0 0 0 0 0x0B, .vgetcap (.reg 3) (.imm 0x0B#6)),
    (rWord 0x59 0 0 0 0 0 0x40 15, .palsel (.imm 15#4)), (0x5A00_70A0_0000_0000#64, .palrd (.reg 7) (.reg 5)),
    (rWord 0x5B 0 0 4 5 0 0 0, .palwr (.reg 4) (.reg 5)), (0x5C00_7000_0000_0008#64, .getid (.reg 7) 8#4),
    (rWord 0x5D 0 0 4 0 0 0 0, .heartbeat (.reg 4)), (0x6000_3000_0040_0017#64, .vtag false (.reg 3) (.imm 0x17#6)),
    (rWord 0x60 0 3 4 0 0 1 0, .vtag true (.reg 3) (.reg (.reg 4))), (rWord 0x61 0 3 4 0 0 2 0, .vgtag 2#2 (.reg 3) (.reg 4)),
    (0x6200_2020_0010_0013#64, .vcvt .all .rne (.reg 2) (.reg 1) 0x13#6), (rWord 0x63 5 3 4 5 0 0x20 0, .vresc (.m 1 true) .rtz (.reg 3) (.reg 4) (.reg 5)),
    (rWord 0x64 0 3 4 0 0 1 0, .vvalid 1#2 (.reg 3) (.reg 4)), (0x6500_0280_0380_0000#64, .vsave .core .plain (.reg 20) (.reg 0) (.reg 7) 0#16),
    (0x6604_77C0_0000_0000#64, .vrstr .core .plain (.ix 7) (.reg 62) (.reg 0) 0#16), (rWord 0x67 0 3 4 0 0 1 0, .vmov .all .fctl true (.reg 3) (.reg 4)),
    (rWord 0x68 2 3 4 0 0 0x12 0x0B, .vsplat (.m 0 false) .rne 2#2 (.reg 3) (.reg 4) 0x0B#6), (rWord 0x69 0 3 0 0 0 1 3, .viota .all .fctl true (.reg 3) 3#6),
    (0x6A00_80C0_0001_0000#64, .vext .fctl (.reg 8) (.reg 6) (.imm 0#10)), (rWord 0x6B 0 3 4 5 0 0x10 0, .vins .rne (.reg 3) (.reg 4) (.reg (.reg 5)))]
    : List (Word × Instr)).all (fun p => decodes p.1 p.2) = true := by decide +kernel

theorem test_decode_vector : ([
    (0x7000_40B0_4000_0000#64, .vadd .all .fctl false false (.reg 4) (.reg 5) (.ix 1)), (rWord 0x71 0 3 4 5 0 0x1C 0, .vsub .all .rne true true (.reg 3) (.reg 4) (.reg 5)),
    (rWord 0x72 0 3 4 5 0 0x18 0, .vmul .all .rne true false (.reg 3) (.reg 4) (.reg 5)), (rWord 0x73 0 3 4 5 6 0x14 0, .vfma .all .rne false true (.reg 3) (.reg 4) (.reg 5) (.reg 6)),
    (rWord 0x74 0 3 4 5 0 8 0, .vmin .all .fctl true (.reg 3) (.reg 4) (.reg 5)), (rWord 0x75 0 3 4 5 0 0 0, .vmax .all .fctl false (.reg 3) (.reg 4) (.reg 5)),
    (rWord 0x76 0 3 4 0 0 8 0, .vabs .all .fctl true (.reg 3) (.reg 4)), (rWord 0x77 0 3 4 0 0 0 0, .vneg .all .fctl false (.reg 3) (.reg 4)),
    (rWord 0x78 0 3 4 5 0 0x18 0, .vdiv .all .rne true (.reg 3) (.reg 4) (.reg 5)), (rWord 0x79 0 3 4 0 0 0x10 0, .vsqrt .all .rne (.reg 3) (.reg 4)),
    (0x7A01_5280_0000_0000#64, .vrsqrt .all .fctl (.reg 21) (.reg 20)), (rWord 0x7B 0 3 4 0 0 0x10 0, .vrcp .all .rne (.reg 3) (.reg 4)),
    (rWord 0x7C 0 3 4 0 0 0x10 0, .vexp2 .all .rne (.reg 3) (.reg 4)), (rWord 0x7D 0 3 4 0 0 0x10 0, .vlog2 .all .rne (.reg 3) (.reg 4)),
    (rWord 0x7E 0 3 4 5 6 8 0, .vclip .all .fctl true (.reg 3) (.reg 4) (.reg 5) (.reg 6)), (rWord 0x7F 0 3 4 5 0 0 6, .vcmp .all 6#3 (.reg 3) (.reg 4) (.reg 5)),
    (rWord 0x80 0 3 4 5 6 0x18 0, .vsel .all .rne true (.reg 3) (.reg 4) (.reg 5) (.reg 6)), (rWord 0x81 0 3 4 5 0 0 0, .vand .all (.reg 3) (.reg 4) (.reg 5)),
    (rWord 0x82 0 3 4 5 0 0 0, .vor .all (.reg 3) (.reg 4) (.reg 5)), (rWord 0x83 0 3 4 5 0 0 0, .vxor .all (.reg 3) (.reg 4) (.reg 5)),
    (rWord 0x84 24 3 4 0 0 0 0, .vnot (.m 11 false) (.reg 3) (.reg 4)), (rWord 0x85 0 3 4 0 0 1 63, .vshl .all (.reg 3) (.reg 4) (.imm 63#6)),
    (rWord 0x86 0 3 4 5 0 0 0, .vshr .all (.reg 3) (.reg 4) (.reg (.reg 5))), (rWord 0x87 0 3 4 0 0 1 5, .vsra .all (.reg 3) (.reg 4) (.imm 5#6)),
    (rWord 0x88 0 3 4 0 0 0x1C 0, .vrsum .all .rne true true (.reg 3) (.reg 4)), (rWord 0x89 0 3 4 0 0 0 0, .vrmax .all .fctl false false (.reg 3) (.reg 4)),
    (rWord 0x8A 0 3 4 0 0 4 0, .vrmin .all .fctl false true (.reg 3) (.reg 4)), (rWord 0x8B 0 3 4 0 0 0x11 0, .vscan .all .rne false false 1#2 (.reg 3) (.reg 4)),
    (rWord 0x8C 0 3 4 0 0 1 7, .vslup .all .fctl (.reg 3) (.reg 4) (.imm 7#16)), (0x8D00_A046_4000_0000#64, .vsldn .all .fctl (.reg 10) (.reg 2) (.op (.reg 25))),
    (rWord 0x8E 0 3 4 5 0 0 0, .vshuf .all .fctl (.reg 3) (.reg 4) (.reg 5)), (rWord 0x8F 2 3 4 0 0 0 0, .vcomp (.m 0 false) .fctl (.reg 3) (.reg 4)),
    (rWord 0x90 0 3 4 0 0 0x10 0, .vexpd .all .rne (.reg 3) (.reg 4)), (0x9100_E162_8000_0000#64, .vzip .all .fctl 0#2 (.reg 14) (.reg 11) (.reg 10)),
    (rWord 0x92 0 3 4 0 0 0 (6 * 256 + 3), .vunpk .all (.reg 3) (.reg 4) 6#4 3#6), (rWord 0x93 0 3 4 0 0 8 (6 * 256), .vpack .all true (.reg 3) (.reg 4) 6#4),
    (rWord 0x94 0 3 4 5 0 0x10 0, .vlook .all .rne (.reg 3) (.reg 4) (.reg 5)), (0x9500_A080_2100_2004#64, .vtopk .all .fctl (.reg 10) (.reg 4) (.ix 2) 4#11 2#3),
    (0x9600_8001_0010_0000#64, .vdot4 .all .rne false (.reg 8) (.reg 0) (.reg 4)), (rWord 0x97 0 3 4 5 0 0 9, .mlog 9#4 (.reg 3) (.reg 4) (.reg 5)),
    (rWord 0x98 0 3 4 0 0 0 0, .mpop (.reg 3) (.reg 4)), (rWord 0x99 0 3 4 0 0 0 0, .mfirst (.reg 3) (.reg 4)),
    (rWord 0x9A 0 3 0 0 0 1 9, .mset (.reg 3) (.imm 9#16)), (rWord 0x9B 0 3 4 0 0 0x10 3, .mtov .all .rne (.reg 3) (.reg 4) 3#6),
    (rWord 0x9C 3 3 4 0 0 0 0, .vtom (.m 0 true) (.reg 3) (.reg 4))]
    : List (Word × Instr)).all (fun p => decodes p.1 p.2) = true := by decide +kernel

theorem test_decode_memory : ([
    (0xA000_60E0_0383_0000#64, .vld .all .fctl (.kb 3) true (.reg 6) (.reg 7) (.reg 0) 0#16),
    (rWord 0xA1 0 3 4 5 0 0x19 8, .vlds .all .rne (.mem .sys .acq) (.reg 3) (.reg 4) (.reg 5) 8#16),
    (0xA200_4282_4000_0000#64, .vldx .all .fctl (.mem .core .plain) (.reg 4) (.reg 20) (.reg 9) 0#16),
    (rWord 0xA3 0 3 4 5 1 1 0, .vldf .all .fctl (.sp .acq) (.reg 3) (.reg 4) (.reg 5) 0#16),
    (rWord 0xA4 0 3 2 5 6 0 0x4000, .vldm .all .fctl (.sp .plain) (.reg 3) 2#4 (.reg 5) (.reg 6)),
    (0xA500_8002_C000_0008#64, .vldg .all .fctl (.mem .core .plain) (.reg 8) 0#4 (.reg 11) (.reg 0) 8#4),
    (0xA600_2280_0010_0000#64, .vst .all .rne (.mem .core .plain) (.reg 2) (.reg 20) (.reg 0) 0#16),
    (rWord 0xA7 0 3 4 5 1 2 0, .vsts .all .fctl (.sp .rel) (.reg 3) (.reg 4) (.reg 5) 0#16),
    (rWord 0xA8 0 3 4 5 0 6 0, .vstx .all .fctl (.mem .dev .rel) (.reg 3) (.reg 4) (.reg 5) 0#16),
    (0xA900_6025_C010_0000#64, .vstm .all .rne (.mem .core .plain) (.reg 6) 1#4 (.reg 23) (.reg 0)),
    (rWord 0xAA 0 3 2 5 6 0 0x4003, .vstg .all .fctl (.sp .plain) (.reg 3) 2#4 (.reg 5) (.reg 6) 3#4),
    (0xAB00_8282_4504_0000#64, .vamo .all .add false (.mem .dev .plain) (.reg 8) (.reg 20) (.reg 9) (.reg 10) 0#11),
    (0xAC00_3280_0000_0040#64, .mnf 3#4 (.reg 20) (.reg 0) 0x40#16), (rWord 0xAD 0 3 2 0 0 0 11, .mnfget (.reg 3) 2#4 11#4),
    (rWord 0xAE 0 2 4 0 0 1 8, .mnfset true 2#4 (.reg 4) 8#4), (0xB000_2000_0000_3FCB#64, .czero 2#3 0x0B#6 (.imm 255#8)),
    (0xB100_0020_8000_0000#64, .cop .all .fctl 0#3 (.reg 1) (.reg 2)), (0xB200_0002_0000_0008#64, .copk .all .fctl 0#3 (.reg 0) (.reg 8) 8#4),
    (0xB300_C000_0001_0049#64, .crrow .all .fctl false (.reg 12) 0#3 (.imm 1#8) 9#6), (rWord 0xB4 0 3 2 5 0 0x1A 0x0B, .crcol .all .rne true true (.reg 3) 2#3 (.reg (.reg 5)) 0x0B#6),
    (rWord 0xB5 0 2 0 5 0 1 (7 * 64), .cwrow .all .fctl 2#3 (.imm 7#8) (.reg 5)), (rWord 0xB6 0 2 4 5 0 2 0, .cwcol .all .fctl true 2#3 (.reg (.reg 4)) (.reg 5)),
    (rWord 0xB7 0 2 1 5 6 4 0x8100, .cld .fctl true (.mem .dev .plain) 2#3 1#4 (.reg 5) (.reg 6) 256#9),
    (rWord 0xB8 0 2 1 5 6 2 0x4001, .cst .fctl false (.sp .rel) 2#3 1#4 (.reg 5) (.reg 6) 1#9), (0xB900_0080_0000_0009#64, .cjoin 0#3 (.bind (.reg 4) 1#2 2#2)),
    (rWord 0xB9 0 2 0 0 0 1 0, .cjoin 2#3 .unbind), (0xBA00_0020_0006_0000#64, .cstj .fctl .dev .rel 0#3 1#4 (.reg 0) (.reg 0)),
    (rWord 0xBB 0 1 2 3 0 0x10 0, .cadd .rne 1#3 2#3 3#3), (rWord 0xBC 0 3 2 0 0 0 4, .cstat (.reg 3) 2#3 4#3)]
    : List (Word × Instr)).all (fun p => decodes p.1 p.2) = true := by decide +kernel

theorem test_decode_system : ([
    (0xC000_2062_0480_0040#64, .cpstart 2#4 3#4 (.reg 8) (.reg 9) 64#16), (0xC100_1001_0500_0020#64, .cpgather .all 1#4 0#4 (.reg 4) (.reg 10) 32#16),
    (rWord 0xC2 0 1 2 5 6 0x20 7, .cpscatter .rtz 1#4 2#4 (.reg 5) (.reg 6) 7#16), (0xC300_6040_0004_0000#64, .cpwait .dev none (.reg 6) 2#4),
    (rWord 0xC3 0 6 2 5 0 9 0, .cpwait .sys (some (.reg 5)) (.reg 6) 2#4), (rWord 0xC4 0 3 2 0 0 0 3, .cpavail (.reg 3) 2#4 3#2),
    (0xC500_6040_0000_0001#64, .cpresume (.reg 6) 2#4 1#2), (0xC600_0040_0000_0000#64, .cpcancel 2#4), (0xC800_00A0_0000_0000#64, .qbind 0#3 (.reg 5)),
    (rWord 0xC9 0 0 3 0 0 0 0, .qclose 3#3), (0xCA00_7040_0000_0000#64, .qstat (.reg 7) 2#3), (0xD000_90A0_0000_0000#64, .launch (.reg 9) (.reg 5)),
    (0xD100_0000_0000_0000#64, .exit), (0xD200_0000_0000_0000#64, .yield), (0xD300_0000_0000_0002#64, .bar 2#2),
    (0xD400_6280_03D4_0000#64, .waitw 5#3 .dev (.reg 6) (.reg 20) (.reg 0) (.reg 7) 0#16), (0xD500_0280_0004_0000#64, .wake .dev (.reg 20) (.reg 0) 0#16),
    (0xD600_A000_0000_0000#64, .snext (.reg 10)), (0xE000_9280_0000_0000#64, .xopen (.reg 9) (.reg 20)), (0xE100_A120_C580_0000#64, .xsend (.reg 10) (.reg 9) 3#4 (.reg 11)),
    (0xE200_A120_C210_0001#64, .xred 1#2 .rne (.reg 10) (.reg 9) 3#4 4#4), (0xE300_6122_8008_0000#64, .xwait .sys (.reg 6) (.reg 9) (.reg 10)),
    (0xE400_0120_0000_0000#64, .xclose (.reg 9)), (0xF000_0000_0000_0007#64, .trap 7#16), (0xF100_0000_0000_0000#64, .tret), (0xF200_0000_0000_0000#64, .brk 0#16),
    (0xF300_0000_001F_0000#64, .ctxsave true true true true (.reg 0) .ssc 0#16), (rWord 0xF3 0 3 4 5 0 8 0x80, .ctxsave false false true false (.reg 3) (.at (.reg 4) (.reg 5)) 0x80#16),
    (0xF400_0280_0004_0000#64, .ctxrstr true (.at (.reg 20) (.reg 0)) 0#16), (0xF500_0120_0001_0000#64, .tlbinv 1#3 (.reg 9) (.reg 0)),
    (rWord 0xF6 0 3 4 5 0 0x20 0x0B, .rcstart .rtz (.reg 3) (.reg 4) (.reg 5) 0x0B#6), (rWord 0xF7 0 3 0 0 0 0 1, .rcstat (.reg 3) true),
    (rWord 0xF8 0 3 4 5 6 0 0, .kdsetAssign (.reg 3) (.reg 4) (.reg 5) (.reg 6)), (0xF900_50C1_C000_0000#64, .homemap (.reg 5) (.reg 6) (.reg 7)),
    (0xFA00_8120_0000_0000#64, .idle (.reg 8) (.reg 9))]
    : List (Word × Instr)).all (fun p => decodes p.1 p.2) = true := by decide +kernel

/-- Words that Table 2.2 refuses, with their sub-codes. -/
theorem test_decode_illegal : ([
    (0xFFFF_FFFF_FFFF_FFFF#64, 0), (0x1E00_0000_0000_0000#64, 0), (rWord 0x01 0 0x50 1 2 0 0 0, 3), (rWord 0x01 1 3 1 2 0 0 0, 5),
    (rWord 0x01 0 3 1 2 4 0 0, 4), (rWord 0x01 0 3 1 2 0 1 0, 2), (0x1C40_0000_0000_0000#64, 1), (0x1D00_50BF_0000_0000#64, 1),
    (rWord 0x70 26 3 4 5 0 0 0, 5), (rWord 0x70 1 3 4 5 0 0 0, 5), (rWord 0x70 0 48 4 5 0 0 0, 3), (rWord 0x70 0 3 4 5 0 0x60 0, 2),
    (rWord 0x40 0 3 4 5 0 0x70 0, 2), (rWord 0x40 0 3 4 5 1 4 0, 2), (rWord 0x40 0 3 4 5 2 0 0, 2)]
    : List (Word × Nat)).all (fun p => match decode p.1 with | .error e => e == p.2 | .ok _ => false) = true := by decide +kernel

/-! ### Witnesses: words, steps and whole-machine rules -/

/-- A strand of the tests with some of its state changed. -/
def with0 (f : Strand → Strand) : State := { base with strands := [(0, f strand0)] }

theorem test_wit_decodeEncode : (Instr.wf (.idle (r 3) (r 4)) && Instr.hasWord (.idle (r 3) (r 4))) = true := by decide +kernel

theorem test_wit_encodeDecode : decodes 0xFA00_8120_0000_0000#64 (.idle (.reg 8) (.reg 9)) = true := by decide +kernel

/-- A pending cause that can be taken: the monitor level has a vector. -/
def pending : State := with0 fun st =>
  { st with mt := { st.mt with vec := 0x1_0000_0000#64 }, pend := [{ trap := { cause := .exchangeFault } }] }

theorem test_wit_step_pending :
    (base.mayIssue 0 && (pending.firstPend pending.me).isSome && (base.firstPend base.me).isNone) = true := by decide +kernel

theorem test_wit_step_fetch : (base.agenda == [Act.issue 0] &&
    (let s0 := { base with agenda := [] }
     let s1 := s0.prepare exec 0 (s0.afterIssue exec 0 false)
     s0.mayIssue 0 && !s0.deprived exec 0 && (s1.firstPend s1.me).isNone && okAnd s1.fetch fun p => decodes p.2 (.add (r 3) (r 1) (.op (r 2)))) &&
    okAnd base.fetch (fun p => decodes p.2 (.add (r 3) (r 1) (.op (r 2)))) &&
    (match (with0 fun st => { st with pc := 0#64 }).fetch with | .error (.trap _) => true | _ => false) &&
    okAnd (State.reset.withFetchWord 64 0).fetch (fun p => match decode p.2 with | .error e => e == 0 | _ => false)) = true := by
  decide +kernel

theorem test_step : (runs (step base) fun t => (t.me.getS 3).toNat == 12 && t.me.pc == 0x1_0000_0008#64) = true := by
  decide +kernel

/-- With an empty agenda, the one strand that may issue has its turn. -/
theorem test_step_turn : (let s := { base with agenda := [] }
    (s.strands.filter fun p => s.mayIssue p.1).map Prod.fst == [0] && s.tick == 0 &&
      runs (step s) fun t => (t.me.getS 3).toNat == 12) = true := by decide +kernel

theorem test_wit_stepKeepsMemory : (Memory.wf base && runs (step base)) = true := by decide +kernel

theorem test_wit_stepEvent : (runs (step { base with agenda := [.event .evThermalTrip] }) fun t => t.thermal) = true := by
  decide +kernel

theorem test_wit_equalMemory : Memory.wf State.reset = true ∧ ∀ pa, State.reset.byteAt pa = State.reset.byteAt pa :=
  ⟨rfl, fun _ => rfl⟩

/-- A strand of VI 0 below the monitor, with vectors at the levels of user and supervisor. -/
def lower (p : Priv) (stat : Word := 0#64) : State :=
  let s := with0 fun st => { st with priv := p, ut := { vec := 8#64, stat } }
  { s with vis := Tab.put s.vis 0 { s.vi 0 with stvec := 16#64 } }

/-- The monitor takes a trap at its vector; with no vector set nobody does; a level that handles one passes it on. -/
theorem test_wit_trapDelivery : (
    (pending.takingLevel pending.me (baseLevel { cause := .trapcall } .mon false none) false == some (.mon, false)) &&
    (base.takingLevel base.me (baseLevel { cause := .trapcall } .mon false none) false == none) &&
    ((lower .user 1#64).takingLevel (lower .user 1#64).me .user false == some (.sup, true))) = true := by decide +kernel

/-- TRAP 7 at a level that handles it: the pc of the next instruction is saved and the handler's vector entered. -/
theorem test_trap : (runs (exec (.trap 7#16) pending) fun t => t.me.mt.pc == 0x1_0000_0008#64 && t.me.mt.v0 == 7#64 &&
    t.me.mt.stat == 9#64 && t.me.pc == 0x1_0000_0000#64) = true := by decide +kernel

theorem test_brk : (runs (exec (.brk 9#16) pending) fun t => t.me.mt.pc == 0x1_0000_0000#64 && t.me.mt.v0 == 9#64) = true := by
  decide +kernel

theorem test_tret : (let s := with0 fun st => { st with mt := { pc := 0x40#64, stat := 1#64 + 2#64 ^ 17 } }
    runs (exec .tret s) fun t => t.me.pc == 0x40#64 && t.me.priv == .user && t.me.tstart == 2#64 && t.me.mt.stat == 0#64) = true := by
  decide +kernel

theorem test_wit_trapInstructions : (base.me.mt.hnd == false && (pending.takingLevel pending.me
    (baseLevel { cause := .breakpoint } pending.me.priv false none) false).isSome) = true := by decide +kernel

/-- Each privileged form meets PRIVILEGE at user privilege, and the monitor's at supervisor privilege. -/
theorem test_privilege : (
    ([.kdsetAssign (r 1) (r 2) (r 3) (r 4), .homemap (r 1) (r 2) (r 3), .idle (r 1) (r 2), .crd (r 1) 0x40#12, .cwr 0x29#12 (r 1)]
      : List Instr).all (fun i => runs (exec i (lower .sup)) fun t => t.me.st.cause == w64 Cause.privilege.code && t.me.st.v0 == encode i) &&
    ([.stPatch .dev .plain (r 1) (r 2) (r 3) 0#16, .palwr (r 1) (r 2), .ctxsave true false true true (r 1) .ssc 0#16, .ctxrstr false .ssc 0#16,
      .tlbinv 0#3 (r 0) (r 0), .rcstart .rne (r 1) (r 2) (r 3) 0x0B#6, .rcstat (r 1) false, .crd (r 1) 0x20#12, .crsw (r 1) 0x00#12 (r 2)]
      : List Instr).all (fun i => runs (exec i (lower .user)) fun t => t.me.st.cause == w64 Cause.privilege.code && t.me.st.v0 == encode i)) = true := by
  decide +kernel

/-! ### Witnesses: operands and frames -/

/-- Direct, indirect and queue operands resolve. -/
theorem test_wit_operands : (
    wit (.fadd .f64 .rne (r 5) (r 1) (r 2)) [rdS .a (r 1), rdS .b (r 2), wrS (r 5)] base &&
    wit (.vadd .all .rne false false (r 9) (r 1) (r 2)) [rdV .a (r 1), rdV .b (r 2), wrV (r 9)] base (mk := .m 1 true) &&
    ([1, 2, 9].all fun n => bitAt base.me.vpresent n) && base.myCar.service == false &&
    wit (.popc (r 5) (.ix 1)) [rdS .a (.ix 1), wrS (r 5)] base (fun c => c.s_ .a == 0x1_0001_0000#64 && c.ix == [(1, 2)]) &&
    wit (.popc (r 5) (.q 0)) [rdS .a (.q 0), wrS (r 5)] base (fun c => c.s_ .a == 9#64 && c.pops == [(0, 1)])) = true := by
  decide +kernel

def stopsWith (i : Instr) (us : List Use) (s : State) (p : Stop → Bool) : Bool :=
  match ready i s us .all (fun _ => .ok ()) with
  | .error e => p e
  | .ok _ => false

def isTrap (cse : Cause) : Stop → Bool
  | .trap t => t.cause == cse
  | _ => false

/-- An absent register, a strand without lanes, an index that leaves its window, an empty queue, a closed one, and a queue of
which the strand is no consumer. -/
theorem test_operand_faults : (
    let us := [rdV .a (r 1), rdV .b (r 2), wrV (r 9)]
    let i : Instr := .vadd .all .rne false false (r 9) (r 1) (r 2)
    stopsWith i us (with0 fun st => { st with vpresent := 0xFFFF_FFFF_FFFD#64 }) (isTrap .vabsent) &&
    stopsWith i us { base with caravans := [(0, { base.car 0 with service := true })] } (isTrap .noLanes) &&
    stopsWith (.popc (r 5) (.ix 1)) [rdS .a (.ix 1), wrS (r 5)]
      (with0 fun st => { st with i := [(1, w64 (2 + 4 * 2 ^ 6 + 1 * 2 ^ 12 + 4 * 2 ^ 18 + 2 ^ 22))] }) (isTrap .bound) &&
    stopsWith (.popc (r 5) (.q 1)) [rdS .a (.q 1), wrS (r 5)] base (fun e => match e with | .stall => true | _ => false) &&
    stopsWith (.popc (r 5) (.q 2)) [rdS .a (.q 2), wrS (r 5)] base (isTrap .queueEnd) &&
    stopsWith (.popc (r 5) (.q 0)) [rdS .a (.q 0), wrS (r 5)] (with0 fun st => { st with idx := 1 }) (isTrap .access)) = true := by
  decide +kernel

/-- I[3] of the strand. -/
def ix3 (k : Nat) : State := with0 fun st => { st with i := [(3, w64 k)] }

/-- The forms of an index register: AUTO after and before the access, with and without a wrap, at the ends of the window; vector and
mask registers; and lane mode, where each element takes the register that its offset names. -/
theorem test_wit_indexForms : (
    let sc := fun (k : Nat) (p : Ctx → Bool) => wit (.popc (r 5) (.ix 3)) [rdS .a (.ix 3), wrS (r 5)] (ix3 k) p
    let no := fun (k : Nat) (v : Nat) => stopsWith (.popc (r 5) (.ix 3)) [rdS .a (.ix 3), wrS (r 5)] (ix3 k) fun e => match e with
      | .trap t => t.cause == .bound && t.v2 == w64 v
      | _ => false
    sc (2 + 4 * 2 ^ 6 + 2 ^ 12) (fun c => c.s_ .a == 0x1_0001_0000#64 && c.ix.isEmpty) && sc (2 + 4 * 2 ^ 6 + 3 * 2 ^ 12 + 2 ^ 18 + 2 ^ 22) (fun c => c.ix == [(3, 4)]) &&
    no (2 + 4 * 2 ^ 6 + 3 * 2 ^ 12 + 2 * 2 ^ 18 + 2 ^ 22) 2 && sc (2 + 4 * 2 ^ 6 + 3 * 2 ^ 12 + 2 * 2 ^ 18 + 2 ^ 22 + 2 ^ 24) (fun c => c.ix == [(3, 1)]) &&
    sc (2 + 4 * 2 ^ 6 + 2 ^ 18 + 2 ^ 23) (fun c => c.s_ .a == 0x1_0001_0000#64 && c.ix == [(3, 1)]) && no (2 + 4 * 2 ^ 6 + 15 * 2 ^ 18 + 2 ^ 23) 0 &&
    sc (2 + 4 * 2 ^ 6 + 15 * 2 ^ 18 + 2 ^ 23 + 2 ^ 24) (fun c => c.ix == [(3, 3)]) && no (62 + 4 * 2 ^ 6) 1 &&
    wit (.vneg .all .rne false (r 9) (.ix 3)) [rdV .a (.ix 3), wrV (r 9)] (ix3 (1 + 4 * 2 ^ 6 + 2 ^ 12 + 2 ^ 24 + 2 ^ 25)) (fun c => (c.v_ .a).code 0 == 0x3F00_0000) &&
    stopsWith (.vneg .all .rne false (r 9) (.ix 3)) [rdV .a (.ix 3), wrV (r 9)] (ix3 (46 + 4 * 2 ^ 6 + 2 ^ 24 + 2 ^ 25)) (isTrap .bound) &&
    wit (.mlog 1#4 (r 3) (.ix 3) (.ix 3)) [rdM .a (.ix 3), wrM (r 3)] (ix3 (1 + 4 * 2 ^ 6 + 2 ^ 24 + 2 ^ 26)) (fun c => c.m_ .a == 0b0101#1024) &&
    (let s := ix3 (1 + 4 * 2 ^ 6 + 2 ^ 25 + 2 ^ 27 + 9 * 2 ^ 28)
     let t := s.setMe (s.me.setV 9 (vreg 3#6 [0, 1, 0, 1]))
     wit (.vneg .all .rne false (r 10) (.ix 3)) [rdV .a (.ix 3), wrV (r 10)] t (fun c => (c.v_ .a).code 0 == 0x3F80_0000 && (c.v_ .a).code 1 == 0x3F00_0000))) = true := by
  decide +kernel

/-- A push into a queue with room, a full one, one that its producer has closed, and one of another producer. -/
theorem test_wit_push : (
    let q := fun (x : Queue) => { base with teams := [(0, { base.team 0 with queues := [(0, x)] })] }
    let push := stopsWith (.popc (.q 0) (r 1)) [rdS .a (r 1), wrS (.q 0)]
    wit (.popc (.q 0) (r 1)) [rdS .a (r 1), wrS (.q 0)] (q { depth := 1, prod := 1#16, cons := 1#16 }) (fun c => c.td == .push 0) &&
    push (q { depth := 1, prod := 1#16, cons := 1#16, entries := [.sc 9#64] }) (fun e => match e with | .stall => true | _ => false) &&
    push (q { depth := 1, prod := 1#16, cons := 1#16, pclosed := 1#16 }) (isTrap .queueEnd) && push (q { depth := 1, prod := 2#16, cons := 1#16 }) (isTrap .access)) = true := by
  decide +kernel

theorem test_wit_completion : wit (.add (r 5) (.ix 1) (.op (.q 0))) [rdS .a (.ix 1), rdS .b (.q 0), wrS (r 5)] base
    (fun c => c.ix == [(1, 2)] && c.pops == [(0, 1)] && c.me.sstep.isNone) = true := by decide +kernel

/-- The scalar forms of the frame, each with operands that it accepts. -/
def scalars : List Instr :=
  ([Instr.add, .sub, .mul, .mulh, .mulhu, .div, .divu, .rem, .remu, .and, .or, .xor, .shl, .shr, .sra, .slt, .sltu, .min, .max,
    .minu, .maxu].flatMap fun f => [f (r 10) (r 1) (.op (r 2)), f (r 10) (r 1) (.imm 3#16), f (r 0) (r 1) (.op (.q 0)), f (.q 1) (.ix 2) (.op (r 2))]) ++
  [.clz (r 10) (r 1), .ctz (r 10) (r 1), .popc (r 10) (r 1), .bfx (r 10) (r 1) 0#6 63#6 true, .lih (r 10) (r 1) 7#27,
   .fsqrt .f64 .rne (r 10) (r 7), .fcvt .f64 .rne .fromI (r 10) (r 1), .fclass .f64 (r 10) (r 7), .jr (r 10) (r 3) 8#16,
   .bfi (r 10) (r 1) (r 2) 63#6 0#6, .fadd .f64 .rne (r 10) (r 7) (r 8), .fsub .f64 .rne (r 10) (r 7) (r 8), .fmul .f64 .rne (r 10) (r 7) (r 8),
   .fdiv .f64 .rne (r 10) (r 7) (r 8), .fmin .f64 (r 10) (r 7) (r 8), .fmax .f64 (r 10) (r 7) (r 8), .fcmp .f64 4#3 (r 10) (r 7) (r 8),
   .sel (r 10) (r 1) (r 2) (r 3), .fma .f64 .rne (r 10) (r 7) (r 8) (r 7), .li (r 10) 7#37, .jal (r 10) 2#44, .crd (r 10) 0x40#12,
   .getid (r 10) 9#4, .ixget (r 10) 1#3, .beq (r 1) (r 2) 4#37, .bne (r 1) (r 2) 4#37, .blt (r 1) (r 2) 4#37, .bge (r 1) (r 2) 4#37,
   .bltu (r 1) (r 2) 4#37, .bgeu (r 1) (r 2) 4#37, .jmp 4#44]

theorem test_wit_scalarFrame : (scalars.all fun i => match scalarUses i with
    | some us => wit i us base && runs (exec i base)
    | none => false) = true := by decide +kernel

theorem test_wit_vectorFrame : (wit (.vcvt (.m 1 false) .rne (r 9) (r 1) 0x0B#6) [rdV .a (r 1), wrV (r 9)] base
    (fun c => c.td == .reg 9 && isNarrow 0x0B#6 == false && c.me.sstep == none) (.m 1 false)) = true := by decide +kernel

theorem test_wit_storeFrame : (
    let i : Instr := .st 3#2 (.mem .sys .sc) (r 1) (r 3) (r 6) 0#16
    wit i [rdS .a (r 3), rdS .b (r 6), rdS .d (r 1)] base (fun c =>
      let va := c.s_ .a + c.s_ .b
      va.toNat % 8 == 0 && okAnd (base.locate false .store va 8 true) (fun l => match l with
        | .mem x => x.pa == 0x101_0008 && (base.regOff l).isNone && okAnd (base.order (.mem .sys .sc)) (fun s1 =>
            !queues s1 (.mem .sys .sc) x && queues s1 (.mem .core .plain) x && queues s1 (.mem .sys .rel) x && okAnd (s1.notHeld true l) &&
            okAnd (s1.inOrder l) && okAnd s1.fenced) && base.region x.pa == .dev
        | _ => false) && okAnd (base.free true false va 8) && okAnd (base.requests 1)) &&
    runs (exec i base) (fun t => t.byteAt 0x101_0008 == 5#8 && t.byteAt 0x101_0000 == 5#8) &&
    runs (exec (.st 3#2 (.mem .sys .plain) (r 1) (r 3) (r 6) 0#16) base) (fun t => t.storeQ.length == 1 && t.byteAt 0x101_0008 == 0#8)) = true := by
  decide +kernel

/-! ### Single steps and witnesses: scalar forms -/

/-- S[10] after an instruction on `base`. -/
def ten (i : Instr) : Option Nat := sAfter i base 10

/-- Table 5.6 on s1 = 5, s2 = 7, s4 = −2, s9 = 2. -/
theorem test_integer : ([
    (.add (r 10) (r 1) (.imm 0xFFFF#16), 4), (.sub (r 10) (r 1) (.op (r 2)), 0xFFFF_FFFF_FFFF_FFFE), (.mul (r 10) (r 1) (.op (r 2)), 35),
    (.mulh (r 10) (r 4) (.op (r 1)), 0xFFFF_FFFF_FFFF_FFFF), (.mulhu (r 10) (r 4) (.op (r 1)), 4), (.div (r 10) (r 4) (.op (r 0)), 0xFFFF_FFFF_FFFF_FFFF),
    (.div (r 10) (r 2) (.op (r 4)), 0xFFFF_FFFF_FFFF_FFFD), (.divu (r 10) (r 2) (.op (r 9)), 3), (.rem (r 10) (r 4) (.imm 7#16), 0xFFFF_FFFF_FFFF_FFFE),
    (.remu (r 10) (r 2) (.op (r 0)), 7), (.and (r 10) (r 1) (.op (r 2)), 5), (.or (r 10) (r 1) (.op (r 9)), 7), (.xor (r 10) (r 1) (.op (r 2)), 2),
    (.shl (r 10) (r 1) (.op (r 4)), 0x4000_0000_0000_0000), (.shr (r 10) (r 4) (.imm 1#16), 0x7FFF_FFFF_FFFF_FFFF), (.sra (r 10) (r 4) (.imm 1#16), 0xFFFF_FFFF_FFFF_FFFF),
    (.slt (r 10) (r 4) (.op (r 1)), 1), (.sltu (r 10) (r 4) (.op (r 1)), 0), (.min (r 10) (r 4) (.op (r 1)), 0xFFFF_FFFF_FFFF_FFFE), (.max (r 10) (r 4) (.op (r 1)), 5),
    (.minu (r 10) (r 4) (.op (r 1)), 5), (.maxu (r 10) (r 4) (.op (r 1)), 0xFFFF_FFFF_FFFF_FFFE), (.clz (r 10) (r 1), 61), (.ctz (r 10) (r 0), 64), (.popc (r 10) (r 4), 63),
    (.bfx (r 10) (r 1) 2#6 1#6 true, 1), (.bfi (r 10) (r 2) (r 1) 1#6 0#6, 7), (.sel (r 10) (r 1) (r 2) (r 0), 7), (.li (r 10) (BitVec.allOnes 37), 0xFFFF_FFFF_FFFF_FFFF),
    (.lih (r 10) (r 4) 1#27, 0x3F_FFFF_FFFE)] : List (Instr × Nat)).all (fun p => ten p.1 == some p.2) = true := by decide +kernel

/-- The example of R133: LI and LIH build 0x1234_5678_9ABC_DEF0. -/
theorem test_li_lih : (sAfter (.lih (r 5) (r 5) 0x91_A2B3#27) (with0 fun st => st.setS 5 0x18_9ABC_DEF0#64) 5) = some 0x1234_5678_9ABC_DEF0 := by
  decide +kernel

theorem test_div_flags : (runs (exec (.div (r 10) (r 1) (.op (r 0))) base) fun t => t.me.fctl == 1#64 ||| (1#64 <<< 9)) = true := by decide +kernel

theorem test_discard : (runs (exec (.add (r 0) (r 1) (.op (r 2))) base) fun t => t.me.getS 0 == 0#64 && t.me.pc == 0x1_0000_0008#64) = true := by decide +kernel

theorem test_jumps : ([
    (.jmp 4#44, 0x1_0000_0020), (.jal (r 10) (BitVec.allOnes 44), 0xFFFF_FFF8), (.jr (r 10) (r 3) 0xFFF8#16, 0x1_0000_FFF8), (.beq (r 1) (r 2) 4#37, 0x1_0000_0008),
    (.bne (r 1) (r 2) 4#37, 0x1_0000_0020), (.blt (r 4) (r 1) 4#37, 0x1_0000_0020), (.bge (r 4) (r 1) 4#37, 0x1_0000_0008), (.bltu (r 4) (r 1) 4#37, 0x1_0000_0008),
    (.bgeu (r 4) (r 1) 4#37, 0x1_0000_0020)] : List (Instr × Nat)).all (fun p => after p.1 base (fun t => t.me.pc.toNat) == some p.2) = true := by decide +kernel

theorem test_jr_misaligned : (runs (exec (.jr (r 10) (r 3) 4#16) pending) fun t => t.me.mt.cause == w64 Cause.misaligned.code &&
    t.me.mt.v0 == 0x1_0001_0004#64 && t.me.getS 10 == 0#64) = true := by decide +kernel

/-- Binary64 on s7 = 1.5 and s8 = 2: sums, products, quotients, a root, conversions, comparison and class. -/
theorem test_float : ([
    (.fadd .f64 .rne (r 10) (r 7) (r 8), 0x400C_0000_0000_0000), (.fsub .f64 .rne (r 10) (r 7) (r 8), 0xBFE0_0000_0000_0000),
    (.fmul .f64 .rne (r 10) (r 7) (r 8), 0x4008_0000_0000_0000), (.fdiv .f64 .rne (r 10) (r 7) (r 8), 0x3FE8_0000_0000_0000),
    (.fsqrt .f64 .rtz (r 10) (r 8), 0x3FF6_A09E_667F_3BCC), (.fma .f64 .rne (r 10) (r 7) (r 8) (r 8), 0x4014_0000_0000_0000),
    (.fmin .f64 (r 10) (r 7) (r 8), 0x3FF8_0000_0000_0000), (.fmax .f64 (r 10) (r 7) (r 8), 0x4000_0000_0000_0000), (.fcmp .f64 2#3 (r 10) (r 7) (r 8), 1),
    (.fcvt .f32 .rne (.flt .f64) (r 10) (r 7), 0x3FC0_0000), (.fcvt .f64 .rne .toI (r 10) (r 7), 2), (.fcvt .f64 .rne .fromI (r 10) (r 4), 0xC000_0000_0000_0000),
    (.fcvt .f64 .rtz .toN (r 10) (r 7), 1), (.fcvt .f64 .rne .fromN (r 10) (r 1), 0x4014_0000_0000_0000)] : List (Instr × Nat)).all
    (fun p => ten p.1 == some p.2) = true := by decide +kernel

/-- The example of R139. -/
theorem test_fclass : sAfter (.fclass .f64 (r 10) (r 11)) (with0 fun st => st.setS 11 0xBFE8_0000_0000_0000#64) 10 = some 0x1_FFEA := by decide +kernel

theorem test_wit_scalarResults : ([
    (.div (r 10) (r 1) (.op (r 0)), [rdS .a (r 1), rdS .b (r 0), wrS (r 10)]), (.add (r 10) (r 1) (.imm 0x8000#16), [rdS .a (r 1), wrS (r 10)]),
    (.jmp 0#44, []), (.jal (r 0) 0#44, [wrS (r 0)]), (.li (.q 1) 0#37, [wrS (.q 1)]), (.fcvt .f64 .rne (.flt .bf16) (r 10) (r 7), [rdS .a (r 7), wrS (r 10)]),
    (.fcmp .f64 4#3 (r 10) (r 7) (r 8), [rdS .a (r 7), rdS .b (r 8), wrS (r 10)])] : List (Instr × List Use)).all (fun p => wit p.1 p.2 base) = true := by decide +kernel

/-- Loads of the page at VA 0x1_0001_0000, whose first word is 0x3F80_0000_0000_0005, and of the scratchpad. -/
theorem test_ld : ([
    (.ld 3#3 (.mem .core .plain) (r 10) (r 3) (r 0) 0#16, 0x3F80_0000_0000_0005), (.ld 0#3 (.mem .dev .acq) (r 10) (r 3) (r 0) 7#16, 0x3F),
    (.ld 5#3 (.mem .sys .plain) (r 10) (r 3) (r 0) 6#16, 0x3F80), (.ld 3#3 (.sp .plain) (r 10) (r 6) (r 0) 0xFFF8#16, 0)] : List (Instr × Nat)).all
    (fun p => ten p.1 == some p.2) = true := by decide +kernel

theorem test_st : (runs (exec (.st 1#2 (.mem .dev .sc) (r 4) (r 3) (r 6) 0#16) base) (fun t => t.byteAt 0x101_0008 == 0xFE#8 && t.byteAt 0x101_000A == 0#8) &&
    runs (exec (.st 3#2 (.mem .core .plain) (r 4) (r 3) (r 6) 0#16) base) (fun t => t.byteAt 0x101_0008 == 0#8 && t.storeQ.length == 1) &&
    runs (exec (.st 3#2 (.sp .plain) (r 2) (r 6) (r 0) 0#16) base) (fun t => ((t.team 0).spLine 0).data == 7 * 2 ^ 64)) = true := by decide +kernel

/-- A page that holds patch slots: PS in the leaf of VA 0x1_0001_0000. -/
def patchable : State := { base with mem := putWord base.mem (0x20_4008, 0x49 + 2 ^ 28 + 0xA0 + 0x101 * 2 ^ 29) }

theorem test_stPatch : (runs (exec (.stPatch .dev .plain (r 1) (r 3) (r 0) 8#16) patchable) fun t => t.byteAt 0x101_0008 == 5#8) = true := by decide +kernel

theorem test_amo : (runs (exec (.amo .add true (.mem .dev .plain) (r 10) (r 3) (r 2) 0#16) base) fun t =>
    t.me.getS 10 == 0x3F80_0000_0000_0005#64 && t.byteAt 0x101_0000 == 12#8) = true := by decide +kernel

theorem test_fxadd : (runs (exec (.amo .fxadd true (.mem .dev .plain) (r 10) (r 3) (r 7) 0x7FF#16) base) fun t => t.byteAt 0x101_0000 == 8#8) = true := by
  decide +kernel

/-- CAS writes where the word is D, and not where it is not. -/
theorem test_cas : (runs (exec (.cas false (.mem .dev .sc) (r 10) (r 3) (r 2) 0#16) (with0 fun st => st.setS 10 5#64)) (fun t => t.byteAt 0x101_0000 == 7#8 && t.me.getS 10 == 5#64) &&
    runs (exec (.cas false (.mem .dev .sc) (r 10) (r 3) (r 2) 0#16) base) (fun t => t.byteAt 0x101_0000 == 5#8 && t.me.getS 10 == 5#64)) = true := by decide +kernel

/-- The premises of loads, stores and atomics: a translated place that is free, ordered and in order. -/
theorem test_wit_scalarMemory : (
    let va := 0x1_0001_0000#64
    okAnd (base.locate false .load va 8 true) (fun l => (base.regOff l).isNone && okAnd (base.notHeld false l) && okAnd (base.free false false va 8) &&
      okAnd (base.requests 1) && okAnd (base.order (.mem .dev .acq)) fun s1 => (match l with | .mem x => (s1.forwarded (.mem .dev .acq) x 8).isNone | _ => false) &&
        okAnd (s1.loadOrder l) fun s2 => (s2.seen l).cls != 2) &&
    okAnd (patchable.locate false .patch va 8) (fun l => okAnd (patchable.order (.mem .dev .plain)) fun s1 => okAnd (s1.notHeld true l) && okAnd (s1.inOrder l) &&
      okAnd (patchable.requests 1) && match l with | .mem x => x.ps | _ => false) &&
    okAnd (base.locate false .atomic va 8 (extra := fun x => ensure (base.atomicAllowed true .swap x) .access va 7#64)) (fun l => okAnd (base.notHeld true l) &&
      okAnd (base.free true false va 8) && okAnd (base.order (.mem .dev .plain)) fun s0 => okAnd (s0.inOrder l) fun s1 => okAnd (s1.loadOrder l) fun s2 =>
        (s2.lineOf l).cls != 2 && !s2.lost l) &&
    wit (.cas true (.mem .dev .plain) (r 5) (r 3) (r 1) 0#16) [rdS .a (r 3), rdS .b (r 1), rwS (r 5)] base &&
    wit (.flush (r 3) (r 0) (r 6) 0#16) [rdS .a (r 3), rdS .b (r 0), rdS .c (r 6)] base (fun c => (leavesCanonical va 8).isNone &&
      okAnd (base.rangePages (base.who base.me) va (c.s_ .c).toNat (2 ^ 48) 0) && okAnd (base.free true false va (c.s_ .c).toNat) && okAnd base.fenced)) = true := by
  decide +kernel

/-- A load whose bytes the youngest store of another strand of its core holds takes them (R277). -/
theorem test_forwarded : (runs (exec (.st 3#2 (.mem .core .plain) (r 1) (r 3) (r 0) 0#16) base) fun t =>
    let s := { t with tlb := [], cur := 1, strands := [(1, { strand0 with idx := 1 })] }
    okAnd (s.locate false .load 0x1_0001_0000#64 4 true) (fun l => match l with | .mem x => (s.forwarded (.mem .core .plain) x 4).isSome | _ => false) &&
    runs (exec (.ld 2#3 (.mem .core .plain) (r 10) (r 3) (r 0) 0#16) s) fun u => u.me.getS 10 == 5#64 && u.storeQ.length == 1) = true := by decide +kernel

/-- A word of the register window: PF0 BAR0 at DPA 2^48, at VA 0x1_0002_0000. -/
def window : State := with0 (fun st => st.setS 3 0x1_0002_0000#64)
def windowed : State := { window with mem := putWord window.mem (0x20_4010, 0xE7 + 2 ^ 27 + 2 ^ 32 * 2 ^ 29) }

theorem test_wit_registers : (okAnd (windowed.locate false .load 0x1_0002_0000#64 8 true) (fun l => (windowed.regOff l).isSome) &&
    runs (exec (.ld 3#3 (.mem .sys .plain) (r 10) (r 3) (r 0) 0#16) windowed) && runs (exec (.st 3#2 (.mem .sys .plain) (r 1) (r 3) (r 0) 0#16) windowed)) = true := by
  decide +kernel

/-- A misaligned load, a load of an unmapped page, and one of a poisoned line. -/
theorem test_memory_faults : (
    let i : Instr := .ld 3#3 (.mem .sys .plain) (r 10) (r 3) (r 1) 0#16
    let j : Instr := .ld 3#3 (.mem .sys .plain) (r 10) (r 3) (r 0) 0#16
    runs (exec i pending) (fun t => t.me.mt.cause == w64 Cause.misaligned.code && t.me.mt.v0 == 0x1_0001_0005#64) &&
    runs (exec j { pending with mem := putWord pending.mem (0x20_4008, 0) }) (fun t => t.me.mt.cause == w64 Cause.pageLoad.code && t.me.mt.v2 == 4#64) &&
    runs (exec j { pending with tags := Tab.set tagReset pending.tags 0x2_0200 0x80#16 }) (fun t => t.me.mt.cause == w64 Cause.poisonConsumed.code) &&
    runs (exec (.st 3#2 (.mem .sys .plain) (r 1) (r 3) (r 1) 0#16) pending) (fun t => t.me.mt.cause == w64 Cause.misaligned.code)) = true := by decide +kernel

theorem test_order : ([.fence 0#3 .core, .fence 4#3 .sys, .lsync, .flush (r 3) (r 0) (r 6) 0#16, .inval (r 3) (r 0) (r 6) 0#16] : List Instr).all
    (fun i => runs (exec i base) fun t => t.me.pc == 0x1_0000_0008#64) = true := by decide +kernel

/-- FENCE beyond CORE puts the stores of its strand before its later accesses, and the next load then brings them home. -/
theorem test_fence_orders : (runs (exec (.st 3#2 (.mem .core .plain) (r 4) (r 3) (r 6) 0#16) base) fun t =>
    runs (exec (.fence 0#3 .dev) t) fun u => u.storeQ.all (fun b => b.beforeLoads == [0] && b.beforeStores == [0]) && okAnd u.fenced (fun v => v.storeQ.isEmpty) &&
      runs (exec (.ld 3#3 (.mem .core .plain) (r 10) (r 3) (r 0) 0#16) { u with tlb := [] }) fun v => v.storeQ.isEmpty && v.byteAt 0x101_0008 == 0xFE#8) = true := by
  decide +kernel

/-! ### Control, index and identity registers, palettes -/

theorem test_control : (sAfter (.crd (r 10) 0x00#12) base 10 == some 4 && runs (exec (.cwr 0x4A#12 (r 1)) base) (fun t => t.me.mscratch == 5#64) &&
    runs (exec (.crsw (r 10) 0x05#12 (r 1)) base) (fun t => t.me.getS 10 == 0#64) && wit (.crsw (r 10) 0x05#12 (r 1)) [rdS .a (r 1), wrS (r 10)] base (fun c =>
      okAnd (base.crWrite 0x05 (c.s_ .a)))) = true := by decide +kernel

theorem test_wit_trapPc : (runs (exec (.cwr 0x40#12 (r 1)) (with0 fun st => { st with mt := { stat := 0x3FF_0000#64 } })) fun t => t.me.mt.pc == 5#64 && t.me.mt.stat == 0#64) = true := by
  decide +kernel

theorem test_index : (runs (exec (.ixset 3#3 (r 1)) base) (fun t => t.me.getI 3 == 5#64) && sAfter (.ixget (r 10) 2#3) base 10 == some 257 &&
    runs (exec (.ixadv 1#3 (.imm 0xFFFE#16)) base) (fun t => bits (t.me.getI 1) 12 6 == 3) && runs (exec (.ixoff 2#3 (.op (r 9))) base) (fun t => bits (t.me.getI 2) 12 6 == 2) &&
    runs (exec (.ixadv 2#3 (.imm 5#16)) pending) (fun t => t.me.ut.cause == 0#64 && t.me.mt.cause == w64 Cause.bound.code && t.me.mt.v1 == 5#64)) = true := by decide +kernel

/-- The example of R144, and VGETCAP of F32. -/
theorem test_vsetl : (runs (exec (.vsetl (r 10) (r 11) (.imm 0x13#6)) (with0 fun st => st.setS 11 100#64)) (fun t => t.me.getS 10 == 112#64 && t.me.vl == 112#64 && t.me.vpad == 12#64) &&
    sAfter (.vgetcap (r 10) (.imm 0x0B#6)) base 10 == some 256 && runs (exec (.vgetcap (r 10) (.reg (r 6))) base)) = true := by decide +kernel

theorem test_identity : (sAfter (.getid (r 10) 3#4) base 10 == some 0 && runs (exec (.heartbeat (r 1)) base) (fun t => t.me.progress == 5#64)) = true := by decide +kernel

/-- The example of R82: eight entries of P0. -/
theorem test_palettes : (sAfter (.palrd (r 10) (r 11)) (with0 fun st => st.setS 11 0x4D0#64) 10 == some 0x1716_1514_1313_1313 &&
    runs (exec (.palsel (.imm 3#4)) base) (fun t => t.me.palsel == 3#64) && runs (exec (.palsel (.reg (r 0))) base) (fun t => t.me.palsel == 0#64) &&
    runs (exec (.palwr (r 11) (r 2)) (with0 fun st => st.setS 11 0x4000#64)) (fun t => t.palEntry 1 0 0#6 0#6 == 7#8) && base.granted 15 && base.granted 0) = true := by decide +kernel

/-! ### Single steps and witnesses: vector registers -/

/-- The first four codes of V[9] after an instruction on a machine, where v9 is the destination. -/
def nine (i : Instr) (s : State := base) : Option (List Nat) := after i s fun t => codes t.me 9 4

/-- Retagging, tags, masks, conversion, rescaling, moves, splats, counts and single elements. -/
theorem test_tags : (
    nine (.vtag false (r 9) (.imm 5#6)) (with0 fun st => st.setV 9 (vreg 0x0B#6 [0x4030_2010])) == some [0x10, 0x20, 0x30, 0x40] &&
    runs (exec (.vtag true (r 1) (.reg (r 2))) base) (fun t => (t.me.getV 1).tag == 0xC7#64 && (t.me.getV 1).code 0 == 0) &&
    sAfter (.vgtag 0#2 (r 10) (r 1)) base 10 == some 0x0B && sAfter (.vgtag 1#2 (r 10) (r 1)) base 10 == some 0xFFFF &&
    runs (exec (.vvalid 0#2 (r 3) (r 1)) base) (fun t => t.me.getM 3 == 0xF#1024) &&
    nine (.vcvt .all .rne (r 9) (r 1) 0x03#6) == some [1, 2, 3, 4] && nine (.vcvt .all .rtz (r 9) (r 3) 0x0B#6) == some [0x3F80_0000, 0x4000_0000, 0x4040_0000, 0xBF80_0000] &&
    nine (.vresc .all .rne (r 9) (r 1) (r 9)) == some [0x4080_0000, 0x4100_0000, 0x4140_0000, 0x4180_0000] &&
    nine (.vmov .all .fctl true (r 9) (r 3)) == some [1, 2, 3, 0xFFFF_FFFF] && nine (.vmov (.m 1 false) .fctl false (r 9) (r 3)) == some [1, 0, 3, 0] &&
    nine (.vsplat .all .rne 0#2 (r 9) (r 4) 0x0B#6) == some [0xC000_0000, 0xC000_0000, 0xC000_0000, 0xC000_0000] &&
    nine (.viota (.m 1 true) .rne true (r 9) 3#6) == some [0, 0, 0, 1] &&
    sAfter (.vext .rne (r 10) (r 3) (.imm 3#10)) base 10 == some 0xFFFF_FFFF_FFFF_FFFF && sAfter (.vext .rne (r 10) (r 4) (.reg (r 9))) base 10 == some 1 &&
    nine (.vins .rne (r 9) (r 1) (.imm 2#10)) (with0 fun st => st.setV 9 (vreg 3#6 [9, 9, 9, 9])) == some [9, 9, 5, 9]) = true := by decide +kernel

theorem test_wit_tags : (
    wit (.vtag true (r 1) (.reg (r 2))) [rdS .a (r 2), { wrV (r 1) with whole := true }] base (fun c => c.s_ .a == (0x07#6).setWidth 64 && !fmtReserved 7#6) &&
    wit (.vvalid 2#2 (r 3) (r 1)) [{ rdV .a (r 1) with whole := true }, wrM (r 3)] base &&
    wit (.vext .rne (r 10) (r 1) (.imm 255#10)) [{ rdV .a (r 1) with whole := true }, wrS (r 10)] base (fun c => decide (255 < cap (c.v_ .a).fmt) && !(c.v_ .a).psn 255) &&
    wit (.vcvt .all .rne (r 9) (r 1) 0x32#6) [rdV .a (r 1), wrV (r 9)] base (fun c => okAnd (laneMismatch [c.v_ .a]) && okAnd (capCheck c [0x0B#6, 0x32#6]) && okAnd (laneConflict c 0x32#6 c.td)) &&
    wit (.vresc .all .rne (r 9) (r 1) (r 0)) [rdV .a (r 1), rdS .b (r 0), wrV (r 9)] base (fun c => (c.v_ .a).fmt != 0#6 && !isWInt (c.v_ .a).fmt && c.s_ .b == 0#64) &&
    wit (.viota .all .rne false (r 9) 0x10#6) [wrV (r 9)] base (fun c => okAnd (capCheck c [0x10#6]) && okAnd (restart c 0x10#6))) = true := by decide +kernel

/-- v1 = 1, 2, 3, 4 and v2 = 0.5, 0.5, −1, 10 in F32. -/
theorem test_elementwise : ([
    (.vadd .all .rne false false (r 9) (r 1) (r 2), [0x3FC0_0000, 0x4020_0000, 0x4000_0000, 0x4160_0000]), (.vsub .all .rne false false (r 9) (r 1) (r 2), [0x3F00_0000, 0x3FC0_0000, 0x4080_0000, 0xC0C0_0000]),
    (.vmul .all .rne false false (r 9) (r 1) (r 2), [0x3F00_0000, 0x3F80_0000, 0xC040_0000, 0x4220_0000]), (.vmin .all .rne false (r 9) (r 1) (r 2), [0x3F00_0000, 0x3F00_0000, 0xBF80_0000, 0x4080_0000]),
    (.vmax (.m 1 false) .rne false (r 9) (r 1) (r 2), [0x3F80_0000, 0, 0x4040_0000, 0]), (.vabs .all .rne false (r 9) (r 2), [0x3F00_0000, 0x3F00_0000, 0x3F80_0000, 0x4120_0000]),
    (.vneg .all .rne false (r 9) (r 1), [0xBF80_0000, 0xC000_0000, 0xC040_0000, 0xC080_0000]), (.vdiv .all .rne false (r 9) (r 1) (r 2), [0x4000_0000, 0x4080_0000, 0xC040_0000, 0x3ECC_CCCD]),
    (.vsqrt .all .rtz (r 9) (r 1), [0x3F80_0000, 0x3FB5_04F3, 0x3FDD_B3D7, 0x4000_0000]), (.vrcp .all .rne (r 9) (r 1), [0x3F80_0000, 0x3F00_0000, 0x3EAA_AAAB, 0x3E80_0000]),
    (.vrsqrt .all .rne (r 9) (r 1), [0x3F80_0000, 0x3F35_04F3, 0x3F13_CD3A, 0x3F00_0000]), (.vexp2 .all .rne (r 9) (r 1), [0x4000_0000, 0x4080_0000, 0x4100_0000, 0x4180_0000]),
    (.vfma .all .rne false false (r 9) (r 1) (r 2) (r 1), [0x3FC0_0000, 0x4040_0000, 0, 0x4230_0000]), (.vclip .all .rne false (r 9) (r 2) (r 1) (r 1), [0x3F80_0000, 0x4000_0000, 0x4040_0000, 0x4080_0000]),
    (.vsel .all .rne false (r 9) (r 1) (r 2) (r 1), [0x3F80_0000, 0x3F00_0000, 0x4040_0000, 0x4120_0000])] : List (Instr × List Nat)).all
    (fun p => nine p.1 == some p.2) = true := by decide +kernel

theorem test_vlog2 : (nine (.vlog2 .all .rne (r 9) (r 1)) |>.map fun l => (l.getD 0 0, l.getD 1 0, l.getD 3 0)) = some (0, 0x3F80_0000, 0x4000_0000) := by decide +kernel

/-- Saturation, wrapping and widening of I32 sums. -/
theorem test_saturate : (let s := with0 fun st => st.setV 9 (vreg 3#6 [0x7FFF_FFFF, 0x8000_0000])
    nine (.vadd .all .rne true false (r 9) (r 9) (r 9)) s == some [0x7FFF_FFFF, 0x8000_0000, 0, 0] && nine (.vadd .all .rne false false (r 9) (r 9) (r 9)) s == some [0xFFFF_FFFE, 0, 0, 0] &&
    nine (.vadd .all .rne false true (r 9) (r 9) (r 9)) s == some [0xFFFF_FFFE, 0xFFFF_FFFF_0000_0000, 0, 0]) = true := by decide +kernel

theorem test_vcmp : (runs (exec (.vcmp .all 2#3 (r 3) (r 2) (r 1)) base) fun t => t.me.getM 3 == 0b0111#1024) = true := by decide +kernel

theorem test_wit_elementwise : (let i : Instr := .vadd (.m 1 false) .rne false true (r 9) (r 1) (r 2)
    wit i [rdV .a (r 1), rdV .b (r 2), wrV (r 9)] base (fun c => [0, 1].all (fun k => okAnd (palette base k (c.v_ .a).fmt (c.v_ .b).fmt)) &&
      okAnd (vecChecks c [c.v_ .a, c.v_ .b] 0x0C#6) && c.actives.all (fun j => !(c.v_ .a).psn j) && base.me.tstart == 0#64) (.m 1 false) &&
    wit (.vfma .all .rne false false (r 9) (r 1) (r 2) (r 1)) [rdV .a (r 1), rdV .b (r 2), rdV .c (r 1), wrV (r 9)] base) = true := by decide +kernel

theorem test_logic : ([
    (.vand .all (r 9) (r 3) (r 4), [1, 2, 1, 0]), (.vor .all (r 9) (r 3) (r 4), [3, 2, 3, 0xFFFF_FFFF]), (.vxor .all (r 9) (r 3) (r 4), [2, 0, 2, 0xFFFF_FFFF]),
    (.vnot .all (r 9) (r 3), [0xFFFF_FFFE, 0xFFFF_FFFD, 0xFFFF_FFFC, 0]), (.vshl .all (r 9) (r 3) (.imm 33#6), [2, 4, 6, 0xFFFF_FFFE]),
    (.vshr .all (r 9) (r 3) (.reg (r 4)), [0, 0, 1, 0xFFFF_FFFF]), (.vsra .all (r 9) (r 3) (.imm 31#6), [0, 0, 0, 0xFFFF_FFFF])] : List (Instr × List Nat)).all
    (fun p => nine p.1 == some p.2) = true := by decide +kernel

theorem test_wit_logic : (wit (.vshr .all (r 9) (r 3) (.reg (r 4))) [rdV .a (r 3), rdV .b (r 4), wrV (r 9)] base (fun c =>
    isWInt (c.v_ .a).fmt && (c.v_ .a).fmt == (c.v_ .b).fmt && okAnd (vecChecks c [c.v_ .a, c.v_ .b] (c.v_ .a).fmt)) &&
    wit (.vnot .all (r 9) (r 5)) [rdV .a (r 5), wrV (r 9)] base (fun c => (c.v_ .a).fmt == 0#6 && okAnd (vecChecks c [c.v_ .a] 0#6))) = true := by decide +kernel

/-- VDOT4 on four pairs of ones and twos, from zero; a group of four that lacks v23 traps in the last step with three done. -/
def dotState (present : Word) : State := with0 fun st =>
  let one := vreg 0x0B#6 [0x3F80_0000, 0x3F80_0000, 0x3F80_0000, 0x3F80_0000]
  { (((List.range 4).foldl (fun st k => (st.setV (20 + k) one).setV (24 + k) (vreg 0x0B#6 [0x4000_0000])) st).setV 9 (vreg 0x0B#6 [])) with
    vpresent := present, mt := { st.mt with vec := 8#64 } }

theorem test_vdot4 : (nine (.vdot4 .all .rne false (r 9) (r 20) (r 24)) (dotState 0xFFFF_FFFF_FFFF#64) == some [0x4100_0000, 0, 0, 0] &&
    runs (exec (.vdot4 .all .rne false (r 9) (r 20) (r 24)) (dotState 0xFFFF_FF7F_FFFF#64)) (fun t => (t.me.getV 9).code 0 == 0x40C0_0000 &&
      t.me.mt.cause == w64 Cause.vabsent.code && bits t.me.mt.stat 32 2 == 3)) = true := by decide +kernel

theorem test_wit_vdot4 : (let us := [{ rdV .a (r 20) with grp := 4, isGrp := true, late := true }, { rdV .b (r 24) with grp := 4, isGrp := true, late := true }, { wrV (r 9) with late := true }]
    let ov := fun c => do overlapCheck c .d 1 .a 4; overlapCheck c .d 1 .b 4
    wit (.vdot4 .all .rne false (r 9) (r 20) (r 24)) us (dotState 0xFFFF_FFFF_FFFF#64) (fun c => okAnd (dotSteps c .rne false 4 0)) (ov := ov) &&
    wit (.vdot4 .all .rne false (r 9) (r 20) (r 24)) us (dotState 0xFFFF_FF7F_FFFF#64) (fun c => match dotSteps c .rne false 4 0 with | .error (.trapIn _ _) => true | _ => false) (ov := ov)) = true := by
  decide +kernel

/-- A result of I32 whose codes fit, as the statements about committed results and frames ask. -/
theorem test_wit_committed : isWide 0x03#6 = true ∧ (∀ v : Val, ((fun _ => (0, 0#7) : Val → Nat × Flags) v).1 < 2 ^ elemBits 0x03#6) := by
  exact ⟨by decide, fun _ => show 0 < 2 ^ elemBits 0x03#6 by decide⟩

theorem test_reductions : ([
    (.vrsum .all .rne false false (r 9) (r 1), [0x4120_0000, 0, 0, 0]), (.vrmax .all .rne false false (r 9) (r 2), [0x4120_0000, 0, 0, 0]), (.vrmin (.m 1 true) .rne false false (r 9) (r 1), [0x4000_0000, 0, 0, 0]),
    (.vscan .all .rne false false 0#2 (r 9) (r 3), [1, 3, 6, 5]), (.vscan .all .rne false true 1#2 (r 9) (r 4), [3, 3, 3, 3])] : List (Instr × List Nat)).all
    (fun p => nine p.1 == some p.2) = true := by decide +kernel

theorem test_permutations : ([
    (.vslup .all .rne (r 9) (r 3) (.imm 1#16), [0, 1, 2, 3]), (.vsldn .all .rne (r 9) (r 3) (.op (r 9)), [3, 0xFFFF_FFFF, 0, 0]), (.vshuf .all .rne (r 9) (r 3) (r 4), [0xFFFF_FFFF, 3, 2, 1]),
    (.vlook .all .rne (r 9) (r 4) (r 1), [0x4080_0000, 0x4040_0000, 0x4000_0000, 0x3F80_0000]), (.vcomp (.m 1 true) .rne (r 9) (r 3), [2, 0xFFFF_FFFF, 0, 0]), (.vexpd (.m 1 true) .rne (r 9) (r 3), [0, 1, 0, 2]),
    (.vzip .all .rne 0#2 (r 9) (r 3) (r 4), [1, 3, 2, 2]), (.vzip .all .rne 1#2 (r 9) (r 3) (r 4), [3, 1, 0xFFFF_FFFF, 0]), (.vzip .all .rne 3#2 (r 9) (r 3) (r 4), [2, 0xFFFF_FFFF, 2, 0]),
    (.vunpk .all (r 9) (r 5) 3#4 7#6, [2, 1, 4, 3]), (.vpack .all true (r 9) (r 4) 3#4, [0x23, 0x01, 0, 0])] : List (Instr × List Nat)).all (fun p => nine p.1 == some p.2) = true := by decide +kernel

/-- The two largest magnitudes of v2 = 0.5, 0.5, −1, 10, their positions, and v2 without them. -/
theorem test_vtopk : (runs (exec (.vtopk .all .rne (r 9) (r 2) (r 12) 2#11 0#3) base) fun t => codes t.me 9 3 == [0xBF80_0000, 0x4120_0000, 0] &&
    codes t.me 10 2 == [2, 3] && codes t.me 12 4 == [0x3F00_0000, 0x3F00_0000, 0, 0]) = true := by decide +kernel

theorem test_wit_permutations : (
    wit (.vslup .all .rne (r 9) (r 3) (.imm 1#16)) [rdV .a (r 3), wrV (r 9)] base (fun c => okAnd (capCheck c [3#6]) && okAnd (laneConflict c 3#6 c.td)) &&
    wit (.vtopk .all .rne (r 9) (r 2) (r 12) 2#11 0#3) [rdV .a (r 2), { rdV .c (r 12) with rd := false, wr := true }, { wrV (r 9) with grp := 2, isGrp := true }] base
      (fun c => c.tc == .reg 12 && (c.v_ .a).fmt != 0#6) (ov := fun c => do overlapCheck c .d 2 .a 1; overlapCheck c .d 2 .c 1)) = true := by decide +kernel

theorem test_masks : (runs (exec (.mlog 0b0110#4 (r 3) (r 1) (r 2)) base) (fun t => t.me.getM 3 == 0b0110#1024) && sAfter (.mpop (r 10) (r 1)) base 10 == some 2 &&
    sAfter (.mfirst (r 10) (r 2)) base 10 == some 0 && sAfter (.mfirst (r 10) (r 5)) base 10 == some 0xFFFF_FFFF_FFFF_FFFF && runs (exec (.mset (r 3) (.op (r 1))) base) (fun t => t.me.getM 3 == 31#1024) &&
    nine (.mtov .all .rne (r 9) (r 1) 0x0B#6) == some [0x3F80_0000, 0, 0x3F80_0000, 0] && runs (exec (.vtom .all (r 3) (r 4)) base) (fun t => t.me.getM 3 == 7#1024)) = true := by decide +kernel

theorem test_wit_topKeeps : ([(Val.fin false 1 1, 0), (Val.fin true 3 1, 2)].map fun x => x.2).Pairwise (· < ·) := by decide

/-! ### Vector memory, manifests and queues -/

/-- `base` with the F32 line of the tensor page at VA 0x1_0020_0000 holding 1, 2, 3, 4. -/
def tensor : State := { base with mem := [(0x120_0000, 0x4000_0000_3F80_0000), (0x120_0008, 0x4080_0000_4040_0000)].foldl putWord base.mem }

def floats : List Nat := [0x3F80_0000, 0x4000_0000, 0x4040_0000, 0x4080_0000]

theorem test_vectorLoads : (nine (.vld .all .rne (.mem .dev .plain) false (r 9) (r 5) (r 0) 0#16) tensor == some floats &&
    nine (.vlds .all .rne (.mem .core .plain) (r 9) (r 5) (r 6) 0#16) tensor == some [0x3F80_0000, 0x4040_0000, 0, 0] &&
    nine (.vldx .all .rne (.mem .core .plain) (r 9) (r 5) (r 9) 0#16) { tensor with strands := [(0, strand0.setV 9 (vreg 3#6 [3, 2, 1, 0]))] } == some floats.reverse &&
    nine (.vldf .all .rne (.mem .core .plain) (r 9) (r 5) (r 0) 0#16) tensor == some floats) = true := by decide +kernel

/-- VLDF whose second line lies beyond a poisoned one keeps the elements before it. -/
theorem test_vldf_trims : (let s := { tensor with tags := Tab.set tagReset tensor.tags 0x2_4000 0x8B#16, strands := [(0, { strand0 with vl := 8#64, vpad := 0#64 })] }
    runs (exec (.vldf .all .rne (.mem .core .plain) (r 9) (r 10) (r 0) 0#16) { s with strands := [(0, { (strand0.setS 10 0x1_001F_FFF0#64) with vl := 8#64, mt := { vec := 8#64 } })] })) = true := by decide +kernel

theorem test_wit_vectorLoads : (
    wit (.vld .all .rne (.mem .dev .plain) false (r 9) (r 5) (r 0) 0#16) [rdS .a (r 5), rdS .b (r 0), wrV (r 9)] tensor (fun c =>
      okAnd (loadPlan c (.mem .dev .plain) none false false true (.byte (c.s_ .a))) fun p => p.fail.isNone && p.c1.me.vlen == 4 && decide (4 ≤ cap p.r.f)) &&
    wit (.vldm .all .rne (.mem .dev .plain) (r 9) 2#4 (r 0) (r 0)) [rdS .b (r 0), rdS .c (r 0), wrV (r 9)] (with0 fun st => { st with h := [(2, { base := 0x1_0020_0000#64, fmt := 0x0B#8, rank := 1#8, dims := [4#32, 0#32, 0#32, 0#32], strides := [1#64, 0#64, 0#64, 0#64] })] })
      (fun c => okAnd (c.slotH 2#4) fun man => okAnd (loadPlan c (.mem .dev .plain) none false false true (c.manForm man 1)) fun p => p.fail.isNone)) = true := by decide +kernel

/-- What stands at the home once the stores of an instruction are performed. -/
def stored (o : Host.Outcome State Fault Refusal) (p : State → Bool := fun _ => true) : Bool :=
  runs o fun t => okAnd (t.drainCore 0) p

theorem test_vectorStores : (
    stored (exec (.vst .all .rne (.mem .dev .plain) (r 2) (r 5) (r 0) 0#16) tensor) (fun t => t.byteAt 0x120_0003 == 0x3F#8 && t.byteAt 0x120_000B == 0xBF#8 && t.tagAt 0x2_4000 == 0x0B#16) &&
    stored (exec (.vsts (.m 1 false) .rne (.mem .dev .plain) (r 1) (r 5) (r 6) 0#16) tensor) (fun t => t.byteAt 0x120_0003 == 0x3F#8 && t.byteAt 0x120_0012 == 0x40#8) &&
    runs (exec (.vst .all .rne (.sp .plain) (r 3) (r 0) (r 0) 0#16) tensor) (fun t => ((t.team 0).spLine 0).data % 2 ^ 64 == 0x2_0000_0001) &&
    stored (exec (.vstx (.m 2 false) .rne (.mem .dev .plain) (r 1) (r 5) (r 9) 0#16) { tensor with strands := [(0, strand0.setV 9 (vreg 3#6 [1, 0, 2, 3]))] }) (fun t => t.byteAt 0x120_0003 == 0x40#8)) = true := by decide +kernel

theorem test_wit_vectorStores : wit (.vst .all .rne (.mem .dev .plain) (r 2) (r 5) (r 0) 0#16) [rdS .a (r 5), rdS .b (r 0), srcV (r 2)] tensor (fun c =>
    okAnd (storePlan c (.mem .dev .plain) (.byte (c.s_ .a)) [c.v_ .d] 0)) = true := by decide +kernel

/-- A manifest of four by four F32 elements in the tensor page, and one for the copy streams. -/
def man : Manifest := { base := 0x1_0020_0000#64, fmt := 0x0B#8, rank := 2#8, dims := [4#32, 4#32, 0#32, 0#32], strides := [1#64, 4#64, 0#64, 0#64] }

def shaped : State := { tensor with strands := [(0, { (strand0.setS 10 0x2_0000_0000#64) with h := [(2, man)] })] }

theorem test_manifestForms : (nine (.vldm .all .rne (.mem .dev .plain) (r 9) 2#4 (r 0) (r 0)) shaped == some floats &&
    runs (exec (.vldg .all .rne (.mem .dev .plain) (r 9) 2#4 (r 0) (r 0) 2#4) shaped) (fun t => codes t.me 9 4 == floats && codes t.me 10 4 == [0, 0, 0, 0]) &&
    runs (exec (.vstm .all .rne (.mem .dev .plain) (r 1) 2#4 (r 0) (r 0)) shaped) && stored (exec (.vstg .all .rne (.mem .dev .plain) (r 1) 2#4 (r 0) (r 0) 2#4) shaped)
      (fun t => t.byteAt 0x120_0017 == 0x3F#8)) = true := by decide +kernel

/-- VAMO adds element by element; VSAVE and VRSTR carry a register through memory. -/
theorem test_vamo : (let s := { base with strands := [(0, strand0.setV 9 (vreg 4#6 [0, 1, 2, 3]))] }
    runs (exec (.vamo .all .add false (.mem .dev .plain) (r 10) (r 3) (r 9) (r 11) 0#11) { s with strands := [(0, (s.me.setV 11 (vreg 8#6 [1, 2, 3, 4])))] })
      (fun t => t.byteAt 0x101_0000 == 6#8 && t.byteAt 0x101_0008 == 2#8 && (t.me.getV 10).code 0 == 0x3F80_0000_0000_0005)) = true := by decide +kernel

theorem test_vsave_vrstr : (stored (exec (.vsave .dev .sc (r 3) (r 0) (r 1) 0#16) base) (fun t => t.byteAt 0x101_0007 == 0x40#8 && t.byteAt 0x101_0450 == 0x0B#8) &&
    runs (exec (.vsave .dev .plain (r 3) (r 0) (r 1) 0#16) base) (fun t => t.storeQ.length == 9 && t.byteAt 0x101_0007 == 0x3F#8) &&
    runs (exec (.vrstr .dev .plain (r 1) (r 3) (r 0) 0#16) (with0 fun st => st.setS 3 0x1_0001_0080#64)) fun u => codes u.me 1 4 == [0, 0, 0, 0]) = true := by decide +kernel

theorem test_wit_images : (wit (.vsave .dev .plain (r 3) (r 0) (r 1) 0#16) [rdS .a (r 3), rdS .b (r 0), { rdV .c (r 1) with whole := true }] base
      (fun c => okAnd (c.imagePlan true .dev .plain (c.s_ .a)) fun p => okAnd (imageReady (.mem .dev .plain) p.1 p.2)) &&
    wit (.vrstr .dev .plain (r 9) (r 3) (r 0) 0#16) [rdS .a (r 3), rdS .b (r 0), { wrV (r 9) with whole := true, late := true }] (with0 fun st => st.setS 3 0x1_0001_0080#64)
      (fun c => okAnd (c.imagePlan false .dev .plain (c.s_ .a)) fun p => okAnd (readLines p.2 p.1) fun q => decide (imageTag q.2 < 256) && !fmtReserved (VReg.ofImage q.2).fmt)) = true := by decide +kernel

theorem test_wit_imageRoundTrip : ((vreg 0x0B#6 floats).data.toNat < 2 ^ (32 * 256) ∧ (vreg 0x0B#6 floats).psn.toNat < 2 ^ 16 ∧ (vreg 0x0B#6 floats).zero3 = false) := by decide +kernel

/-- MNF reads a record; MNFGET and MNFSET its fields. -/
theorem test_manifests : (
    let s := { base with mem := (man.bytes.zip (List.range 64)).foldl (fun m p => putBytes m (0x101_0000 + p.2) [p.1]) base.mem }
    runs (exec (.mnf 3#4 (r 3) (r 0) 0#16) s) (fun t => t.me.getH 3 == some man) && sAfter (.mnfget (r 10) 2#4 9#4) shaped 10 == some 4 &&
    runs (exec (.mnfset true 2#4 (r 1) 5#4) shaped) (fun t => (t.me.getH 2).any fun m => m.dim 1 == 9) && (fieldFits 5 9 && (man.setField 5 9).check == none)) = true := by decide +kernel

/-- An unbound slot, a field that does not fit and a record that breaks a rule raise ILLEGAL with their sub-codes. -/
theorem test_manifest_faults : (let s := { shaped with strands := [(0, { shaped.me with mt := { vec := 8#64 } })] }
    runs (exec (.mnfget (r 10) 5#4 0#4) s) (fun t => t.me.mt.v1 == 0x10#64) && runs (exec (.mnfset false 2#4 (r 4) 4#4) s) (fun t => t.me.mt.v1 == 0x14#64) &&
    runs (exec (.mnfset false 2#4 (r 0) 4#4) s) (fun t => t.me.mt.v1 == 0x13#64) && runs (exec (.mnf 3#4 (r 3) (r 0) 0#16) s) (fun t => t.me.mt.cause == w64 Cause.illegal.code)) = true := by decide +kernel

theorem test_queues : (runs (exec (.qbind 3#3 (r 10)) (with0 fun st => st.setS 10 0x1_0001_0003#64)) (fun t => (Tab.find (t.team 0).queues 3).any fun q => q.depth == 4 && q.cons == 1#16) &&
    runs (exec (.qbind 1#3 (r 0)) base) (fun t => (Tab.find (t.team 0).queues 1).isNone) && runs (exec (.qclose 0#3) base) (fun t => (Tab.find (t.team 0).queues 0).any fun q => q.pclosed == 1#16) &&
    runs (exec (.qstat (r 10) 0#3) base) && sAfter (.qstat (r 10) 3#3) base 10 == some 0 && sAfter (.add (r 10) (.q 0) (.imm 1#16)) base 10 == some 10 &&
    qbindBad 0x1_0001_0003#64 base.myCar.wb.strands == false) = true := by decide +kernel

/-! ### Canvases and tiles -/

/-- `shaped` with canvas 0 of F32 and MR = 4, canvas 1 the same with a cell set. -/
def canvases : State :=
  let tm := shaped.team 0
  { shaped with teams := [(0, { tm with canv := [(0, { mr := 4 }), (1, { mr := 4, cells := [(257, 0x3F80_0000#64)] })] })] }

def cellAfter (i : Instr) (s : State) (n x y : Nat) : Option Nat := after i s fun t => ((Tab.get {} (t.team 0).canv n).cell x y).toNat

theorem test_canvas : (runs (exec (.czero 1#3 0x03#6 (.reg (r 1))) canvases) (fun t => (Tab.get {} (t.team 0).canv 1).mr == 5 && (Tab.get {} (t.team 0).canv 1).cell 1 1 == 0#64) &&
    nine (.crrow .all .rne false (r 9) 1#3 (.imm 1#8) 0x0B#6) canvases == some [0, 0x3F80_0000, 0, 0] && nine (.crcol .all .rne false false (r 9) 1#3 (.imm 1#8) 0x0C#6) canvases == some [0, 0x3FF0_0000_0000_0000, 0, 0] &&
    cellAfter (.cwrow .all .rne 0#3 (.reg (r 9)) (r 1)) canvases 0 2 3 == some 0x4080_0000 && cellAfter (.cwcol .all .rne true 0#3 (.imm 5#8) (r 1)) canvases 0 129 5 == some 0x4000_0000 &&
    runs (exec (.cadd .rne 0#3 1#3 1#3) canvases) && runs (exec (.cstat (r 10) 1#3 0#3) canvases)) = true := by decide +kernel

/-- One outer product of v1 and v2, and two of groups. -/
theorem test_outer : (cellAfter (.cop .all .rne 0#3 (r 1) (r 2)) canvases 0 3 2 == some 0xC080_0000 && cellAfter (.copk .all .rne 1#3 (r 1) (r 1) 2#4)
    { canvases with strands := [(0, shaped.me.setV 2 (vreg 0x0B#6 floats))] } 1 1 1 == some 0x4110_0000) = true := by decide +kernel

theorem test_wit_canvas : (wit (.cop .all .rne 0#3 (r 1) (r 2)) [rdV .a (r 1), rdV .b (r 2)] canvases (fun c => !canvases.copPair 0#3 && okAnd (c.canvas 0#3) (fun cv => okAnd (palette canvases 2 0x0B#6 0x0B#6)
      (fun p => p.1 == cv.cf) && decide (4 ≤ cv.nc)) && okAnd (laneMismatch [c.v_ .b])) &&
    wit (.cwrow .all .rne 0#3 (.reg (r 9)) (r 1)) (idxUse .a (.reg (r 9) : IdxSel 8) ++ [rdV .b (r 1)]) canvases (fun c => okAnd (c.canvas 0#3) && (c.s_ .a).toNat == 2) &&
    ([0, 1, 2, 3] : List Nat).Nodup) = true := by decide +kernel

/-- A canvas of F64 with more than 128 rows takes its first operand as a group of two (R191). -/
def paired : State := { canvases with teams := [(0, { canvases.team 0 with canv := [(0, { cf := 0x0C#6 })] })],
                                      strands := [(0, (shaped.me.setV 7 (vreg 0x0C#6 [0x4000_0000_0000_0000])))] }

theorem test_pair : (paired.copPair 0#3 && groupFits (r 6) 2 && wit (.cop .all .rne 0#3 (r 6) (r 6)) [{ rdV .a (r 6) with grp := 2, isGrp := true }, rdV .b (r 6)] paired) = true := by decide +kernel

/-- CLD and CST at once, and as tiles that wait for their capacity. -/
theorem test_tiles : (cellAfter (.cld .rne false (.mem .dev .plain) 0#3 2#4 (r 0) (r 0) 4#9) canvases 0 0 3 == some 0x4080_0000 &&
    stored (exec (.cst .rne false (.mem .dev .plain) 1#3 2#4 (r 0) (r 0) 4#9) canvases) (fun t => t.byteAt 0x120_0003 == 0#8 && t.byteAt 0x120_0017 == 0x3F#8) &&
    runs (exec (.cld .rne true (.mem .dev .plain) 0#3 2#4 (r 0) (r 0) 4#9) canvases) (fun t => t.tiles.length == 1 && t.me.run == .tile 0) &&
    runs (exec (.cst .rne true (.mem .dev .plain) 1#3 2#4 (r 0) (r 0) 4#9) canvases) (fun t => t.capFifo == [0])) = true := by decide +kernel

theorem test_wit_tiles : (wit (.cst .rne true (.mem .dev .plain) 1#3 2#4 (r 0) (r 0) 4#9) [rdS .b (r 0), rdS .c (r 0)] canvases (fun c => okAnd (c.canvas 1#3) fun cv => okAnd (c.slotH 2#4) fun m =>
      let tf := c.tileForm true cv m true (.mem .dev .plain) 4#9
      okAnd (planTile c tf (ensure (tf.cols ≤ cv.nc) .capacity (w64 tf.cols) (cv.cf.setWidth 64))) fun p => okAnd (storeTags cv p (p.lines.map (PlanLine.write cv tf.cols))) &&
        okAnd (p.s.readyTile true p.lines) && okAnd (p.s.storeLines (.mem .dev .plain) p.t (p.lines.map (PlanLine.write cv tf.cols)))) &&
    wit (.cld .rne true (.mem .dev .plain) 0#3 2#4 (r 0) (r 0) 4#9) [rdS .b (r 0), rdS .c (r 0)] canvases (fun c => okAnd (c.canvas 0#3) fun cv => okAnd (c.slotH 2#4) fun m =>
      let tf := c.tileForm false cv m true (.mem .dev .plain) 4#9
      okAnd (planTile c tf (ensure (tf.cols ≤ cv.nc) .capacity (w64 tf.cols) (cv.cf.setWidth 64))) fun p => p.f != 0#6 && p.mismatch.isNone && p.lines.all (fun l => okAnd (p.s.notHeld false l.loc)) &&
        okAnd (p.s.readyTile false p.lines) (fun s1 => p.lines.all fun l => (s1.lineOf l.loc).fmt == p.f) && okAnd (p.s.tileGather (.mem .dev .plain) p.lines) fun q =>
          p.lines.all fun l => (q.1.gathered q.2 l.loc).fmt == p.f)) = true := by decide +kernel

/-- A joint caravan of one member, whose canvas is bound at (0, 0). -/
def joint : State :=
  let car := canvases.car 0
  { canvases with caravans := [(0, { car with handle := 5#64, wb := { car.wb with jr := 1, jc := 1, gang := true } })] }

theorem test_cjoin : (runs (exec (.cjoin 1#3 (.bind (r 1) 0#2 0#2)) joint) fun t => (Tab.get {} (t.team 0).canv 1).jb == some (5#64, 0, 0) &&
    runs (exec (.cjoin 1#3 .unbind) t) (fun u => (Tab.get {} (u.team 0).canv 1).jb == none)) = true := by
  decide +kernel

/-- A tile that waits for capacity has no line of a home set in motion, its line lies at a home that answers, and no leaf's line that it
marks is held. -/
theorem test_wit_tileEvents : (runs (exec (.cst .rne true (.mem .dev .plain) 1#3 2#4 (r 0) (r 0) 4#9) canvases) fun s =>
    let t := Tab.get {} s.tiles 0
    !s.movingHome t && s.hasCapacity t && t.order.all (fun ln => (s.lineOffline false ln 0#64).isNone && !s.locked ln && s.lineLinked ln) && s.marksFree 0 t) = true := by
  decide +kernel

/-- The events of a tile of one line, from its capacity to its release. -/
theorem test_tileEvents : (runs (exec (.cst .rne true (.mem .dev .plain) 1#3 2#4 (r 0) (r 0) 4#9) canvases) fun s => runs (exec .evTileCapacityGrant s) fun t => runs (exec (.evTileLineReserve 0) t) fun u =>
    u.tiles.any (fun p => p.2.bound == 1 && p.2.order.length == 1) && runs (exec (.evTileCommit 0) u) fun v => v.byteAt 0x120_0017 == 0x3F#8 && runs (exec (.evTileRelease 0) v) fun w =>
      w.tiles.isEmpty && w.me.run == .active && w.me.pc == 0x1_0000_0008#64) = true := by decide +kernel

/-- Cells that all lie in one line. -/
theorem groupCells_line {V : Word} {L : List (Word × Nat × Nat × Nat)} (hn : L ≠ []) (hV : ∀ x ∈ L, x.1 = V) :
    ∃ cells, groupCells L = [(V, cells)] := by
  obtain ⟨x, L, rfl⟩ := List.exists_cons_of_ne_nil hn
  have hx : x.1 = V := hV x (by simp)
  have hL : ∀ y ∈ L, y.1 = V := fun y hy => hV y (by simp [hy])
  simp only [groupCells, List.foldl_cons]
  generalize hxs : [x.2] = xs
  clear hn hV hxs
  induction L generalizing xs with
  | nil => exact ⟨_, by simp [hx]; rfl⟩
  | cons y L ih =>
    have hy : y.1 = V := hL y (by simp)
    simp only [List.foldl_cons, hx, hy, beq_self_eq_true, if_true]
    have := ih (fun z hz => hL z (by simp [hz])) (y.2 :: xs)
    simpa only [hx] using this

/-- The lines of a tile whose elements all lie in one line. -/
theorem tileLines_line {s : State} {tf : TileForm} {page : Option Xlat} {t T : FmtCode} {width P : Nat} {V : Word} {l : Xlat} {sc : Scope}
    (hsp : tf.sp = false) (hat : tf.atom = some sc) (hpos : tf.rows * width ≠ 0)
    (hplace : ∀ a b, s.manPlace (s.who s.me) (if tf.store then .store else .load) tf.m page t a b tf.z2 tf.z3 = .ok (V, P, T))
    (hr : s.reachAny (s.who s.me) (if tf.store then .store else .load) V = .ok l)
    (hsc : s.tileScope (s.who s.me) (if tf.store then .store else .load) sc [V] = .ok ()) :
    ∃ cells, s.tileLines tf page none t width = .ok ([{ va := V, loc := .mem l, cells }], none) := by
  have hcs : ((List.range tf.rows).flatMap fun i => (List.range width).map fun j =>
      (i, j, s.manPlace (s.who s.me) (if tf.store then .store else .load) tf.m page t (tf.x0 + j) (tf.y0 + i) tf.z2 tf.z3)) =
      ((List.range tf.rows).flatMap fun i => (List.range width).map fun j => (i, j)).map fun p =>
        (p.1, p.2, (.ok (V, P, T) : Res (Word × Nat × FmtCode))) := by
    simp only [hplace, List.map_flatMap, List.map_map, Function.comp_def]
  have hne : ((List.range tf.rows).flatMap fun i => (List.range width).map fun j => (i, j)) ≠ [] := by
    have h : tf.rows ≠ 0 ∧ width ≠ 0 := by simpa using hpos
    simp only [ne_eq, List.flatMap_eq_nil_iff, List.map_eq_nil_iff, List.range_eq_nil]
    exact fun hh => h.2 (hh 0 (by simp; omega))
  generalize ((List.range tf.rows).flatMap fun i => (List.range width).map fun j => (i, j)) = ps at hcs hne
  obtain ⟨cells, hg⟩ := groupCells_line (V := V) (L := ps.map fun p => (V, P, p.1, p.2)) (by simpa using hne)
    (fun y hy => by obtain ⟨x, -, rfl⟩ := List.mem_map.mp hy; rfl)
  refine ⟨cells, ?_⟩
  unfold State.tileLines
  simp only [hcs, hsp, hat, Option.isSome_some, Bool.false_eq_true, if_false, if_true, List.filterMap_map, Function.comp_def, List.filterMap_eq_map', hg,
    List.map_cons, List.map_nil, hr, Except.map, hsc, errOf, Option.map_none, List.zip_cons_cons, List.zip_nil_right]
  simp [ensure, firstError, raiseLater, bind, Except.bind, pure, Except.pure]

/-- The plan of a tile store whose elements all lie in one line. -/
theorem planTile_line {c : Ctx} {tf : TileForm} {x l : Xlat} {V : Word} {P : Nat} {T f : FmtCode} {sc : Scope} (hst : tf.store = true)
    (hsp : tf.sp = false) (hat : tf.atom = some sc) (hany : tf.m.anyFmt = false) (hf : tf.m.fmtCode = f)
    (hx : c.s.xlat (c.s.who c.s.me) .store tf.m.base = .ok x) (hn : c.narrowSlot tf.m f = .ok ())
    (h0 : coordOk 0 tf.x0 tf.cols (tf.m.extent 0) = .ok ()) (h1 : coordOk 1 tf.y0 tf.rows (tf.m.extent 1) = .ok ())
    (h2 : coordOk 2 tf.z2 1 (tf.m.extent 2) = .ok ()) (h3 : coordOk 3 tf.z3 1 (tf.m.extent 3) = .ok ()) (hnar : tf.narrowOk f = true)
    (hpos : tf.rows * tf.width f ≠ 0)
    (hplace : ∀ a b, c.s.manPlace (c.s.who c.s.me) .store tf.m (some x) (pageFmt x f) a b tf.z2 tf.z3 = .ok (V, P, T))
    (hr : c.s.reachAny (c.s.who c.s.me) .store V = .ok l) (hsc : c.s.tileScope (c.s.who c.s.me) .store sc [V] = .ok ()) :
    ∃ cells, planTile c tf = .ok { s := c.s.used x.noDirty, f, t := pageFmt x f, page := some x, lines := [{ va := V, loc := .mem l, cells }] } := by
  obtain ⟨cells, hg⟩ := tileLines_line (s := c.s) (tf := tf) (page := some x) (t := pageFmt x f) (width := tf.width f) hsp hat hpos
    (by simpa [hst] using hplace) (by simpa [hst] using hr) (by simpa [hst] using hsc)
  refine ⟨cells, ?_⟩
  simp [planTile, Ctx.tileRef, hst, hsp, hany, hf, hx, hn, h0, h1, h2, h3, hnar, hg, ensure, bind, Except.bind, pure, Except.pure]

theorem okAnd_sound {α : Type} {x : Res α} {p : α → Bool} (h : okAnd x p = true) : ∃ a, x = .ok a ∧ p a = true := by
  cases x with
  | ok a => exact ⟨a, rfl, h⟩
  | error e => cases h

/-- A manifest of 256 × 256 elements of strides 0, and the member of a joint caravan whose canvas 1 is bound at (0, 0). -/
def flat : Manifest := { man with dims := [256#32, 256#32, 0#32, 0#32], strides := [0#64, 0#64, 0#64, 0#64] }

def flatJoint : State := { joint with teams := [(0, { joint.team 0 with canv := [(1, { mr := 4, jb := some (5#64, 0, 0) })] })], strands := [(0, { joint.me with h := [(3, flat)] })] }

/-- The line of every element of `flat`. -/
def flatVa : Word := (placeFrom 0x0B#6 flat.base 0).1

/-- The premises of the clause on CSTJ, whose tile has 65,536 elements. -/
theorem test_wit_cstj : ∃ c cv pl s1, Issues (.cstj .rne .dev .rel 1#3 3#4 (r 0) (r 0)) [rdS .b (r 0), rdS .c (r 0)] flatJoint c ∧
    c.canvas 1#3 = .ok cv ∧ cv.jb = some (5#64, 0, 0) ∧ c.slotH 3#4 = .ok flat ∧
    (let f0 := c.tileForm true cv flat true (.mem .dev .rel) 0#9
     let tf := { f0 with x0 := f0.x0 + cv.nc * 0, y0 := f0.y0 + 256 * 0, rows := 256, cols := cv.nc }
     planTile c tf = .ok pl ∧ storeTags cv pl (pl.lines.map (PlanLine.write cv tf.cols)) = .ok () ∧
       flatJoint.jointBusy flatJoint.me.team flatJoint.myCar = false ∧ pl.s.readyTile true pl.lines = .ok s1) := by
  obtain ⟨c, hc, hp⟩ := wit_sound (i := .cstj .rne .dev .rel 1#3 3#4 (r 0) (r 0)) (us := [rdS .b (r 0), rdS .c (r 0)]) (s := flatJoint)
    (p := fun c => okAnd (c.canvas 1#3) (fun cv => cv.jb == some (5#64, 0, 0) && cv.nc == 256) && okAnd (c.slotH 3#4) (· == flat) && c.s_ .b == 0#64
      && c.s_ .c == 0#64 && okAnd (c.narrowSlot flat 0x0B#6)) (mk := .all) (ov := fun _ => .ok ()) (by decide +kernel)
  simp only [Bool.and_eq_true, beq_iff_eq] at hp
  obtain ⟨⟨⟨⟨hcv, hm⟩, hb⟩, hz⟩, hn⟩ := hp
  obtain ⟨cv, hcv, hj⟩ := okAnd_sound hcv
  obtain ⟨m, hm, hmf⟩ := okAnd_sound hm
  obtain ⟨⟨⟩, hn, -⟩ := okAnd_sound hn
  simp only [Bool.and_eq_true, beq_iff_eq] at hj hmf
  subst hmf
  have hs : c.s = flatJoint := (ready_same hc).1
  obtain ⟨x, hx, hxp⟩ := okAnd_sound (x := flatJoint.xlat (flatJoint.who flatJoint.me) .store flat.base)
    (p := fun x => pageFmt x 0x0B#6 == 0x0B#6 && (policy x 0x0B#6).isSome && (let t := flatJoint.used x.noDirty
      okAnd (t.free true false flatVa 128) && okAnd (t.requests 1) && okAnd (t.drainCore (t.coreOf t.me)))) (by decide +kernel)
  simp only [Bool.and_eq_true, beq_iff_eq] at hxp
  obtain ⟨⟨hpf, hxpol⟩, ⟨hfree, hreq⟩, hdrain⟩ := hxp
  obtain ⟨⟨⟩, hreq, -⟩ := okAnd_sound hreq
  obtain ⟨⟨⟩, hfree, -⟩ := okAnd_sound hfree
  obtain ⟨s1, hd, -⟩ := okAnd_sound hdrain
  obtain ⟨l, hr, hl⟩ := okAnd_sound (x := flatJoint.reachAny (flatJoint.who flatJoint.me) .store flatVa)
    (p := fun l => okAnd (flatJoint.tileScope (flatJoint.who flatJoint.me) .store .dev [flatVa]) && (policy l 0x0B#6).isSome && pageFmt l 0x0B#6 == 0x0B#6) (by decide +kernel)
  simp only [Bool.and_eq_true, beq_iff_eq] at hl
  obtain ⟨⟨hsc, hpol⟩, hlf⟩ := hl
  obtain ⟨⟨⟩, hsc, -⟩ := okAnd_sound hsc
  obtain ⟨cells, hpl⟩ := planTile_line (c := c) (sc := .dev) (f := 0x0B#6) (x := x) (l := l) (V := flatVa) (P := (placeFrom 0x0B#6 flat.base 0).2) (T := 0x0B#6)
    (tf := { store := true, space := .mem .dev .rel, atom := some .dev, m := flat, sx0 := 0, x0 := 0, y0 := 0, z2 := 0, z3 := 0, rows := 256, cols := 256 })
    rfl rfl rfl (by decide) (by decide) (by rw [hs]; exact hx) hn rfl rfl rfl rfl (by decide) (by decide)
    (by
      intro a b
      have : flat.index a b 0 0 = 0 := by
        have h0 : flat.stride 0 = 0 := by decide
        have h1 : flat.stride 1 = 0 := by decide
        simp [Manifest.index, h0, h1]
      simp only [State.manPlace, this, hpf]
      rw [show flat.ten = false by decide]
      rfl)
    (by rw [hs]; exact hr) (by rw [hs]; exact hsc)
  refine ⟨c, cv, { s := c.s.used x.noDirty, f := 0x0B#6, t := pageFmt x 0x0B#6, page := some x, lines := [{ va := flatVa, loc := .mem l, cells }] }, s1, hc, hcv, hj.1, hm, ?_⟩
  have htf : ({ c.tileForm true cv flat true (.mem .dev .rel) 0#9 with
      x0 := (c.tileForm true cv flat true (.mem .dev .rel) 0#9).x0 + cv.nc * 0, y0 := (c.tileForm true cv flat true (.mem .dev .rel) 0#9).y0 + 256 * 0, rows := 256, cols := cv.nc } : TileForm) =
      { store := true, space := .mem .dev .rel, atom := some .dev, m := flat, sx0 := 0, x0 := 0, y0 := 0, z2 := 0, z3 := 0, rows := 256, cols := 256 } := by
    simp [Ctx.tileForm, hb, hz, hj.2]
  dsimp only
  rw [htf]
  refine ⟨hpl, ?_, by decide +kernel, ?_⟩
  · simp [storeTags, raiseLater, pageConflicts, forEach, PlanLine.write, LineW.page, Loc.xlat, hpol, hxpol, hlf, hpf, ensure, bind, Except.bind]
  · simp [State.readyTile, forEach, hs, hfree, hreq, hd, bind, Except.bind]

/-! ### Copy streams -/

/-- Four rows of four F32 elements go to the scratchpad; the events request a row, complete it and note one that fails. -/
theorem test_cpstart : (runs (exec (.cpstart 1#4 2#4 (r 0) (r 10) 4#16) { shaped with strands := [(0, shaped.me.setS 10 0x2_0000_0000#64)] }) fun s =>
    ((s.team 0).stream 1).state == .active && runs (exec (.evCopyRowRequest 0 1) s) fun t => ((t.team 0).stream 1).flight == [0] && runs (exec (.evCopyRowComplete 0 1 0) t) fun u =>
      ((u.team 0).stream 1).avail == 1 && ((u.team 0).spLine 0).data % 2 ^ 64 == 0x4000_0000_3F80_0000 && ((u.team 0).stream 1).state == .active) = true := by decide +kernel

theorem test_cpgather : (runs (exec (.cpgather .all 1#4 2#4 (r 4) (r 0) 4#16) shaped) fun s => ((s.team 0).stream 1).rows == [3, 2, 1, 0]) = true := by decide +kernel

theorem test_cpscatter : (runs (exec (.cpscatter .rne 1#4 2#4 (r 0) (r 10) 4#16) { shaped with strands := [(0, (shaped.me.setS 10 0x1_0000_0000#64))], teams := [(0, { shaped.team 0 with spTags := [(0, 0xCB#16)] })] }) fun s => ((s.team 0).stream 1).kind == .scatter) = true := by decide +kernel

theorem test_wit_cpstart : (wit (.cpstart 1#4 2#4 (r 0) (r 10) 4#16) [rdS .b (r 0), rdS .c (r 10)] shaped (fun c => bits (c.s_ .c) 21 11 == 0 && okAnd (c.startable 1#4) && okAnd (c.slotH 2#4) fun m =>
    okAnd (c.memFmt m) fun p => okAnd (c.cpNarrow m p.1) && okAnd (cpBound m p.1 0 4 (rowsBound m [0, 1])) &&
      okAnd (({ c with s := p.2 } : Ctx).startStream 1#4 2#4 .start m p.1 (c.cpRegion .start m p.1 (rowsBox 0 4 [0, 1])) .rne 0 4 0 [0, 1]))) = true := by decide +kernel

/-- A stream that is done, and one that stopped at its row 0. -/
def streams : State := { base with teams := [(0, { base.team 0 with streams := [(1, { state := .done, req := 2, avail := 2 }),
  (2, { state := .faulted, req := 2, rowlen := 128, fail := some (0, { cause := .access }) }), (3, { state := .active, req := 2, flight := [0], fmt := 0x0B#6, ncol := 4, rows := [7, 1], rowlen := 128, man := man })] })] }

theorem test_copyForms : (sAfter (.cpwait .dev none (r 10) 1#4) streams 10 == some 2 && sAfter (.cpwait .core (some (r 0)) (r 10) 3#4) streams 10 == some 0 && sAfter (.cpavail (r 10) 1#4 2#2) streams 10 == some 2 &&
    sAfter (.cpresume (r 10) 1#4 0#2) streams 10 == some 0xFFFF_FFFF_FFFF_FFFF && runs (exec (.cpresume (r 10) 2#4 1#2) streams) (fun t => t.me.getS 10 == 0#64 && ((t.team 0).stream 2).avail == 1) &&
    runs (exec (.cpcancel 3#4) streams) (fun t => ((t.team 0).stream 3).state == .idle)) = true := by decide +kernel

/-- Row 7 of a manifest of four rows lies in an unmapped page. -/
theorem test_copyRowFault : (let s := { streams with mem := putWord streams.mem (0x20_3008, 0) }
    (match s.streamOf 0 3 with | some x => (match s.rowWork 0 3 0 x with | .bad _ => true | _ => false) | none => false) && runs (exec (.evCopyRowFault 0 3 0) s) fun t => ((t.team 0).stream 3).state == .faulted) = true := by decide +kernel

/-! ### Strands -/

/-- A waybill of two teams of one strand at VA 0x1_0001_0080. -/
def waybill : State := { base with
  mem := [(0x101_0080, 0x1_0000_0000), (0x101_0090, 0x0001_0002), (0x101_0098, 1), (0x101_00A0, 1)].foldl putWord base.mem
  tags := Tab.set tagReset base.tags 0x2_0201 0#16, strands := [(0, strand0.setS 10 0x1_0001_0080#64)] }

theorem test_launch : (runs (exec (.launch (r 11) (r 10)) waybill) (fun t => t.me.getS 11 == 1#64 && (t.car 1).teams == [1, 2] && (t.car 1).service && (t.team 2).idx == 1) &&
    sAfter (.launch (r 11) (r 10)) { waybill with mem := putWord waybill.mem (0x101_00A0, 0) } 11 == some 0xFFFF_FFFF_FFFF_FFFE) = true := by decide +kernel

theorem test_wit_launch : (wit (.launch (r 11) (r 10)) [rdS .a (r 10), wrS (r 11)] waybill (fun c => okAnd (c.s.plainRead (c.s_ .a) 128) fun p =>
    okAnd (p.1.drainCore (p.1.coreOf waybill.me)) fun s2 => okAnd (launchResult s2 p.2 (Waybill.ofBytes p.2)) Option.isNone)) = true := by decide +kernel

/-- A machine whose strand belongs to VI 3, at supervisor privilege: the translation of `base` for it, with the entry page open to user
code, under a stage 2 that maps the first GiB to itself; and a waybill of one lane weight. -/
def tenant (q0 : Word) (cls : Nat) : State := { waybill with
  mem := [(0x20_4000, 0x79 + 0x100 * 2 ^ 29), (0x30_0000, 0x30_1301), (0x30_1000, 0x30_2301), (0x30_2000, 0x2CB), (0x101_0090, 0x0100_0000_0001_0001 + cls * 2 ^ 48)].foldl putWord waybill.mem
  tags := [0x6000, 0x6020, 0x6040].foldl (fun t ln => Tab.set tagReset t ln 0#16) waybill.tags
  vis := Tab.put waybill.vis 3 { waybill.vi 3 with en := true, q0, vtbase := 0x20_0000#64, s2base := 0x30_0000#64 }
  caravans := [(0, { waybill.car 0 with vi := 3 })], strands := [(0, { waybill.me with priv := .sup })] }

/-- The premises of the clauses that say what LAUNCH answers: no fault before them, the waybill's form, and its entry. -/
def launchable (s : State) (bad mapped : Bool) : Bool :=
  wit (.launch (r 11) (r 10)) [rdS .a (r 10), wrS (r 11)] s fun c => okAnd (c.s.plainRead (c.s_ .a) 128) fun q => okAnd (q.1.drainCore (q.1.coreOf q.1.me)) fun s2 =>
    let x := Waybill.ofBytes q.2
    waybillMalformed q.2 x (s2.me.priv == .mon) (s2.seenDies s2.myVi).length == bad &&
      (match s2.xlat { vi := s2.myVi, user := x.laneWeight != 0, core := s2.coreOf s2.me } .fetch x.entry with | .ok _ => mapped | .error (.trap _) => !mapped | _ => false)

/-- A monitor's LAUNCH; a malformed waybill; an entry that is not mapped; and a tenant's, within its quota, without one, and above its
class. -/
theorem test_wit_launchAnswers : (let res := fun s => sAfter (.launch (r 11) (r 10)) s 11
    launchable waybill false true && launchable (tenant 1#64 0) false true && res (tenant 1#64 0) == some 0 && launchable (tenant 0#64 0) false true && res (tenant 0#64 0) == some (2 ^ 64 - 1) &&
    res (tenant 1#64 1) == some (2 ^ 64 - 4) && launchable (tenant 1#64 1) false true &&
    (let s := { waybill with mem := putWord waybill.mem (0x101_00A0, 0) }
     launchable s true true) &&
    (let s := { waybill with mem := putWord waybill.mem (0x101_0080, 0x8000_0000) }
     launchable s false false && res s == some (2 ^ 64 - 3))) = true := by decide +kernel

/-- A team that waits is admitted, runs to its exit, is reclaimed, and its caravan completes. -/
theorem test_admission : (runs (exec (.launch (r 11) (r 10)) waybill) fun s => runs (exec .evTeamAdmission s) fun t => (t.team 1).core.isSome && t.admitTeam.isSome &&
    runs (exec .exit { t with cur := t.strands.length - 1 }) fun u => runs (exec (.evTeamReclaim 1) u) fun v => (v.team 1).reclaimed) = true := by decide +kernel

theorem test_completion : (let s := { base with teams := [(0, { base.team 0 with reclaimed := true })] }
    (s.completeCaravan 0).isSome && runs (exec (.evCaravanCompletion 0) s)) = true := by decide +kernel

/-- The premises on a head team that is placed: no gang, no image, its quota, and a core that has room for it. -/
theorem test_wit_admission : (runs (exec (.launch (r 11) (r 10)) waybill) fun s => match s.head with
    | some (_, tm) => !(s.car tm.caravan).wb.gang && tm.saved.isNone && s.quotaAllows tm [] [] && (s.placesFor (s.car tm.caravan)).contains 1 && !s.jointTaken tm 1 [] [] &&
        (s.fit (s.useOf 1 [] []) tm).isSome
    | none => false) = true := by decide +kernel

/-- A head team of class 1 for which its VI's quota has no room while a team of class 0 runs: that team is its victim. -/
theorem test_wit_victims : (let car := (tenant 1#64 1).car 0
    let s := { tenant 1#64 1 with vis := Tab.modify (tenant 1#64 1).vis 3 (fun v => { v with q2 := 0xF01_0100_0100#64 }), caravans := [(0, { car with wb := { car.wb with cls := 0 } })] }
    runs (exec (.launch (r 11) (r 10)) s) fun t => (t.head).any (fun h => (t.placeAll (t.batch h)).isNone) && t.victims == [0] && !t.agenda.contains (.event (.evPreemption 0)) &&
      runs (exec .evTeamAdmission t) fun u => u.agenda.contains (.event (.evPreemption 0))) = true := by decide +kernel

theorem test_wit_reclaim : (let s := { base with strands := [(0, { strand0 with run := .exited })], agenda := [] }
    (s.team 0).core.isSome && !(s.team 0).reclaimed && (s.team 0).strands == [0] && (s.heldEntries 0).isEmpty && (s.team 0).streams.isEmpty && runs (exec (.evTeamReclaim 0) s) fun t =>
      (t.team 0).reclaimed && (t.strand 0).run == .exited) = true := by decide +kernel

/-- DONEADDR counts the caravan (R96). -/
theorem test_wit_doneaddr : (let car := base.car 0
    let s := { base with teams := [(0, { base.team 0 with reclaimed := true })], caravans := [(0, { car with wb := { car.wb with doneaddr := 0x1_0001_0000#64, donescope := 1, laneWeight := 0 }, monPriv := true })] }
    okAnd (s.bumpDone (s.car 0)) && (s.car 0).teams.all (fun n => (s.team n).reclaimed) && runs (exec (.evCaravanCompletion 0) s) fun t => t.byteAt 0x101_0000 == 6#8 && t.caravans.isEmpty) = true := by
  decide +kernel

theorem test_strandForms : (runs (exec .yield base) (fun t => t.me.pc == 0x1_0000_0008#64) && runs (exec (.bar 2#2) base) (fun t => t.me.run == .active && t.me.pc == 0x1_0000_0008#64) &&
    runs (exec .exit base) (fun t => t.me.run == .exited) && sAfter (.snext (r 10)) base 10 == some 0xFFFF_FFFF_FFFF_FFFF && runs (exec (.wake .dev (r 3) (r 0) 0#16) base) &&
    sAfter (.snext (r 10)) { base with caravans := [(0, { base.car 0 with counter := 4#64, wb := { (base.car 0).wb with strip := 2#64, hi := 8#64 } })] } 10 == some 4) = true := by decide +kernel

/-- A barrier holds its strands until the last of the team has come. -/
theorem test_barrier : (let s := { base with strands := [(0, strand0), (1, { strand0 with idx := 1 })], teams := [(0, { base.team 0 with strands := [0, 1] })] }
    runs (exec (.bar 1#2) s) fun t => t.me.run == .parkBar 1 && runs (exec (.bar 1#2) { t with cur := 1 }) fun u => (u.strand 0).run == .active && (u.strand 0).pc == 0x1_0000_0008#64 && [0, 1].all fun k => (u.strand k).run == .active) = true := by
  decide +kernel

/-- WAITW completes where its condition holds, parks where it does not, and is tried again after a store. -/
theorem test_waitw : (runs (exec (.waitw 1#3 .dev (r 10) (r 3) (r 0) (r 1) 0#16) base) (fun t => t.me.getS 10 == 0x3F80_0000_0000_0005#64) &&
    runs (exec (.waitw 0#3 .dev (r 10) (r 3) (r 0) (r 1) 0#16) base) (fun t => (match t.me.run with | .parkWaitw _ n => n == 0x2_0200 | _ => false) &&
      runs (exec (.evWaitwReevaluate 0) { t with tlb := [], mem := putWord t.mem (0x101_0000, 5) }) fun u => u.me.run == .active && u.me.getS 10 == 5#64)) = true := by decide +kernel

/-! ### Contexts and system -/

/-- A context trapped at the monitor's level from supervisor privilege. -/
def trapped : State := with0 fun st => { st with mt := { stat := 5#64, pc := 0x40#64 }, vl := 9#64 }

theorem test_context : runs (exec (.ctxsave false false true true (r 10) (.at (r 3) (r 0)) 0#16) trapped) (fun t => t.me.getS 10 == 3712#64) = true := by decide +kernel

/-- A context of few registers. -/
def bare : State := { base with strands := [(0, { pc := 0x1_0000_0000#64, priv := .mon, s := [(3, 0x1_0001_0000#64)], mt := { stat := 5#64, pc := 0x40#64 }, vl := 9#64 })] }

theorem test_context_restored : (stored (exec (.ctxsave false false false false (r 10) (.at (r 3) (r 0)) 0#16) bare) fun t => t.me.getS 10 == 1152#64 &&
    runs (exec (.ctxrstr false (.at (r 3) (r 0)) 0#16) { t with tlb := [], strands := [(0, { t.me with vl := 1#64 })] }) fun u => u.me.vl == 9#64) = true := by decide +kernel

theorem test_wit_context : (wit (.ctxsave true true false false (r 10) (.at (r 3) (r 0)) 0#16) (baseUses (.at (r 3) (r 0)) ++ [wrS (r 10)]) trapped (fun c =>
    okAnd (c.trapped 0x1_0001_0000#64) && okAnd (c.s.linesFrom .store 0x1_0001_0000#64 0 9) fun ls => okAnd (noTensor 0x1_0001_0000#64 ls) && okAnd (c.s.requests 9) &&
      ls.all fun p => okAnd (c.s.notHeld true p.2) && okAnd (c.s.free true false p.1 128))) = true := by decide +kernel

theorem test_system : (runs (exec (.tlbinv 1#3 (r 3) (r 0)) { base with tlb := [{ vi := 0, va := 0x1_0001_0000, size := 0x1_0000, leaf1 := 0#64, leaf2 := none, lvl1 := 4, ia := 0, pa := 0 }] }) (fun t => t.tlb.isEmpty) &&
    runs (exec (.rcstart .rne (r 10) (r 5) (r 9) 0x0B#6) base) (fun t => t.me.getS 10 == 0#64 && (t.vi 0).rc.state == .running && (t.vi 0).rc.count == 2) &&
    sAfter (.rcstart .rne (r 10) (r 5) (r 0) 0x0B#6) base 10 == some 0xFFFF_FFFF_FFFF_FFFE && runs (exec (.rcstat (r 10) false) base) && runs (exec (.rcstat (r 10) true) base) &&
    runs (exec (.homemap (r 10) (r 1) (r 2)) base) && sAfter (.homemap (r 10) (r 1) (r 1)) base 10 == some 0 && runs (exec (.homemap (r 10) (r 0) (r 11)) (with0 fun st => st.setS 11 16#64)) (fun t => t.homeOf 0 == 16)) = true := by decide +kernel

/-- KDSET: a key, a frame in its domain, and the end of the key. -/
theorem test_kdset : (runs (exec (.kdsetNewkey (r 10) (r 0) (r 0) (r 11)) (with0 fun st => st.setS 11 0x407#64)) fun t => t.kds == [7] && t.me.getS 10 == 0#64 &&
    runs (exec (.kdsetAssign (r 10) (r 12) (r 13) (r 11)) (t.setMe (((t.me.setS 11 7#64).setS 12 0x101_0000#64).setS 13 1#64))) fun u => Tab.find u.frameKd 0x101 == some (some 7) && u.byteAt 0x101_0000 == 0#8 &&
      runs (exec (.kdsetRetire (r 10) (r 0) (r 0) (r 11)) (u.setMe (u.me.setS 11 0x807#64))) fun v => v.kds.isEmpty && Tab.find v.frameKd 0x101 == some none) = true := by decide +kernel

theorem test_idle : (sAfter (.idle (r 10) (r 2)) { base with mevt := 4#64 } 10 == some 4 && runs (exec (.idle (r 10) (r 2)) base) (fun t => t.me.run == .parkIdle (.idle (r 10) (r 2)) &&
    runs (exec (.evIdleWake 0) { t with mevt := 1#64 }) fun u => u.me.getS 10 == 1#64 && u.mevt == 0#64 && u.me.run == .active)) = true := by decide +kernel

/-! ### Exchange -/

/-- A channel record at VA 0x1_0001_0040 and its peer table at 0x1_0003_0000: this device and device 5. -/
def record : State := { base with
  mem := [(0x101_0040, 1), (0x101_0048, 2), (0x101_0050, 0x1_0003_0000), (0x101_0070, 1), (0x20_4018, 0xE7 + 0x103 * 2 ^ 29), (0x103_0010, 5)].foldl putWord base.mem
  tags := Tab.set tagReset base.tags 0x2_0600 0#16, routes := [(5, 1#16)], strands := [(0, strand0.setS 10 0x1_0001_0040#64)] }

theorem test_xopen : (runs (exec (.xopen (r 11) (r 10)) record) (fun t => t.me.getS 11 == 0#64 && (t.chan 0 0).any fun c => c.nrank == 2 && c.peers.length == 2) &&
    sAfter (.xopen (r 11) (r 10)) { record with mem := putWord record.mem (0x101_0040, 0) } 11 == some 0xFFFF_FFFF_FFFF_FFFE) = true := by decide +kernel

/-- Channel 0 of two ranks, of which this device is rank 0, with an operation that has ended. -/
def channel : State := { shaped with routes := [(5, 1#16)], linksUp := 1#16, vis := Tab.put shaped.vis 0 { shaped.vi 0 with chans := [(0, { group := 1#64, open_ := [0, 1], peers := [natLe 16 0, natLe 16 5], last := 1, ops := [{ seq := 1, kind := .send 1 0, complete := true, flags := 4#64 }] })] } }

theorem test_xsend : (runs (exec (.xsend (r 11) (r 0) 2#4 (r 12)) { channel with strands := [(0, shaped.me.setS 12 1#64)] }) fun t => t.me.getS 11 == 2#64 && (t.chan 0 0).any fun c => c.last == 2 && c.ops.length == 2 &&
    runs (exec (.evXsendLanding 0 0 2 0 1 0 [] .counted) t) fun u => (u.chan 0 0).any fun d => (d.op 2).any fun o => o.landed == [1] && runs (exec (.evExchangeOpComplete 0 0 2) u) fun v => (v.chan 0 0).any fun e => (e.op 2).any fun o => o.complete) = true := by decide +kernel

theorem test_xred : (runs (exec (.xred 1#2 .rne (r 11) (r 0) 2#4 2#4) channel) fun t => t.me.getS 11 == 2#64) = true := by decide +kernel

theorem test_xwait_xclose : (runs (exec (.xwait .sys (r 11) (r 0) (r 0)) channel) (fun t => t.me.pc == 0x1_0000_0008#64) && runs (exec (.xclose (r 0)) channel) (fun t => (t.chan 0 0).isNone && t.out == [.xclosed 0 0])) = true := by decide +kernel

theorem test_exchangeEvents : (let s := channel.setChan 0 0 { group := 1#64, open_ := [0], last := 1, ops := [{ seq := 1, kind := .send 1 0 }] }
    runs (exec (.evExchangePeerTimeout 0 0 1) s) (fun t => (t.chan 0 0).any fun c => (c.op 1).any fun o => o.failed.isSome) && runs (exec (.evExchangePeerOpen 0 0 1) s) (fun t => (t.chan 0 0).any fun c => c.open_ == [0, 1]) &&
    runs (exec (.evExchangePeerClose 0 0 1) channel) (fun t => (t.chan 0 0).any fun c => c.open_ == [0]) && runs (exec (.evEthernetTransportGaveUp 0 0 1) (channel.setChan 0 0 { group := 1#64, ether := true, portmask := 1 }))) = true := by decide +kernel

/-! ### Events of strands and memory -/

/-- A store that waits in its core's queue is performed at its home, and an atomic from outside is applied there. -/
def queued : State := { base with storeQ := [{ core := 0, sid := 0, vi := 0, track := 3, pa := 0x101_0008, va := 0x1_0001_0008#64, data := natLe 8 0x1122, eph := false, ten := false, cfmt := 0#6 }] }

theorem test_accessPerform : (runs (exec (.evAccessPerform 0 3) queued) fun t => t.byteAt 0x101_0008 == 0x22#8 && t.storeQ.isEmpty) = true := by decide +kernel

theorem test_atomicApply : (runs (exec (.evAtomicApply 0x101_0000 false .add 3#64 (.exp 0#11)) base) fun t => t.byteAt 0x101_0000 == 8#8 && t.out == [.atomic 5#64 false]) = true := by decide +kernel

/-- A plain load that later accesses have passed is performed at a later point of its line's order (R282, R423). -/
theorem test_lateLoad : (runs (exec (.ld 3#3 (.mem .core .plain) (r 10) (r 3) (r 0) 0#16) base) fun t => t.me.getS 10 == 0x3F80_0000_0000_0005#64 && t.me.late.length == 1 &&
    runs (exec (.evAccessPerform 0 (lineTrack 0x2_0200)) { t with tlb := [], mem := putWord t.mem (0x101_0000, 6) }) fun u => u.me.getS 10 == 6#64 && u.me.late.isEmpty) = true := by
  decide +kernel

theorem test_ats : (runs (exec (.evPriResponse ⟨3, 0x40⟩ true) { base with priPending := [atsName 3 0x40, atsName 0 0x40] }) (fun t => t.priPending == [atsName 0 0x40] && Tab.find t.ats (atsName 3 0x40) == some true) &&
    runs (exec (.evHostInvalidation ⟨3, 0x40⟩) { base with ats := [(atsName 3 0x40, true)] }) (fun t => t.ats.isEmpty && t.out == [.ack])) = true := by decide +kernel

theorem test_frameMove : (runs (exec (.evFrameMigration 0x101) base) fun t => t.moving == [0x101] && runs (exec (.evFrameSwitch 0x101) t) fun u => u.hbm == [0x101] && u.moving.isEmpty && u.byteAt 0x101_0000 == 5#8) = true := by decide +kernel

/-- A line whose deadline is past, and lines that a soft error poisons. -/
theorem test_lines : (let s := { base with eph := [(0x2_0200, 0)], tick := 9, vis := Tab.put base.vis 0 (base.vi 0) }
    s.isExpired 0x2_0200 && runs (exec (.evEphemeralExpiry 0x2_0200) s) (fun t => t.expired == [0x2_0200]) && runs (exec (.evSoftError none 0x2_0200 false) base) (fun t => tagCls (t.tagAt 0x2_0200) == 2) &&
      runs (exec (.evSoftError (some 0) 2 false) base) (fun t => ((t.team 0).spLine 2).cls == 2) && runs (exec (.evSoftError none 0x2_0200 true) base) fun t => tagCls (t.tagAt 0x2_0200) == 0) = true := by decide +kernel

/-- A tensor page of F32 whose job names F32 counts as done, at its start or once it is held; of another format, it is held. -/
def recoding (f : FmtCode) (busy : Bool) : State :=
  base.setVi 0 { base.vi 0 with rc := { state := .running, va := 0x1_0020_0000#64, count := 1, fmt := f, busy } }

theorem test_recode : (runs (exec (.evRecodePageStart 0) (recoding 0x0B#6 false)) (fun t => (t.vi 0).rc.pages == 1 && (t.vi 0).rc.state == .done) && ((recoding 0x0B#6 true).recodePage 0).isSome &&
    runs (exec (.evRecodePageReencode 0) (recoding 0x0B#6 true)) (fun t => (t.vi 0).rc.state == .done) && runs (exec (.evRecodePageStart 0) (recoding 0x07#6 false)) fun t => (t.vi 0).rc.busy && t.byteAt 0x20_300B == 5#8) = true := by decide +kernel

theorem test_asyncTrap : (let s := pending
    runs (exec (.evAsyncTrapDelivery 0) s) fun t => t.me.pend.isEmpty && t.me.mt.pc == s.me.pc && bits t.me.mt.stat 1 1 == 1) = true := by decide +kernel

theorem test_watchdog : (let car := base.car 0
    let s := { (base.setVi 0 { base.vi 0 with wdwin := 100#64 }) with caravans := [(0, { car with wb := { car.wb with persist := true } })], strands := [(0, { strand0 with wdwin := 100 })] }
    s.watchdogDue s.me && runs (exec (.evWatchdogExpiry 0) s) fun t => t.me.wdExpired && t.me.wdrem == 100 && t.me.pend.length == 1) = true := by decide +kernel

/-- A team of user strands on a die that DRAIN empties, whose VI has no save area: PREEMPT becomes pending. -/
theorem test_preemption : (let s := ({ base with teams := [(0, { base.team 0 with queues := [] })], strands := [(0, { strand0 with priv := .user })] }).setDie 0 { base.die 0 with cmd := some .drain, busy := true }
    (s.preemptChosen 0).isSome && runs (exec (.evPreemption 0) s) fun t => t.me.pend.length == 1) = true := by decide +kernel

/-! ### Ports -/

theorem test_hostRequests : (runs (exec (.evHostWrite 0 0x101_0008 [0x42#8] false false) base) (fun t => t.byteAt 0x101_0008 == 0x42#8) && runs (exec (.evTagWindowWrite 0 0x4_0400 0x020B#16) base) (fun t => t.tagAt 0x2_0200 == 0#16) &&
    runs (exec (.evTagWindowWrite 0 0x4_0400 0x000B#16) base) (fun t => t.tagAt 0x2_0200 == 0x000B#16) && runs (exec (.evHostRead 0 (.aperture 0x101_0000) 2) base) (fun t => t.out == [.data [5#8, 0#8] false]) &&
    runs (exec (.evHostAtomicop 0 0x101_0000 false .fetchAdd 2#64) base) (fun t => t.byteAt 0x101_0000 == 7#8 && t.out == [.atomic 5#64 false]) &&
    runs (exec (.evCxlMemRequest 0x101_0000 true [9#8] 1 7) base) (fun t => t.byteAt 0x101_0000 == 9#8 && t.out == [.cxl 7 none]) && runs (exec (.evHostRead 7 (.aperture 0) 4) base) fun t => t.out == [.unsupported]) = true := by decide +kernel

/-- A machine with a Weatre link. -/
def linked : State := { base with linksUp := 1#16 }

theorem test_weatreRequests : (runs (exec (.evWeatreInboundRequest 5 (.load 0x101_0000 1)) linked) (fun t => t.out == [.weatre 5 [5#8] 0#16]) &&
    runs (exec (.evWeatreInboundRequest 5 (.store 0x101_0000 [6#8] none)) linked) (fun t => t.byteAt 0x101_0000 == 6#8) && runs (exec (.evWeatreInboundRequest 5 (.wake 0x101_0000)) linked) &&
    runs (exec (.evWeatreInboundRequest 5 (.wake 0x101_0000)) base) fun t => t.deferred.length == 1) = true := by decide +kernel

theorem test_links : (runs (exec (.evFlitRetry 3) base) (fun t => t.out == [.resend 3]) && runs (exec (.evLinkLayerRetry 1) base) (fun t => t.out == [.portResend 1]) && runs (exec (.evLinkFailure 1) { base with linksUp := 6#16 }) (fun t => t.linksUp == 4#16 && t.mevt == 0x20#64) &&
    runs (exec (.evDeviceUnreachable 5) channel) (fun t => t.unreachable.isEmpty) && runs (exec (.evDeviceUnreachable 6) channel) (fun t => t.unreachable == [6]) && runs (exec (.evLinkStateChange 17 true) base) (fun t => (Tab.get {} t.ports 1).up) &&
    runs (exec (.evLongHaulAck 1 64) { base with ports := [(1, { unacked := 100 })] }) (fun t => (Tab.get {} t.ports 1).unacked == 36) && runs (exec (.evConfigurationRequest 0) State.reset) fun t => t.out == [.retryStatus]) = true := by decide +kernel

/-- Two ranks' sums of four F32 elements, and a landing at this endpoint that its strand no longer takes. -/
theorem test_xredReduce : (let o : Xop := { seq := 1, kind := .red 1, src := man, dst := man, fmt := 0x0B#6, g := 0x0B#6, elems := 16, bytes := 64, sid := 0, user := false }
    let s := channel.setChan 0 0 { group := 1#64, open_ := [0, 1], peers := [natLe 16 0, natLe 16 5], last := 1, ops := [o] }
    let part : PeerPart := { rank := 1, mode := 1, fmt := 0x0B#6, g := 0x0B#6, elems := 16, els := List.replicate 16 { code := 0x4000_0000 }, failed := none }
    (s.chan 0 0).any (fun c => c.redReady o [part]) && runs (exec (.evXredReduce 0 0 1 [part]) s) fun t => (t.chan 0 0).any fun c => (c.op 1).any fun p => p.reduced || p.failed.isSome) = true := by decide +kernel

/-! ### Management and boot -/

theorem test_registers : (runs (exec (.evQuotaRecordWrite 3 0x28 1#64) base) (fun t => (t.vi 3).en && runs (exec (.evViReset 3) t) fun u => (u.vi 3).flrBusy && runs (exec (.evViResetComplete 3) u) fun w => (w.vi 3).flrDone && w.mevt == 2#64) &&
    runs (exec (.evLhcfgWrite 1 0x0001_0000_0000_0000#64) base) && runs (exec (.evCounterSnapshot 3) base) && runs (exec (.evCounterClear 3) base) && runs (exec (.evEvqheadWrite 3 1#64) base) (fun t => (t.vi 3).evqHead == 1) &&
    runs (exec (.evEvqstatWrite 3 0#64) base) && runs (exec .evMailboxDoorbell base) (fun t => t.mevt == 1#64) && runs (exec (.evMmioRegisterWrite ⟨0, 0x5_0000⟩ 4#64) { base with mevt := 6#64 }) fun t => t.mevt == 2#64) = true := by decide +kernel

/-- Die 3 from drain to readmission. -/
theorem test_dieControl : (runs (exec (.evDctlAdmit 3 0#64) base) fun a => runs (exec (.evDctlDrain 3) a) fun b => runs (exec (.evDctlCommandDone 3 true 0) b) fun c => (c.die 3).state == .drained &&
    runs (exec (.evDctlWb 3) c) fun d => runs (exec (.evDctlCommandDone 3 true 0) d) fun e => runs (exec (.evDctlMig 3) e) fun f => runs (exec (.evDctlCommandDone 3 true 0) f) fun g => (g.die 3).migrated &&
    runs (exec (.evDctlQuiesce 3) g) fun h => runs (exec (.evDctlCommandDone 3 true 0) h) fun i => runs (exec (.evDctlRst 3) i) fun j => runs (exec (.evDctlCommandDone 3 true 0) j) fun k => runs (exec (.evDctlRetrain 3) k) fun l =>
    runs (exec (.evDctlCommandDone 3 true 7) l) fun m => (m.die 3).state == .ready && (m.die 3).repair == 7 && runs (exec (.evDctlAdmit 3 1#64) m) fun n => (n.die 3).state == .online && (n.die 3).admits) = true := by decide +kernel

theorem test_power : (runs (exec (.evOperatingPointChange 5 0) base) (fun t => Tab.get 7 t.points 5 == 0) && runs (exec (.evPcapEstimate { vis := [(3, 50)] }) (base.setVi 3 { base.vi 3 with q4 := 40#64 })) (fun t => (t.vi 3).withheld == (10, 50)) &&
    runs (exec .evThermalTrip base) (fun t => t.thermal && Tab.get 7 t.points 255 == 0 && t.mevt == 0x40#64 && runs (exec .evThermalReset t) fun u => u.boot.stage == 0) && runs (exec .evDeviceReset base) fun t => t.boot.stage == 0 && t.strands.isEmpty) = true := by decide +kernel

/-- Bytes at an offset of an image. -/
def bytesAt (off : Nat) (bs : List Byte) : List (Nat × Byte) := bs.zipIdx.map fun p => (off + p.2, p.1)

/-- A boot image: version 2; device 5, all dies, OPMAX 7, 2,000 W and a monitor's entry in its configuration block; and an object of one
section, 64 bytes of text whose first word is EXIT, with its entry at 0. -/
def bootFile (mentry : Nat) : BootFile :=
  { len := 384 + 7412
    bytes := bytesAt 0 (natLe 8 0x1_3457_434B) ++ bytesAt 8 [2#8] ++ bytesAt 16 [128#8] ++ bytesAt 24 [192#8] ++ bytesAt 32 [192#8] ++ bytesAt 40 (natLe 2 384) ++
      bytesAt 128 (natLe 8 (5 + 15 * 2 ^ 16 + 7 * 2 ^ 24 + 2000 * 2 ^ 32)) ++ bytesAt 136 (natLe 8 mentry) ++ bytesAt 192 (natLe 8 (0x5852_4F44 + 2 ^ 32 + 2 ^ 48)) ++
      bytesAt 216 [64#8] ++ bytesAt 257 [16#8] ++ bytesAt 264 [64#8] ++ bytesAt 272 [128#8] ++ bytesAt 327 [0xD1#8] }

/-- The stages of the boot up to stage 7, for an image. -/
def booted (f : BootFile) (p : State → Bool) : Bool :=
  runs (execEvBootPuf true State.reset) fun a => runs (execEvBootDhcp true a) fun b => runs (execEvBootFetch true f b) fun c =>
    runs (execEvBootVerify { rootHashes := true, mldsa := true, ecdsa := true, minSvn := 1 } c) fun d => runs (execEvBootBist 15#4 15#4 d) fun e =>
      e.boot.standsAt 6 && runs (execEvBootDice e) fun f => f.boot.standsAt 7 && p f

theorem test_boot : (booted (bootFile 0) fun s => s.boot.cdi == some s.boot.image && s.boot.imgSvn == 2 &&
    (let img := s.boot.image.object
     configOk s.boot.config img && s.boot.image.objectOk && s.imageFits img && img.sections == [{ kind := 0, align := 16, size := 64, bytes := [(7, 0xD1#8)] }])) = true := by decide +kernel

/-- An image whose configuration block names another entry fails with FAIL 3, and the boot tries again. -/
theorem test_boot_retry : (booted (bootFile 8) fun s => runs (exec (.evMonitorStart { aliasPriv := [], aliasPub := [], cert := [] }) s) fun g =>
    g.boot.waiting && g.boot.fail == 3 && runs (exec .evBootRetry g) fun h => h.boot.standsAt 2) = true := by decide +kernel

/-! ### Premises of the events -/

/-- A strand that waits in a CSTJ for the other members, and one that waits for tile capacity, take a pending cause. -/
theorem test_wit_asyncWaits : (
    (let s := { pending with strands := [(0, { pending.me with run := .joint .yield })] }
     (s.firstPend s.me).isSome && (s.team 0).core == some 0 && runs (exec (.evAsyncTrapDelivery 0) s) fun t => t.me.pend.isEmpty && t.me.run == .active) &&
    (let s := { pending with strands := [(0, { pending.me with run := .tile 7 })], tiles := [(7, { parts := [{ sid := 0, i := .yield }] })], capFifo := [7] }
     (s.firstPend s.me).isSome && !(Tab.get {} s.tiles 7).begun && runs (exec (.evAsyncTrapDelivery 0) s) fun t => t.me.pend.isEmpty && t.tiles.isEmpty)) = true := by decide +kernel

/-- A parked WAITW, `strand0`'s, that waits for a value of its word. -/
def parkedWaitw (cond : BitVec 3) : State :=
  { base with strands := [(0, { strand0 with run := .parkWaitw (.waitw cond .dev (r 10) (r 3) (r 0) (r 1) 0#16) 0x2_0200 })] }

theorem test_wit_waitw : ([(1#3, true), (0#3, false)].all fun q =>
    let s := parkedWaitw q.1
    let u := ({ s with cur := 0 } : State).setStrand 0 { s.strand 0 with run := .active }
    wit (.waitw q.1 .dev (r 10) (r 3) (r 0) (r 1) 0#16) [rdS .a (r 3), rdS .b (r 0), rdS .c (r 1), wrS (r 10)] u fun c =>
      (c.s_ .a + c.s_ .b).toNat % 8 == 0 && okAnd (u.locate false .load (c.s_ .a + c.s_ .b) 8) fun l =>
        okAnd (u.loadAt (.mem .dev .acq) (c.s_ .a + c.s_ .b) 8 l) fun p => waitHolds q.1 (w64 p.2) (c.s_ .c) == q.2) = true := by decide +kernel

/-- A parked IDLE whose events are, or are not, there. -/
theorem test_wit_idle : ([2#64, 0#64].all fun m =>
    let s := { base with mevt := m, strands := [(0, { strand0 with run := .parkIdle (.idle (r 10) (r 2)) })] }
    let u := ({ s with cur := 0 } : State).setStrand 0 { s.strand 0 with run := .active }
    wit (.idle (r 10) (r 2)) [rdS .a (r 2), wrS (r 10)] u fun c => decide ((c.s_ .a).toNat < 128) && (s.mevt &&& c.s_ .a == 0#64) == (m == 0#64) &&
      runs (exec (.evIdleWake 0) s) fun t => (t.me.run == .active) == (m != 0#64)) = true := by decide +kernel

/-- A line that a tile of another device has reserved. -/
def reserved : State := { base with tiles := [(9, { store := true, order := [0x2_0200], granted := true, bound := 1, ext := some 5 })] }

/-- An atomic from outside: deferred while a tile holds the line, refused on a poisoned line, conditional where it compares. -/
theorem test_wit_atomicApply : (base.region 0x101_0000 == .dev && !base.homeOffline (base.ephLine 0x2_0200) 0x101_0000 && !base.held true 0x2_0200 && (base.homeLine 0x2_0200).cls != 2 &&
    reserved.held true 0x2_0200 && (let i : Instr := .evAtomicApply 0x101_0000 false .add 3#64 (.exp 0#11)
      runs (exec i reserved) (fun t => t.deferred == [i]) && (let s := { base with tags := Tab.set tagReset base.tags 0x2_0200 (base.homeLine 0x2_0200).poison.tag }
        (s.homeLine 0x2_0200).cls == 2 && runs (exec i s) fun t => t.out == [.atomic 0#64 true])) &&
    runs (exec (.evAtomicApply 0x101_0000 false .add 9#64 (.cmp 5#64)) base) (fun t => t.byteAt 0x101_0000 == 9#8) &&
    runs (exec (.evAtomicApply 0x101_0000 false .add 9#64 (.cmp 6#64)) base) fun t => t.byteAt 0x101_0000 == 5#8 && t.out == [.atomic 5#64 false]) = true := by decide +kernel

/-- A job's page: of the target format, no tensor page, and one that is re-encoded. -/
theorem test_wit_recode : (
    (match (recoding 0x0B#6 false).tensorPage 0 0x1_0020_0000#64 0x0B#6 with | .error .same => true | _ => false) &&
    (let s := (recoding 0x07#6 false).setVi 0 { (recoding 0x07#6 false).vi 0 with rc := { ((recoding 0x07#6 false).vi 0).rc with va := 0x1_0001_0000#64 } }
     (match s.tensorPage 0 0x1_0001_0000#64 0x07#6 with | .error (.err n) => n == 1 | _ => false) && runs (exec (.evRecodePageStart 0) s) fun t => (t.vi 0).rc.state == .failed && (t.vi 0).rc.err == 1) &&
    (match (recoding 0x07#6 false).tensorPage 0 0x1_0020_0000#64 0x07#6 with | .ok p => !(recoding 0x07#6 false).held true (p.at' / 128) | _ => false) &&
    (let s := recoding 0x07#6 true
     match s.tensorPage 0 0x1_0020_0000#64 0x07#6 with
     | .ok p => !(s.leaveJoints fun w => w.lines.any fun l => p.hasFrame (l.ln / 512)).pageInUse p && (s.recodePage 0).isSome
     | _ => false)) = true := by decide +kernel

/-- A stream of one row of four F32 elements in flight. -/
def oneRow (f : FmtCode) : State := { shaped with teams := [(0, { shaped.team 0 with streams := [(3, { state := .active, req := 1, user := false, flight := [0], fmt := f, ncol := 4, rows := [1], rowlen := 128, man })] })] }

/-- The premises on a row: that it may be requested, that it goes through, and that its line has another format. -/
theorem test_wit_rows : (
    (let s := { shaped with teams := [(0, { shaped.team 0 with streams := [(3, { state := .active, req := 1, fmt := 0x0B#6, ncol := 4, rows := [1], rowlen := 128, man })] })] }
     s.hasRequests 0 (Machine.rowLines 128) && runs (exec (.evCopyRowRequest 0 3) s) fun t => ((t.team 0).stream 3).flight == [0]) &&
    [(0x0B#6, true), (0x03#6, false)].all fun q =>
      let s := oneRow q.1
      match s.streamOf 0 3 with
      | some x =>
        let v := s.rowCells (s.whoOf 0 x.user) .load x none x.fmt (x.rows.getD 0 0)
        v.ends.isEmpty && v.cells.all (fun c => !s.held false (c.x.pa / 128)) && v.cells.all (fun c => (srcBad x.fmt (s.lineAt c.x)).isNone == q.2) &&
          (if q.2 then runs (exec (.evCopyRowComplete 0 3 0) s) fun t => (t.team 0).stream 3 == x.arrive 0
           else runs (exec (.evCopyRowFault 0 3 0) s) fun t => ((t.team 0).stream 3).state == .faulted && ((t.team 0).stream 3).flight.isEmpty)
      | none => false) = true := by decide +kernel

/-- A send of four elements that rank 1 has yet to get. -/
def sending : State :=
  let o : Xop := { seq := 1, kind := .send 1 0, src := man, fmt := 0x0B#6, elems := 16, bytes := 64, user := false }
  channel.setChan 0 0 { group := 1#64, open_ := [0, 1], peers := [natLe 16 0, natLe 16 5], last := 1, ops := [o], rxbase := 0x1_0001_0000#64, rxlen := 256#64, arrive := 0x1_0001_0100#64 }

/-- The lines of a send leave. -/
theorem test_wit_sendLanding : (match sending.chan 0 0 with
    | some ch => match ch.op 1 with
      | some o => (ch.needs o).contains 1 && ch.open_.contains 1 && !ch.behind 1 1 && !sending.unreachable.contains (ch.device 1) && okAnd (sending.sourceCells 0 o) (fun
          | .inl cs => cs.all (fun y => !sending.held false y.ln) && (sending.badLine o.fmt cs).isNone && (let r := sending.sendParts ch o (128 * (sending.packSource o cs).length) [1]
              r.2.allSent (128 * (sending.packSource o cs).length) [1])
          | .inr _ => false) && runs (exec (.evXsendLanding 0 0 1 0 1 0 [] .counted) sending) fun t =>
            match t.out with | [.xlanding 0 0 1 1 ls true] => ls.length == 1 | _ => false
      | none => false
    | none => false) = true := by decide +kernel

/-- The lines of a peer's send land, and its word is incremented. -/
theorem test_wit_landHere : (let lines := [(natLe 128 7, 0#16)]
    (lines.all fun l => tagAllowed (l.2 &&& 0x00FF#16)) && okAnd (sending.landAll 0 [0x1_0001_0000#64]) (fun | .inl xs => xs.length == 1 | _ => false) &&
    okAnd (sending.landPlace 0 .atomic 0x1_0001_0108#64) (fun | .inl _ => true | _ => false) && runs (exec (.evXsendLanding 0 0 4 1 0 0 lines .counted) sending) fun t =>
      t.byteAt 0x101_0000 == 7#8 && t.byteAt 0x101_0108 == 1#8 && t.out == [.xanswer 0 0 1 4 none]) = true := by decide +kernel

/-- A sum over two ranks goes through. -/
theorem test_wit_reduce : (let o : Xop := { seq := 1, kind := .red 1, src := man, dst := man, fmt := 0x0B#6, g := 0x0B#6, elems := 16, bytes := 64, user := false }
    let s := channel.setChan 0 0 { group := 1#64, open_ := [0, 1], peers := [natLe 16 0, natLe 16 5], last := 1, ops := [o] }
    let part : PeerPart := { rank := 1, mode := 1, fmt := 0x0B#6, g := 0x0B#6, elems := 16, els := List.replicate 16 { code := 0x4000_0000 }, failed := none }
    match s.chan 0 0 with
    | some ch => ch.redReady o [part] && okAnd (s.redRegions 0 o) (fun
        | .inl (src, dst, t) => src.all (fun y => !s.held false y.ln) && dst.all (fun y => !s.held true y.ln) && (s.badLine o.fmt src).isNone && (partFailure ch o 1 [part] none).isNone &&
            (s.destConflict o.g t (destLines dst (reduceDense ch o 1 (allParts ch (s.xsource o 1 src) [part])).els)).isNone && (s.sendParts ch o o.wire ch.peersOf).2.allSent o.wire ch.peersOf
        | .inr _ => false) && runs (exec (.evXredReduce 0 0 1 [part]) s) fun t => (t.chan 0 0).any fun c => (c.op 1).any fun p => p.reduced && p.failed.isNone
    | none => false) = true := by decide +kernel

/-- What the host reaches in VI0's aperture, and where it waits. -/
theorem test_wit_host : (let s := base
    s.answers 0 && (match s.stage2 0 (need2 .store) 0x101_0000 with | .ok p => p.1 == 0x101_0000 && p.2.isNone | .error _ => false) && okAnd (s.checkPa 0 .store 0x101_0000#64 0x101_0000) && !s.recoding 0x101_0000 && !s.held true 0x2_0200 &&
    okAnd (s.leavesFree []) && okAnd (s.checkHome 0x101_0000#64 { pa := 0x101_0000, va := 0x101_0000 }) && okAnd (s.hostReach 0 0x101_0000 .store) && okAnd (s.hostReach 0 0x101_0000 .load) &&
    okAnd (s.hostReach 0 0x101_0000 .atomic) (fun x => s.region x.pa == .dev) && !s.answers 3 && !s.deferred.any fromHost &&
    runs (exec (.evHostWrite 3 0 [1#8] true false) s) (fun t => t.out == [.unsupported]) && runs (exec (.evHostRead 0 (.bar0 0) 8) s) (fun t => t.out.length == 1) &&
    runs (exec (.evCxlMemRequest 0x101_0000 false [] 1 7) s) fun t => t.out == [.cxl 7 (some ([5#8], false))]) = true := by decide +kernel

/-- A write that is held holds later writes and reads; a write with relaxed ordering passes it, and reads pass a relaxed one. -/
theorem test_wit_hostHeld : (let held := fun (relaxed : Bool) => ({ base with deferred := [.evHostWrite 0 0x102_0000 [1#8] relaxed false] } : State)
    (held false).deferred.any fromHost && (held false).deferred.any strictWrite && !(held true).deferred.any strictWrite &&
    runs (exec (.evHostWrite 0 0x101_0000 [9#8] false true) (held false)) (fun t => t.deferred.length == 2) && runs (exec (.evHostWrite 0 0x101_0000 [9#8] true false) (held false)) (fun t => t.byteAt 0x101_0000 == 9#8) &&
    runs (exec (.evHostRead 0 (.aperture 0x101_0000) 1) (held false)) (fun t => t.deferred.length == 2) && runs (exec (.evHostRead 0 (.aperture 0x101_0000) 1) (held true)) fun t => t.out == [.data [5#8] false]) = true := by decide +kernel

/-- Requests of another W4 to a home here. -/
theorem test_wit_weatre : (let base := linked
    decide (8 ≤ base.boot.stage) && base.linksUp != 0#16 && !base.lineShut true 0x2_0200 && base.region 0x101_0000 == .dev && !base.homeOffline (base.ephLine 0x2_0200) 0x101_0000 && base.frameLive 0x101_0000 && !base.recoding 0x101_0000 && !base.unbacked.contains 0x101 &&
    !base.waitsBehind 5 (.load 0x101_0000 1) && !base.waitsBehind 5 (.store 0x101_0000 [6#8] none) && !base.waitsBehind 5 (.atomic 0x101_0000 false .add 3#64 (.exp 0#11)) &&
    runs (exec (.evWeatreInboundRequest 5 (.atomic 0x101_0000 false .add 3#64 (.exp 0#11))) base) (fun t => t.byteAt 0x101_0000 == 8#8) &&
    runs (exec (.evWeatreInboundRequest 5 (.reserve true [0x2_0200])) base) fun t => t.tiles.length == 1) = true := by decide +kernel

/-- A reset of a VI with nothing in flight, a port that lost frames, and a die whose commands end. -/
theorem test_wit_management : (
    (let s := base.setVi 3 { base.vi 3 with flrBusy := true }
     s.tiles.isEmpty && okAnd (drainWhere (fun b => b.vi == 3) s.storeQ s) && runs (exec (.evViResetComplete 3) s) fun t => (t.vi 3).flrDone) &&
    runs (exec (.evLinkLayerRetry 1) { base with ports := [(1, { lost := [4] })] }) (fun t => t.out == [.endToEnd 1] && (Tab.get {} t.ports 1).lost.isEmpty) &&
    [.drain, .quiesce].all (fun c => let s := base.setDie 3 { base.die 3 with cmd := some c, busy := true }
      (if c == .drain then s.drained 3 else s.quiet 3) && runs (exec (.evDctlCommandDone 3 true 0) s) fun t => !(t.die 3).busy && t.mevt == 4#64) &&
    runs (exec (.evOperatingPointChange 300 3) base) (fun t => t != base)) = true := by decide +kernel

/-- A team chosen for pre-emption of which nothing is in flight and which has no save area. -/
theorem test_wit_preemption : (let s := ({ base with teams := [(0, { base.team 0 with queues := [] })], strands := [(0, { strand0 with priv := .user })] }).setDie 0 { base.die 0 with cmd := some .drain, busy := true }
    s.chosen 0 && s.partners 0 == [0] && (s.team 0).core == some 0 && !s.mustWait (s.strand 0) && okAnd (((([0].foldl State.stopLoad ([0].foldl State.leaveTile s)) : State)).drainCore 0) (fun s1 =>
      !(s1.finishRows 0).rowsInFlight 0 && bits ((s1.finishRows 0).vi 0).savebase 0 16 == 0 && ((s1.finishRows 0).team 0).saved.isNone)) = true := by decide +kernel

theorem test_stepReset : runs (step State.reset) (fun t => t.strands.isEmpty) = true := by decide +kernel

end Sys2Proof.Tests
end

section
/-! PROOFS. The rows of copy streams: their requests, how a row ends, and AVAIL (R333–R340). -/

namespace Sys2Proof.Machine

/-! ### The streams of a team -/

@[simp] theorem State.stream_setStream (s : State) (team k : Nat) (x : Stream) :
    ((s.setStream team k x).team team).stream k = x := by
  simp [State.setStream, Team.stream]

@[simp] theorem State.team_addPend (s : State) (sid team : Nat) (p : Pend) :
    (s.addPend sid p).team team = s.team team := rfl

/-! ### AVAIL: the rows complete from the first on -/

theorem prefixLen_le (rows : List Nat) (fuel r : Nat) : prefixLen rows fuel r ≤ r + fuel := by
  induction fuel generalizing r with
  | zero => exact le_rfl
  | succ fuel ih =>
    have := ih (r + 1)
    simp only [prefixLen]
    split <;> omega

theorem mem_of_lt_prefixLen {rows : List Nat} {fuel r q : Nat} (hr : r ≤ q) (hq : q < prefixLen rows fuel r) :
    q ∈ rows := by
  induction fuel generalizing r with
  | zero => exact absurd hq hr.not_gt
  | succ fuel ih =>
    by_cases h : r ∈ rows
    · obtain rfl | hlt := hr.eq_or_lt
      · exact h
      · exact ih hlt (by simpa [prefixLen, h] using hq)
    · exact absurd (by simpa [prefixLen, h] using hq) hr.not_gt

/-- A count that fuel does not cut off ends at a row that is not complete. -/
theorem prefixLen_not_mem {rows : List Nat} {fuel r : Nat} (h : prefixLen rows fuel r < r + fuel) :
    prefixLen rows fuel r ∉ rows := by
  induction fuel generalizing r with
  | zero => exact absurd h (lt_irrefl r)
  | succ fuel ih =>
    by_cases hr : r ∈ rows
    · simp only [prefixLen, List.contains_iff_mem, hr, if_true] at h ⊢
      exact ih (by omega)
    · simp [prefixLen, hr]

/-! ### A row arrives -/

theorem Stream.arrive_doneRows (x : Stream) (r : Nat) :
    (x.arrive r).doneRows = if r ∈ x.doneRows then x.doneRows else r :: x.doneRows := by
  simp only [Stream.arrive, List.contains_iff_mem, apply_ite Stream.doneRows, ite_self]

theorem Stream.mem_arrive_doneRows (x : Stream) (r : Nat) : r ∈ (x.arrive r).doneRows := by
  rw [Stream.arrive_doneRows]
  split
  · assumption
  · exact List.mem_cons_self

theorem Stream.arrive_avail (x : Stream) (r : Nat) :
    (x.arrive r).avail = prefixLen (x.arrive r).doneRows x.req 0 := by
  simp only [Stream.arrive, apply_ite Stream.avail, apply_ite Stream.doneRows, ite_self]

theorem Stream.arrive_avail_le (x : Stream) (r : Nat) : (x.arrive r).avail ≤ x.req := by
  simpa [Stream.arrive_avail] using prefixLen_le (x.arrive r).doneRows x.req 0

theorem Stream.mem_doneRows_of_lt_arrive_avail {x : Stream} {r q : Nat} (h : q < (x.arrive r).avail) :
    q ∈ (x.arrive r).doneRows :=
  mem_of_lt_prefixLen q.zero_le (x.arrive_avail r ▸ h)

theorem Stream.arrive_avail_not_mem {x : Stream} {r : Nat} (h : (x.arrive r).avail < x.req) :
    (x.arrive r).avail ∉ (x.arrive r).doneRows := by
  rw [Stream.arrive_avail] at h ⊢
  exact prefixLen_not_mem (by omega)

theorem Stream.arrive_state (x : Stream) (r : Nat) :
    (x.arrive r).state = if (x.arrive r).avail = x.req ∧ x.state = .active then .done else x.state := by
  simp only [Stream.arrive_avail, Stream.arrive_doneRows]
  simp only [Stream.arrive, List.contains_iff_mem, Bool.and_eq_true, decide_eq_true_eq, beq_iff_eq,
    apply_ite Stream.state]

theorem Stream.arrive_il (x : Stream) (r : Nat) :
    (x.arrive r).il = if (x.arrive r).avail = x.req ∧ x.state = .active then [] else x.il := by
  simp only [Stream.arrive_avail, Stream.arrive_doneRows]
  simp only [Stream.arrive, List.contains_iff_mem, Bool.and_eq_true, decide_eq_true_eq, beq_iff_eq,
    apply_ite Stream.il]

/-- An ACTIVE stream becomes DONE only where AVAIL counts all its rows, and then its interlocks are released. -/
theorem Stream.arrive_done {x : Stream} {r : Nat} (h : (x.arrive r).state = .done) (ha : x.state = .active) :
    (x.arrive r).avail = x.req ∧ (x.arrive r).il = [] := by
  have hall : (x.arrive r).avail = x.req := by
    by_contra hn
    simp [Stream.arrive_state, hn, ha] at h
  exact ⟨hall, by simp [Stream.arrive_il, hall, ha]⟩

/-! ### Requests -/

theorem Stream.nextRow_eq_some {x : Stream} {r : Nat} (ha : x.state = .active) (hr : r < x.req) (hd : r ∉ x.doneRows)
    (hf : r ∉ x.flight) (hlow : ∀ q, q < r → q ∈ x.doneRows ∨ q ∈ x.flight) : x.nextRow = some r := by
  simp only [Stream.nextRow, ha, beq_self_eq_true, if_true, List.find?_range_eq_some]
  exact ⟨by simp [hd, hf], List.mem_range.mpr hr, fun q hq => by simpa [or_iff_not_imp_left] using hlow q hq⟩

theorem State.exec_evCopyRowRequest (s : State) (team k : Nat) :
    exec (.evCopyRowRequest team k) s = .next ((s.requestRow team k).getD s) := rfl

theorem State.requestRow_eq_some {s : State} {team k r : Nat} {x : Stream} (hx : s.streamOf team k = some x)
    (hreq : s.hasRequests ((s.team team).core.getD 0) (rowLines x.rowlen) = true) (hr : x.nextRow = some r) :
    s.requestRow team k = some (s.setStream team k { x with flight := x.flight ++ [r] }) := by
  simp [State.requestRow, hx, hreq, hr]

/-! ### How a row ends -/

/-- The work on a row is complete. -/
def RowRes.isOk : RowRes → Bool
  | .ok _ => true
  | _ => false

/-- The work on a row met a failing element. -/
def RowRes.isBad : RowRes → Bool
  | .bad _ => true
  | _ => false

theorem RowRes.exists_of_isBad {e : RowRes} (h : e.isBad = true) : ∃ f, e = .bad f := by
  cases e with
  | bad f => exact ⟨f, rfl⟩
  | ok | wait => exact absurd h (by simp [RowRes.isBad])

@[simp] theorem RowRes.isOk_ok (s : State) : (RowRes.ok s).isOk = true := rfl

@[simp] theorem State.isOk_rowStop (s : State) (i : Nat) (va : Word) (e : Stop) : (s.rowStop i va e).isOk = false := by
  cases e <;> rfl

@[simp] theorem RowRes.isOk_atLine (f : Word → Word) (e : RowRes) : (e.atLine f).isOk = e.isOk := by
  cases e <;> rfl

/-- The end that counts is one of the row's ends. -/
theorem mem_of_lowestEnd {es : List (Nat × RowRes)} {e : RowRes} (h : lowestEnd es = some e) : ∃ i, (i, e) ∈ es := by
  obtain ⟨⟨i, e'⟩, hp, rfl⟩ := Option.map_eq_some_iff.mp h
  refine ⟨i, ?_⟩
  revert hp
  refine List.foldlRecOn es _ (motive := fun a => a = some (i, e') → (i, e') ∈ es) (by simp) fun a ih q hq => ?_
  have hnew : some q = some (i, e') → (i, e') ∈ es := fun h => Option.some.inj h ▸ hq
  split
  · exact hnew
  · split
    · exact hnew
    · exact ih

/-- A row with an end is ended. -/
theorem lowestEnd_isSome {p : Nat × RowRes} {es : List (Nat × RowRes)} (h : p ∈ es) : (lowestEnd es).isSome := by
  cases es with
  | nil => exact absurd h List.not_mem_nil
  | cons q es =>
    simp only [lowestEnd, List.foldl_cons, Option.isSome_map]
    refine List.foldlRecOn es _ (motive := fun a : Option (Nat × RowRes) => a.isSome = true) rfl fun a ha e _ => ?_
    split
    · rfl
    · split
      · rfl
      · exact ha

theorem mem_of_mem_rowLineList {cs : List RowCell} {c : RowCell} (h : c ∈ rowLineList cs) : c ∈ cs := by
  rw [rowLineList, List.mem_reverse] at h
  revert h
  refine List.foldlRecOn cs _ (motive := fun acc => c ∈ acc → c ∈ cs) (by simp) fun acc ih d hd => ?_
  split
  · exact ih
  · intro h; exact (List.mem_cons.mp h).elim (· ▸ hd) ih

/-- An element without a place waits or fails. -/
theorem State.rowCells_ends_isOk {s : State} {w : Who} {k : AccKind} {x : Stream} {base : Option Xlat} {t : FmtCode} {y : Nat}
    {p : Nat × RowRes} (h : p ∈ (s.rowCells w k x base t y).ends) : p.2.isOk = false := by
  simp only [State.rowCells, List.mem_reverse] at h
  revert h
  refine List.foldlRecOn (List.range x.ncol) _ (motive := fun v : RowView => p ∈ v.ends → p.2.isOk = false) (by simp)
    fun v ih i _ => ?_
  split
  · simp only [List.mem_cons]; rintro (rfl | h)
    · simp
    · exact ih h
  · split
    · exact ih
    · split
      · simp only [List.mem_cons]; rintro (rfl | h)
        · simp
        · exact ih h
      · exact ih

/-! ### A row that reads memory -/

/-- What ends a row at the lines that are poisoned or of another format (R336). -/
def State.badLines (s : State) (f : FmtCode) (ls : List RowCell) : List (Nat × RowRes) :=
  ls.filterMap fun c => (srcBad f (s.lineAt c.x)).map fun b => (c.i, .bad { i := c.i, va := c.va, sub := b })

theorem State.isBad_of_mem_badLines {s : State} {f : FmtCode} {ls : List RowCell} {p : Nat × RowRes}
    (h : p ∈ s.badLines f ls) : p.2.isBad = true := by
  obtain ⟨c, -, hc⟩ := List.mem_filterMap.mp h
  obtain ⟨b, -, rfl⟩ := Option.map_eq_some_iff.mp hc
  rfl

theorem State.badLines_eq_nil {s : State} {f : FmtCode} {ls : List RowCell}
    (h : ∀ c ∈ ls, srcBad f (s.lineAt c.x) = none) : s.badLines f ls = [] :=
  List.filterMap_eq_nil_iff.mpr fun c hc => by simp [h c hc]

theorem State.lowestEnd_badLines {s : State} {f : FmtCode} {ls : List RowCell} {c : RowCell} (hc : c ∈ ls)
    (h : srcBad f (s.lineAt c.x) ≠ none) : ∃ b, lowestEnd (s.badLines f ls) = some (.bad b) := by
  obtain ⟨k, hk⟩ := Option.ne_none_iff_exists'.mp h
  have hmem : (c.i, RowRes.bad { i := c.i, va := c.va, sub := k }) ∈ s.badLines f ls :=
    List.mem_filterMap.mpr ⟨c, hc, by simp [hk]⟩
  obtain ⟨e, he⟩ := Option.isSome_iff_exists.mp (lowestEnd_isSome hmem)
  obtain ⟨i, hi⟩ := mem_of_lowestEnd he
  obtain ⟨b, rfl⟩ := RowRes.exists_of_isBad (State.isBad_of_mem_badLines hi)
  exact ⟨b, he⟩

/-- The elements of row r of a stream that reads memory. -/
def State.rowSource (s : State) (team r : Nat) (x : Stream) (base : Option Xlat) : RowView :=
  s.rowCells (s.whoOf team x.user) .load x base x.fmt (x.rows.getD r 0)

/-- Every element of row r has a place, none of its lines is held, and the core's queued stores to them are performed, in s0. -/
structure State.RowReached (s : State) (team r : Nat) (x : Stream) (base : Option Xlat) (s0 : State) : Prop where
  page : (if x.man.ten then (s.xlat (s.whoOf team x.user) .load x.man.base).map some else .ok none) = .ok base
  placed : (s.rowSource team r x base).ends = []
  free : ∀ c ∈ (s.rowSource team r x base).cells, s.held false (c.x.pa / 128) = false
  drained : (s.drainTracks (s.whoOf team x.user).core fun b =>
    (rowLineList (s.rowSource team r x base).cells).any fun c => b.pa / 128 == c.x.pa / 128) = .ok s0

/-- A reached row ends only at the lines that `srcBad` refuses, and is complete where there is none. -/
theorem State.RowReached.rowIn_eq {s s0 : State} {team r : Nat} {x : Stream} {base : Option Xlat}
    (h : s.RowReached team r x base s0) (k : Nat) :
    let bad := s0.badLines x.fmt (rowLineList (s.rowSource team r x base).cells)
    (∀ e, lowestEnd bad = some e → s.rowIn team k r x = e) ∧
    (lowestEnd bad = none → ∃ t, s.rowIn team k r x = .ok t) := by
  intro bad
  obtain ⟨hpage, hplaced, hfree, hdrained⟩ := h
  have hends : ((rowLineList (s.rowSource team r x base).cells).filterMap fun c =>
      if (false || s.held false (c.x.pa / 128)) = true then some (c.i, RowRes.wait s)
      else (srcBad x.fmt (s0.lineAt c.x)).map fun b => (c.i, RowRes.bad { i := c.i, va := c.va, sub := b })) = bad :=
    List.filterMap_congr fun c hc => by simp [hfree c (mem_of_mem_rowLineList hc)]
  unfold State.rowSource at hplaced hdrained hends
  simp only [State.rowIn, hpage, hplaced, hdrained, List.nil_append, hends]
  cases h : lowestEnd bad with
  | some e => simp
  | none => simp

theorem State.RowReached.rowIn_ok {s s0 : State} {team r : Nat} {x : Stream} {base : Option Xlat}
    (h : s.RowReached team r x base s0) (k : Nat)
    (hgood : ∀ c ∈ (s.rowSource team r x base).cells, srcBad x.fmt (s0.lineAt c.x) = none) :
    ∃ t, s.rowIn team k r x = .ok t :=
  (h.rowIn_eq k).2 <| by
    rw [State.badLines_eq_nil fun c hc => hgood c (mem_of_mem_rowLineList hc)]
    rfl

theorem State.RowReached.rowIn_bad {s s0 : State} {team r : Nat} {x : Stream} {base : Option Xlat}
    (h : s.RowReached team r x base s0) (k : Nat) {c : RowCell} (hc : c ∈ rowLineList (s.rowSource team r x base).cells)
    (hbad : srcBad x.fmt (s0.lineAt c.x) ≠ none) : ∃ f, s.rowIn team k r x = .bad f := by
  obtain ⟨f, hf⟩ := State.lowestEnd_badLines hc hbad
  exact ⟨f, (h.rowIn_eq k).1 _ hf⟩

/-- A row that reads memory and is complete has arrived at its stream: no end of a row is a completion. -/
theorem State.stream_of_rowIn_ok {s t : State} {team k r : Nat} {x : Stream} (h : s.rowIn team k r x = .ok t) :
    (t.team team).stream k = x.arrive r := by
  simp only [State.rowIn] at h
  split at h
  · next e _ => exact absurd (congrArg RowRes.isOk h) (by simp)
  · next base _ =>
    split at h
    · next e he =>
      subst h
      obtain ⟨i, hi⟩ := mem_of_lowestEnd he
      obtain hplace | hline := List.mem_append.mp hi
      · exact absurd (State.rowCells_ends_isOk hplace) (by simp)
      · obtain ⟨c, -, hc⟩ := List.mem_filterMap.mp hline
        split_ifs at hc <;> simp at hc
    · obtain rfl := RowRes.ok.inj h
      exact State.stream_setStream ..

theorem State.rowWork_eq_rowIn {x : Stream} (hk : x.kind ≠ .scatter) (s : State) (team k r : Nat) :
    s.rowWork team k r x = s.rowIn team k r x := by
  simp [State.rowWork, hk]

/-! ### Rows complete and rows fail -/

theorem State.exec_evCopyRowComplete (s : State) (team k r : Nat) :
    exec (.evCopyRowComplete team k r) s = .next ((s.completeRow team k r).getD s) := rfl

theorem State.exec_evCopyRowFault (s : State) (team k r : Nat) :
    exec (.evCopyRowFault team k r) s = .next ((s.failRow team k r).getD s) := rfl

section
variable {s : State} {team k r : Nat} {x : Stream} (hx : s.streamOf team k = some x) (hr : r ∈ x.flight)
include hx hr

theorem State.exec_evCopyRowComplete_of_ok {t : State} (h : s.rowWork team k r x = .ok t) :
    exec (.evCopyRowComplete team k r) s = .next t := by
  have hc : s.completeRow team k r = some t := by simp [State.completeRow, hx, hr, h]
  rw [State.exec_evCopyRowComplete, hc, Option.getD]

theorem State.exec_evCopyRowComplete_of_bad {f : RowFail} (h : s.rowWork team k r x = .bad f) :
    exec (.evCopyRowComplete team k r) s = .next s := by
  have hc : s.completeRow team k r = none := by simp [State.completeRow, hx, hr, h]
  rw [State.exec_evCopyRowComplete, hc, Option.getD]

/-- Whether or not the failure is recorded, the row leaves flight and the stream is FAULTED (R339). -/
theorem State.failRow_of_bad {f : RowFail} (h : s.rowWork team k r x = .bad f) :
    ∃ t, s.failRow team k r = some t ∧ ((t.team team).stream k).state = .faulted ∧
      ((t.team team).stream k).flight = x.flight.erase r := by
  have hin : x.flight.contains r = true := List.contains_iff_mem.mpr hr
  simp only [State.failRow, hx, hin, h, Bool.not_true, Bool.false_eq_true, if_false]
  split_ifs
  all_goals exact ⟨_, rfl, by simp, by simp⟩

theorem State.exec_evCopyRowFault_of_bad {f : RowFail} (h : s.rowWork team k r x = .bad f) :
    ∃ t y, exec (.evCopyRowFault team k r) s = .next t ∧ (t.team team).stream k = y ∧ y.state = .faulted ∧
      y.flight = x.flight.erase r := by
  obtain ⟨t, ht, hstate, hflight⟩ := State.failRow_of_bad hx hr h
  exact ⟨t, _, by rw [State.exec_evCopyRowFault, ht, Option.getD], rfl, hstate, hflight⟩

end

/-- Settles O49: `nextRow` is the lowest row not requested, a reached row ends only at its bad lines, no end of a row is a
completion, and AVAIL is what `prefixLen` measures. -/
theorem copyRowEvents : Obligations.CopyRowEvents := by
  refine ⟨?request, fun s team k r x s1 hx hr => State.exec_evCopyRowComplete_of_ok hx hr,
    fun s team k r x f hx hr h =>
      ⟨State.exec_evCopyRowComplete_of_bad hx hr h, State.exec_evCopyRowFault_of_bad hx hr h⟩,
    ?reached, ?arrive, ?stream⟩
  case request =>
    intro s team k x r hx hactive hreq hdone hflight hlow hroom
    have hnext := Stream.nextRow_eq_some hactive hreq hdone hflight hlow
    rw [State.exec_evCopyRowRequest, State.requestRow_eq_some hx hroom hnext, Option.getD]
  case reached =>
    intro s team k r x base hx hr hk w hpage v hplaced hfree s0 hdrained
    have hreached : s.RowReached team r x base s0 := ⟨hpage, hplaced, hfree, hdrained⟩
    refine ⟨fun hgood => ?_, fun ⟨c, hc, hbad⟩ => ?_⟩
    · obtain ⟨t, ht⟩ := hreached.rowIn_ok k hgood
      have hwork := (State.rowWork_eq_rowIn hk s team k r).trans ht
      exact ⟨t, State.exec_evCopyRowComplete_of_ok hx hr hwork, State.stream_of_rowIn_ok ht⟩
    · obtain ⟨f, hf⟩ := hreached.rowIn_bad k hc hbad
      exact State.exec_evCopyRowFault_of_bad hx hr ((State.rowWork_eq_rowIn hk s team k r).trans hf)
  case arrive =>
    exact fun x r _ => ⟨x.mem_arrive_doneRows r, x.arrive_avail_le r, fun _ => Stream.mem_doneRows_of_lt_arrive_avail,
      Stream.arrive_avail_not_mem, Stream.arrive_done⟩
  case stream =>
    exact fun s team k r x s1 _ hwork hk => State.stream_of_rowIn_ok ((State.rowWork_eq_rowIn hk s team k r).symm.trans hwork)

end Sys2Proof.Machine
end

section
/-! PROOFS. Instruction words: the decoder gives back what was encoded, and encodes what it gives (R22–R33). -/

namespace Sys2Proof
open Machine

/-! ### Words and fields -/

@[simp] theorem RWord.unpack_pack (r : RWord) : RWord.unpack r.pack = r := by
  obtain ⟨op, msk, minv, d, a, b, c, fn, imm⟩ := r
  simp only [RWord.unpack, RWord.pack, RWord.mk.injEq]
  refine ⟨?_, ?_, ?_, ?_, ?_, ?_, ?_, ?_, imm_lo ..⟩
  all_goals
    simp only [BitVec.extractLsb'_append_eq_of_le, Nat.reduceLeDiff, Nat.reduceSub, imm_lo, part_all]

@[simp] theorem RWord.pack_unpack (w : Word) : (RWord.unpack w).pack = w := by
  simp only [RWord.unpack, RWord.pack]
  simp only [join_parts w 52 4 8, join_parts w 51 1 12, join_parts w 44 7 13, join_parts w 37 7 20, join_parts w 30 7 27,
    join_parts w 23 7 34, join_parts w 16 7 41, join_parts w 0 16 48, part_all]

theorem exact_eq_some {r : RWord} {i : Instr} :
    exact r = some i ↔ build r = some i ∧ i.wf = true ∧ encodeR i = r := by
  unfold exact
  cases build r with
  | none => simp
  | some j =>
    by_cases hj : j.wf = true ∧ encodeR j = r
    · simp only [hj, beq_self_eq_true, Bool.and_self, if_true, Option.some.injEq]
      exact ⟨fun h => ⟨h, h ▸ hj⟩, And.left⟩
    · have hf : (j.wf && encodeR j == r) = false := by simpa using hj
      simp only [hf, Bool.false_eq_true, if_false, reduceCtorEq, Option.some.injEq, false_iff]
      exact fun h => hj (h.1 ▸ h.2)

theorem decode_eq_ok {w : Word} {i : Instr} : decode w = .ok i ↔ exact (RWord.unpack w) = some i := by
  unfold decode
  cases exact (RWord.unpack w) <;> simp

theorem decode_eq_error {w : Word} (h : build (RWord.unpack w) = none) : decode w = .error (subcode (RWord.unpack w)) := by
  simp only [decode, exact, h]

/-! ### The encoder's fields build the instruction -/

/-- The lemmas of the family Words, instruction by instruction. -/
theorem build_encodeR : ∀ i : Instr, i.wf = true → i.hasWord = true → build (encodeR i) = some i
  | .add .. => Laws.Words.add _ _ _ | .sub .. => Laws.Words.sub _ _ _ | .mul .. => Laws.Words.mul _ _ _
  | .mulh .. => Laws.Words.mulh _ _ _ | .mulhu .. => Laws.Words.mulhu _ _ _ | .div .. => Laws.Words.div _ _ _
  | .divu .. => Laws.Words.divu _ _ _ | .rem .. => Laws.Words.rem _ _ _ | .remu .. => Laws.Words.remu _ _ _
  | .and .. => Laws.Words.and _ _ _ | .or .. => Laws.Words.or _ _ _ | .xor .. => Laws.Words.xor _ _ _
  | .shl .. => Laws.Words.shl _ _ _ | .shr .. => Laws.Words.shr _ _ _ | .sra .. => Laws.Words.sra _ _ _
  | .slt .. => Laws.Words.slt _ _ _ | .sltu .. => Laws.Words.sltu _ _ _ | .min .. => Laws.Words.min _ _ _
  | .max .. => Laws.Words.max _ _ _ | .minu .. => Laws.Words.minu _ _ _ | .maxu .. => Laws.Words.maxu _ _ _
  | .clz .. => Laws.Words.clz _ _ | .ctz .. => Laws.Words.ctz _ _ | .popc .. => Laws.Words.popc _ _
  | .bfx .. => Laws.Words.bfx _ _ _ _ _ | .bfi .. => Laws.Words.bfi _ _ _ _ _ | .sel .. => Laws.Words.sel _ _ _ _
  | .li .. => Laws.Words.li _ _ | .lih .. => Laws.Words.lih _ _ _ | .jmp .. => Laws.Words.jmp _
  | .jal .. => Laws.Words.jal _ _ | .jr .. => Laws.Words.jr _ _ _ | .beq .. => Laws.Words.beq _ _ _
  | .bne .. => Laws.Words.bne _ _ _ | .blt .. => Laws.Words.blt _ _ _ | .bge .. => Laws.Words.bge _ _ _
  | .bltu .. => Laws.Words.bltu _ _ _ | .bgeu .. => Laws.Words.bgeu _ _ _ | .fadd .. => Laws.Words.fadd _ _ _ _ _
  | .fsub .. => Laws.Words.fsub _ _ _ _ _ | .fmul .. => Laws.Words.fmul _ _ _ _ _
  | .fdiv .. => Laws.Words.fdiv _ _ _ _ _ | .fsqrt .. => Laws.Words.fsqrt _ _ _ _
  | .fma .. => Laws.Words.fma _ _ _ _ _ _ | .fmin .. => Laws.Words.fmin _ _ _ _ | .fmax .. => Laws.Words.fmax _ _ _ _
  | .fcmp .. => Laws.Words.fcmp _ _ _ _ _ | .fcvt .. => Laws.Words.fcvt _ _ _ _ _
  | .fclass .. => Laws.Words.fclass _ _ _ | .ld .. => Laws.Words.ld _ _ _ _ _ _ | .st .. => Laws.Words.st _ _ _ _ _ _
  | .stPatch .. => Laws.Words.stPatch _ _ _ _ _ _ | .amo .. => Laws.Words.amo _ _ _ _ _ _ _
  | .cas .. => Laws.Words.cas _ _ _ _ _ _ | .fence .. => Laws.Words.fence _ _ | .lsync => Laws.Words.lsync
  | .flush .. => Laws.Words.flush _ _ _ _ | .inval .. => Laws.Words.inval _ _ _ _ | .ixset .. => Laws.Words.ixset _ _
  | .ixget .. => Laws.Words.ixget _ _ | .ixadv .. => Laws.Words.ixadv _ _ | .ixoff .. => Laws.Words.ixoff _ _
  | .crd .. => Laws.Words.crd _ _ | .cwr .. => Laws.Words.cwr _ _ | .crsw .. => Laws.Words.crsw _ _ _
  | .vsetl .. => Laws.Words.vsetl _ _ _ | .vgetcap .. => Laws.Words.vgetcap _ _ | .palsel .. => Laws.Words.palsel _
  | .palrd .. => Laws.Words.palrd _ _ | .palwr .. => Laws.Words.palwr _ _ | .getid .. => Laws.Words.getid _ _
  | .heartbeat .. => Laws.Words.heartbeat _ | .vtag .. => Laws.Words.vtag _ _ _ | .vgtag .. => Laws.Words.vgtag _ _ _
  | .vcvt .. => Laws.Words.vcvt _ _ _ _ _ | .vresc .. => Laws.Words.vresc _ _ _ _ _
  | .vvalid .. => Laws.Words.vvalid _ _ _ | .vsave .. => Laws.Words.vsave _ _ _ _ _ _
  | .vrstr .. => Laws.Words.vrstr _ _ _ _ _ _ | .vmov .. => Laws.Words.vmov _ _ _ _ _
  | .vsplat .. => Laws.Words.vsplat _ _ _ _ _ _ | .viota .. => Laws.Words.viota _ _ _ _ _
  | .vext .. => Laws.Words.vext _ _ _ _ | .vins .. => Laws.Words.vins _ _ _ _
  | .vadd .. => Laws.Words.vadd _ _ _ _ _ _ _ | .vsub .. => Laws.Words.vsub _ _ _ _ _ _ _
  | .vmul .. => Laws.Words.vmul _ _ _ _ _ _ _ | .vfma .. => Laws.Words.vfma _ _ _ _ _ _ _ _
  | .vmin .. => Laws.Words.vmin _ _ _ _ _ _ | .vmax .. => Laws.Words.vmax _ _ _ _ _ _
  | .vabs .. => Laws.Words.vabs _ _ _ _ _ | .vneg .. => Laws.Words.vneg _ _ _ _ _
  | .vdiv .. => Laws.Words.vdiv _ _ _ _ _ _ | .vsqrt .. => Laws.Words.vsqrt _ _ _ _
  | .vrsqrt .. => Laws.Words.vrsqrt _ _ _ _ | .vrcp .. => Laws.Words.vrcp _ _ _ _
  | .vexp2 .. => Laws.Words.vexp2 _ _ _ _ | .vlog2 .. => Laws.Words.vlog2 _ _ _ _
  | .vclip .. => Laws.Words.vclip _ _ _ _ _ _ _ | .vcmp .. => Laws.Words.vcmp _ _ _ _ _
  | .vsel .. => Laws.Words.vsel _ _ _ _ _ _ _ | .vand .. => Laws.Words.vand _ _ _ _ | .vor .. => Laws.Words.vor _ _ _ _
  | .vxor .. => Laws.Words.vxor _ _ _ _ | .vnot .. => Laws.Words.vnot _ _ _ | .vshl .. => Laws.Words.vshl _ _ _ _
  | .vshr .. => Laws.Words.vshr _ _ _ _ | .vsra .. => Laws.Words.vsra _ _ _ _
  | .vrsum .. => Laws.Words.vrsum _ _ _ _ _ _ | .vrmax .. => Laws.Words.vrmax _ _ _ _ _ _
  | .vrmin .. => Laws.Words.vrmin _ _ _ _ _ _ | .vscan .. => Laws.Words.vscan _ _ _ _ _ _ _
  | .vslup .. => Laws.Words.vslup _ _ _ _ _ | .vsldn .. => Laws.Words.vsldn _ _ _ _ _
  | .vshuf .. => Laws.Words.vshuf _ _ _ _ _ | .vcomp .. => Laws.Words.vcomp _ _ _ _
  | .vexpd .. => Laws.Words.vexpd _ _ _ _ | .vzip .. => Laws.Words.vzip _ _ _ _ _ _
  | .vunpk .. => Laws.Words.vunpk _ _ _ _ _ | .vpack .. => Laws.Words.vpack _ _ _ _ _
  | .vlook .. => Laws.Words.vlook _ _ _ _ _ | .vtopk .. => Laws.Words.vtopk _ _ _ _ _ _ _
  | .vdot4 .. => Laws.Words.vdot4 _ _ _ _ _ _ | .mlog .. => Laws.Words.mlog _ _ _ _ | .mpop .. => Laws.Words.mpop _ _
  | .mfirst .. => Laws.Words.mfirst _ _ | .mset .. => Laws.Words.mset _ _ | .mtov .. => Laws.Words.mtov _ _ _ _ _
  | .vtom .. => Laws.Words.vtom _ _ _ | .vld .. => Laws.Words.vld _ _ _ _ _ _ _ _
  | .vlds .. => Laws.Words.vlds _ _ _ _ _ _ _ | .vldx .. => Laws.Words.vldx _ _ _ _ _ _ _
  | .vldf .. => Laws.Words.vldf _ _ _ _ _ _ _ | .vldm .. => Laws.Words.vldm _ _ _ _ _ _ _
  | .vldg .. => Laws.Words.vldg _ _ _ _ _ _ _ _ | .vst .. => Laws.Words.vst _ _ _ _ _ _ _
  | .vsts .. => Laws.Words.vsts _ _ _ _ _ _ _ | .vstx .. => Laws.Words.vstx _ _ _ _ _ _ _
  | .vstm .. => Laws.Words.vstm _ _ _ _ _ _ _ | .vstg .. => Laws.Words.vstg _ _ _ _ _ _ _ _
  | .vamo .. => Laws.Words.vamo _ _ _ _ _ _ _ _ _ | .mnf .. => Laws.Words.mnf _ _ _ _
  | .mnfget .. => Laws.Words.mnfget _ _ _ | .mnfset .. => Laws.Words.mnfset _ _ _ _
  | .czero .. => Laws.Words.czero _ _ _ | .cop .. => Laws.Words.cop _ _ _ _ _ | .copk .. => Laws.Words.copk _ _ _ _ _ _
  | .crrow .. => Laws.Words.crrow _ _ _ _ _ _ _ | .crcol .. => Laws.Words.crcol _ _ _ _ _ _ _ _
  | .cwrow .. => Laws.Words.cwrow _ _ _ _ _ | .cwcol .. => Laws.Words.cwcol _ _ _ _ _ _
  | .cld .. => Laws.Words.cld _ _ _ _ _ _ _ _ | .cst .. => Laws.Words.cst _ _ _ _ _ _ _ _
  | .cjoin .. => Laws.Words.cjoin _ _ | .cstj .. => Laws.Words.cstj _ _ _ _ _ _ _ | .cadd .. => Laws.Words.cadd _ _ _ _
  | .cstat .. => Laws.Words.cstat _ _ _ | .cpstart .. => Laws.Words.cpstart _ _ _ _ _
  | .cpgather .. => Laws.Words.cpgather _ _ _ _ _ _ | .cpscatter .. => Laws.Words.cpscatter _ _ _ _ _ _
  | .cpwait .. => Laws.Words.cpwait _ _ _ _ | .cpavail .. => Laws.Words.cpavail _ _ _
  | .cpresume .. => Laws.Words.cpresume _ _ _ | .cpcancel .. => Laws.Words.cpcancel _
  | .qbind .. => Laws.Words.qbind _ _ | .qclose .. => Laws.Words.qclose _ | .qstat .. => Laws.Words.qstat _ _
  | .launch .. => Laws.Words.launch _ _ | .exit => Laws.Words.exit | .yield => Laws.Words.yield
  | .bar .. => Laws.Words.bar _ | .waitw .. => Laws.Words.waitw _ _ _ _ _ _ _ | .wake .. => Laws.Words.wake _ _ _ _
  | .snext .. => Laws.Words.snext _ | .xopen .. => Laws.Words.xopen _ _ | .xsend .. => Laws.Words.xsend _ _ _ _
  | .xred .. => Laws.Words.xred _ _ _ _ _ _ | .xwait .. => Laws.Words.xwait _ _ _ _ | .xclose .. => Laws.Words.xclose _
  | .trap .. => Laws.Words.trap _ | .tret => Laws.Words.tret | .brk .. => Laws.Words.brk _
  | .ctxsave .. => Laws.Words.ctxsave _ _ _ _ _ _ _ | .ctxrstr .. => Laws.Words.ctxrstr _ _ _
  | .tlbinv .. => Laws.Words.tlbinv _ _ _ | .rcstart .. => Laws.Words.rcstart _ _ _ _ _
  | .rcstat .. => Laws.Words.rcstat _ _ | .kdsetAssign .. => Laws.Words.kdsetAssign _ _ _ _
  | .kdsetNewkey .. => Laws.Words.kdsetNewkey _ _ _ _ | .kdsetRetire .. => Laws.Words.kdsetRetire _ _ _ _
  | .homemap .. => Laws.Words.homemap _ _ _ | .idle .. => Laws.Words.idle _ _
  | .evTeamAdmission => Laws.Words.evTeamAdmission | .evPreemption .. => Laws.Words.evPreemption _
  | .evTeamReclaim .. => Laws.Words.evTeamReclaim _ | .evCaravanCompletion .. => Laws.Words.evCaravanCompletion _
  | .evWaitwReevaluate .. => Laws.Words.evWaitwReevaluate _ | .evIdleWake .. => Laws.Words.evIdleWake _
  | .evAccessPerform .. => Laws.Words.evAccessPerform _ _ | .evAtomicApply .. => Laws.Words.evAtomicApply _ _ _ _ _
  | .evPriResponse .. => Laws.Words.evPriResponse _ _ | .evHostInvalidation .. => Laws.Words.evHostInvalidation _
  | .evCopyRowRequest .. => Laws.Words.evCopyRowRequest _ _
  | .evCopyRowComplete .. => Laws.Words.evCopyRowComplete _ _ _ | .evCopyRowFault .. => Laws.Words.evCopyRowFault _ _ _
  | .evRecodePageStart .. => Laws.Words.evRecodePageStart _
  | .evRecodePageReencode .. => Laws.Words.evRecodePageReencode _
  | .evFrameMigration .. => Laws.Words.evFrameMigration _ | .evFrameSwitch .. => Laws.Words.evFrameSwitch _
  | .evTileCapacityGrant => Laws.Words.evTileCapacityGrant | .evTileLineReserve .. => Laws.Words.evTileLineReserve _
  | .evTileCommit .. => Laws.Words.evTileCommit _ | .evTileRelease .. => Laws.Words.evTileRelease _
  | .evXsendLanding .. => Laws.Words.evXsendLanding _ _ _ _ _ _ _ _
  | .evXredReduce .. => Laws.Words.evXredReduce _ _ _ _
  | .evExchangeOpComplete .. => Laws.Words.evExchangeOpComplete _ _ _
  | .evExchangePeerTimeout .. => Laws.Words.evExchangePeerTimeout _ _ _
  | .evExchangePeerClose .. => Laws.Words.evExchangePeerClose _ _ _
  | .evAsyncTrapDelivery .. => Laws.Words.evAsyncTrapDelivery _ | .evWatchdogExpiry .. => Laws.Words.evWatchdogExpiry _
  | .evEphemeralExpiry .. => Laws.Words.evEphemeralExpiry _ | .evSoftError .. => Laws.Words.evSoftError _ _ _
  | .evDctlCommandDone .. => Laws.Words.evDctlCommandDone _ _ _ | .evHostWrite .. => Laws.Words.evHostWrite _ _ _ _ _
  | .evTagWindowWrite .. => Laws.Words.evTagWindowWrite _ _ _ | .evHostRead .. => Laws.Words.evHostRead _ _ _
  | .evHostAtomicop .. => Laws.Words.evHostAtomicop _ _ _ _ _
  | .evCxlMemRequest .. => Laws.Words.evCxlMemRequest _ _ _ _ _
  | .evWeatreInboundRequest .. => Laws.Words.evWeatreInboundRequest _ _ | .evFlitRetry .. => Laws.Words.evFlitRetry _
  | .evLinkFailure .. => Laws.Words.evLinkFailure _ | .evDeviceUnreachable .. => Laws.Words.evDeviceUnreachable _
  | .evLinkLayerRetry .. => Laws.Words.evLinkLayerRetry _ | .evLongHaulAck .. => Laws.Words.evLongHaulAck _ _
  | .evLhcfgWrite .. => Laws.Words.evLhcfgWrite _ _ | .evQuotaRecordWrite .. => Laws.Words.evQuotaRecordWrite _ _ _
  | .evViReset .. => Laws.Words.evViReset _ | .evViResetComplete .. => Laws.Words.evViResetComplete _
  | .evCounterSnapshot .. => Laws.Words.evCounterSnapshot _ | .evCounterClear .. => Laws.Words.evCounterClear _
  | .evEvqheadWrite .. => Laws.Words.evEvqheadWrite _ _ | .evEvqstatWrite .. => Laws.Words.evEvqstatWrite _ _
  | .evMailboxDoorbell => Laws.Words.evMailboxDoorbell | .evDctlAdmit .. => Laws.Words.evDctlAdmit _ _
  | .evDctlDrain .. => Laws.Words.evDctlDrain _ | .evDctlWb .. => Laws.Words.evDctlWb _
  | .evDctlMig .. => Laws.Words.evDctlMig _ | .evDctlQuiesce .. => Laws.Words.evDctlQuiesce _
  | .evDctlRst .. => Laws.Words.evDctlRst _ | .evDctlRetrain .. => Laws.Words.evDctlRetrain _
  | .evMmioRegisterWrite .. => Laws.Words.evMmioRegisterWrite _ _
  | .evOperatingPointChange .. => Laws.Words.evOperatingPointChange _ _
  | .evPcapEstimate .. => Laws.Words.evPcapEstimate _ | .evThermalTrip => Laws.Words.evThermalTrip
  | .evThermalReset => Laws.Words.evThermalReset | .evDeviceReset => Laws.Words.evDeviceReset
  | .evBootPuf .. => Laws.Words.evBootPuf _ | .evBootDhcp .. => Laws.Words.evBootDhcp _
  | .evBootFetch .. => Laws.Words.evBootFetch _ _ | .evBootVerify .. => Laws.Words.evBootVerify _
  | .evBootRetry => Laws.Words.evBootRetry | .evBootBist .. => Laws.Words.evBootBist _ _
  | .evBootDice => Laws.Words.evBootDice | .evMonitorStart .. => Laws.Words.evMonitorStart _
  | .evLinkStateChange .. => Laws.Words.evLinkStateChange _ _
  | .evExchangePeerOpen .. => Laws.Words.evExchangePeerOpen _ _ _
  | .evEthernetTransportGaveUp .. => Laws.Words.evEthernetTransportGaveUp _ _ _
  | .evConfigurationRequest .. => Laws.Words.evConfigurationRequest _

theorem build_of_op_zero {r : RWord} (h : r.op = 0#8) : build r = none := by simp [build, buildInt, h]

/-- What the decoder builds has a word: opcode 0x00 builds nothing, and KDSET's word builds its ASSIGN form (log 7). -/
theorem hasWord_of_build {i : Instr} (h : build (encodeR i) = some i) : i.hasWord = true := by
  unfold Instr.hasWord
  split
  case h_1 d a b c =>
    have : some (Instr.kdsetAssign d a b c) = some (.kdsetNewkey d a b c) := (Laws.Words.kdsetAssign d a b c rfl rfl).symm.trans h
    cases this
  case h_2 d a b c =>
    have : some (Instr.kdsetAssign d a b c) = some (.kdsetRetire d a b c) := (Laws.Words.kdsetAssign d a b c rfl rfl).symm.trans h
    cases this
  case h_3 =>
    simp only [bne_iff_ne]
    intro h0
    rw [build_of_op_zero h0] at h
    cases h

/-- Settles O1: the fields read back as they were packed, and build the instruction. -/
theorem decodeEncode : Obligations.DecodeEncode := fun i hwf hword => by
  rw [decode_eq_ok, encode, RWord.unpack_pack, exact_eq_some]
  exact ⟨build_encodeR i hwf hword, hwf, rfl⟩

/-- Settles O2: the decoder re-encodes what it builds. -/
theorem encodeDecode : Obligations.EncodeDecode := fun w i h => by
  obtain ⟨hbuild, hwf, hfields⟩ := exact_eq_some.mp (decode_eq_ok.mp h)
  exact ⟨hwf, hasWord_of_build (hfields ▸ hbuild), by rw [encode, hfields, RWord.pack_unpack]⟩

theorem decode_of_encode {w : Word} {i : Instr} (hwf : i.wf = true) (hword : i.hasWord = true) (h : encode i = w) :
    decode w = .ok i :=
  h ▸ decodeEncode i hwf hword

theorem unpack_op_append (o : BitVec 8) (x : BitVec 56) : (RWord.unpack (o ++ x)).op = o :=
  part_hi o x 56 8 o (Nat.le_refl _) (part_all o)

/-- An opcode that Table 2.5 does not name builds nothing and has sub-code 0. -/
theorem decode_unnamed {o : BitVec 8} (hname : opNamed o = false) (hbuild : ∀ r : RWord, r.op = o → build r = none)
    (x : BitVec 56) : decode (o ++ x) = .error 0 := by
  have hop := unpack_op_append o x
  rw [decode_eq_error (hbuild _ hop)]
  simp [subcode, hop, hname]

/-- Settles O3: each word is the encoding of its instruction, and opcodes 0x00, 0xFF and 0x29 build nothing. -/
theorem decodedWords : Obligations.DecodedWords := by
  unfold Obligations.DecodedWords
  refine ⟨?_, ?_, ?_, ?_, ?_, ?_, ?_, ?_, ?_, ?_, ?_, ?_, fun x => ⟨?_, ?_, ?_⟩⟩
  iterate 12 exact decode_of_encode rfl rfl (by decide)
  · exact decode_unnamed rfl (fun r h => by simp [build, buildInt, h]) x
  · exact decode_unnamed rfl (fun r h => by simp [build, buildSys, h]) x
  · exact decode_unnamed rfl (fun r h => by simp [build, buildCtl, h]) x

end Sys2Proof
end

section
/-! PROOFS. What `issue` answers once the checks before an instruction's own have answered; jumps and branches (R134, R135); the
faults of LD and ST (R37, R256, R257). -/

namespace Sys2Proof.Machine

/-! ### Issue -/

section
variable {i : Instr} {s : State} {us : List Use} {body : Ctx → Res Done} {mk : Mk} {ov : Ctx → Res Unit} {c : Ctx}

theorem issue_completes {d : Done} (h : ready i s us mk ov = .ok c) (hb : body c = .ok d) :
    issue i s us body mk ov = .next (complete c d) := by
  simp only [issue_ready h, hb]

theorem issue_raises {t : Trap} (h : ready i s us mk ov = .ok c) (hb : body c = .error (.trap t)) :
    issue i s us body mk ov = .next (s.raises i us t) := by
  simp only [issue_ready h, hb]
  rfl

/-- A trap of the checks before an instruction's own (R37). -/
theorem issue_raises_of_ready {t : Trap} (h : ready i s us mk ov = .error (.trap t)) :
    issue i s us body mk ov = .next (s.raises i us t) := by
  rw [issue_stop h]
  rfl

end

theorem ensure_of_true {p : Bool} (h : p = true) (cse : Cause) (v0 v1 v2 v3 : Word) : ensure p cse v0 v1 v2 v3 = .ok () :=
  ensure_eq_ok.mpr h

theorem ensure_of_false {p : Bool} (h : p = false) (cse : Cause) (v0 v1 v2 v3 : Word) :
    ensure p cse v0 v1 v2 v3 = .error (.trap { cause := cse, v0, v1, v2, v3 }) := by
  simp only [ensure, h, Bool.false_eq_true, if_false]
  rfl

theorem Res.error_bind {α β : Type} (e : Stop) (f : α → Res β) : ((.error e : Res α) >>= f) = .error e := rfl

/-! ### Jumps and branches -/

/-- A branch completes at its target where its condition holds, and at the next word elsewhere. -/
theorem branch_completes {i : Instr} {a b : Opnd} {s : State} {c : Ctx} (h : Issues i [rdS .a a, rdS .b b] s c)
    (off : BitVec 37) (p q : Word → Word → Bool) (hpq : ∀ x y, p x y = q x y) :
    branch i a b off p s = .next (complete c { s := s, pc := some (if q (c.s_ .a) (c.s_ .b)
      then s.me.pc + 8#64 * off.signExtend 64 else s.me.pc + 8#64) }) := by
  obtain ⟨rfl, -, -⟩ := ready_same h
  rw [branch, issue_completes h rfl, hpq]
  cases q (c.s_ .a) (c.s_ .b) <;> rfl

theorem aligned8_iff (t : Word) : (t.extractLsb' 0 3 == 0#3) = decide (t.toNat % 8 = 0) := by
  rw [Bool.eq_iff_iff, beq_iff_eq, decide_eq_true_iff, ← BitVec.toNat_inj]
  simp [BitVec.extractLsb'_toNat]

/-- Settles O18: each form completes with its target and link, and JR to a misaligned target stops before it writes. -/
theorem jumpsAndBranches : Obligations.JumpsAndBranches := by
  refine ⟨⟨?jmp, ?jal, ?jr, ?branches⟩, ?misaligned⟩
  case jmp =>
    intro off s c h
    obtain ⟨rfl, -, -⟩ := ready_same h
    exact (issue_completes h rfl : execJmp off c.s = _)
  case jal =>
    intro d off s c h
    obtain ⟨rfl, -, -⟩ := ready_same h
    exact (issue_completes h rfl : execJal d off c.s = _)
  case jr =>
    intro d a imm s c h hal
    obtain ⟨rfl, -, -⟩ := ready_same h
    refine issue_completes h ?_
    simp only [aligned8_iff, hal, decide_true, ensure_true, Res.ok_bind]
    rfl
  case misaligned =>
    intro d a imm s c h hmis
    refine issue_raises h ?_
    simp only [aligned8_iff, ensure_of_false (decide_eq_false hmis), Res.error_bind]
  case branches =>
    simp only [List.forall_mem_cons, List.not_mem_nil, false_imp_iff, implies_true, and_true]
    refine ⟨?_, ?_, ?_, ?_, ?_, ?_⟩ <;> intro a b off s c h
    · exact (branch_completes h off (fun x y => x == y) (fun x y => decide (x = y)) (Bool.beq_eq_decide_eq) : execBeq a b off s = _)
    · exact (branch_completes h off (fun x y => x != y) (fun x y => decide (x ≠ y)) (fun x y => by simp [bne, Bool.beq_eq_decide_eq]) : execBne a b off s = _)
    · exact (branch_completes h off (fun x y => x.slt y) (fun x y => decide (x.toInt < y.toInt)) (fun _ _ => rfl) : execBlt a b off s = _)
    · exact (branch_completes h off (fun x y => !x.slt y) (fun x y => decide (x.toInt ≥ y.toInt)) (fun x y => by rw [BitVec.slt, ← decide_not, decide_eq_decide, not_lt]) : execBge a b off s = _)
    · exact (branch_completes h off (fun x y => x.ult y) (fun x y => decide (x.toNat < y.toNat)) (fun _ _ => rfl) : execBltu a b off s = _)
    · exact (branch_completes h off (fun x y => !x.ult y) (fun x y => decide (x.toNat ≥ y.toNat)) (fun x y => by rw [BitVec.ult, ← decide_not, decide_eq_decide, not_lt]) : execBgeu a b off s = _)

/-! ### Faults of LD and ST -/

theorem lineBytes_poisoned {l : LineV} (h : l.cls = 2) (va : Word) (off n : Nat) :
    lineBytes l va off n = .error (.trap { cause := .poisonConsumed, v0 := va, v1 := w64 l.why }) := by
  simp only [lineBytes, h]
  rfl

/-- R257: a load whose line is poisoned, where no queued store serves it. -/
theorem State.loadAt_poisoned {s s1 s2 : State} {sp : Space} {va : Word} {n : Nat} {l : Loc}
    (hfree : s.free false sp.isSp va n = .ok ()) (hreq : s.requests 1 = .ok ()) (hord : s.order sp = .ok s1)
    (hfwd : ∀ x, l = .mem x → s1.forwarded sp x n = none) (hheld : s1.notHeld false l = .ok ())
    (hload : s1.loadOrder l = .ok s2) (hpsn : (s2.seen l).cls = 2) :
    s.loadAt sp va n l = .error (.trap { cause := .poisonConsumed, v0 := va, v1 := w64 (s2.seen l).why }) := by
  simp only [State.loadAt, hfree, hreq, hord, Res.ok_bind]
  cases l with
  | sp p => simp only [hheld, hload, lineBytes_poisoned hpsn, Res.ok_bind, Res.error_bind]
  | mem x => simp only [hfwd x rfl, hheld, hload, lineBytes_poisoned hpsn, Res.ok_bind, Res.error_bind]

section
variable {sp : Space} {d a b : Opnd} {imm : BitVec 16} {s : State} {c : Ctx} {va : Word} {n : Nat}

section
variable {sz : BitVec 3} (h : Issues (.ld sz sp d a b imm) [rdS .a a, rdS .b b, wrS d] s c)
  (hva : c.address imm = va) (hn : accBytes sz.toNat = n)
include h hva hn

theorem exec_ld_misaligned (hmis : va.toNat % n ≠ 0) :
    exec (.ld sz sp d a b imm) s = .next (s.raises (.ld sz sp d a b imm) [rdS .a a, rdS .b b, wrS d]
      { cause := .misaligned, v0 := va }) := by
  subst hva hn
  refine issue_raises h ?_
  simp only [ensure_of_false (beq_eq_false_iff_ne.mpr hmis), Res.error_bind]

theorem exec_ld_unplaced (hal : va.toNat % n = 0) {t : Trap}
    (hloc : s.locate sp.isSp .load va n (n == 4 || n == 8) = .error (.trap t)) :
    exec (.ld sz sp d a b imm) s = .next (s.raises (.ld sz sp d a b imm) [rdS .a a, rdS .b b, wrS d] t) := by
  obtain ⟨rfl, -, -⟩ := ready_same h
  subst hva hn
  refine issue_raises h ?_
  simp only [ensure_of_true (beq_iff_eq.mpr hal), hloc, Res.ok_bind, Res.error_bind]

theorem exec_ld_loadFault (hal : va.toNat % n = 0) {l : Loc} {t : Trap}
    (hloc : s.locate sp.isSp .load va n (n == 4 || n == 8) = .ok l) (hreg : s.regOff l = none)
    (hload : s.loadAt sp va n l = .error (.trap t)) :
    exec (.ld sz sp d a b imm) s = .next (s.raises (.ld sz sp d a b imm) [rdS .a a, rdS .b b, wrS d] t) := by
  obtain ⟨rfl, -, -⟩ := ready_same h
  subst hva hn
  refine issue_raises h ?_
  simp only [ensure_of_true (beq_iff_eq.mpr hal), hloc, hreg, hload, Res.ok_bind, Res.error_bind]

end

section
variable {sz : BitVec 2} (h : Issues (.st sz sp d a b imm) [rdS .a a, rdS .b b, rdS .d d] s c)
  (hva : c.address imm = va) (hn : accBytes sz.toNat = n)
include h hva hn

theorem exec_st_misaligned (hmis : va.toNat % n ≠ 0) :
    exec (.st sz sp d a b imm) s = .next (s.raises (.st sz sp d a b imm) [rdS .a a, rdS .b b, rdS .d d]
      { cause := .misaligned, v0 := va }) := by
  subst hva hn
  refine issue_raises h ?_
  simp only [ensure_of_false (beq_eq_false_iff_ne.mpr hmis), Res.error_bind]

theorem exec_st_unplaced (hal : va.toNat % n = 0) {t : Trap}
    (hloc : s.locate sp.isSp .store va n (n == 4 || n == 8) = .error (.trap t)) :
    exec (.st sz sp d a b imm) s = .next (s.raises (.st sz sp d a b imm) [rdS .a a, rdS .b b, rdS .d d] t) := by
  obtain ⟨rfl, -, -⟩ := ready_same h
  subst hva hn
  refine issue_raises h ?_
  simp only [ensure_of_true (beq_iff_eq.mpr hal), hloc, Res.ok_bind, Res.error_bind]

end

end

theorem accBytes_size (sz : BitVec 2) : accBytes sz.toNat = 2 ^ sz.toNat := by
  rw [accBytes, Nat.mod_eq_of_lt sz.isLt]

/-- Settles O26: alignment, the place and the poison are checked before a load or a store does anything. -/
theorem scalarMemoryFaults : Obligations.ScalarMemoryFaults := by
  refine ⟨fun sz sp d a b imm s c h => ?_, fun sz sp d a b imm s c h => ?_⟩
  · refine ⟨exec_ld_misaligned h rfl rfl, fun hal t => exec_ld_unplaced h rfl rfl hal, ?_⟩
    intro hal l s1 s2 hloc hreg hfree hreq hord hfwd hheld hload hpsn
    exact exec_ld_loadFault h rfl rfl hal hloc hreg
      (State.loadAt_poisoned hfree hreq hord hfwd hheld hload hpsn)
  · exact ⟨exec_st_misaligned h rfl (accBytes_size sz), fun hal t => exec_st_unplaced h rfl (accBytes_size sz) hal⟩

/-! ### PRIVILEGE -/

theorem ready_unprivileged {i : Instr} {s : State} (h : privOk i s.me.priv = false) (us : List Use) (mk : Mk)
    (ov : Ctx → Res Unit) :
    ready i s us mk ov = .error (.trap { cause := .privilege, v0 := encode i }) := by
  simp only [ready, ensure_of_false h, Res.error_bind]
  rfl

theorem issue_unprivileged {i : Instr} {s : State} (h : privOk i s.me.priv = false) (us : List Use) (body : Ctx → Res Done)
    (mk : Mk) (ov : Ctx → Res Unit) :
    issue i s us body mk ov = .next (s.raises i us { cause := .privilege, v0 := encode i }) :=
  issue_raises_of_ready (ready_unprivileged h us mk ov)

/-- At user TLBINV leaves its check to `issue`: the checks of its entry are those of a supervisor. -/
theorem execTlbinv_of_user {s : State} (h : s.me.priv = .user) (ty : BitVec 3) (a b : Opnd) :
    execTlbinv ty a b s = .next (s.raises (.tlbinv ty a b) [rdS .a a, rdS .b b]
      { cause := .privilege, v0 := encode (.tlbinv ty a b) }) := by
  have hsup : (s.me.priv == .sup) = false := by rw [h]; rfl
  simp only [execTlbinv, hsup, Bool.false_and, Bool.false_eq_true, if_false]
  exact issue_unprivileged (by rw [h]; rfl) ..

/-- Each instruction with a least privilege is one `issue`, whose first check is that privilege. -/
theorem exec_unprivileged {i : Instr} {s : State} (h : privOk i s.me.priv = false) :
    ∃ us, exec i s = .next (s.raises i us { cause := .privilege, v0 := encode i }) := by
  have hp := h
  unfold privOk at h
  split at h
  case h_5 ty a b => exact ⟨_, execTlbinv_of_user (bne_eq_false_iff_eq.mp h) ty a b⟩
  case h_7 d page => exact ⟨_, (issue_unprivileged hp .. : execRcstat d page s = _)⟩
  case h_13 d n => exact ⟨_, (issue_unprivileged hp .. : execCrd d n s = _)⟩
  case h_16 => cases h
  all_goals exact ⟨_, issue_unprivileged hp ..⟩

/-- Settles O9: the statement's conditions are those under which `privOk` refuses. -/
theorem privilegeFault : Obligations.PrivilegeFault := by
  intro i s h
  refine exec_unprivileged ?_
  split at h <;> simp_all [privOk]

end Sys2Proof.Machine
end

section
/-! PROOFS. Frames: what the completion of an instruction, a scalar result and a vector or mask result leave unchanged (R28, R116,
R122, R131, R136, R147, R148). -/

namespace Sys2Proof.Machine

/-! ### States that differ in what the acting strand owns -/

section
variable {s t u : State}

theorem OwnOnly.cur_eq (h : OwnOnly s t) : t.cur = s.cur := by rw [h.rest]

theorem OwnOnly.byteAt_eq (h : OwnOnly s t) (pa : Nat) : t.byteAt pa = s.byteAt pa := by rw [h.rest]; rfl

theorem OwnOnly.tagAt_eq (h : OwnOnly s t) (ln : Nat) : t.tagAt ln = s.tagAt ln := by rw [h.rest]; rfl

theorem OwnOnly.car_eq (h : OwnOnly s t) (n : Nat) : t.car n = s.car n := by rw [h.rest]; rfl

/-- The acting strand's team is the same but for its queues. -/
theorem OwnOnly.myTeam_eq (h : OwnOnly s t) (hteam : t.me.team = s.me.team) :
    t.myTeam = { s.myTeam with queues := t.myTeam.queues } := by
  rw [State.myTeam, hteam]
  exact h.queues

theorem OwnOnly.myVi_eq (h : OwnOnly s t) (hteam : t.me.team = s.me.team) : t.myVi = s.myVi := by
  have hcar : t.myTeam.caravan = s.myTeam.caravan := by rw [h.myTeam_eq hteam]
  change (t.car t.myTeam.caravan).vi = (s.car s.myTeam.caravan).vi
  rw [hcar, h.car_eq]

theorem OwnOnly.refl (s : State) : OwnOnly s s :=
  ⟨rfl, fun _ _ => rfl, fun _ _ => rfl, rfl, fun _ _ => rfl, rfl⟩

theorem OwnOnly.trans (h : OwnOnly s t) (k : OwnOnly t u) (hteam : t.me.team = s.me.team) : OwnOnly s u where
  rest := by
    have hu := k.rest
    rw [h.rest] at hu
    exact hu
  strands sid hsid := (k.strands sid (h.cur_eq ▸ hsid)).trans (h.strands sid hsid)
  teams n hn := (k.teams n (hteam ▸ hn)).trans (h.teams n hn)
  queues := by
    have hq := k.queues
    rw [hteam] at hq
    rw [hq, h.myTeam_eq hteam]
  vis n hn := (k.vis n (h.myVi_eq hteam ▸ hn)).trans (h.vis n hn)
  counters := by
    have hc := k.counters
    rw [h.myVi_eq hteam, h.counters] at hc
    exact hc

end

theorem ownOnly_setMe (s : State) (st : Strand) : OwnOnly s (s.setMe st) :=
  ⟨rfl, fun sid h => State.strand_setMe_ne s sid st h, fun _ _ => rfl, rfl, fun _ _ => rfl, rfl⟩

theorem ownOnly_setQueues (s : State) (qs : Tab Queue) : OwnOnly s (s.setMyTeam { s.myTeam with queues := qs }) where
  rest := rfl
  strands _ _ := rfl
  teams n h := State.team_setTeam_ne s _ n _ h
  queues := by simp [State.setMyTeam]
  vis _ _ := rfl
  counters := rfl

theorem ownOnly_charge (s : State) (k n : Nat) : OwnOnly s (s.charge s.myVi k n) where
  rest := rfl
  strands _ _ := rfl
  teams _ _ := rfl
  queues := rfl
  vis m h := State.vi_setVi_ne s _ m _ h
  counters := by simp [State.charge]

/-! ### The charge of an issue -/

theorem ownOnly_chargeIssue (s : State) (i : Instr) : OwnOnly s (s.chargeIssue i) := by
  unfold State.chargeIssue
  split
  · exact ownOnly_setMe ..
  · exact ownOnly_charge ..

@[simp] theorem State.me_charge (s : State) (vi k n : Nat) : (s.charge vi k n).me = s.me := rfl

theorem State.me_chargeIssue (s : State) (i : Instr) : (s.chargeIssue i).me = { s.me with charged := false } := by
  unfold State.chargeIssue
  split
  · simp
  · next h =>
    have hf : s.me.charged = false := by simpa using h
    rw [State.me_charge, ← hf]

@[simp] theorem State.team_chargeIssue (s : State) (i : Instr) (n : Nat) : (s.chargeIssue i).team n = s.team n := by
  unfold State.chargeIssue
  split <;> rfl

/-- The charge is to one counter. -/
theorem State.counter_chargeIssue_ne (s : State) (i : Instr) {k : Nat} (h : k ≠ slotCounter (opOf i)) (n : Nat) :
    Tab.get 0#64 ((s.chargeIssue i).vi n).counters k = Tab.get 0#64 (s.vi n).counters k := by
  unfold State.chargeIssue
  split
  · rfl
  · by_cases hn : n = s.myVi
    · subst hn; simp [State.charge, Tab.get_set_ne, h]
    · simp [State.charge, State.vi_setVi_ne, hn]

/-! ### Popped entries -/

section
variable (s : State) (pops : Tab Nat)

theorem State.popAll_cons (p : Nat × Nat) :
    s.popAll (p :: pops) = (s.setMyTeam { s.myTeam with
      queues := Tab.modify s.myTeam.queues p.1 fun x => { x with entries := x.entries.drop p.2 } }).popAll pops := rfl

@[simp] theorem State.me_popAll : (s.popAll pops).me = s.me := by
  induction pops generalizing s with
  | nil => rfl
  | cons p pops ih => rw [State.popAll_cons, ih, State.me_setMyTeam]

theorem ownOnly_popAll : OwnOnly s (s.popAll pops) := by
  induction pops generalizing s with
  | nil => exact OwnOnly.refl s
  | cons p pops ih => exact (ownOnly_setQueues s _).trans (ih _) rfl

@[simp] theorem State.vi_popAll (n : Nat) : (s.popAll pops).vi n = s.vi n := by
  induction pops generalizing s with
  | nil => rfl
  | cons p pops ih => rw [State.popAll_cons, ih]; rfl

@[simp] theorem State.myTeam_setMyTeam (x : Team) : (s.setMyTeam x).myTeam = x := by
  simp [State.myTeam, State.setMyTeam]

theorem State.find_popAll_ne {q : Nat} (h : Tab.find pops q = none) :
    Tab.find (s.popAll pops).myTeam.queues q = Tab.find s.myTeam.queues q := by
  induction pops generalizing s with
  | nil => rfl
  | cons p pops ih =>
    obtain ⟨j, k⟩ := p
    simp only [Tab.find] at h
    split at h
    · cases h
    · next hq => rw [State.popAll_cons, ih _ h, State.myTeam_setMyTeam, Tab.find_modify_ne _ _ _ _ hq]

theorem Tab.find_modify_same {α : Type} {t : Tab α} {k : Nat} {f : α → α} {v : α} (h : Tab.find t k = some v) :
    Tab.find (Tab.modify t k f) k = some (f v) := by
  simp [Tab.modify, h]

theorem State.find_popAll_same {q k : Nat} {x : Queue} (h : Tab.find s.myTeam.queues q = some x) :
    Tab.find (s.popAll [(q, k)]).myTeam.queues q = some { x with entries := x.entries.drop k } := by
  rw [State.popAll_cons, State.popAll, List.foldl_nil, State.myTeam_setMyTeam, Tab.find_modify_same h]

end

/-! ### Auto-increments -/

theorem Strand.advanceIx_eq (st : Strand) (ix : Tab Nat) : st.advanceIx ix = { st with i := (st.advanceIx ix).i } := by
  induction ix generalizing st with
  | nil => rfl
  | cons p ix ih => exact ih (st.setI p.1 (setBits (st.getI p.1) 12 6 p.2))

theorem Strand.getI_advanceIx_ne (st : Strand) (ix : Tab Nat) {n : Nat} (h : Tab.find ix n = none) :
    (st.advanceIx ix).getI n = st.getI n := by
  induction ix generalizing st with
  | nil => rfl
  | cons p ix ih =>
    obtain ⟨j, o⟩ := p
    simp only [Tab.find] at h
    split at h
    · cases h
    · next hn => exact (ih (st.setI j (setBits (st.getI j) 12 6 o)) h).trans (Strand.getI_setI_ne _ _ _ _ hn)

theorem Strand.getI_advanceIx_same (st : Strand) (n o : Nat) :
    (st.advanceIx [(n, o)]).getI n = setBits (st.getI n) 12 6 o := Strand.getI_setI ..

/-! ### Completion -/

/-- Only a plain load of memory leaves a late load. -/
theorem lateOf_eq_nil {c : Ctx} {d : Done} (h : d.lines = none) (w : Word) : lateOf c d w = [] := by
  unfold lateOf
  split
  · next heq _ _ => rw [h] at heq; cases heq
  · rfl

/-- The strand of a completed instruction, from its strand in the state with its results. -/
def completedStrand (c : Ctx) (d : Done) : Strand :=
  let st := d.s.me.advanceIx c.ix
  let st1 := if d.keepT then st else { st with tstart := 0#64, mstep := 0#64 }
  { st1 with pc := d.pc.getD (c.me.pc + 8#64), got := []
             late := (st1.late.filter fun l => l.passedBy c d) ++ lateOf c d st1.fctl, reqs := 0, homing := none }

section
variable {c : Ctx} {d : Done} (hs : c.me.sstep = none)
include hs

/-- With no step breakpoint pending, completion pops, advances, moves on and charges. -/
theorem complete_eq : complete c d = ((d.s.popAll c.pops).setMe (completedStrand c d)).chargeIssue c.i := by
  simp only [complete, hs, State.me_popAll]
  rfl

theorem me_complete : (complete c d).me = { completedStrand c d with charged := false } := by
  rw [complete_eq hs, State.me_chargeIssue, State.me_setMe]

theorem me_complete_eq : (complete c d).me =
    { d.s.me with i := (complete c d).me.i, pc := d.pc.getD (c.me.pc + 8#64)
                  tstart := if d.keepT then d.s.me.tstart else 0#64, mstep := if d.keepT then d.s.me.mstep else 0#64
                  got := [], late := (complete c d).me.late, reqs := 0, homing := none, charged := false } := by
  rw [me_complete hs, completedStrand, Strand.advanceIx_eq]
  cases d.keepT <;> rfl

theorem me_complete_team : (complete c d).me.team = d.s.me.team := by rw [me_complete_eq hs]

theorem ownOnly_complete : OwnOnly d.s (complete c d) := by
  rw [complete_eq hs]
  have hpop := ownOnly_popAll d.s c.pops
  have hset := hpop.trans (ownOnly_setMe _ (completedStrand c d)) (by rw [State.me_popAll])
  refine hset.trans (ownOnly_chargeIssue ..) ?_
  rw [State.me_setMe, completedStrand, Strand.advanceIx_eq]
  cases d.keepT <;> rfl

/-- The late loads that an instruction leaves are those it passes, but for a plain load of memory. -/
theorem late_complete_subset (hlines : d.lines = none) : ∀ l ∈ (complete c d).me.late, l ∈ d.s.me.late := by
  intro l hl
  rw [me_complete hs, completedStrand, lateOf_eq_nil hlines, Strand.advanceIx_eq] at hl
  cases hk : d.keepT <;> simp only [hk, List.append_nil] at hl <;> exact List.mem_of_mem_filter hl

theorem getI_complete (n : Nat) : (complete c d).me.getI n = (d.s.me.advanceIx c.ix).getI n := by
  rw [me_complete hs, completedStrand]
  cases d.keepT <;> rfl

theorem queues_complete : ((complete c d).team d.s.me.team).queues = (d.s.popAll c.pops).myTeam.queues := by
  rw [complete_eq hs, State.team_chargeIssue, State.team_setMe, State.myTeam, State.me_popAll]

theorem counter_complete_ne {k : Nat} (h : k ≠ slotCounter (opOf c.i)) (n : Nat) :
    Tab.get 0#64 ((complete c d).vi n).counters k = Tab.get 0#64 (d.s.vi n).counters k := by
  rw [complete_eq hs, State.counter_chargeIssue_ne _ _ h, State.vi_setMe, State.vi_popAll]

end

/-- Settles O11: completion pops, advances, moves on and charges, each with its own frame. -/
theorem completionFrame : Obligations.CompletionFrame := by
  intro c u pc keepT hs t
  have hown : OwnOnly u t := ownOnly_complete (d := { s := u, pc, keepT }) hs
  refine ⟨hown, me_complete_eq hs, late_complete_subset hs rfl, fun n hn => ?_, fun n o ho => ?_, fun q hq => ?_,
    fun q k x hp hx => ?_, fun k hk => counter_complete_ne hs hk _, hown.byteAt_eq, hown.tagAt_eq⟩
  · exact (getI_complete hs n).trans (Strand.getI_advanceIx_ne _ _ hn)
  · rw [getI_complete hs n, ho]
    exact Strand.getI_advanceIx_same ..
  · exact (congrArg (Tab.find · q) (queues_complete hs)).trans (State.find_popAll_ne _ _ hq)
  · refine (congrArg (Tab.find · q) (queues_complete hs)).trans ?_
    rw [hp]
    exact State.find_popAll_same _ hx

end Sys2Proof.Machine
end


section
/-! PROOFS. The frame of the scalar instructions (R116, R122, R131, R136): what their results change, and the flags they may raise. -/

namespace Sys2Proof.Machine

/-! ### Flags -/

/-- Each flag of `f` is one of `m`. -/
def Flags.Within (f m : Flags) : Prop := f &&& m = f

section
variable {f g m : Flags}

theorem Flags.Within.zero (m : Flags) : Flags.Within 0#7 m := BitVec.zero_and

theorem Flags.Within.refl (m : Flags) : Flags.Within m m := BitVec.and_self

theorem Flags.Within.or (hf : f.Within m) (hg : g.Within m) : Flags.Within (f ||| g) m := by
  rw [Flags.Within, BitVec.and_comm, BitVec.and_or_distrib_left, BitVec.and_comm m f, BitVec.and_comm m g, hf, hg]

theorem Flags.Within.trans (hf : f.Within g) (hg : g.Within m) : f.Within m := by
  rw [Flags.Within, ← hf, BitVec.and_assoc, hg]

theorem Flags.Within.flagIf (hf : f.Within m) (p : Bool) : Flags.Within (flagIf p f) m := by
  cases p
  · exact Flags.Within.zero m
  · exact hf

theorem Flags.Within.ite {p : Prop} [Decidable p] (hf : f.Within m) (hg : g.Within m) :
    Flags.Within (if p then f else g) m := by
  split
  · exact hf
  · exact hg

theorem Flags.Within.getLsbD (h : f.Within m) {k : Nat} (hk : f.getLsbD k = true) : m.getLsbD k = true := by
  rw [← h, BitVec.getLsbD_and, Bool.and_eq_true] at hk
  exact hk.2

end

theorem sigNV_within (xs : List Val) : (sigNV xs).Within fNV := (Flags.Within.refl fNV).flagIf _

theorem addV_within (rm : RMode) (x y : Val) : (addV rm x y).2.Within fNV := by
  unfold addV
  split
  · simp only [apply_ite Prod.snd, ite_self]; exact Flags.Within.zero _
  · exact Flags.Within.zero _
  · exact Flags.Within.zero _
  · split
    · exact Flags.Within.zero _
    · exact Flags.Within.refl _
  · exact sigNV_within _

theorem mulV_within (x y : Val) : (mulV x y).2.Within fNV := by
  unfold mulV
  split
  · exact Flags.Within.zero _
  · split
    · exact Flags.Within.refl _
    · exact Flags.Within.zero _
  · split
    · exact Flags.Within.refl _
    · exact Flags.Within.zero _
  · exact Flags.Within.zero _
  · exact sigNV_within _

theorem fmaV_within (rm : RMode) (x y z : Val) : (fmaV rm x y z).2.Within fNV :=
  (mulV_within x y).or (addV_within rm _ z)

theorem divV_within (x y : Val) : (divV x y).2.Within (fNV ||| fDZ) := by
  have hnv : fNV.Within (fNV ||| fDZ) := rfl
  unfold divV
  split
  · split
    · split
      · exact hnv
      · exact (rfl : fDZ.Within (fNV ||| fDZ))
    · exact Flags.Within.zero _
  · exact Flags.Within.zero _
  · exact Flags.Within.zero _
  · exact hnv
  · exact (sigNV_within _).trans hnv

theorem sqrtV_within (x : Val) : (sqrtV x).2.Within fNV := by
  unfold sqrtV
  split
  · split
    · exact Flags.Within.zero _
    · split
      · exact Flags.Within.refl _
      · exact Flags.Within.zero _
  · split
    · exact Flags.Within.refl _
    · exact Flags.Within.zero _
  · exact sigNV_within _

theorem minV_within (x y : Val) : (minV x y).2.Within fNV := by
  unfold minV
  split
  · exact sigNV_within _
  · exact Flags.Within.zero _

theorem maxV_within (x y : Val) : (maxV x y).2.Within fNV := by
  unfold maxV
  split
  · exact sigNV_within _
  · exact Flags.Within.zero _

theorem cmpV_within (cond : Nat) (x y : Val) : (cmpV cond x y).2.Within fNV := by
  simp only [cmpV]
  split
  · exact (Flags.Within.refl fNV).flagIf _
  · exact sigNV_within _

/-- The flags of one rounding into a wide floating format (R62, R67). -/
theorem roundFloat_within (f : FmtCode) (rm : RMode) (neg : Bool) (n d : Nat) :
    (roundFloat f rm neg n d).2.Within (fOF ||| fUF ||| fNX) := by
  have hbig : (fOF ||| fNX).Within (fOF ||| fUF ||| fNX) := rfl
  have hnx : fNX.Within (fOF ||| fUF ||| fNX) := rfl
  have huf : fUF.Within (fOF ||| fUF ||| fNX) := rfl
  simp only [roundFloat, apply_ite Prod.snd, ite_self]
  exact .ite (.zero _) (.ite hbig ((hnx.flagIf _).or (huf.flagIf _)))

theorem roundTo_within (f : FmtCode) (rm : RMode) (x : Val) : (roundTo f rm x).2.Within (fOF ||| fUF ||| fNX) := by
  cases x with
  | fin neg n d => exact roundFloat_within f rm neg n d
  | inf neg =>
    simp only [roundTo]
    split
    · exact (rfl : (fOF ||| fNX).Within (fOF ||| fUF ||| fNX))
    · exact Flags.Within.zero _
  | nan sig => exact Flags.Within.zero _
  | invalid => exact Flags.Within.zero _

theorem intConvert_within (f : FmtCode) (rm : RMode) (x : Val) : (intConvert f rm false x).2.Within (fNV ||| fNX) := by
  have hnv : fNV.Within (fNV ||| fNX) := rfl
  have hnx : fNX.Within (fNV ||| fNX) := rfl
  cases x with
  | fin neg n d =>
    simp only [intConvert]
    split
    · exact hnv
    · split
      · exact hnv
      · exact hnx.flagIf _
  | inf neg => exact hnv
  | nan sig => exact hnv
  | invalid => exact hnv

theorem divS_within (a b : Word) : (divS a b).2.Within (fDZ ||| fSAT) := by
  unfold divS
  split
  · exact (rfl : fDZ.Within (fDZ ||| fSAT))
  · split
    · exact (rfl : fSAT.Within (fDZ ||| fSAT))
    · exact Flags.Within.zero _

theorem divU_within (a b : Word) : (divU a b).2.Within fDZ := by
  unfold divU
  split
  · exact Flags.Within.refl _
  · exact Flags.Within.zero _

theorem remS_within (a b : Word) : (remS a b).2.Within fDZ := by
  unfold remS
  split
  · exact Flags.Within.refl _
  · split <;> exact Flags.Within.zero _

theorem remU_within (a b : Word) : (remU a b).2.Within fDZ := by
  unfold remU
  split
  · exact Flags.Within.refl _
  · exact Flags.Within.zero _

/-! ### FCTL -/

theorem fctlRaise_keeps {w : Word} {k : Nat} (h : w.getLsbD k = true) (f : Flags) :
    (fctlRaise w f).getLsbD k = true := by
  rw [fctlRaise, BitVec.getLsbD_or, h, Bool.true_or]

/-- FCTL gains the raised flags alone (R61). -/
theorem fctlRaise_sets {w : Word} {f : Flags} {k : Nat} (h : (fctlRaise w f).getLsbD k = true) :
    w.getLsbD k = true ∨ 8 ≤ k ∧ f.getLsbD (k - 8) = true := by
  simp only [fctlRaise, BitVec.getLsbD_or, BitVec.getLsbD_shiftLeft, BitVec.getLsbD_setWidth, Bool.or_eq_true,
    Bool.and_eq_true, Bool.not_eq_true', decide_eq_false_iff_not, decide_eq_true_eq] at h
  rcases h with h | ⟨⟨-, h8⟩, -, h⟩
  · exact .inl h
  · exact .inr ⟨by omega, h⟩

/-! ### The state with a scalar result -/

theorem Strand.setS_eq (st : Strand) (n : Nat) (w : Word) : st.setS n w = { st with s := (st.setS n w).s } := by
  unfold Strand.setS
  split <;> rfl

/-- What the results of a scalar instruction leave of the state that it issued in, where it may raise the flags `fl`. -/
structure ScalarWrites (c : Ctx) (fl : Flags) (s u : State) : Prop where
  own : OwnOnly s u
  me : u.me = { s.me with s := u.me.s, fctl := u.me.fctl }
  regs : ∀ n, c.td ≠ .reg n → u.me.getS n = s.me.getS n
  sets : ∀ k, u.me.fctl.getLsbD k = true → s.me.fctl.getLsbD k = true ∨ 8 ≤ k ∧ fl.getLsbD (k - 8) = true
  keeps : ∀ k, s.me.fctl.getLsbD k = true → u.me.fctl.getLsbD k = true
  queues : ∀ q, c.td ≠ .push q → Tab.find u.myTeam.queues q = Tab.find s.myTeam.queues q
  vis : ∀ n, u.vi n = s.vi n

theorem ScalarWrites.refl (c : Ctx) (fl : Flags) (s : State) : ScalarWrites c fl s s :=
  ⟨OwnOnly.refl s, rfl, fun _ _ => rfl, fun _ => .inl, fun _ => id, fun _ _ => rfl, fun _ => rfl⟩

theorem ScalarWrites.putS (c : Ctx) (fl : Flags) (s : State) (w : Word) : ScalarWrites c fl s (c.putS s w) := by
  unfold Ctx.putS
  split
  · next n hd =>
    refine ⟨ownOnly_setMe .., ?_, fun k hk => ?_, fun k => ?_, fun k => ?_, fun _ _ => ?_, fun _ => rfl⟩
    · rw [State.me_setMe, Strand.setS_eq]
    · rw [State.me_setMe, Strand.getS_setS_ne _ _ _ _ (fun h : k = n => hk (h ▸ hd))]
    · rw [State.me_setMe, Strand.setS_fctl]; exact .inl
    · rw [State.me_setMe, Strand.setS_fctl]; exact id
    · rw [State.myTeam, State.me_setMe, Strand.setS_team]; rfl
  · next q hd =>
    refine ⟨ownOnly_setQueues .., rfl, fun _ _ => rfl, fun _ => .inl, fun _ => id, fun k hk => ?_, fun _ => rfl⟩
    rw [State.pushQ, State.myTeam_setMyTeam, Tab.find_modify_ne _ _ _ _ (fun h : k = q => hk (h ▸ hd))]
  · exact ScalarWrites.refl c fl s

theorem ScalarWrites.raise {c : Ctx} {fl f : Flags} {s u : State} (h : ScalarWrites c fl s u) (hf : f.Within fl) :
    ScalarWrites c fl s (u.raise f) where
  own := h.own.trans (ownOnly_setMe ..) (by rw [h.me])
  me := by rw [State.raise, State.me_setMe, Strand.raise, h.me]
  regs n hn := by rw [← h.regs n hn, State.raise, State.me_setMe]; rfl
  sets k hk := by
    rw [State.raise, State.me_setMe] at hk
    rcases fctlRaise_sets hk with hk | ⟨h8, hk⟩
    · exact h.sets k hk
    · exact .inr ⟨h8, hf.getLsbD hk⟩
  keeps k hk := by
    rw [State.raise, State.me_setMe]
    exact fctlRaise_keeps (h.keeps k hk) f
  queues q hq := by
    rw [← h.queues q hq, State.raise, State.myTeam, State.me_setMe]; rfl
  vis := h.vis

/-- An outcome that completes with nothing but scalar results. -/
def CompletesScalar (c : Ctx) (s : State) (fl : Flags) (o : Host.Outcome State Fault Refusal) : Prop :=
  ∃ u pc, o = .next (complete c { s := u, pc }) ∧ ScalarWrites c fl s u

section
variable {i : Instr} {us : List Use} {s : State} {c : Ctx} {fl : Flags}

theorem issue_completesScalar {body : Ctx → Res Done} {u : State} {pc : Option Word} (h : Issues i us s c)
    (hb : body c = .ok { s := u, pc }) (hu : ScalarWrites c fl s u) : CompletesScalar c s fl (issue i s us body) :=
  ⟨u, pc, issue_completes h hb, hu⟩

theorem issue_putS {body : Ctx → Res Done} (h : Issues i us s c) (w : Word) (hb : body c = done (c.putS c.s w)) :
    CompletesScalar c s fl (issue i s us body) := by
  obtain ⟨rfl, -, -⟩ := ready_same h
  exact issue_completesScalar h hb (ScalarWrites.putS c fl c.s w)

theorem issue_putS_raise {body : Ctx → Res Done} (h : Issues i us s c) (w : Word) {f : Flags}
    (hb : body c = done ((c.putS c.s w).raise f)) (hf : f.Within fl) : CompletesScalar c s fl (issue i s us body) := by
  obtain ⟨rfl, -, -⟩ := ready_same h
  exact issue_completesScalar h hb ((ScalarWrites.putS c fl c.s w).raise hf)

theorem alu2_completesScalar {d a : Opnd} {b : SrcB} {f : Word → Word → Word × Flags}
    (h : Issues i ([rdS .a a] ++ srcBUse b ++ [wrS d]) s c) (hf : ∀ x y, (f x y).2.Within fl) :
    CompletesScalar c s fl (alu2 i d a b f s) :=
  issue_putS_raise h _ rfl (hf _ _)

theorem alu1_completesScalar {d a : Opnd} (f : Word → Word) (h : Issues i [rdS .a a, wrS d] s c) :
    CompletesScalar c s fl (alu1 i d a f s) :=
  issue_putS h _ rfl

theorem branch_completesScalar {a b : Opnd} {off : BitVec 37} {p : Word → Word → Bool}
    (h : Issues i [rdS .a a, rdS .b b] s c) : CompletesScalar c s fl (branch i a b off p s) := by
  obtain ⟨rfl, -, -⟩ := ready_same h
  exact issue_completesScalar h rfl (ScalarWrites.refl c fl c.s)

/-- A floating result: the flags of the operation and those of its one rounding (R136). -/
theorem fput_eq (c : Ctx) (t : FTy) (m : RMode) (r : Val × Flags) :
    fput c t m r = done ((c.putS c.s (w64 (roundTo t.fmt m r.1).1)).raise (r.2 ||| (roundTo t.fmt m r.1).2)) := rfl

theorem issue_fput {body : Ctx → Res Done} (h : Issues i us s c) {t : FTy} {m : RMode} {r : Val × Flags}
    (hb : body c = fput c t m r) (hr : r.2.Within fl) (hfl : (fOF ||| fUF ||| fNX).Within fl) :
    CompletesScalar c s fl (issue i s us body) :=
  issue_putS_raise h _ (hb.trans (fput_eq c t m r)) (hr.or ((roundTo_within ..).trans hfl))

theorem fp2_completesScalar {t : FTy} {rm : Rm} {d a b : Opnd} {f : RMode → Val → Val → Val × Flags}
    (h : Issues i [rdS .a a, rdS .b b, wrS d] s c) (hf : ∀ m x y, (f m x y).2.Within fl)
    (hfl : (fOF ||| fUF ||| fNX).Within fl) : CompletesScalar c s fl (fp2 i t rm d a b f s) :=
  issue_fput h rfl (hf _ _ _) hfl

end

end Sys2Proof.Machine
end


section
/-! PROOFS. The frame of the scalar instructions, instruction by instruction. -/

namespace Sys2Proof.Machine

/-- JR to an aligned target links and jumps (R134). -/
theorem execJr_completesScalar {d a : Opnd} {imm : BitVec 16} {s : State} {c : Ctx} {fl : Flags}
    (h : Issues (.jr d a imm) [rdS .a a, wrS d] s c) (hal : (c.s_ .a + imm.signExtend 64).toNat % 8 = 0) :
    CompletesScalar c s fl (execJr d a imm s) := by
  obtain ⟨rfl, -, -⟩ := ready_same h
  refine issue_completesScalar (pc := some (c.s_ .a + imm.signExtend 64)) h ?_ (ScalarWrites.putS c fl c.s (c.me.pc + 8#64))
  simp only [aligned8_iff, hal, decide_true, ensure_true, Res.ok_bind]

theorem execJal_completesScalar {d : Opnd} {off : BitVec 44} {s : State} {c : Ctx} {fl : Flags}
    (h : Issues (.jal d off) [wrS d] s c) : CompletesScalar c s fl (execJal d off s) := by
  obtain ⟨rfl, -, -⟩ := ready_same h
  exact issue_completesScalar h rfl (ScalarWrites.putS ..)

theorem execJmp_completesScalar {off : BitVec 44} {s : State} {c : Ctx} {fl : Flags}
    (h : Issues (.jmp off) [] s c) : CompletesScalar c s fl (execJmp off s) := by
  obtain ⟨rfl, -, -⟩ := ready_same h
  exact issue_completesScalar h rfl (ScalarWrites.refl ..)

theorem execFcvt_completesScalar {t : FTy} {rm : Rm} {kind : FCvtKind} {d a : Opnd} {s : State} {c : Ctx}
    (h : Issues (.fcvt t rm kind d a) [rdS .a a, wrS d] s c) :
    CompletesScalar c s (fNV ||| fOF ||| fUF ||| fNX) (execFcvt t rm kind d a s) := by
  have hround : (fOF ||| fUF ||| fNX).Within (fNV ||| fOF ||| fUF ||| fNX) := rfl
  have hnv : fNV.Within (fNV ||| fOF ||| fUF ||| fNX) := rfl
  have hint : (fNV ||| fNX).Within (fNV ||| fOF ||| fUF ||| fNX) := rfl
  unfold execFcvt
  cases kind with
  | flt src => exact issue_fput h rfl ((sigNV_within _).trans hnv) hround
  | fromI => exact issue_fput h rfl (.zero _) hround
  | fromN => exact issue_fput h rfl (.zero _) hround
  | toI => exact issue_putS_raise h _ rfl ((intConvert_within ..).trans hint)
  | toN => exact issue_putS_raise h _ rfl ((intConvert_within ..).trans hint)

/-- Every scalar instruction completes with its scalar results alone; JR where its target is aligned. -/
theorem exec_completesScalar {i : Instr} {us : List Use} {s : State} {c : Ctx} (hus : scalarUses i = some us)
    (h : Issues i us s c) (hjr : ∀ d a imm, i = .jr d a imm → (c.s_ .a + imm.signExtend 64).toNat % 8 = 0) :
    CompletesScalar c s (scalarFlags i) (exec i s) := by
  have hround : (fOF ||| fUF ||| fNX).Within (fNV ||| fOF ||| fUF ||| fNX) := rfl
  have hnv : fNV.Within (fNV ||| fOF ||| fUF ||| fNX) := rfl
  have hdz : (fNV ||| fDZ).Within (fNV ||| fDZ ||| fOF ||| fUF ||| fNX) := rfl
  have hdiv : (fOF ||| fUF ||| fNX).Within (fNV ||| fDZ ||| fOF ||| fUF ||| fNX) := rfl
  unfold scalarUses at hus
  split at hus <;> cases hus
  · exact (alu2_completesScalar h fun _ _ => .zero _ : CompletesScalar _ _ _ (execAdd _ _ _ _))
  · exact (alu2_completesScalar h fun _ _ => .zero _ : CompletesScalar _ _ _ (execSub _ _ _ _))
  · exact (alu2_completesScalar h fun _ _ => .zero _ : CompletesScalar _ _ _ (execMul _ _ _ _))
  · exact (alu2_completesScalar h fun _ _ => .zero _ : CompletesScalar _ _ _ (execMulh _ _ _ _))
  · exact (alu2_completesScalar h fun _ _ => .zero _ : CompletesScalar _ _ _ (execMulhu _ _ _ _))
  · exact (alu2_completesScalar h divS_within : CompletesScalar _ _ _ (execDiv _ _ _ _))
  · exact (alu2_completesScalar h divU_within : CompletesScalar _ _ _ (execDivu _ _ _ _))
  · exact (alu2_completesScalar h remS_within : CompletesScalar _ _ _ (execRem _ _ _ _))
  · exact (alu2_completesScalar h remU_within : CompletesScalar _ _ _ (execRemu _ _ _ _))
  · exact (alu2_completesScalar h fun _ _ => .zero _ : CompletesScalar _ _ _ (execAnd _ _ _ _))
  · exact (alu2_completesScalar h fun _ _ => .zero _ : CompletesScalar _ _ _ (execOr _ _ _ _))
  · exact (alu2_completesScalar h fun _ _ => .zero _ : CompletesScalar _ _ _ (execXor _ _ _ _))
  · exact (alu2_completesScalar h fun _ _ => .zero _ : CompletesScalar _ _ _ (execShl _ _ _ _))
  · exact (alu2_completesScalar h fun _ _ => .zero _ : CompletesScalar _ _ _ (execShr _ _ _ _))
  · exact (alu2_completesScalar h fun _ _ => .zero _ : CompletesScalar _ _ _ (execSra _ _ _ _))
  · exact (alu2_completesScalar h fun _ _ => .zero _ : CompletesScalar _ _ _ (execSlt _ _ _ _))
  · exact (alu2_completesScalar h fun _ _ => .zero _ : CompletesScalar _ _ _ (execSltu _ _ _ _))
  · exact (alu2_completesScalar h fun _ _ => .zero _ : CompletesScalar _ _ _ (execMin _ _ _ _))
  · exact (alu2_completesScalar h fun _ _ => .zero _ : CompletesScalar _ _ _ (execMax _ _ _ _))
  · exact (alu2_completesScalar h fun _ _ => .zero _ : CompletesScalar _ _ _ (execMinu _ _ _ _))
  · exact (alu2_completesScalar h fun _ _ => .zero _ : CompletesScalar _ _ _ (execMaxu _ _ _ _))
  · exact (alu1_completesScalar _ h : CompletesScalar _ _ _ (execClz _ _ _))
  · exact (alu1_completesScalar _ h : CompletesScalar _ _ _ (execCtz _ _ _))
  · exact (alu1_completesScalar _ h : CompletesScalar _ _ _ (execPopc _ _ _))
  · exact (alu1_completesScalar _ h : CompletesScalar _ _ _ (execBfx _ _ _ _ _ _))
  · exact (alu1_completesScalar _ h : CompletesScalar _ _ _ (execLih _ _ _ _))
  · exact (issue_fput h rfl ((sqrtV_within _).trans hnv) hround : CompletesScalar _ _ _ (execFsqrt _ _ _ _ _))
  · exact execFcvt_completesScalar h
  · exact (issue_putS h _ rfl : CompletesScalar _ _ _ (execFclass _ _ _ _))
  · exact execJr_completesScalar h (hjr _ _ _ rfl)
  · exact (issue_putS h _ rfl : CompletesScalar _ _ _ (execBfi _ _ _ _ _ _))
  · exact (fp2_completesScalar h (fun _ _ _ => (addV_within ..).trans hnv) hround : CompletesScalar _ _ _ (execFadd _ _ _ _ _ _))
  · exact (fp2_completesScalar h (fun _ _ _ => (addV_within ..).trans hnv) hround : CompletesScalar _ _ _ (execFsub _ _ _ _ _ _))
  · exact (fp2_completesScalar h (fun _ _ _ => (mulV_within ..).trans hnv) hround : CompletesScalar _ _ _ (execFmul _ _ _ _ _ _))
  · exact (fp2_completesScalar h (fun _ _ _ => (divV_within ..).trans hdz) hdiv : CompletesScalar _ _ _ (execFdiv _ _ _ _ _ _))
  · exact (fp2_completesScalar h (fun _ _ _ => (minV_within ..).trans hnv) hround : CompletesScalar _ _ _ (execFmin _ _ _ _ _))
  · exact (fp2_completesScalar h (fun _ _ _ => (maxV_within ..).trans hnv) hround : CompletesScalar _ _ _ (execFmax _ _ _ _ _))
  · exact (issue_putS_raise h _ rfl (cmpV_within ..) : CompletesScalar _ _ _ (execFcmp _ _ _ _ _ _))
  · exact (issue_putS h _ rfl : CompletesScalar _ _ _ (execSel _ _ _ _ _))
  · exact (issue_fput h rfl ((fmaV_within ..).trans hnv) hround : CompletesScalar _ _ _ (execFma _ _ _ _ _ _ _))
  · exact (issue_putS h _ rfl : CompletesScalar _ _ _ (execLi _ _ _))
  · exact execJal_completesScalar h
  · exact (issue_putS h _ rfl : CompletesScalar _ _ _ (execCrd _ _ _))
  · exact (issue_putS h _ rfl : CompletesScalar _ _ _ (execGetid _ _ _))
  · exact (issue_putS h _ rfl : CompletesScalar _ _ _ (execIxget _ _ _))
  · exact (branch_completesScalar h : CompletesScalar _ _ _ (execBeq _ _ _ _))
  · exact (branch_completesScalar h : CompletesScalar _ _ _ (execBne _ _ _ _))
  · exact (branch_completesScalar h : CompletesScalar _ _ _ (execBlt _ _ _ _))
  · exact (branch_completesScalar h : CompletesScalar _ _ _ (execBge _ _ _ _))
  · exact (branch_completesScalar h : CompletesScalar _ _ _ (execBltu _ _ _ _))
  · exact (branch_completesScalar h : CompletesScalar _ _ _ (execBgeu _ _ _ _))
  · exact execJmp_completesScalar h

/-- Settles O12: the frame of the results, then that of completion. -/
theorem scalarFrame : Obligations.ScalarFrame := by
  intro i us s c t hus h hstep hjr ht
  obtain ⟨u, pc, he, hu⟩ := exec_completesScalar hus h hjr
  obtain rfl : t = complete c { s := u, pc } := Host.Outcome.next.inj (ht.symm.trans he)
  obtain ⟨rfl, rfl, -⟩ := ready_same h
  have hteam : u.me.team = c.s.me.team := by rw [hu.me]
  have hown : OwnOnly c.s (complete c { s := u, pc }) := hu.own.trans (ownOnly_complete (d := { s := u, pc }) hstep) hteam
  have hme := me_complete_eq (d := { s := u, pc }) hstep
  have hvi : c.s.myVi = u.myVi := (hu.own.myVi_eq hteam).symm
  have hs : (complete c { s := u, pc }).me.s = u.me.s := by rw [hme]
  have hfctl : (complete c { s := u, pc }).me.fctl = u.me.fctl := by rw [hme]
  have hpc : (complete c { s := u, pc }).me.pc = pc.getD (c.me.pc + 8#64) := by rw [hme]
  have hlate : u.me.late = c.s.me.late := by rw [hu.me]
  have hix : u.me.i = c.s.me.i := by rw [hu.me]
  refine ⟨hown, ?_, fun l hl => ?_, fun n hn => ?_, rfl, fun n hn => ?_, fun k _ => ?_, fun k hk => ?_, fun q hq hd => ?_,
    fun k hk => ?_, hown.byteAt_eq, hown.tagAt_eq⟩
  · rw [hs, hfctl, hpc]
    refine hme.trans ?_
    rw [hu.me]
    rfl
  · exact hlate ▸ late_complete_subset (d := { s := u, pc }) hstep rfl l hl
  · rw [← hu.regs n hn, Strand.getS, hs, Strand.getS]
  · rw [getI_complete hstep, Strand.getI_advanceIx_ne _ _ hn, Strand.getI, hix, Strand.getI]
  · exact hfctl ▸ hu.sets k
  · exact hfctl ▸ hu.keeps k hk
  · rw [← hu.queues q hd, ← hteam, queues_complete (d := { s := u, pc }) hstep, State.find_popAll_ne _ _ hq]
  · rw [counter_complete_ne hstep hk, hu.vis]

end Sys2Proof.Machine
end


section
/-! PROOFS. The frame of vector results (R147) fails in the reserved formats 0x33 to 0x3F (R48), of which the statement's result may
be one. -/

namespace Sys2Proof.Machine

theorem getV_putV_same {c : Ctx} {n : Nat} (hd : c.td = .reg n) (s : State) (w : VW) :
    (c.putV s w).me.getV n = (commit (s.me.getV n) w).1 := by
  rw [Ctx.putV, hd, putVAt, State.me_setMe, Strand.getV, Strand.raise_v]
  exact Strand.getV_setV ..

/-- Completion and flags leave the register that a vector result wrote. -/
theorem getV_complete_putV {c : Ctx} {n : Nat} (hs : c.me.sstep = none) (hd : c.td = .reg n) (s : State) (w : VW) (fl : Flags) :
    (complete c { s := (c.putV s w).raise fl }).me.getV n = (commit (s.me.getV n) w).1 := by
  rw [← getV_putV_same hd, Strand.getV, me_complete_eq hs, State.raise, State.me_setMe, Strand.raise_v, Strand.getV]

/-- A register in the reserved format 0x33, which holds 1,365 elements of six bits, with element 1,360 set. -/
def reservedReg : VReg := { fmt := 0x33#6, zero3 := false, data := BitVec.ofNat 8192 (2 ^ 8160) }

/-- A result in that format with neither active nor padding elements. -/
def reservedWrite : VW :=
  { fmt := 0x33#6, act := fun _ => false, pad := fun _ => false, el := fun _ => .raw 0 0, feed := fun _ => false, rm := .rne
    enc := fun _ => (0, 0#7) }

/-- A strand with that register in v1. -/
def reservedState : State := { strands := [(0, { v := [(1, reservedReg)], vpresent := 2#64 })] }

/-- A commit writes whole groups of 16 elements: 85 of them, which leave out elements 1,360 to 1,364. -/
theorem code_commit_reserved : (commit reservedReg reservedWrite).1.code 1360 = 0 := by decide +kernel

theorem code_reservedReg : reservedReg.code 1360 = 1 := by decide +kernel

/-- Refutes O13: in the reserved format 0x33 the capacity, 1,365, is no multiple of 16, and a result that keeps every element
clears element 1,360. -/
theorem not_vectorFrame : ¬ Obligations.VectorFrame := by
  intro h
  obtain ⟨c, hc, hd⟩ : ∃ c, Issues (.vtag true (.reg 1) (.imm 0x03#6)) [wrV (.reg 1)] reservedState c ∧ c.td = .reg 1 :=
    ⟨_, rfl, rfl⟩
  have hs : c.me.sstep = none := by rw [Ctx.me, (ready_same hc).1]; rfl
  obtain ⟨⟨-, -, -, -, -, -, hkeep, -, -⟩, -⟩ := h _ _ _ c .all reservedWrite 0#7 1 0#1024 hc rfl hd
  have hcode := hkeep rfl (fun _ => (by decide : 0 < 2 ^ elemBits 0x33#6))
    (fun _ _ _ _ he => by cases he; decide) rfl 1360 (by decide) rfl rfl
  rw [getV_complete_putV hs hd] at hcode
  have hold : reservedState.me.getV 1 = reservedReg := rfl
  rw [hold, code_commit_reserved, code_reservedReg] at hcode
  cases hcode

end Sys2Proof.Machine
end


section
/-! PROOFS. A step: a strand's turn, the fetch, and what passes beside it (R22, R37, R386; logs 4, 122). -/

namespace Sys2Proof.Machine

/-! ### A strand's turn -/

section
variable {run : Instr → State → Host.Outcome State Fault Refusal} {s : State}

theorem turn_of_pend {p : Pend} (h : s.firstPend s.me = some p) : turn run s = .next (s.takePend s.cur p) := by
  simp only [turn, h]

theorem turn_of_fetchTrap {t : Trap} (h : s.firstPend s.me = none) (hf : s.fetch = .error (.trap t)) :
    turn run s = .next ((s.spendFor t).deliver s.cur t) := by
  simp only [turn, h, hf, stopState]

theorem turn_of_decoded {x : Xlat} {w : Word} {i : Instr} (h : s.firstPend s.me = none) (hf : s.fetch = .ok (x, w))
    (hd : decode w = .ok i) : turn run s = run i (((s.used x).fillHost x).chargeFetch x.pa) := by
  simp only [turn, h, hf, hd]

theorem turn_of_illegal {x : Xlat} {w : Word} {sub : Nat} (h : s.firstPend s.me = none) (hf : s.fetch = .ok (x, w))
    (hd : decode w = .error sub) : turn run s =
      .next ((((s.used x).fillHost x).chargeFetch x.pa).deliver (((s.used x).fillHost x).chargeFetch x.pa).cur
        { cause := .illegal, v0 := w, v1 := w64 sub }) := by
  simp only [turn, h, hf, hd]

end

/-! ### A fetch leaves whose turn it is -/

theorem State.cur_writeHost (s : State) (nc : Bool) (ln : Nat) (l : LineV) : (s.writeHost nc ln l).cur = s.cur := by
  unfold State.writeHost
  split <;> rfl

theorem State.cur_orByte (s : State) (p : Nat × Nat) : (s.orByte p).cur = s.cur := by
  simp only [State.orByte]
  split
  · exact State.cur_writeHost ..
  · exact State.cur_writeHost ..
  · simp only [State.notify]
    split <;> rfl

theorem State.cur_foldl_orByte (upd : List (Nat × Nat)) (s : State) : (upd.foldl State.orByte s).cur = s.cur := by
  induction upd generalizing s with
  | nil => rfl
  | cons p upd ih => exact (ih _).trans (State.cur_orByte s p)

theorem State.cur_used (s : State) (x : Xlat) : (s.used x).cur = s.cur := by
  refine Eq.trans ?_ (State.cur_foldl_orByte x.upd s)
  simp only [State.used, State.keepOnStack]
  split <;> rfl

theorem State.cur_fillHost (s : State) (x : Xlat) : (s.fillHost x).cur = s.cur := by
  unfold State.fillHost
  split
  · split
    · split <;> rfl
    · split <;> rfl
  · split
    · split <;> rfl
    · split <;> rfl
  · rfl

theorem State.cur_fetched (s : State) (x : Xlat) : (((s.used x).fillHost x).chargeFetch x.pa).cur = s.cur :=
  (State.cur_fillHost ..).trans (State.cur_used ..)

/-! ### Who gets a turn -/

theorem step_of_issue {s : State} {sid : Nat} {rest : List Act} (h : s.agenda = .issue sid :: rest)
    (hmay : ({ s with agenda := rest } : State).mayIssue sid = true)
    (hdep : ({ s with agenda := rest } : State).deprived exec sid = false) :
    step s = clocked (turn exec (({ s with agenda := rest } : State).prepare exec sid
      (({ s with agenda := rest } : State).afterIssue exec sid false))) := by
  simp only [step, advance, h, State.agendaTurn, hmay, hdep, Bool.not_true, Bool.false_eq_true, if_false]

theorem step_of_event {s : State} {i : Instr} {rest : List Act} (h : s.agenda = .event i :: rest) :
    step s = clocked (exec i { s with agenda := rest }) := by
  simp only [step, advance, h]

/-- With nothing planned and an even count, the one strand that may issue does (log 4). -/
theorem step_of_alone {s : State} {sid : Nat} {st : Strand} (h : s.agenda = []) (ht : s.tick % 2 = 0)
    (hone : (s.strands.filter fun p => s.mayIssue p.1) = [(sid, st)]) :
    step s = clocked (turn exec (s.prepare exec sid (s.afterIssue exec sid true))) := by
  have hodd : ¬ s.tick % 2 = 1 := by omega
  simp only [step, advance, h, idleStep, hodd, if_false, State.select, hone]

/-! ### What the choice writes, and what time changes -/

/-- A table whose entries are changed key by key. -/
theorem Tab.find_map {α : Type} (f : Nat × α → α) (t : Tab α) (k : Nat) :
    Tab.find (t.map fun p => (p.1, f p)) k = (Tab.find t k).map fun v => f (k, v) := by
  induction t with
  | nil => rfl
  | cons p t ih =>
    simp only [List.map_cons, Tab.find]
    split
    · next h => subst h; rfl
    · exact ih

/-- What holds of every changed entry and of the value of an unlisted key holds of what every key reads as. -/
theorem Tab.get_map {α : Type} {P : α → α → Prop} {d : α} {f : Nat × α → α} (t : Tab α) (k : Nat) (hd : P d d)
    (hf : ∀ v, P v (f (k, v))) : P (Tab.get d t k) (Tab.get d (t.map fun p => (p.1, f p)) k) := by
  rw [Tab.get, Tab.get, Tab.find_map]
  cases Tab.find t k with
  | none => exact hd
  | some v => exact hf v

theorem State.prepare_strand (run : Instr → State → Host.Outcome State Fault Refusal) (s : State) (sid : Nat) (drr : Tab Drr)
    (k : Nat) : ∃ w n, (s.prepare run sid drr).strand k = { s.strand k with waited := w, nmax := n } :=
  Tab.get_map (P := fun st x : Strand => ∃ w n, x = { st with waited := w, nmax := n }) s.strands k ⟨_, _, rfl⟩
    fun _ => ⟨_, _, rfl⟩

/-- Only the counters of virtual interfaces differ. -/
structure CountersOnly (s t : State) : Prop where
  rest : t = { s with vis := t.vis }
  vis : ∀ n, ∃ k, t.vi n = { s.vi n with counters := k }

theorem CountersOnly.refl (s : State) : CountersOnly s s := ⟨rfl, fun _ => ⟨_, rfl⟩⟩

theorem CountersOnly.trans {s t u : State} (h : CountersOnly s t) (k : CountersOnly t u) : CountersOnly s u where
  rest := by
    have hu := k.rest
    rw [h.rest] at hu
    exact hu
  vis n := by
    obtain ⟨a, ha⟩ := h.vis n
    obtain ⟨b, hb⟩ := k.vis n
    exact ⟨b, by rw [hb, ha]⟩

theorem countersOnly_charge (s : State) (vi i n : Nat) : CountersOnly s (s.charge vi i n) where
  rest := rfl
  vis m := by
    by_cases h : m = vi
    · subst h; exact ⟨_, State.vi_setVi ..⟩
    · exact ⟨_, State.vi_setVi_ne _ _ _ _ h⟩

theorem countersOnly_chargeTime (s : State) (p : Passed) (st : Strand) : CountersOnly s (s.chargeTime p st) := by
  unfold State.chargeTime
  split
  · split
    · exact .refl s
    · exact (countersOnly_charge ..).trans (countersOnly_charge ..)
  · exact .refl s

theorem countersOnly_chargeTimes (p : Passed) (ss : Tab Strand) (s : State) :
    CountersOnly s (ss.foldl (fun s (x : Nat × Strand) => s.chargeTime p x.2) s) := by
  induction ss generalizing s with
  | nil => exact .refl s
  | cons x ss ih => exact (countersOnly_chargeTime s p x.2).trans (ih _)

/-- What the passing of time changes. -/
theorem State.pass_changes (s : State) (p : Passed) : ∃ strands vis cycles dies agenda,
    s.pass p = { s with strands, vis, cycles, dies, agenda } ∧
    (∀ sid, ∃ n, (s.pass p).strand sid = { s.strand sid with wdrem := n }) ∧
    (∀ n, ∃ k, (s.pass p).vi n = { s.vi n with counters := k }) ∧
    (∀ d, ∃ k, (s.pass p).die d = { s.die d with refcnt := k }) := by
  have hcount := countersOnly_chargeTimes p s.strands s
  refine ⟨(s.pass p).strands, (s.pass p).vis, (s.pass p).cycles, (s.pass p).dies, (s.pass p).agenda, ?_, fun sid => ?_,
    hcount.vis, fun d => ?_⟩
  · simp only [State.pass]
    rw [hcount.rest]
  · refine Tab.get_map (P := fun st x : Strand => ∃ n, x = { st with wdrem := n }) s.strands sid ⟨_, rfl⟩ fun v => ?_
    split
    · exact ⟨_, rfl⟩
    · exact ⟨_, rfl⟩
  · exact Tab.get_map (P := fun x y : Die => ∃ k, y = { x with refcnt := k }) s.dies d ⟨_, rfl⟩ fun v => ⟨_, rfl⟩

/-- Settles O4: the turn's cases, the choice of a turn, and what `prepare` and the clock write. -/
theorem stepRunsDecoded : Obligations.StepRunsDecoded := by
  refine ⟨⟨?issue, fun s i rest => step_of_event, ?alone⟩, ?prepare, ?clock⟩
  case issue =>
    intro s sid rest hag s0 hmay hdep s1
    have hstep : step s = clocked (turn exec s1) := step_of_issue hag hmay hdep
    refine ⟨fun p hp => by rw [hstep, turn_of_pend hp]; rfl, fun hp => ⟨fun t hf => ?_, fun x w i hf hd => ?_, ?_⟩⟩
    · rw [hstep, turn_of_fetchTrap hp hf]; rfl
    · rw [hstep, turn_of_decoded hp hf hd]
    · intro x w sub hf hd
      rw [hstep, turn_of_illegal hp hf hd, State.cur_fetched]
      rfl
  case alone =>
    intro s sid st x w i hag htick hone s1 hp hf hd
    rw [step_of_alone hag htick hone, turn_of_decoded hp hf hd]
  case prepare =>
    exact fun s sid drr => ⟨_, _, _, rfl, s.prepare_strand exec sid drr⟩
  case clock =>
    exact fun s => ({ s with tick := s.tick + 1 } : State).pass_changes (stepTime s.tick)

end Sys2Proof.Machine
end


section
/-! PROOFS. How specifiers resolve (R26–R28, R122, R124, R210): direct registers, index registers, lane mode and queues. -/

namespace Sys2Proof.Machine

/-! ### The checks before an instruction's own -/

section
variable {i : Instr} {s : State} {us : List Use} {mk : Mk} {c : Ctx} {e : Stop}

theorem resolveAll_cons (c : Ctx) (u : Use) (us : List Use) : resolveAll c (u :: us) = resolveUse c u >>= fun c => resolveAll c us :=
  rfl

theorem resolveAll_cons_ok {u : Use} {c c' : Ctx} (h : resolveUse c u = .ok c') : resolveAll c (u :: us) = resolveAll c' us := by
  rw [resolveAll_cons, h, Res.ok_bind]

theorem resolveAll_cons_error {u : Use} {c : Ctx} (h : resolveUse c u = .error e) : resolveAll c (u :: us) = .error e := by
  rw [resolveAll_cons, h, Res.error_bind]

/-- A fault of a specifier is raised (R37 step 4). -/
theorem ready_of_resolve_error (hp : privOk i s.me.priv = true) (h : resolveAll { s, i, mask := mk, us } us = .error e) :
    ready i s us mk (fun _ => .ok ()) = .error e := by
  simp only [ready, ensure_of_true hp, h, Res.ok_bind, Res.error_bind]

variable (hp : privOk i s.me.priv = true) (hr : resolveAll { s, i, mask := mk, us } us = .ok c)
include hp hr

theorem issues_of_resolve (hl : needsLanes (opOf i) = true → s.myCar.service = false)
    (hq : forEach (queueFault c) us = .ok ()) (hready : queuesReady c us = true) : Issues i us s c mk := by
  refine ready_ok.mpr ⟨hp, hr, ?_, rfl, hq, hready⟩
  cases h : needsLanes (opOf i)
  · rfl
  · rw [hl h]; rfl

theorem ready_of_queueFault (hl : needsLanes (opOf i) = false) (hq : forEach (queueFault c) us = .error e) :
    ready i s us mk (fun _ => .ok ()) = .error e := by
  simp only [ready, ensure_of_true hp, hr, lanesHeld, hl, hq, Res.ok_bind, Res.error_bind, Bool.false_and, Bool.false_eq_true,
    if_false]
  rfl

/-- A queue that cannot serve the instruction holds it (R28). -/
theorem ready_of_queue_wait (hl : needsLanes (opOf i) = false) (hq : forEach (queueFault c) us = .ok ())
    (hready : queuesReady c us = false) : ready i s us mk (fun _ => .ok ()) = .error .stall := by
  simp only [ready, ensure_of_true hp, hr, lanesHeld, hl, hq, hready, Res.ok_bind, Bool.false_and, Bool.false_eq_true, if_false]
  rfl

/-- NO_LANES of a service strand, whose instruction has no slot that VDOT4 checks at its steps (R106). -/
theorem ready_noLanes (hl : needsLanes (opOf i) = true) (hsvc : s.myCar.service = true)
    (hlate : (us.any fun u => u.late) = false) :
    ready i s us mk (fun _ => .ok ()) = .error (.trap { cause := .noLanes, v0 := encode i }) := by
  have hs : c.s = s := (resolveAll_same hr).1
  simp only [ready, ensure_of_true hp, hr, lanesHeld, hl, hs, hsvc, hlate, Res.ok_bind, Bool.and_self, Bool.false_eq_true,
    if_true, if_false]
  rfl

end

theorem forEach_ok {α : Type} {f : α → Res Unit} {xs : List α} (h : ∀ x ∈ xs, f x = .ok ()) : forEach f xs = .ok () := by
  induction xs with
  | nil => rfl
  | cons x xs ih =>
    rw [forEach, h x List.mem_cons_self, Res.ok_bind]
    exact ih fun y hy => h y (List.mem_cons_of_mem x hy)

/-- Slots that name no queue raise nothing of R210. -/
theorem queueFault_of_noQ {c : Ctx} {u : Use} (h : ∀ q, u.o ≠ .q q) : queueFault c u = .ok () := by
  unfold queueFault
  split
  · next q hq => exact absurd hq (h q)
  · rfl

theorem queueFaults_of_noQ {c : Ctx} {us : List Use} (h : ∀ u ∈ us, ∀ q, u.o ≠ .q q) :
    forEach (queueFault c) us = .ok () :=
  forEach_ok fun u hu => queueFault_of_noQ (h u hu)

theorem queuesReady_of_noQ {c : Ctx} {us : List Use} (h : ∀ u ∈ us, ∀ q, u.o ≠ .q q) : queuesReady c us = true := by
  refine List.all_eq_true.mpr fun u hu => ?_
  split
  · next q hq => exact absurd hq (h u hu q)
  · rfl

/-- An instruction whose slots name no queue issues once they resolve. -/
theorem issues_of_noQ {i : Instr} {s : State} {us : List Use} {mk : Mk} {c : Ctx} (hp : privOk i s.me.priv = true)
    (hl : needsLanes (opOf i) = true → s.myCar.service = false) (hq : ∀ u ∈ us, ∀ q, u.o ≠ .q q)
    (hr : resolveAll { s, i, mask := mk, us } us = .ok c) : Issues i us s c mk :=
  issues_of_resolve hp hr hl (queueFaults_of_noQ hq) (queuesReady_of_noQ hq)

/-! ### Registers named directly -/

theorem resolveUse_reg {c : Ctx} {u : Use} {n : BitVec 6} (ho : u.o = .reg n) (hf : u.file ≠ .v) :
    resolveUse c u = .ok (c.setTgt u.slot (.reg n.toNat)) := by
  simp only [resolveUse, ho, beq_eq_false_iff_ne.mpr hf, Bool.false_and, Bool.false_eq_true, if_false]
  rfl

theorem checkPresent_ok {st : Strand} {n : Nat} (h : bitAt st.vpresent n = true) (sl : Slot) :
    checkPresent st sl n = .ok () := ensure_of_true h ..

theorem checkPresent_absent {st : Strand} {n : Nat} (h : bitAt st.vpresent n = false) (sl : Slot) :
    checkPresent st sl n = .error (.trap { cause := .vabsent, v0 := w64 n, v1 := w64 (Slot.num sl) }) := ensure_of_false h ..

theorem resolveUse_rdV_reg {c : Ctx} {n : BitVec 6} (sl : Slot) :
    resolveUse c (rdV sl (.reg n)) = checkPresent c.me sl n.toNat >>= fun _ => .ok (c.setTgt sl (.reg n.toNat)) := by
  simp only [resolveUse, rdV]
  cases h : checkPresent c.me sl n.toNat <;> simp [forEach, h, Res.ok_bind, Res.error_bind]

theorem resolveUse_wrV_reg {c : Ctx} {n : BitVec 6} :
    resolveUse c (wrV (.reg n)) = checkPresent c.me .d n.toNat >>= fun _ => .ok (c.setTgt .d (.reg n.toNat)) :=
  resolveUse_rdV_reg .d

end Sys2Proof.Machine
end


section
/-! PROOFS. Index registers: the fields of their word, and what one use of them resolves to (R122). -/

namespace Sys2Proof.Machine

/-! ### The word of an index register -/

/-- The fields of an index register, the lowest first: the window, the offset, STEP, AUTO, WRAP, FILE, LANE and LSRC. -/
structure IxFields where
  base : Nat
  len : Nat
  off : Nat
  step : Nat := 0
  auto : Nat := 0
  wrap : Nat := 0
  file : Nat := 0
  lane : Nat := 0
  lsrc : Nat := 0

namespace IxFields

def num (f : IxFields) : Nat :=
  f.base + f.len * 2 ^ 6 + f.off * 2 ^ 12 + f.step * 2 ^ 18 + f.auto * 2 ^ 22 + f.wrap * 2 ^ 24 + f.file * 2 ^ 25
    + f.lane * 2 ^ 27 + f.lsrc * 2 ^ 28

/-- Each field is within its bits, and AUTO is not the reserved 3. -/
structure Fits (f : IxFields) : Prop where
  base : f.base < 64
  len : f.len < 64
  off : f.off < 64
  step : f.step < 16
  auto : f.auto < 3
  wrap : f.wrap < 2
  file : f.file < 3
  lane : f.lane < 2
  lsrc : f.lsrc < 64

/-- A register that holds these fields. -/
structure In (f : IxFields) (st : Strand) (n : Nat) : Prop where
  fits : f.Fits
  word : st.getI n = w64 f.num

section
variable {f : IxFields} (h : f.Fits)
include h

theorem num_lt : f.num < 2 ^ 34 := by
  obtain ⟨h1, h2, h3, h4, h5, h6, h7, h8, h9⟩ := h
  simp only [num]; omega

theorem toNat_word : (w64 f.num).toNat = f.num := by
  rw [w64, BitVec.toNat_ofNat, Nat.mod_eq_of_lt (Nat.lt_trans (num_lt h) (by decide))]

/-- Each field of the word reads back. -/
theorem bits_word : bits (w64 f.num) 0 6 = f.base ∧ bits (w64 f.num) 6 6 = f.len ∧ bits (w64 f.num) 12 6 = f.off ∧
    bits (w64 f.num) 18 4 = f.step ∧ bits (w64 f.num) 22 2 = f.auto ∧ bits (w64 f.num) 25 2 = f.file ∧
    bits (w64 f.num) 28 6 = f.lsrc ∧ bits (w64 f.num) 34 30 = 0 := by
  simp only [bits, toNat_word h]
  obtain ⟨h1, h2, h3, h4, h5, h6, h7, h8, h9⟩ := h
  simp only [num]
  refine ⟨?_, ?_, ?_, ?_, ?_, ?_, ?_, ?_⟩ <;> omega

theorem bitAt_word : bitAt (w64 f.num) 24 = decide (f.wrap = 1) ∧ bitAt (w64 f.num) 27 = decide (f.lane = 1) := by
  have h24 : f.num / 2 ^ 24 % 2 = f.wrap := by
    obtain ⟨h1, h2, h3, h4, h5, h6, h7, h8, h9⟩ := h
    simp only [num]; omega
  have h27 : f.num / 2 ^ 27 % 2 = f.lane := by
    obtain ⟨h1, h2, h3, h4, h5, h6, h7, h8, h9⟩ := h
    simp only [num]; omega
  simp only [bitAt, toNat_word h, h24, h27]
  exact ⟨rfl, rfl⟩

end

/-! ### What one use names -/

variable (f : IxFields)

/-- The registers of the window. -/
def window : Nat := if f.len = 0 then 64 else f.len

def stepInt : Int := if f.step < 8 then f.step else (f.step : Int) - 16

/-- The offset that this use names, before WRAP: an AUTO of pre moves it first. -/
def adj : Int := if f.auto = 2 then (f.off : Int) + f.stepInt else f.off

def offset : Nat := if f.wrap = 1 then (f.adj % (f.window : Int)).toNat else f.adj.toNat

/-- The offset after a use with an AUTO of post. -/
def next : Int := (f.offset : Int) + f.stepInt

/-- The offset that completion writes. -/
def moved : Option Nat :=
  if f.auto = 1 then some (if f.wrap = 1 then (f.next % (f.window : Int)).toNat else f.next.toNat)
  else if f.auto = 2 then some f.offset else none

/-- The resolved register. -/
def res : IxRes :=
  { base := f.base, b := f.window, o := f.offset, new := f.moved, wrap := decide (f.wrap = 1), lane := decide (f.lane = 1)
    lsrc := f.lsrc }

theorem window_pos : 0 < f.window := by
  unfold window
  split <;> omega

theorem window_of_len_lt {f : IxFields} (h : f.len < 64) : f.window ≤ 64 := by
  unfold window
  split <;> omega

theorem sextN_step : sextN 4 f.step = f.stepInt := by
  unfold sextN stepInt
  split <;> simp_all

theorem adj_eq : Int.ofNat f.off + (if f.auto = 2 then f.stepInt else 0) = f.adj := by
  unfold adj
  split <;> simp

end IxFields

/-! ### Resolution -/

section
variable {st : Strand} {i : Instr} {F : OFile} {sl : Slot} {n : Nat} {f : IxFields} (h : f.In st n)
include h

/-- The word names another file than the slot's. -/
theorem resolveIx_of_file_ne (hfile : f.file ≠ F.num) :
    resolveIx st i F sl n = .error (.trap { cause := .illegal, v0 := encode i, v1 := 6#64, v2 := w64 n }) := by
  obtain ⟨-, -, -, -, -, bfile, -, -⟩ := IxFields.bits_word h.fits
  have hbad : (bits (w64 f.num) 34 30 == 0 && bits (w64 f.num) 25 2 != 3 && bits (w64 f.num) 22 2 != 3 &&
      bits (w64 f.num) 25 2 == F.num) = false := by
    rw [bfile, beq_eq_false_iff_ne.mpr hfile, Bool.and_false]
  simp only [resolveIx, h.word, ensure_of_false hbad, Res.error_bind]
  rfl

variable (hfile : f.file = F.num)
include hfile

/-- The checks of R122 in their order, in terms of the fields. -/
theorem resolveIx_eq : resolveIx st i F sl n = (do
    let t0 := w64 (n + 16 * Slot.num sl)
    ensure (f.base + f.window ≤ F.size) .bound t0 (w64 (f.base + f.window)) 1#64
    ensure (!decide (f.lane = 1) || F == .v) .bound t0 0#64 3#64
    ensure (decide (f.wrap = 1) || (decide (0 ≤ f.adj) && decide (f.adj < f.window))) .bound t0 (wInt f.adj) 0#64
    ensure (f.auto != 1 || decide (f.wrap = 1) || (decide (0 ≤ f.next) && decide (f.next ≤ Nat.min f.window 63))) .bound t0
      (wInt f.next) 2#64
    return f.res) := by
  obtain ⟨bbase, blen, boff, bstep, bauto, bfile, blsrc, bhigh⟩ := IxFields.bits_word h.fits
  obtain ⟨bwrap, blane⟩ := IxFields.bitAt_word h.fits
  have hfit := h.fits
  have hgood : (f.file != 3 && f.auto != 3 && f.file == F.num) = true := by
    simp only [← hfile, beq_self_eq_true, Bool.and_true, Bool.and_eq_true, bne_iff_ne]
    exact ⟨Nat.ne_of_lt hfit.file, Nat.ne_of_lt hfit.auto⟩
  simp only [resolveIx, h.word, bbase, blen, boff, bstep, bauto, bfile, blsrc, bhigh, bwrap, blane, IxFields.sextN_step,
    beq_self_eq_true, Bool.true_and, ensure_of_true hgood, Res.ok_bind, IxFields.adj_eq]
  simp only [decide_eq_true_eq, IxFields.res, IxFields.moved, IxFields.next, IxFields.offset, IxFields.window,
    Int.ofNat_eq_natCast]
  rfl

theorem resolveIx_beyond (hb : F.size < f.base + f.window) : resolveIx st i F sl n =
    .error (.trap { cause := .bound, v0 := w64 (n + 16 * Slot.num sl), v1 := w64 (f.base + f.window), v2 := 1#64 }) := by
  rw [resolveIx_eq h hfile]
  exact congrArg (· >>= _) (ensure_of_false (decide_eq_false (Nat.not_le.mpr hb)) ..)

variable (hb : f.base + f.window ≤ F.size) (hlane : f.lane = 1 → F = .v)
include hb hlane

/-- The checks past the window's. -/
theorem resolveIx_within : resolveIx st i F sl n = (do
    let t0 := w64 (n + 16 * Slot.num sl)
    ensure (decide (f.wrap = 1) || (decide (0 ≤ f.adj) && decide (f.adj < f.window))) .bound t0 (wInt f.adj) 0#64
    ensure (f.auto != 1 || decide (f.wrap = 1) || (decide (0 ≤ f.next) && decide (f.next ≤ Nat.min f.window 63))) .bound t0
      (wInt f.next) 2#64
    return f.res) := by
  have hok : (!decide (f.lane = 1) || F == .v) = true := by
    by_cases hl : f.lane = 1
    · simp [hlane hl]
    · simp [hl]
  simp only [resolveIx_eq h hfile, ensure_of_true (decide_eq_true hb), ensure_of_true hok, Res.ok_bind]

theorem resolveIx_outside (hwrap : f.wrap ≠ 1) (hadj : f.adj < 0 ∨ (f.window : Int) ≤ f.adj) : resolveIx st i F sl n =
    .error (.trap { cause := .bound, v0 := w64 (n + 16 * Slot.num sl), v1 := wInt f.adj, v2 := 0#64 }) := by
  have hno : (decide (f.wrap = 1) || (decide (0 ≤ f.adj) && decide (f.adj < f.window))) = false := by
    simp only [hwrap, decide_false, Bool.false_or, Bool.and_eq_false_iff, decide_eq_false_iff_not]
    omega
  simp only [resolveIx_within h hfile hb hlane, ensure_of_false hno, Res.error_bind]

variable (hin : f.wrap = 1 ∨ 0 ≤ f.adj ∧ f.adj < f.window)
include hin

/-- The check of the offset after an AUTO of post. -/
theorem resolveIx_inside : resolveIx st i F sl n = (do
    ensure (f.auto != 1 || decide (f.wrap = 1) || (decide (0 ≤ f.next) && decide (f.next ≤ Nat.min f.window 63))) .bound
      (w64 (n + 16 * Slot.num sl)) (wInt f.next) 2#64
    return f.res) := by
  have hok : (decide (f.wrap = 1) || (decide (0 ≤ f.adj) && decide (f.adj < f.window))) = true := by simpa using hin
  simp only [resolveIx_within h hfile hb hlane, ensure_of_true hok, Res.ok_bind]

theorem resolveIx_leaves (hauto : f.auto = 1) (hwrap : f.wrap ≠ 1) (hnext : f.next < 0 ∨ (Nat.min f.window 63 : Int) < f.next) :
    resolveIx st i F sl n =
      .error (.trap { cause := .bound, v0 := w64 (n + 16 * Slot.num sl), v1 := wInt f.next, v2 := 2#64 }) := by
  have hno : (f.auto != 1 || decide (f.wrap = 1) || (decide (0 ≤ f.next) && decide (f.next ≤ Nat.min f.window 63))) = false := by
    simp only [hauto, hwrap, bne_self_eq_false, decide_false, Bool.false_or, Bool.and_eq_false_iff, decide_eq_false_iff_not]
    omega
  simp only [resolveIx_inside h hfile hb hlane hin, ensure_of_false hno, Res.error_bind]

theorem resolveIx_ok (hpost : f.auto = 1 → f.wrap ≠ 1 → 0 ≤ f.next ∧ f.next ≤ (Nat.min f.window 63 : Int)) :
    resolveIx st i F sl n = .ok f.res := by
  have hok : (f.auto != 1 || decide (f.wrap = 1) || (decide (0 ≤ f.next) && decide (f.next ≤ Nat.min f.window 63))) = true := by
    by_cases hauto : f.auto = 1
    · by_cases hwrap : f.wrap = 1
      · simp [hwrap]
      · simpa [hauto, hwrap] using hpost hauto hwrap
    · simp [hauto]
  simp only [resolveIx_inside h hfile hb hlane hin, ensure_of_true hok, Res.ok_bind]
  rfl

end

end Sys2Proof.Machine
end


section
/-! PROOFS. Slots that name their register through an index register (R122), in lane mode too (R124), and queues (R28, R210). -/

namespace Sys2Proof.Machine

/-! ### Slots of index registers -/

/-- The offset that completion writes, as a context records it. -/
def Ctx.moveIx (c : Ctx) (n : Nat) (new : Option Nat) : Ctx :=
  { c with ix := match new with | some o => Tab.put c.ix n o | none => c.ix }

section
variable {c : Ctx} {u : Use} {n : BitVec 3} (ho : u.o = .ix n)
include ho

theorem resolveUse_ix_error {e : Stop} (h : resolveIx c.me c.i u.file u.slot n.toNat = .error e) :
    resolveUse c u = .error e := by
  simp only [resolveUse, ho, h, Res.error_bind]

variable {r : IxRes} (h : resolveIx c.me c.i u.file u.slot n.toNat = .ok r)
include h

/-- A slot of scalar or mask registers. -/
theorem resolveUse_ix (hf : u.file ≠ .v) (hl : r.lane = false) :
    resolveUse c u = .ok ((c.moveIx n.toNat r.new).setTgt u.slot (.reg (r.base + r.o))) := by
  have hfile : (u.file == .v) = false := beq_eq_false_iff_ne.mpr hf
  have hbne : (u.file != .v) = true := by rw [bne, hfile]; rfl
  simp only [resolveUse, ho, h, hl, hfile, hbne, Res.ok_bind, Bool.false_and, Bool.true_or, ensure_true, Bool.false_eq_true,
    if_false]
  cases r.new <;> rfl

/-- A slot of one vector register. -/
theorem resolveUse_ix_v (hf : u.file = .v) (hg : u.grp = 1) (hlate : u.late = false) (hl : r.lane = false)
    (hin : r.base + r.o < 48) (hpres : bitAt c.me.vpresent (r.base + r.o) = true) :
    resolveUse c u = .ok ((c.moveIx n.toNat r.new).setTgt u.slot (.reg (r.base + r.o))) := by
  have hcheck : forEach (checkPresent c.me u.slot) ((List.range 1).map fun k => r.base + r.o + k) = .ok () :=
    forEach_ok fun m hm => by
      obtain rfl : m = r.base + r.o := by simpa using hm
      exact checkPresent_ok hpres _
  have hle : (u.file != .v || decide (r.base + r.o + 1 ≤ 48)) = true := by
    rw [decide_eq_true (Nat.succ_le_of_lt hin), Bool.or_true]
  have hv : (u.file == .v && !u.late) = true := by rw [hf, hlate]; rfl
  simp only [resolveUse, ho, h, hl, hg, ensure_of_true hle, hv, hcheck, Res.ok_bind, Bool.false_eq_true, if_false, if_true]
  cases r.new <;> rfl

/-- A slot in lane mode. -/
theorem resolveUse_ix_lane (hl : r.lane = true) :
    resolveUse c u = resolveLane c u n.toNat r >>= fun t => .ok ((c.moveIx n.toNat r.new).setTgt u.slot t) := by
  simp only [resolveUse, ho, h, hl, Res.ok_bind, if_true]
  cases r.new <;> rfl

end

/-! ### Lane mode -/

/-- The offset within the window that element j of an offset register selects. -/
def laneOffset (o : Nat) (v : VReg) (j : Nat) : Int :=
  (o : Int) + (match v.elem j with | .fin neg n _ => Val.snum neg n | _ => 0)

theorem laneRegs_eq {r : IxRes} {v : VReg} (hwrap : r.wrap = false) (t0 : Word) (js : List Nat) (acc : Tab Nat)
    (h : ∀ j ∈ js, v.psnAt (j / 16) = false ∧ 0 ≤ laneOffset r.o v j ∧ laneOffset r.o v j < r.b) :
    laneRegs r v t0 js acc = .ok (acc.reverse ++ js.map fun j => (j, r.base + (laneOffset r.o v j).toNat)) := by
  induction js generalizing acc with
  | nil => simp [laneRegs]
  | cons j js ih =>
    obtain ⟨hpsn, hlo, hhi⟩ := h j List.mem_cons_self
    have hin : (decide (laneOffset r.o v j < 0) || decide ((r.b : Int) ≤ laneOffset r.o v j)) = false := by
      simp only [Bool.or_eq_false_iff, decide_eq_false_iff_not]
      omega
    have hstep : laneRegs r v t0 (j :: js) acc = laneRegs r v t0 js ((j, r.base + (laneOffset r.o v j).toNat) :: acc) := by
      rw [laneRegs, hpsn, hwrap]
      simp only [Bool.false_eq_true, if_false]
      exact if_neg (by rw [← Bool.not_eq_true] at hin; exact hin)
    rw [hstep, ih _ fun k hk => h k (List.mem_cons_of_mem j hk)]
    simp

theorem mem_laneSet {regs : Tab Nat} {n : Nat} (h : n ∈ laneSet regs) : ∃ j, (j, n) ∈ regs := by
  obtain ⟨⟨j, m⟩, hp, hm⟩ := List.any_eq_true.mp (List.mem_filter.mp h).2
  exact ⟨j, beq_iff_eq.mp hm ▸ hp⟩

theorem Tab.find_map_self {α : Type} (g : Nat → α) {js : List Nat} {j : Nat} (h : j ∈ js) :
    Tab.find (js.map fun k => (k, g k)) j = some (g j) := by
  induction js with
  | nil => cases h
  | cons k js ih =>
    simp only [List.map_cons, Tab.find]
    split
    · next hk => rw [hk]
    · next hk => exact ih ((List.mem_cons.mp h).resolve_left hk)

/-- A lane-mode slot whose active elements all name present registers of the window (R124). -/
theorem resolveLane_eq {c : Ctx} {u : Use} {r : IxRes} (n : Nat) (hu : (u.isGrp || u.whole) = false) (hlate : u.late = false)
    (hwrap : r.wrap = false) (hl : r.lsrc < 48) (hpres : bitAt c.me.vpresent r.lsrc = true)
    (hint : isWInt (c.me.getV r.lsrc).fmt = true) (hcap : c.me.vlen ≤ cap (c.me.getV r.lsrc).fmt)
    (h : ∀ j ∈ c.actives, (c.me.getV r.lsrc).psnAt (j / 16) = false ∧ 0 ≤ laneOffset r.o (c.me.getV r.lsrc) j ∧
      laneOffset r.o (c.me.getV r.lsrc) j < r.b ∧
      bitAt c.me.vpresent (r.base + (laneOffset r.o (c.me.getV r.lsrc) j).toNat) = true) :
    resolveLane c u n r = .ok (.lane (r.base + r.o)
      (c.actives.map fun j => (j, r.base + (laneOffset r.o (c.me.getV r.lsrc) j).toNat))) := by
  have hregs := laneRegs_eq hwrap (w64 (n + 16 * Slot.num u.slot)) c.actives [] fun j hj =>
    ⟨(h j hj).1, (h j hj).2.1, (h j hj).2.2.1⟩
  have hcheck : forEach (checkPresent c.me u.slot) (laneSet (c.actives.map fun j =>
      (j, r.base + (laneOffset r.o (c.me.getV r.lsrc) j).toNat))) = .ok () := forEach_ok fun m hm => by
    obtain ⟨j, hj⟩ := mem_laneSet hm
    obtain ⟨k, hk, he⟩ := List.mem_map.mp hj
    obtain ⟨-, rfl⟩ := Prod.mk.inj he
    exact checkPresent_ok (h k hk).2.2.2 _
  have hlp : lanePresent c u r.lsrc = .ok () := by
    simp only [lanePresent, hlate, Bool.not_false, if_true]
    exact checkPresent_ok hpres _
  simp only [resolveLane, hu, hlate, hlp, hregs, hcheck, ensure_of_true (decide_eq_true hl), ensure_of_true hint,
    ensure_of_true (decide_eq_true hcap), ensure_true, Res.ok_bind, Bool.not_false, if_true, List.reverse_nil, List.nil_append]
  rfl

end Sys2Proof.Machine
end


section
/-! PROOFS. Instructions of one read slot and a destination: when they issue, and with what operands (R26, R106, R122, R124). -/

namespace Sys2Proof.Machine

/-! ### Direct registers -/

section
variable {i : Instr} {s : State} {mk : Mk} {u : Use} {d : BitVec 6}

/-- An instruction that reads one slot, which names no queue, and writes a scalar register. -/
theorem issues_wrS {c : Ctx} (hp : privOk i s.me.priv = true) (hl : needsLanes (opOf i) = true → s.myCar.service = false)
    (hu : ∀ q, u.o ≠ .q q) (h : resolveUse { s, i, mask := mk, us := [u, wrS (.reg d)] } u = .ok c) :
    Issues i [u, wrS (.reg d)] s (c.setTgt .d (.reg d.toNat)) mk := by
  refine issues_of_noQ hp hl ?_ ?_
  · simpa [wrS] using hu
  · rw [resolveAll_cons_ok h, resolveAll_cons_ok (resolveUse_reg rfl OFile.noConfusion)]
    rfl

/-- The same where a vector register is written. -/
theorem issues_wrV {c : Ctx} (hp : privOk i s.me.priv = true) (hl : needsLanes (opOf i) = true → s.myCar.service = false)
    (hd : bitAt s.me.vpresent d.toNat = true)
    (hu : ∀ q, u.o ≠ .q q) (h : resolveUse { s, i, mask := mk, us := [u, wrV (.reg d)] } u = .ok c) (hs : c.s = s) :
    Issues i [u, wrV (.reg d)] s (c.setTgt .d (.reg d.toNat)) mk := by
  refine issues_of_noQ hp hl ?_ ?_
  · simpa [wrV] using hu
  · rw [resolveAll_cons_ok h, resolveAll_cons_ok (c' := c.setTgt .d (.reg d.toNat))]
    · rfl
    · rw [resolveUse_wrV_reg, checkPresent_ok (by rw [Ctx.me, hs]; exact hd), Res.ok_bind]

theorem issues_wrM {c : Ctx} (hp : privOk i s.me.priv = true) (hl : needsLanes (opOf i) = true → s.myCar.service = false)
    (hu : ∀ q, u.o ≠ .q q) (h : resolveUse { s, i, mask := mk, us := [u, wrM (.reg d)] } u = .ok c) :
    Issues i [u, wrM (.reg d)] s (c.setTgt .d (.reg d.toNat)) mk := by
  refine issues_of_noQ hp hl ?_ ?_
  · simpa [wrM] using hu
  · rw [resolveAll_cons_ok h, resolveAll_cons_ok (resolveUse_reg rfl OFile.noConfusion)]
    rfl

/-- A fault of the first slot is the instruction's. -/
theorem ready_of_first_error {e : Stop} {us : List Use} (hp : privOk i s.me.priv = true)
    (h : resolveUse { s, i, mask := mk, us := u :: us } u = .error e) : ready i s (u :: us) mk (fun _ => .ok ()) = .error e :=
  ready_of_resolve_error hp (resolveAll_cons_error h)

end

theorem scalarDirect (i : Instr) (s : State) (a b d : BitVec 6) (hp : privOk i s.me.priv = true)
    (hl : needsLanes (opOf i) = true → s.myCar.service = false) :
    ∃ c, Issues i [rdS .a (.reg a), rdS .b (.reg b), wrS (.reg d)] s c ∧ c.s_ .a = s.me.getS a.toNat ∧
      c.s_ .b = s.me.getS b.toNat ∧ c.td = .reg d.toNat ∧ c.ix = [] ∧ c.pops = [] := by
  have h : resolveAll { s, i, us := [rdS .a (.reg a), rdS .b (.reg b), wrS (.reg d)] } [rdS .a (.reg a), rdS .b (.reg b), wrS (.reg d)]
      = .ok { s, i, us := [rdS .a (.reg a), rdS .b (.reg b), wrS (.reg d)], ta := .reg a.toNat, tb := .reg b.toNat
              td := .reg d.toNat } := by
    rw [resolveAll_cons_ok (resolveUse_reg rfl OFile.noConfusion), resolveAll_cons_ok (resolveUse_reg rfl OFile.noConfusion),
      resolveAll_cons_ok (resolveUse_reg rfl OFile.noConfusion)]
    rfl
  exact ⟨_, issues_of_noQ hp hl (by simp [rdS, wrS]) h, rfl, rfl, rfl, rfl, rfl⟩

section
variable {i : Instr} {s : State} {mk : Mk} {a b d : BitVec 6}

theorem resolveAll_vectorDirect (hpres : ∀ n ∈ [a, b, d], bitAt s.me.vpresent n.toNat = true) :
    let us := [rdV .a (.reg a), rdV .b (.reg b), wrV (.reg d)]
    let c : Ctx := { s, i, mask := mk, us }
    resolveAll c us = .ok (((c.setTgt .a (.reg a.toNat)).setTgt .b (.reg b.toNat)).setTgt .d (.reg d.toNat)) := by
  intro us c
  have ha := checkPresent_ok (hpres a (by simp))
  have hb := checkPresent_ok (hpres b (by simp))
  have hd := checkPresent_ok (hpres d (by simp))
  rw [resolveAll_cons_ok (c' := c.setTgt .a (.reg a.toNat)), resolveAll_cons_ok
    (c' := (c.setTgt .a (.reg a.toNat)).setTgt .b (.reg b.toNat)), resolveAll_cons_ok
    (c' := ((c.setTgt .a (.reg a.toNat)).setTgt .b (.reg b.toNat)).setTgt .d (.reg d.toNat))]
  · rfl
  · exact resolveUse_wrV_reg.trans (congrArg (· >>= _) (hd .d))
  · exact (resolveUse_rdV_reg .b).trans (congrArg (· >>= _) (hb .b))
  · exact (resolveUse_rdV_reg .a).trans (congrArg (· >>= _) (ha .a))

theorem vectorDirect (hp : privOk i s.me.priv = true) :
    ((∀ n ∈ [a, b, d], bitAt s.me.vpresent n.toNat = true) → s.myCar.service = false →
      ∃ c, Issues i [rdV .a (.reg a), rdV .b (.reg b), wrV (.reg d)] s c mk ∧ c.v_ .a = VOp.ofReg (s.me.getV a.toNat) a.toNat ∧
        c.v_ .b = VOp.ofReg (s.me.getV b.toNat) b.toNat ∧ c.td = .reg d.toNat) ∧
    (bitAt s.me.vpresent a.toNat = false → ready i s [rdV .a (.reg a), rdV .b (.reg b), wrV (.reg d)] mk (fun _ => .ok ()) =
      .error (.trap { cause := .vabsent, v0 := w64 a.toNat, v1 := 0#64 })) ∧
    ((∀ n ∈ [a, b, d], bitAt s.me.vpresent n.toNat = true) → s.myCar.service = true → needsLanes (opOf i) = true →
      ready i s [rdV .a (.reg a), rdV .b (.reg b), wrV (.reg d)] mk (fun _ => .ok ()) =
        .error (.trap { cause := .noLanes, v0 := encode i })) := by
  refine ⟨fun hpres hsvc => ?_, fun habs => ?_, fun hpres hsvc hl => ?_⟩
  · exact ⟨_, issues_of_noQ hp (fun _ => hsvc) (by simp [rdV, wrV]) (resolveAll_vectorDirect hpres), rfl, rfl, rfl⟩
  · refine ready_of_first_error hp ?_
    exact (resolveUse_rdV_reg .a).trans (congrArg (· >>= _) (checkPresent_absent habs .a))
  · exact ready_noLanes hp (resolveAll_vectorDirect hpres) hl hsvc rfl

end

/-! ### Index registers -/

/-- A fault of the index register of a scalar slot. -/
theorem scalarIx_fault {i : Instr} {s : State} {n : BitVec 3} {d : BitVec 6} {e : Stop} (hp : privOk i s.me.priv = true)
    (h : resolveIx s.me i .s .a n.toNat = .error e) :
    ready i s [rdS .a (.ix n), wrS (.reg d)] .all (fun _ => .ok ()) = .error e :=
  ready_of_first_error hp (resolveUse_ix_error rfl h)

section
variable {i : Instr} {s : State} {n : BitVec 3} {d : BitVec 6} {f : IxFields} (hin : f.In s.me n.toNat)
  (hp : privOk i s.me.priv = true)
include hin hp

/-- A scalar slot through an index register in order: the register it names, and its next offset. -/
theorem scalarIx_issues (hl : needsLanes (opOf i) = false) (hfile : f.file = 0) (hlane : f.lane = 0)
    (hb : f.base + f.window ≤ 64) (hadj : f.wrap = 1 ∨ 0 ≤ f.adj ∧ f.adj < f.window)
    (hpost : f.auto = 1 → f.wrap ≠ 1 → 0 ≤ f.next ∧ f.next ≤ (Nat.min f.window 63 : Int)) :
    ∃ c, Issues i [rdS .a (.ix n), wrS (.reg d)] s c ∧ c.s_ .a = s.me.getS (f.base + f.offset) ∧
      c.ix = (f.moved.map fun o => (n.toNat, o)).toList := by
  have hr : resolveIx s.me i .s .a n.toNat = .ok f.res :=
    resolveIx_ok hin hfile hb (fun h => absurd (hlane.symm.trans h) (by decide)) hadj hpost
  have hu := resolveUse_ix (c := { s, i, us := [rdS .a (.ix n), wrS (.reg d)] }) (u := rdS .a (.ix n)) rfl hr OFile.noConfusion
    (by rw [IxFields.res, hlane]; rfl)
  refine ⟨_, issues_wrS hp (by simp [hl]) (by simp [rdS]) hu, rfl, ?_⟩
  change (Ctx.moveIx _ _ f.moved).ix = _
  cases f.moved <;> rfl

end

/-- What a scalar slot through an index register does, case by case of R122. -/
theorem scalarIx (i : Instr) (s : State) (n : BitVec 3) (d : BitVec 6) (f : IxFields) (hin : f.In s.me n.toNat)
    (hp : privOk i s.me.priv = true) (hl : needsLanes (opOf i) = false) (hfile : f.file = 0) (hlane : f.lane = 0) :
    (f.base + f.window > 64 → ready i s [rdS .a (.ix n), wrS (.reg d)] .all (fun _ => .ok ()) =
      .error (.trap { cause := .bound, v0 := w64 n.toNat, v1 := w64 (f.base + f.window), v2 := 1#64 })) ∧
    (f.base + f.window ≤ 64 → f.wrap = 0 → (f.adj < 0 ∨ (f.window : Int) ≤ f.adj) →
      ready i s [rdS .a (.ix n), wrS (.reg d)] .all (fun _ => .ok ()) =
        .error (.trap { cause := .bound, v0 := w64 n.toNat, v1 := BitVec.ofInt 64 f.adj, v2 := 0#64 })) ∧
    (f.base + f.window ≤ 64 → (f.wrap = 1 ∨ (0 ≤ f.adj ∧ f.adj < f.window)) →
    (f.auto = 0 → ∃ c, Issues i [rdS .a (.ix n), wrS (.reg d)] s c ∧ c.s_ .a = s.me.getS (f.base + f.offset) ∧ c.ix = []) ∧
    (f.auto = 1 → f.wrap = 1 → ∃ c, Issues i [rdS .a (.ix n), wrS (.reg d)] s c ∧ c.s_ .a = s.me.getS (f.base + f.offset) ∧
      c.ix = [(n.toNat, (f.next % f.window).toNat)]) ∧
    (f.auto = 1 → f.wrap = 0 → 0 ≤ f.next → f.next ≤ min f.window 63 →
      ∃ c, Issues i [rdS .a (.ix n), wrS (.reg d)] s c ∧ c.s_ .a = s.me.getS (f.base + f.offset) ∧
        c.ix = [(n.toNat, f.next.toNat)]) ∧
    (f.auto = 2 → ∃ c, Issues i [rdS .a (.ix n), wrS (.reg d)] s c ∧ c.s_ .a = s.me.getS (f.base + f.offset) ∧
      c.ix = [(n.toNat, f.offset)]) ∧
    (f.auto = 1 → f.wrap = 0 → (f.next < 0 ∨ f.next > min f.window 63) →
      ready i s [rdS .a (.ix n), wrS (.reg d)] .all (fun _ => .ok ()) =
        .error (.trap { cause := .bound, v0 := w64 n.toNat, v1 := BitVec.ofInt 64 f.next, v2 := 2#64 }))) := by
  have hnl : f.lane = 1 → OFile.s = .v := fun h => absurd (hlane.symm.trans h) (by decide)
  have hnum : f.file = OFile.s.num := hfile
  refine ⟨fun hb => ?_, fun hb hw hadj => ?_, fun hb hadj => ⟨fun ha => ?_, fun ha hw => ?_, fun ha hw h0 h1 => ?_, fun ha => ?_,
    fun ha hw hn => ?_⟩⟩
  · exact scalarIx_fault hp (resolveIx_beyond hin hnum hb)
  · exact scalarIx_fault hp (resolveIx_outside hin hnum hb hnl (by omega) hadj)
  · obtain ⟨c, hc, hv, hix⟩ := scalarIx_issues (d := d) hin hp hl hfile hlane hb hadj (by omega)
    exact ⟨c, hc, hv, by simpa [IxFields.moved, ha] using hix⟩
  · obtain ⟨c, hc, hv, hix⟩ := scalarIx_issues (d := d) hin hp hl hfile hlane hb hadj (by omega)
    exact ⟨c, hc, hv, by simpa [IxFields.moved, ha, hw] using hix⟩
  · obtain ⟨c, hc, hv, hix⟩ := scalarIx_issues (d := d) hin hp hl hfile hlane hb hadj fun _ _ => ⟨h0, h1⟩
    exact ⟨c, hc, hv, by simpa [IxFields.moved, ha, hw] using hix⟩
  · obtain ⟨c, hc, hv, hix⟩ := scalarIx_issues (d := d) hin hp hl hfile hlane hb hadj (by omega)
    exact ⟨c, hc, hv, by simpa [IxFields.moved, ha] using hix⟩
  · exact scalarIx_fault hp (resolveIx_leaves hin hnum hb hnl hadj ha (by omega) hn)

/-! ### Windows of vector and mask registers, and lane mode -/

theorem IxFields.offset_wrap {f : IxFields} (hw : f.wrap = 1) (ha : f.auto = 0) : f.offset = f.off % f.window := by
  rw [offset, if_pos hw, adj, if_neg (by omega), ← Int.natCast_mod, Int.toNat_natCast]

theorem IxFields.offset_plain {f : IxFields} (hw : f.wrap = 0) (ha : f.auto = 0) : f.offset = f.off := by
  rw [offset, if_neg (by omega), adj, if_neg (by omega), Int.toNat_natCast]

theorem laneOp_code {c : Ctx} {base j : Nat} {g : Nat → Nat} {js : List Nat} (hj : j ∈ js) :
    (laneOp c base (js.map fun k => (k, g k))).code j = (c.me.getV (g j)).code j := by
  simp only [laneOp, Tab.find_map_self g hj]

section
variable {i : Instr} {s : State} {mk : Mk} {n : BitVec 3} {d : BitVec 6} {f : IxFields} (hin : f.In s.me n.toNat)
  (hp : privOk i s.me.priv = true)
include hin hp

/-- A scalar slot through an index register of another file. -/
theorem scalarIx_of_file_ne (hfile : f.file ≠ 0) : ready i s [rdS .a (.ix n), wrS (.reg d)] .all (fun _ => .ok ()) =
    .error (.trap { cause := .illegal, v0 := encode i, v1 := 6#64, v2 := w64 n.toNat }) :=
  ready_of_first_error hp (resolveUse_ix_error rfl (resolveIx_of_file_ne hin hfile))

theorem vectorIx_beyond (hfile : f.file = 1) (hb : f.base + f.window > 48) :
    ready i s [rdV .a (.ix n), wrV (.reg d)] .all (fun _ => .ok ()) =
      .error (.trap { cause := .bound, v0 := w64 n.toNat, v1 := w64 (f.base + f.window), v2 := 1#64 }) :=
  ready_of_first_error hp (resolveUse_ix_error rfl (resolveIx_beyond hin hfile hb))

variable (hsvc : s.myCar.service = false) (hauto : f.auto = 0) (hadj : f.wrap = 1 ∨ 0 ≤ f.adj ∧ f.adj < f.window)
include hsvc hauto hadj

theorem vectorIx_issues (hfile : f.file = 1) (hlane : f.lane = 0) (hb : f.base + f.window ≤ 48)
    (hpres : bitAt s.me.vpresent (f.base + f.offset) = true) (hlt : f.offset < f.window)
    (hd : bitAt s.me.vpresent d.toNat = true) : ∃ c, Issues i [rdV .a (.ix n), wrV (.reg d)] s c mk ∧
      c.v_ .a = VOp.ofReg (s.me.getV (f.base + f.offset)) (f.base + f.offset) := by
  have hr : resolveIx s.me i .v .a n.toNat = .ok f.res := resolveIx_ok hin hfile hb (fun _ => rfl) hadj (by omega)
  have hu := resolveUse_ix_v (c := { s, i, mask := mk, us := [rdV .a (.ix n), wrV (.reg d)] }) (u := rdV .a (.ix n)) rfl hr rfl
    rfl rfl (by rw [IxFields.res, hlane]; rfl) (show f.base + f.offset < 48 by omega) hpres
  exact ⟨_, issues_wrV hp (fun _ => hsvc) hd (by simp [rdV]) hu rfl, rfl⟩

theorem maskIx_issues (hfile : f.file = 2) (hlane : f.lane = 0) (hb : f.base + f.window ≤ 12) :
    ∃ c, Issues i [rdM .a (.ix n), wrM (.reg d)] s c mk ∧ c.m_ .a = s.me.getM (f.base + f.offset) := by
  have hr : resolveIx s.me i .m .a n.toNat = .ok f.res :=
    resolveIx_ok hin hfile hb (fun h => absurd (hlane.symm.trans h) (by decide)) hadj (by omega)
  have hu := resolveUse_ix (c := { s, i, mask := mk, us := [rdM .a (.ix n), wrM (.reg d)] }) (u := rdM .a (.ix n)) rfl hr
    OFile.noConfusion (by rw [IxFields.res, hlane]; rfl)
  exact ⟨_, issues_wrM hp (fun _ => hsvc) (by simp [rdM]) hu, rfl⟩

theorem laneIx_issues (hfile : f.file = 1) (hlane : f.lane = 1) (hwrap : f.wrap = 0) (hb : f.base + f.window ≤ 48)
    (hl : f.lsrc < 48) (hpres : bitAt s.me.vpresent f.lsrc = true) (hint : isWInt (s.me.getV f.lsrc).fmt = true)
    (hcap : s.me.vlen ≤ cap (s.me.getV f.lsrc).fmt)
    (h : ∀ j ∈ s.me.actives mk, (s.me.getV f.lsrc).psnAt (j / 16) = false ∧ 0 ≤ laneOffset f.offset (s.me.getV f.lsrc) j ∧
      laneOffset f.offset (s.me.getV f.lsrc) j < f.window ∧
      bitAt s.me.vpresent (f.base + (laneOffset f.offset (s.me.getV f.lsrc) j).toNat) = true)
    (hd : bitAt s.me.vpresent d.toNat = true) :
    ∃ c, Issues i [rdV .a (.ix n), wrV (.reg d)] s c mk ∧
      c.ta = .lane (f.base + f.offset)
        ((s.me.actives mk).map fun j => (j, f.base + (laneOffset f.offset (s.me.getV f.lsrc) j).toNat)) ∧
      ∀ j ∈ s.me.actives mk, (c.v_ .a).code j =
        (s.me.getV (f.base + (laneOffset f.offset (s.me.getV f.lsrc) j).toNat)).code j := by
  let c : Ctx := { s, i, mask := mk, us := [rdV .a (.ix n), wrV (.reg d)] }
  have hr : resolveIx s.me i .v .a n.toNat = .ok f.res := resolveIx_ok hin hfile hb (fun _ => rfl) hadj (by omega)
  have hlanes := resolveLane_eq (c := c) (u := rdV .a (.ix n)) (r := f.res) n.toNat rfl rfl
    (by rw [IxFields.res, hwrap]; rfl) hl hpres hint hcap h
  have hu := resolveUse_ix_lane (c := c) (u := rdV .a (.ix n)) rfl hr (by rw [IxFields.res, hlane]; rfl)
  rw [hlanes, Res.ok_bind] at hu
  refine ⟨_, issues_wrV hp (fun _ => hsvc) hd (by simp [rdV]) hu rfl, rfl, fun j hj => ?_⟩
  exact laneOp_code hj

end

end Sys2Proof.Machine
end


section
/-! PROOFS. Queues as operands (R28, R210), and O10. -/

namespace Sys2Proof.Machine

/-! ### Queues -/

theorem Tab.get_of_find {α : Type} {t : Tab α} {k : Nat} {v : α} (h : Tab.find t k = some v) (d : α) : Tab.get d t k = v := by
  rw [Tab.get, h]; rfl

section
variable {c : Ctx} {q : BitVec 3} {x : Queue}

theorem queueOf_scalar (hq : q.toNat < c.s.myCar.wb.queues) (hx : Tab.find c.s.myTeam.queues q.toNat = some x)
    (hv : x.vec = false) : queueOf c .s q.toNat = .ok x := by
  simp [queueOf, hx, hq, hv]

theorem resolveUse_pop {y : Queue} (sl : Slot) (h : queueOf c .s q.toNat = .ok y) (hp : c.pops = []) :
    resolveUse c (rdS sl (.q q)) = .ok ({ c with pops := [(q.toNat, 1)] }.setTgt sl (.pop q.toNat 0)) := by
  simp only [resolveUse, resolveQueue, rdS, h, hp, Res.ok_bind]
  rfl

theorem resolveUse_push {y : Queue} (h : queueOf c .s q.toNat = .ok y) :
    resolveUse c (wrS (.q q)) = .ok { c with td := .push q.toNat, tdRd := .none } := by
  simp only [resolveUse, resolveQueue, wrS, h, Res.ok_bind]
  rfl

variable (hx : Tab.find c.s.myTeam.queues q.toNat = some x)
include hx

/-- R210 for a slot that pops one entry. -/
theorem queueFault_pop {sl : Slot} {k : Nat} (ht : c.tgt sl = .pop q.toNat k) : queueFault c (rdS sl (.q q)) = (do
    ensure (nbits x.cons.toNat c.me.idx 1 == 1) .access (w64 q.toNat) 3#64
    ensure (!(c.s.queueClosed c.s.myTeam x && decide (x.entries.length < k + 1))) .queueEnd (w64 q.toNat) (w64 (Slot.num sl))
      0#64) := by
  simp only [queueFault, rdS, Tab.get_of_find hx, ht, Bool.not_false, Bool.true_or, ensure_true, Res.ok_bind, Bool.not_true,
    Bool.false_or, Bool.false_eq_true, if_false, Bool.true_and]

theorem queueFault_pop_ok {sl : Slot} {k : Nat} (ht : c.tgt sl = .pop q.toNat k) (hcons : nbits x.cons.toNat c.me.idx 1 = 1)
    (h : c.s.queueClosed c.s.myTeam x = false ∨ k < x.entries.length) : queueFault c (rdS sl (.q q)) = .ok () := by
  have hend : (!(c.s.queueClosed c.s.myTeam x && decide (x.entries.length < k + 1))) = true := by
    rcases h with h | h
    · rw [h]; rfl
    · rw [decide_eq_false (by omega), Bool.and_false]; rfl
  rw [queueFault_pop hx ht, ensure_of_true (beq_iff_eq.mpr hcons), Res.ok_bind, ensure_of_true hend]

theorem queueFault_pop_end {sl : Slot} {k : Nat} (ht : c.tgt sl = .pop q.toNat k) (hcons : nbits x.cons.toNat c.me.idx 1 = 1)
    (hclosed : c.s.queueClosed c.s.myTeam x = true) (hlen : x.entries.length ≤ k) : queueFault c (rdS sl (.q q)) =
      .error (.trap { cause := .queueEnd, v0 := w64 q.toNat, v1 := w64 (Slot.num sl), v2 := 0#64 }) := by
  have hend : (!(c.s.queueClosed c.s.myTeam x && decide (x.entries.length < k + 1))) = false := by
    rw [hclosed, decide_eq_true (Nat.lt_succ_of_le hlen)]; rfl
  rw [queueFault_pop hx ht, ensure_of_true (beq_iff_eq.mpr hcons), Res.ok_bind, ensure_of_false hend]

theorem queueFault_pop_access {sl : Slot} {k : Nat} (ht : c.tgt sl = .pop q.toNat k)
    (hcons : nbits x.cons.toNat c.me.idx 1 ≠ 1) :
    queueFault c (rdS sl (.q q)) = .error (.trap { cause := .access, v0 := w64 q.toNat, v1 := 3#64 }) := by
  rw [queueFault_pop hx ht, ensure_of_false (beq_eq_false_iff_ne.mpr hcons), Res.error_bind]

/-- R210 for a slot that pushes. -/
theorem queueFault_push : queueFault c (wrS (.q q)) = (do
    ensure (nbits x.prod.toNat c.me.idx 1 == 1) .access (w64 q.toNat) 2#64
    ensure (!(nbits x.pclosed.toNat c.me.idx 1 == 1)) .queueEnd (w64 q.toNat) 3#64 1#64
    .ok ()) := by
  simp only [queueFault, wrS, Tab.get_of_find hx, Bool.not_false, Bool.true_or, ensure_true, Res.ok_bind, Bool.not_true,
    Bool.false_or, Bool.false_and]
  rfl

theorem queueFault_push_ok (hprod : nbits x.prod.toNat c.me.idx 1 = 1) (hopen : nbits x.pclosed.toNat c.me.idx 1 ≠ 1) :
    queueFault c (wrS (.q q)) = .ok () := by
  have hopen : (!(nbits x.pclosed.toNat c.me.idx 1 == 1)) = true := by rw [beq_eq_false_iff_ne.mpr hopen]; rfl
  rw [queueFault_push hx, ensure_of_true (beq_iff_eq.mpr hprod), Res.ok_bind, ensure_of_true hopen, Res.ok_bind]

theorem queueFault_push_end (hprod : nbits x.prod.toNat c.me.idx 1 = 1) (hclosed : nbits x.pclosed.toNat c.me.idx 1 = 1) :
    queueFault c (wrS (.q q)) = .error (.trap { cause := .queueEnd, v0 := w64 q.toNat, v1 := 3#64, v2 := 1#64 }) := by
  have hclosed : (!(nbits x.pclosed.toNat c.me.idx 1 == 1)) = false := by rw [beq_iff_eq.mpr hclosed]; rfl
  rw [queueFault_push hx, ensure_of_true (beq_iff_eq.mpr hprod), Res.ok_bind, ensure_of_false hclosed, Res.error_bind]

theorem queueFault_push_access (hprod : nbits x.prod.toNat c.me.idx 1 ≠ 1) :
    queueFault c (wrS (.q q)) = .error (.trap { cause := .access, v0 := w64 q.toNat, v1 := 2#64 }) := by
  rw [queueFault_push hx, ensure_of_false (beq_eq_false_iff_ne.mpr hprod), Res.error_bind]

theorem queuesReady_pop {d : BitVec 6} {k : Nat} (hp : c.pops = [(q.toNat, k)]) :
    queuesReady c [rdS .a (.q q), wrS (.reg d)] = (decide (k ≤ x.entries.length) && !c.s.queueTaken q.toNat) := by
  simp [queuesReady, rdS, wrS, hx, hp, Tab.get, Tab.find]

theorem queuesReady_push {a : BitVec 6} (hp : c.pops = []) :
    queuesReady c [rdS .a (.reg a), wrS (.q q)] = decide (x.entries.length < x.depth) := by
  simp [queuesReady, rdS, wrS, hx, hp, Tab.get, pushCount]

end

section
variable {i : Instr} {s : State} {q : BitVec 3} {x : Queue} (hp : privOk i s.me.priv = true)
  (hl : needsLanes (opOf i) = false) (hq : q.toNat < s.myCar.wb.queues) (hx : Tab.find s.myTeam.queues q.toNat = some x)
  (hv : x.vec = false)
include hp hl hq hx hv

/-- A read slot that names a queue (R28, R210). -/
theorem queueRead (d : BitVec 6) :
    (nbits x.cons.toNat s.me.idx 1 = 1 → s.queueTaken q.toNat = false → ∀ w rest, x.entries = .sc w :: rest →
      ∃ c, Issues i [rdS .a (.q q), wrS (.reg d)] s c ∧ c.s_ .a = w ∧ c.pops = [(q.toNat, 1)]) ∧
    (nbits x.cons.toNat s.me.idx 1 = 1 → x.entries = [] → s.queueClosed s.myTeam x = false →
      ready i s [rdS .a (.q q), wrS (.reg d)] .all (fun _ => .ok ()) = .error .stall) ∧
    (nbits x.cons.toNat s.me.idx 1 = 1 → x.entries = [] → s.queueClosed s.myTeam x = true →
      ready i s [rdS .a (.q q), wrS (.reg d)] .all (fun _ => .ok ()) =
        .error (.trap { cause := .queueEnd, v0 := w64 q.toNat, v1 := 0#64, v2 := 0#64 })) ∧
    (nbits x.cons.toNat s.me.idx 1 ≠ 1 →
      ready i s [rdS .a (.q q), wrS (.reg d)] .all (fun _ => .ok ()) =
        .error (.trap { cause := .access, v0 := w64 q.toNat, v1 := 3#64 })) := by
  let us := [rdS .a (.q q), wrS (.reg d)]
  let c : Ctx := { s, i, us, ta := .pop q.toNat 0, td := .reg d.toNat, pops := [(q.toNat, 1)] }
  have hr : resolveAll { s, i, us } us = .ok c := by
    rw [resolveAll_cons_ok (resolveUse_pop .a (queueOf_scalar hq hx hv) rfl),
      resolveAll_cons_ok (resolveUse_reg rfl OFile.noConfusion)]
    rfl
  have hfault : forEach (queueFault c) us = queueFault c (rdS .a (.q q)) := by
    rw [forEach, forEach, queueFault_of_noQ (u := wrS (.reg d)) (by simp [wrS])]
    cases queueFault c (rdS .a (.q q)) <;> rfl
  have hready : queuesReady c us = (decide (1 ≤ x.entries.length) && !s.queueTaken q.toNat) := queuesReady_pop (c := c) hx rfl
  refine ⟨fun hcons htaken w rest he => ?_, fun hcons he hclosed => ?_, fun hcons he hclosed => ?_, fun hcons => ?_⟩
  · refine ⟨c, issues_of_resolve hp hr (by simp [hl]) (hfault.trans ?_) (hready.trans (by simp [he, htaken])), ?_, rfl⟩
    · exact queueFault_pop_ok (c := c) hx rfl hcons (.inr (by simp [he]))
    · simp [Ctx.s_, Ctx.tgt, Ctx.readS, Ctx.entry, c, Tab.get_of_find hx, he]
  · exact ready_of_queue_wait hp hr hl (hfault.trans (queueFault_pop_ok (c := c) hx rfl hcons (.inl hclosed)))
      (hready.trans (by simp [he]))
  · exact ready_of_queueFault hp hr hl (hfault.trans (queueFault_pop_end (c := c) hx rfl hcons hclosed (by simp [he])))
  · exact ready_of_queueFault hp hr hl (hfault.trans (queueFault_pop_access (c := c) hx rfl hcons))

/-- A destination that names a queue (R28, R210). -/
theorem queueWrite (a : BitVec 6) :
    (nbits x.prod.toNat s.me.idx 1 ≠ 1 → ready i s [rdS .a (.reg a), wrS (.q q)] .all (fun _ => .ok ()) =
      .error (.trap { cause := .access, v0 := w64 q.toNat, v1 := 2#64 })) ∧
    (nbits x.prod.toNat s.me.idx 1 = 1 → nbits x.pclosed.toNat s.me.idx 1 = 1 →
      ready i s [rdS .a (.reg a), wrS (.q q)] .all (fun _ => .ok ()) =
        .error (.trap { cause := .queueEnd, v0 := w64 q.toNat, v1 := 3#64, v2 := 1#64 })) ∧
    (nbits x.prod.toNat s.me.idx 1 = 1 → nbits x.pclosed.toNat s.me.idx 1 ≠ 1 →
      (x.depth ≤ x.entries.length → ready i s [rdS .a (.reg a), wrS (.q q)] .all (fun _ => .ok ()) = .error .stall) ∧
      (x.entries.length < x.depth → ∃ c, Issues i [rdS .a (.reg a), wrS (.q q)] s c ∧ c.td = .push q.toNat ∧
        ∀ w, Tab.find (c.putS s w).myTeam.queues q.toNat = some { x with entries := x.entries ++ [.sc w] })) := by
  let us := [rdS .a (.reg a), wrS (.q q)]
  let c : Ctx := { s, i, us, ta := .reg a.toNat, td := .push q.toNat }
  have hr : resolveAll { s, i, us } us = .ok c := by
    rw [resolveAll_cons_ok (resolveUse_reg rfl OFile.noConfusion), resolveAll_cons_ok (resolveUse_push (queueOf_scalar hq hx hv))]
    rfl
  have hfault : forEach (queueFault c) us = queueFault c (wrS (.q q)) := by
    rw [forEach, queueFault_of_noQ (u := rdS .a (.reg a)) (by simp [rdS]), Res.ok_bind, forEach]
    cases queueFault c (wrS (.q q)) <;> rfl
  have hready : queuesReady c us = decide (x.entries.length < x.depth) := queuesReady_push (c := c) hx rfl
  refine ⟨fun hprod => ?_, fun hprod hclosed => ?_, fun hprod hopen => ⟨fun hfull => ?_, fun hroom => ?_⟩⟩
  · exact ready_of_queueFault hp hr hl (hfault.trans (queueFault_push_access (c := c) hx hprod))
  · exact ready_of_queueFault hp hr hl (hfault.trans (queueFault_push_end (c := c) hx hprod hclosed))
  · exact ready_of_queue_wait hp hr hl (hfault.trans (queueFault_push_ok (c := c) hx hprod hopen))
      (hready.trans (decide_eq_false (Nat.not_lt.mpr hfull)))
  · refine ⟨c, issues_of_resolve hp hr (by simp [hl]) (hfault.trans (queueFault_push_ok (c := c) hx hprod hopen))
      (hready.trans (decide_eq_true hroom)), rfl, fun w => ?_⟩
    change Tab.find (s.pushQ q.toNat (.sc w)).myTeam.queues q.toNat = _
    rw [State.pushQ, State.myTeam_setMyTeam]
    exact Tab.find_modify_same hx

end

/-- The fields of a window of vector or mask registers under WRAP. -/
theorem wrapWindow_in {st : Strand} {n base len off file : Nat} (hb : base < 64) (hlen : len < 64) (ho : off < 64) (hf : file < 3)
    (h : st.getI n = w64 (base + len * 2 ^ 6 + off * 2 ^ 12 + 2 ^ 24 + file * 2 ^ 25)) :
    ({ base, len, off, wrap := 1, file } : IxFields).In st n :=
  ⟨⟨hb, hlen, ho, by simp, by simp, by simp, hf, by simp, by simp⟩, h.trans (by simp [IxFields.num])⟩

/-- Settles O10: each clause is the issue, or the fault, of the slots that it names. -/
theorem operandRules : Obligations.OperandRules := by
  refine ⟨⟨scalarDirect, fun i s mk a b d hp => vectorDirect hp, ?_, ?_⟩, ?_,
    fun i s q d x hp hl hq hx hv => queueRead hp hl hq hx hv d, fun i s q a x hp hl hq hx hv => queueWrite hp hl hq hx hv a⟩
  · intro i s n d base len off step wrap auto hp hl hb hlen ho hs hw ha hword
    exact scalarIx i s n d { base, len, off, step, auto, wrap }
      ⟨⟨hb, hlen, ho, hs, ha, hw, by simp, by simp, by simp⟩, hword.trans (by simp [IxFields.num])⟩ hp hl rfl rfl
  · intro i s n d base len off hp hsvc hb hlen ho b
    refine ⟨fun hword => ?_, fun hword hbound => ?_⟩
    · have hin := wrapWindow_in (file := 1) hb hlen ho (by decide) hword
      have hoff : IxFields.offset { base, len, off, wrap := 1, file := 1 } = off % b := IxFields.offset_wrap rfl rfl
      have hlt : off % b < b := Nat.mod_lt _ (IxFields.window_pos { base, len, off })
      refine ⟨fun hbound hpres hd => ?_, vectorIx_beyond hin hp rfl, scalarIx_of_file_ne hin hp Nat.one_ne_zero⟩
      rw [← hoff] at hpres ⊢
      exact vectorIx_issues hin hp hsvc rfl (.inl rfl) rfl rfl hbound hpres (hoff.trans_lt hlt) hd
    · have hin := wrapWindow_in (file := 2) hb hlen ho (by decide) hword
      rw [← show IxFields.offset { base, len, off, wrap := 1, file := 2 } = off % b from IxFields.offset_wrap rfl rfl]
      exact maskIx_issues hin hp hsvc rfl (.inl rfl) rfl rfl hbound
  · intro i s mk n d base len off l hp hsvc hb hlen ho hl hword b v k hbound hoffb hint hpres hcap h hd
    let f : IxFields := { base, len, off, file := 1, lane := 1, lsrc := l }
    have hin : f.In s.me n.toNat := ⟨⟨hb, hlen, ho, by simp [f], by simp [f], by simp [f], by simp [f], by simp [f],
      Nat.lt_trans hl (by decide)⟩, hword.trans (by simp [f, IxFields.num])⟩
    have hoff : f.offset = off := IxFields.offset_plain rfl rfl
    have hadj : 0 ≤ f.adj ∧ f.adj < f.window := ⟨Int.natCast_nonneg off, Int.ofNat_lt.mpr hoffb⟩
    have hk : k = laneOffset f.offset v := by rw [hoff]; rfl
    rw [hk] at h ⊢
    rw [← hoff]
    exact laneIx_issues hin hp hsvc rfl (.inr hadj) rfl rfl rfl hbound hl hpres hint hcap h hd

end Sys2Proof.Machine
end


section
/-! PROOFS. Tables in canonical form: memories that read alike are equal (R58). -/

namespace Sys2Proof.Machine

theorem Tab.find_of_above {α : Type} {t : Tab α} {lo k : Nat} (ht : Tab.above lo t = true) (hk : k ≤ lo) :
    Tab.find t k = none := by
  induction t generalizing lo with
  | nil => rfl
  | cons p t ih =>
    obtain ⟨hlo, ht⟩ : lo < p.1 ∧ Tab.above p.1 t = true := by simpa [Tab.above] using ht
    rw [Tab.find, if_neg (by omega), ih ht (by omega)]

/-- The first key of a table is not found in one whose first key is above it. -/
theorem Tab.find_head_ne {α : Type} {a b : Nat} {x y : α} {t u : Tab α} (hab : a < b) (hu : Tab.above b u = true) :
    Tab.find ((a, x) :: t) a ≠ Tab.find ((b, y) :: u) a := by
  rw [Tab.find, Tab.find, if_pos rfl, if_neg (by omega), Tab.find_of_above hu (by omega)]
  exact Option.some_ne_none _

/-- Tables with rising keys are equal where every key finds the same. -/
theorem Tab.ext_of_sorted {α : Type} {t u : Tab α} (ht : Tab.sorted t = true) (hu : Tab.sorted u = true)
    (h : ∀ k, Tab.find t k = Tab.find u k) : t = u := by
  induction t generalizing u with
  | nil =>
    cases u with
    | nil => rfl
    | cons q u => simpa [Tab.find] using h q.1
  | cons p t ih =>
    cases u with
    | nil => simpa [Tab.find] using h p.1
    | cons q u =>
      obtain ⟨j, v⟩ := p
      obtain ⟨k, w⟩ := q
      obtain hjk | rfl | hkj := Nat.lt_trichotomy j k
      · exact absurd (h j) (Tab.find_head_ne hjk hu)
      · have hvw : v = w := by simpa [Tab.find] using h j
        have htail : t = u := ih (Tab.sorted_of_above ht) (Tab.sorted_of_above hu) fun i => by
          by_cases hij : i = j
          · rw [Tab.find_of_above ht hij.le, Tab.find_of_above hu hij.le]
          · simpa [Tab.find, hij] using h i
        rw [hvw, htail]
      · exact absurd (h k).symm (Tab.find_head_ne hkj ht)

theorem Tab.mem_of_find {α : Type} {v : α} {t : Tab α} {k : Nat} (h : Tab.find t k = some v) : (k, v) ∈ t := by
  induction t with
  | nil => cases h
  | cons p t ih =>
    rw [Tab.find] at h
    split at h
    · next hk => cases h; rw [hk]; exact List.mem_cons_self
    · exact List.mem_cons_of_mem _ (ih h)

theorem Tab.ne_of_find {α : Type} [DecidableEq α] {d v : α} {t : Tab α} {k : Nat} (ht : Tab.wf d t = true)
    (h : Tab.find t k = some v) : v ≠ d :=
  of_decide_eq_true (List.all_eq_true.mp (Bool.and_eq_true_iff.mp ht).2 _ (Tab.mem_of_find h))

/-- A canonical table lists exactly the keys that do not read as the default. -/
theorem Tab.find_of_wf {α : Type} [DecidableEq α] {d : α} {t : Tab α} (ht : Tab.wf d t = true) (k : Nat) :
    Tab.find t k = if Tab.get d t k = d then none else some (Tab.get d t k) := by
  rw [Tab.get]
  cases h : Tab.find t k with
  | none => simp
  | some v => simp [Tab.ne_of_find ht h]

theorem Tab.ext_of_wf {α : Type} [DecidableEq α] {d : α} {t u : Tab α} (ht : Tab.wf d t = true) (hu : Tab.wf d u = true)
    (h : ∀ k, Tab.get d t k = Tab.get d u k) : t = u :=
  Tab.ext_of_sorted (Bool.and_eq_true_iff.mp ht).1 (Bool.and_eq_true_iff.mp hu).1 fun k => by
    rw [Tab.find_of_wf ht, Tab.find_of_wf hu, h]

/-- Settles O7: a canonical table is determined by what its keys read as. -/
theorem equalReadsEqualMemory : Obligations.EqualReadsEqualMemory := fun s t hs ht hbytes htags => by
  obtain ⟨hsm, hst⟩ := Memory.wf_iff.mp hs
  obtain ⟨htm, htt⟩ := Memory.wf_iff.mp ht
  exact ⟨Tab.ext_of_wf hsm htm hbytes, Tab.ext_of_wf hst htt htags⟩

end Sys2Proof.Machine
end


section
/-! PROOFS. Numbers as their bits, their bytes and joined codes (R4). -/

namespace Sys2Proof.Machine

/-! ### Parts of numbers -/

theorem nbits_zero_of_lt {x n : Nat} (h : x < 2 ^ n) : nbits x 0 n = x := by
  rw [nbits, Nat.pow_zero, Nat.div_one, Nat.mod_eq_of_lt h]

/-- The low part of a number joined with another. -/
theorem nbits_join_lo {k lo n x : Nat} (h : lo + n ≤ k) (y : Nat) : nbits (x + 2 ^ k * y) lo n = nbits x lo n := by
  obtain ⟨r, rfl⟩ := Nat.exists_eq_add_of_le h
  rw [nbits, nbits, Nat.pow_add, Nat.pow_add, Nat.mul_assoc, Nat.mul_assoc, Nat.add_mul_div_left _ _ (Nat.two_pow_pos lo),
    Nat.add_mul_mod_self_left]

/-- The high part of a number joined with another. -/
theorem nbits_join_hi {k x : Nat} (h : x < 2 ^ k) (y lo n : Nat) : nbits (x + 2 ^ k * y) (k + lo) n = nbits y lo n := by
  rw [nbits, nbits, Nat.pow_add, ← Nat.div_div_eq_div_mul, Nat.add_mul_div_left _ _ (Nat.two_pow_pos k), Nat.div_eq_of_lt h,
    Nat.zero_add]

theorem nbits_mod {x k lo n : Nat} (h : lo + n ≤ k) : nbits (x % 2 ^ k) lo n = nbits x lo n := by
  conv_rhs => rw [← Nat.mod_add_div x (2 ^ k), nbits_join_lo h]

theorem nbits_one_eq_testBit (x j : Nat) : (nbits x j 1 == 1) = x.testBit j := by
  rw [Nat.testBit_eq_decide_div_mod_eq, nbits, Nat.pow_one]
  rfl

theorem nbits_one_eq_getLsbD {w : Nat} (x : BitVec w) (j : Nat) : (nbits x.toNat j 1 == 1) = x.getLsbD j :=
  nbits_one_eq_testBit x.toNat j

/-! ### Bytes -/

@[simp] theorem length_natLe (n x : Nat) : (natLe n x).length = n := by
  induction n generalizing x with
  | zero => rfl
  | succ n ih => rw [natLe, List.length_cons, ih]

theorem leNat_natLe {n x : Nat} (h : x < 2 ^ (8 * n)) : leNat (natLe n x) = x := by
  induction n generalizing x with
  | zero => rw [natLe, leNat]; omega
  | succ n ih =>
    have hx : x / 256 < 2 ^ (8 * n) := by
      rw [Nat.div_lt_iff_lt_mul (by decide)]
      rwa [Nat.mul_succ, Nat.pow_add] at h
    rw [natLe, leNat, ih hx, BitVec.toNat_ofNat]
    exact Nat.mod_add_div x 256

theorem leNat_append (xs ys : List Byte) : leNat (xs ++ ys) = leNat xs + 2 ^ (8 * xs.length) * leNat ys := by
  induction xs with
  | nil => simp [leNat]
  | cons b xs ih =>
    rw [List.cons_append, leNat, leNat, ih, List.length_cons, Nat.mul_succ, Nat.pow_add]
    ring

/-- A field of whole bytes before others. -/
theorem leNat_field_append {w n : Nat} (x : BitVec w) (hw : w = 8 * n) (ys : List Byte) :
    leNat (natLe n x.toNat ++ ys) = x.toNat + 2 ^ w * leNat ys := by
  rw [leNat_append, leNat_natLe (hw ▸ x.isLt), length_natLe, ← hw]

theorem nbits_field {w : Nat} (x : BitVec w) (y : Nat) : nbits (x.toNat + 2 ^ w * y) 0 w = x.toNat := by
  rw [nbits_join_lo (Nat.zero_add w).le, nbits_zero_of_lt x.isLt]

theorem nbits_past_field {w k lo : Nat} (x : BitVec w) (hk : k = w + lo) (y n : Nat) :
    nbits (x.toNat + 2 ^ w * y) k n = nbits y lo n := by
  rw [hk, nbits_join_hi x.isLt]

/-! ### Joined codes -/

/-- A part of joined codes is the code at its place, and zero past the last. -/
theorem nbits_joinCodes {w : Nat} {cs : List Nat} (h : ∀ x ∈ cs, x < 2 ^ w) (i : Nat) :
    nbits (joinCodes w cs) (w * i) w = cs.getD i 0 := by
  induction cs generalizing i with
  | nil => simp [joinCodes, nbits]
  | cons x cs ih =>
    obtain ⟨hx, hcs⟩ := List.forall_mem_cons.mp h
    cases i with
    | zero => rw [joinCodes, Nat.mul_zero, nbits_join_lo (Nat.zero_add w).le, nbits_zero_of_lt hx, List.getD_cons_zero]
    | succ i => rw [joinCodes, Nat.mul_succ, Nat.add_comm (w * i), nbits_join_hi hx, ih hcs, List.getD_cons_succ]

theorem toNat_extractLsb'_ofNat {v lo n : Nat} (h : lo + n ≤ v) (x : Nat) :
    ((BitVec.ofNat v x).extractLsb' lo n).toNat = nbits x lo n := by
  rw [BitVec.extractLsb'_toNat, BitVec.toNat_ofNat, Nat.shiftRight_eq_div_pow]
  exact nbits_mod h

theorem joinCodes_zero {w : Nat} {cs : List Nat} (h : ∀ x ∈ cs, x = 0) : joinCodes w cs = 0 := by
  induction cs with
  | nil => rfl
  | cons x cs ih =>
    obtain ⟨hx, hcs⟩ := List.forall_mem_cons.mp h
    rw [joinCodes, hx, ih hcs, Nat.mul_zero]

/-- Byte i of a word joined from bytes. -/
theorem extractLsb'_joinCodes (f : Nat → Byte) {i : Nat} (hi : i < 8) :
    (w64 (joinCodes 8 ((List.range 8).map fun i => (f i).toNat))).extractLsb' (8 * i) 8 = f i := by
  refine BitVec.eq_of_toNat_eq ?_
  rw [w64, toNat_extractLsb'_ofNat (by omega), nbits_joinCodes]
  · simp [List.getD_eq_getElem?_getD, hi]
  · simp only [List.mem_map]
    rintro _ ⟨j, -, rfl⟩
    exact (f j).isLt

theorem testBit_joinCodes_one (n : Nat) (p : Nat → Bool) (j : Nat) :
    (joinCodes 1 ((List.range n).map fun j => if p j then 1 else 0)).testBit j = (decide (j < n) && p j) := by
  have hlt : ∀ x ∈ (List.range n).map fun j => if p j then 1 else 0, x < 2 ^ 1 := by
    simp only [List.mem_map]
    rintro _ ⟨i, -, rfl⟩
    split <;> decide
  have hj := nbits_joinCodes hlt j
  rw [Nat.one_mul] at hj
  rw [← nbits_one_eq_testBit, hj]
  by_cases h : j < n
  · cases hp : p j <;> simp [List.getD_eq_getElem?_getD, h, hp]
  · simp [List.getD_eq_getElem?_getD, h]

end Sys2Proof.Machine
end


section
/-! PROOFS. The image of a vector register read back (R59, R60, R172). -/

namespace Sys2Proof.Machine

theorem VReg.vcls_lt (r : VReg) : r.vcls < 4 := by
  unfold VReg.vcls
  split_ifs <;> decide

theorem VReg.vcls_eq_three {r : VReg} : r.vcls = 3 ↔ r.zero3 = true := by
  unfold VReg.vcls
  split_ifs <;> simp_all

theorem VReg.toNat_tag (r : VReg) : r.tag.toNat = r.fmt.toNat + 64 * r.vcls := by
  have hf := r.fmt.isLt
  have hv := r.vcls_lt
  rw [VReg.tag, w64, BitVec.toNat_ofNat]
  omega

theorem VReg.fmt_of_tag (r : VReg) : BitVec.ofNat 6 r.tag.toNat = r.fmt := by
  have hf := r.fmt.isLt
  refine BitVec.eq_of_toNat_eq ?_
  rw [BitVec.toNat_ofNat, r.toNat_tag]
  omega

theorem VReg.vcls_of_tag (r : VReg) : r.tag.toNat / 64 % 4 = r.vcls := by
  have hf := r.fmt.isLt
  have hv := r.vcls_lt
  rw [r.toNat_tag]
  omega

/-- The fields of an image, joined: DATA, SCALE, VALID, PSN and the tag word (R59). -/
theorem VReg.leNat_image (r : VReg) : leNat r.image = r.data.toNat + 2 ^ 8192 * (r.scale.toNat + 2 ^ 512 * (r.valid.toNat +
    2 ^ 64 * (r.psn.toNat + 2 ^ 64 * (r.tag.toNat + 2 ^ 64 * leNat (natLe 40 0))))) := by
  simp only [VReg.image, List.append_assoc]
  rw [leNat_field_append r.data rfl, leNat_field_append r.scale rfl, leNat_field_append r.valid rfl,
    leNat_field_append r.psn rfl, leNat_field_append r.tag rfl]

theorem VReg.image_data (r : VReg) : nbits (leNat r.image) 0 8192 = r.data.toNat := by
  rw [r.leNat_image, nbits_field]

theorem VReg.image_scale (r : VReg) : nbits (leNat r.image) 8192 512 = r.scale.toNat := by
  rw [r.leNat_image, nbits_past_field r.data (lo := 0) rfl, nbits_field]

theorem VReg.image_psn (r : VReg) : nbits (leNat r.image) (8 * 1096) 64 = r.psn.toNat := by
  rw [r.leNat_image, nbits_past_field r.data (lo := 576) rfl, nbits_past_field r.scale (lo := 64) rfl,
    nbits_past_field r.valid (lo := 0) rfl, nbits_field]

theorem VReg.imageTag_image (r : VReg) : imageTag r.image = r.tag.toNat := by
  rw [imageTag, r.leNat_image, nbits_past_field r.data (lo := 640) rfl, nbits_past_field r.scale (lo := 128) rfl,
    nbits_past_field r.valid (lo := 64) rfl, nbits_past_field r.psn (lo := 0) rfl, nbits_field]

theorem VReg.length_image (r : VReg) : r.image.length = 1152 := by
  simp only [VReg.image, List.length_append, length_natLe]

/-- An image gives back a register within the limits of its format, with VCLS 3 where it is a zero register. -/
theorem VReg.ofImage_image {r : VReg} (hdata : r.data.toNat < 2 ^ (elemBits r.fmt * cap r.fmt))
    (hpsn : r.psn.toNat < 2 ^ (cap r.fmt / 16))
    (hzero : r.zero3 = true → r.data = 0#8192 ∧ r.scale = 0#512 ∧ r.psn = 0#64) : VReg.ofImage r.image = r := by
  have hz : (r.tag.toNat / 64 % 4 == 3 && r.data.toNat == 0 && r.scale.toNat == 0 && r.psn.toNat == 0) = r.zero3 := by
    rw [r.vcls_of_tag]
    cases h : r.zero3 with
    | true =>
      obtain ⟨hd, hs, hp⟩ := hzero h
      simp only [VReg.vcls_eq_three.mpr h, hd, hs, hp, BitVec.toNat_zero]
      rfl
    | false => simp [VReg.vcls_eq_three, h]
  have htag : nbits (leNat r.image) (8 * 1104) 64 = r.tag.toNat := r.imageTag_image
  simp only [VReg.ofImage, htag, r.image_data, r.image_scale, r.image_psn, r.fmt_of_tag, hz, Nat.mod_eq_of_lt hdata,
    Nat.mod_eq_of_lt hpsn, BitVec.ofNat_toNat, BitVec.setWidth_eq]

/-- Settles O41: each field stands in its place in the joined number of the image. -/
theorem imageRoundTrip : Obligations.ImageRoundTrip := fun r hdata hpsn hzero =>
  ⟨VReg.ofImage_image hdata hpsn hzero, r.length_image, r.imageTag_image⟩

end Sys2Proof.Machine
end


section
/-! PROOFS. Palettes: the rules of P0 (R73, R74), and the instructions that select, read and write slots (R81–R83). -/

namespace Sys2Proof.Machine

/-! ### The rules of P0 -/

/-- The rule of R73 for two wide integers. -/
def p0Int (fa fb : FmtCode) : Option FmtCode :=
  if isSInt fa == isSInt fb then some (if elemBits fa < elemBits fb then fb else fa)
  else
    let i := if isSInt fa then fa else fb
    let u := if isSInt fa then fb else fa
    let w := Nat.min 64 (Nat.max (elemBits i) (2 * elemBits u))
    some (if w = 16 then 0x02#6 else if w = 32 then 0x03#6 else 0x04#6)

/-- The rules of R73 for E2M1S, E2M3S and E3M2S, and for what is left. -/
def p0Mini (a b : FmtCode) : Option FmtCode :=
  if isMini a && isMini b then
    if a == b then some a else if a == 0x30#6 then some b else if b == 0x30#6 then some a else some 0x09#6
  else some 0x0B#6

/-- The rules of R73 for two block-scaled formats. -/
def p0Block (a b : FmtCode) : Option FmtCode :=
  if isB a && isB b then some (if elemBits a < elemBits b then b else a)
  else if isZ a && isZ b then some (if elemBits a < elemBits b then b else a)
  else if isZ a && isB b then some (0x10#6 + BitVec.ofNat 6 (Nat.min 16 (Nat.max (elemBits a + 1) (elemBits b)) - 1))
  else if isB a && isZ b then some (0x10#6 + BitVec.ofNat 6 (Nat.min 16 (Nat.max (elemBits b + 1) (elemBits a)) - 1))
  else p0Mini a b

/-- The rules of R73 for two formats that are not wide integers. -/
def p0Float (a b : FmtCode) : Option FmtCode :=
  if isIeee a && isIeee b then some (if a == b then a else 0x0B#6)
  else if isIeee a then some a
  else if isIeee b then some b
  else p0Block a b

/-- E4M3 and E5M2 count as BF16 (R73). -/
def p0Wide (f : FmtCode) : FmtCode := if isStorage f then 0x09#6 else f

/-- A format that names numbers: neither UNT nor reserved. -/
def numeric (f : FmtCode) : Bool := !(f == 0#6) && !fmtReserved f

/-- P0's ADD and MUL classes by the rules above. -/
theorem p0Arith_eq (fa fb : FmtCode) : p0Arith fa fb =
    if !(numeric fa && numeric fb) then none
    else if fa == 0x0C#6 || fb == 0x0C#6 then (if fa == fb then some fa else none)
    else if isWInt fa != isWInt fb then none
    else if isWInt fa then p0Int fa fb else p0Float (p0Wide fa) (p0Wide fb) := by
  have h : (fa == 0#6 || fb == 0#6 || fmtReserved fa || fmtReserved fb) = !(numeric fa && numeric fb) := by
    simp only [numeric, Bool.not_and, Bool.not_not]
    ac_rfl
  rw [← h]
  rfl

theorem numeric_of_isWInt {f : FmtCode} (h : isWInt f = true) : numeric f = true ∧ (f == 0x0C#6) = false := by
  revert f; decide

theorem numeric_of_isB {f : FmtCode} (h : isB f = true) : numeric f = true ∧ (f == 0x0C#6) = false ∧ isWInt f = false ∧
    isIeee f = false ∧ p0Wide f = f := by
  revert f; decide

theorem p0Arith_self_of_isIeee {f : FmtCode} (h : isIeee f = true) : p0Arith f f = some f := by
  revert f; decide

theorem p0Arith_of_isWInt {f g : FmtCode} (hf : isWInt f = true) (hg : isWInt g = true) : p0Arith f g = p0Int f g := by
  obtain ⟨hnf, hcf⟩ := numeric_of_isWInt hf
  obtain ⟨hng, hcg⟩ := numeric_of_isWInt hg
  simp [p0Arith_eq, hf, hg, hnf, hcf, hng, hcg]

theorem p0Arith_of_isB {f g : FmtCode} (hf : isB f = true) (hg : isB g = true) :
    p0Arith f g = some (if elemBits f < elemBits g then g else f) := by
  obtain ⟨hnf, hcf, hwf, hif, hpf⟩ := numeric_of_isB hf
  obtain ⟨hng, hcg, hwg, hig, hpg⟩ := numeric_of_isB hg
  simp [p0Arith_eq, p0Float, p0Block, hf, hg, hnf, hcf, hng, hcg, hwf, hwg, hif, hig, hpf, hpg]

theorem p0Arith_unt (f : FmtCode) : p0Arith 0#6 f = none ∧ p0Arith f 0#6 = none := by
  constructor <;> simp [p0Arith_eq, numeric]

theorem p0Mat_unt (f : FmtCode) : p0Mat 0#6 f = none := by
  revert f; decide

/-! ### P0 is symmetric -/

theorem elemBits_of_isSInt {f : FmtCode} (h : isSInt f = true) : elemBits f = 2 ^ (f.toNat + 2) := by
  revert f; decide

theorem elemBits_of_isUInt {f : FmtCode} (h : isUInt f = true) : elemBits f = 2 ^ (f.toNat - 5 + 3) ∧ 5 ≤ f.toNat := by
  revert f; decide

theorem elemBits_of_isB {f : FmtCode} (h : isB f = true) : elemBits f = f.toNat - 16 + 1 ∧ 16 ≤ f.toNat := by
  revert f; decide

theorem elemBits_of_isZ {f : FmtCode} (h : isZ f = true) : elemBits f = f.toNat - 32 + 1 ∧ 32 ≤ f.toNat := by
  revert f; decide

theorem eq_of_elemBits_isSInt {f g : FmtCode} (hf : isSInt f = true) (hg : isSInt g = true) (h : elemBits f = elemBits g) :
    f = g := by
  rw [elemBits_of_isSInt hf, elemBits_of_isSInt hg] at h
  exact BitVec.eq_of_toNat_eq (Nat.add_right_cancel (Nat.pow_right_injective (Nat.le_refl 2) h))

theorem eq_of_elemBits_isUInt {f g : FmtCode} (hf : isUInt f = true) (hg : isUInt g = true) (h : elemBits f = elemBits g) :
    f = g := by
  obtain ⟨hwf, hf⟩ := elemBits_of_isUInt hf
  obtain ⟨hwg, hg⟩ := elemBits_of_isUInt hg
  rw [hwf, hwg] at h
  have hn := Nat.pow_right_injective (Nat.le_refl 2) h
  exact BitVec.eq_of_toNat_eq (by omega)

theorem eq_of_elemBits_isB {f g : FmtCode} (hf : isB f = true) (hg : isB g = true) (h : elemBits f = elemBits g) : f = g := by
  obtain ⟨hwf, hf⟩ := elemBits_of_isB hf
  obtain ⟨hwg, hg⟩ := elemBits_of_isB hg
  exact BitVec.eq_of_toNat_eq (by omega)

theorem eq_of_elemBits_isZ {f g : FmtCode} (hf : isZ f = true) (hg : isZ g = true) (h : elemBits f = elemBits g) : f = g := by
  obtain ⟨hwf, hf⟩ := elemBits_of_isZ hf
  obtain ⟨hwg, hg⟩ := elemBits_of_isZ hg
  exact BitVec.eq_of_toNat_eq (by omega)

theorem wider_comm {f g : FmtCode} (h : elemBits f = elemBits g → f = g) :
    (if elemBits f < elemBits g then g else f) = if elemBits g < elemBits f then f else g := by
  split_ifs with h1 h2
  · omega
  · rfl
  · rfl
  · exact h (by omega)

theorem p0Int_comm {f g : FmtCode} (hf : isWInt f = true) (hg : isWInt g = true) : p0Int f g = p0Int g f := by
  simp only [isWInt, Bool.or_eq_true] at hf hg
  cases hsf : isSInt f <;> cases hsg : isSInt g <;> simp only [p0Int, hsf, hsg]
  case true.true => simp [wider_comm (eq_of_elemBits_isSInt hsf hsg)]
  case false.false => simp [wider_comm (eq_of_elemBits_isUInt (by simpa [hsf] using hf) (by simpa [hsg] using hg))]
  all_goals rfl

theorem not_isZ_of_isB {f : FmtCode} (h : isB f = true) : isZ f = false := by
  revert f; decide

theorem p0Mini_comm (a b : FmtCode) : p0Mini a b = p0Mini b a := by
  unfold p0Mini
  rw [Bool.and_comm]
  by_cases hab : a = b
  · rw [hab]
  · by_cases ha : a = 0x30#6
    · have hb : b ≠ 0x30#6 := fun hb => hab (ha.trans hb.symm)
      simp [ha, hb, Ne.symm hb]
    · simp [hab, Ne.symm hab, ha]

theorem p0Block_comm (a b : FmtCode) : p0Block a b = p0Block b a := by
  unfold p0Block
  cases hBa : isB a <;> cases hBb : isB b
  case true.true => simp [wider_comm (eq_of_elemBits_isB hBa hBb)]
  case true.false => simp [not_isZ_of_isB hBa, p0Mini_comm a b]
  case false.true => simp [not_isZ_of_isB hBb, p0Mini_comm a b]
  case false.false =>
    cases hZa : isZ a <;> cases hZb : isZ b
    case true.true => simp [wider_comm (eq_of_elemBits_isZ hZa hZb)]
    all_goals simp [p0Mini_comm a b]

theorem p0Float_comm (a b : FmtCode) : p0Float a b = p0Float b a := by
  unfold p0Float
  cases isIeee a <;> cases isIeee b
  case false.false => simp [p0Block_comm a b]
  case true.true =>
    by_cases hab : a = b
    · rw [hab]
    · simp [hab, Ne.symm hab]
  all_goals rfl

theorem p0Arith_comm (f g : FmtCode) : p0Arith f g = p0Arith g f := by
  have hsame : (if f = g then some f else none) = if g = f then some g else none := by
    by_cases h : f = g
    · rw [h]
    · rw [if_neg h, if_neg (Ne.symm h)]
  rw [p0Arith_eq f g, p0Arith_eq g f, Bool.and_comm, Bool.or_comm]
  cases hf : isWInt f <;> cases hg : isWInt g
  case true.true => simp [p0Int_comm hf hg, hsame]
  case false.false => simp [p0Float_comm (p0Wide f), hsame]
  all_goals simp [hsame]

theorem p0Mat_comm (f g : FmtCode) : p0Mat f g = p0Mat g f := by
  simp only [p0Mat, Bool.and_comm]

/-! ### What P0 answers -/

theorem p0Int_numeric {f g h : FmtCode} (hf : numeric f = true) (hg : numeric g = true) (hr : p0Int f g = some h) :
    numeric h = true := by
  unfold p0Int at hr
  split at hr <;> obtain rfl := Option.some.inj hr
  · split_ifs <;> assumption
  · split_ifs <;> rfl

theorem numeric_b {n : Nat} (hn : n < 16) : numeric (0x10#6 + BitVec.ofNat 6 n) = true := by
  revert n; decide

theorem p0Mini_numeric {f g h : FmtCode} (hf : numeric f = true) (hg : numeric g = true) (hr : p0Mini f g = some h) :
    numeric h = true := by
  unfold p0Mini at hr
  split_ifs at hr <;> obtain rfl := Option.some.inj hr
  exacts [hf, hg, hf, rfl, rfl]

theorem p0Block_numeric {f g h : FmtCode} (hf : numeric f = true) (hg : numeric g = true) (hr : p0Block f g = some h) :
    numeric h = true := by
  have hb : ∀ x, numeric (0x10#6 + BitVec.ofNat 6 (Nat.min 16 x - 1)) = true := fun x =>
    numeric_b (Nat.lt_succ_of_le (Nat.sub_le_sub_right (Nat.min_le_left 16 x) 1))
  unfold p0Block at hr
  split at hr
  · obtain rfl := Option.some.inj hr
    split_ifs <;> assumption
  split at hr
  · obtain rfl := Option.some.inj hr
    split_ifs <;> assumption
  split at hr
  · exact Option.some.inj hr ▸ hb _
  split at hr
  · exact Option.some.inj hr ▸ hb _
  exact p0Mini_numeric hf hg hr

theorem p0Float_numeric {f g h : FmtCode} (hf : numeric f = true) (hg : numeric g = true) (hr : p0Float f g = some h) :
    numeric h = true := by
  unfold p0Float at hr
  split at hr
  · obtain rfl := Option.some.inj hr
    split
    · exact hf
    · rfl
  split at hr
  · exact Option.some.inj hr ▸ hf
  split at hr
  · exact Option.some.inj hr ▸ hg
  exact p0Block_numeric hf hg hr

theorem p0Wide_numeric {f : FmtCode} (hf : numeric f = true) : numeric (p0Wide f) = true := by
  unfold p0Wide
  split
  · rfl
  · exact hf

theorem p0Arith_numeric {f g h : FmtCode} (hr : p0Arith f g = some h) : numeric h = true := by
  rw [p0Arith_eq] at hr
  split at hr
  · cases hr
  · next hn =>
    obtain ⟨hf, hg⟩ : numeric f = true ∧ numeric g = true := by simpa using hn
    split at hr
    · split at hr
      · exact Option.some.inj hr ▸ hf
      · cases hr
    split at hr
    · cases hr
    split at hr
    · exact p0Int_numeric hf hg hr
    · exact p0Float_numeric (p0Wide_numeric hf) (p0Wide_numeric hg) hr

theorem p0Mat_result {f g h : FmtCode} (hr : p0Mat f g = some h) : h = 0x03#6 ∨ h = 0x0B#6 ∨ h = 0x0C#6 := by
  simp only [p0Mat] at hr
  split_ifs at hr <;> obtain rfl := Option.some.inj hr <;> decide

/-! ### Entries of a slot -/

theorem palIndex_inj {k cls : Nat} {f fa g fb : FmtCode} (h : palIndex k f g = palIndex cls fa fb) :
    k = cls ∧ f = fa ∧ g = fb := by
  have h1 := f.isLt
  have h2 := fa.isLt
  have h3 := g.isLt
  have h4 := fb.isLt
  unfold palIndex at h
  exact ⟨by omega, BitVec.eq_of_toNat_eq (by omega), BitVec.eq_of_toNat_eq (by omega)⟩

section
variable {s : State} {slot cls : Nat} {fa fb : FmtCode} {e : Byte}

theorem State.palEntry_setPalEntry_same (hslot : slot ≠ 0) : (s.setPalEntry slot cls fa fb e).palEntry slot cls fa fb = e := by
  simp only [State.palEntry, State.setPalEntry, hslot, if_false, Tab.get_put_same]
  split
  · next he => simp [Tab.get, beq_iff_eq.mp he]
  · simp

theorem State.palEntry_setPalEntry_ne {sl k : Nat} {f g : FmtCode} (h : ¬(sl = slot ∧ k = cls ∧ f = fa ∧ g = fb)) :
    (s.setPalEntry slot cls fa fb e).palEntry sl k f g = s.palEntry sl k f g := by
  simp only [State.palEntry, State.setPalEntry]
  by_cases hsl : sl = slot
  · have hk : palIndex k f g ≠ palIndex cls fa fb := fun hk => h ⟨hsl, palIndex_inj hk⟩
    rw [hsl, Tab.get_put_same]
    congr 1
    split
    · rw [Tab.get, Tab.find_del_ne _ _ _ hk]
      rfl
    · rw [Tab.get_put_ne _ _ _ _ _ hk]
  · rw [Tab.get_put_ne _ _ _ _ _ hsl]

/-- The first n of the eight entries that PALWR writes (R83). -/
def State.palWrite (s : State) (slot cls : Nat) (fa fb : FmtCode) (v : Word) (n : Nat) : State :=
  (List.range n).foldl (fun s i => s.setPalEntry slot cls fa (fb + BitVec.ofNat 6 i) (v.extractLsb' (8 * i) 8)) s

variable {v : Word}

theorem State.palWrite_succ (n : Nat) : s.palWrite slot cls fa fb v (n + 1) =
    (s.palWrite slot cls fa fb v n).setPalEntry slot cls fa (fb + BitVec.ofNat 6 n) (v.extractLsb' (8 * n) 8) := by
  rw [State.palWrite, List.range_succ, List.foldl_append]
  rfl

theorem State.palWrite_eq (n : Nat) :
    s.palWrite slot cls fa fb v n = { s with palettes := (s.palWrite slot cls fa fb v n).palettes } := by
  induction n with
  | zero => rfl
  | succ n ih =>
    rw [State.palWrite_succ, State.setPalEntry, ih]

theorem add_ofNat_ne {i j : Nat} (hi : i < 64) (hj : j < 64) (h : i ≠ j) : fb + BitVec.ofNat 6 i ≠ fb + BitVec.ofNat 6 j :=
  fun he => h (by simpa [Nat.mod_eq_of_lt hi, Nat.mod_eq_of_lt hj] using congrArg BitVec.toNat (add_left_cancel he))

theorem State.palEntry_palWrite_same {n i : Nat} (hslot : slot ≠ 0) (hn : n ≤ 64) (hi : i < n) :
    (s.palWrite slot cls fa fb v n).palEntry slot cls fa (fb + BitVec.ofNat 6 i) = v.extractLsb' (8 * i) 8 := by
  induction n with
  | zero => omega
  | succ n ih =>
    rw [State.palWrite_succ]
    by_cases hin : i = n
    · rw [hin, State.palEntry_setPalEntry_same hslot]
    · have hne := add_ofNat_ne (fb := fb) (show i < 64 by omega) (show n < 64 by omega) hin
      rw [State.palEntry_setPalEntry_ne fun ⟨_, _, _, he⟩ => hne he, ih (by omega) (by omega)]

theorem State.palEntry_palWrite_ne {sl k n : Nat} {f g : FmtCode}
    (h : ∀ i, i < n → ¬(sl = slot ∧ k = cls ∧ f = fa ∧ g = fb + BitVec.ofNat 6 i)) :
    (s.palWrite slot cls fa fb v n).palEntry sl k f g = s.palEntry sl k f g := by
  induction n with
  | zero => rfl
  | succ n ih =>
    rw [State.palWrite_succ, State.palEntry_setPalEntry_ne (h n (Nat.lt_succ_self n)),
      ih fun i hi => h i (Nat.lt_succ_of_lt hi)]

end

/-- The eight formats from a multiple of 8 on. -/
theorem toNat_add_div_eight {fb : FmtCode} (hfb : fb.toNat % 8 = 0) {i : Nat} (hi : i < 8) :
    (fb + BitVec.ofNat 6 i).toNat / 8 = fb.toNat / 8 := by
  have := fb.isLt
  rw [BitVec.toNat_add, BitVec.toNat_ofNat]
  omega

/-! ### PALSEL, PALRD and PALWR -/

/-- The index word of an aligned run of entries passes R82's check and gives its parts. -/
theorem palArgs_ok {slot cls : Nat} {fa fb : FmtCode} (hslot : slot < 16) (hcls : cls < 3) (hfb : fb.toNat % 8 = 0) :
    palArgs (w64 (slot * 2 ^ 14 + cls * 2 ^ 12 + fa.toNat * 2 ^ 6 + fb.toNat)) = .ok (slot, cls, fa, fb) := by
  have h1 := fa.isLt
  have h2 := fb.isLt
  have hw : (w64 (slot * 2 ^ 14 + cls * 2 ^ 12 + fa.toNat * 2 ^ 6 + fb.toNat)).toNat =
      slot * 2 ^ 14 + cls * 2 ^ 12 + fa.toNat * 2 ^ 6 + fb.toNat := by
    rw [w64, BitVec.toNat_ofNat]; omega
  generalize w64 (slot * 2 ^ 14 + cls * 2 ^ 12 + fa.toNat * 2 ^ 6 + fb.toNat) = w at hw ⊢
  have hhi : bits w 18 46 = 0 := by rw [bits, hw]; omega
  have hcl : bits w 12 2 = cls := by rw [bits, hw]; omega
  have hlo : bits w 0 3 = 0 := by rw [bits, hw]; omega
  have hsl : bits w 14 4 = slot := by rw [bits, hw]; omega
  have hfa : w.extractLsb' 6 6 = fa := BitVec.eq_of_toNat_eq (by
    rw [BitVec.extractLsb'_toNat, hw, Nat.shiftRight_eq_div_pow]; omega)
  have hfb' : w.extractLsb' 0 6 = fb := BitVec.eq_of_toNat_eq (by
    rw [BitVec.extractLsb'_toNat, hw, Nat.shiftRight_eq_div_pow]; omega)
  have hne : (cls != 3) = true := bne_iff_ne.mpr (by omega)
  simp only [palArgs, hhi, hcl, hlo, hsl, hfa, hfb', hne, beq_self_eq_true, Bool.and_self, ensure_true, Res.ok_bind]
  rfl

theorem palselCheck_ok {s : State} {w : Word} (hw : w.toNat < 16) (h : s.granted w.toNat = true) : palselCheck s w = .ok () := by
  rw [palselCheck, ensure_of_true (decide_eq_true hw), Res.ok_bind, ensure_of_true h]

/-- Settles O30: the three instructions through `State.palEntry`, and the rules of P0 one by one. -/
theorem paletteResults : Obligations.PaletteResults := by
  refine ⟨⟨?palselImm, ?palselReg, ?palrd, ?palwr⟩, fun f => p0Arith_self_of_isIeee, fun f g hf hg hs => ?wint,
    fun f g => p0Arith_of_isB, fun f => ⟨(p0Arith_unt f).1, (p0Arith_unt f).2, p0Mat_unt f⟩,
    fun f g => ⟨p0Arith_comm f g, p0Mat_comm f g⟩, fun f g h hr => ?named, fun f g h => p0Mat_result⟩
  case palselImm =>
    intro k s c h hg
    obtain ⟨rfl, -, -⟩ := ready_same h
    have hk : (k.setWidth 64).toNat = k.toNat := BitVec.toNat_setWidth_of_le (by decide)
    refine (issue_completes (us := idxUse .a (.imm k)) h ?_ : execPalsel (.imm k) c.s = _)
    simp only [palselCheck_ok (hk.symm ▸ k.isLt) (hk.symm ▸ hg), Res.ok_bind]
    rfl
  case palselReg =>
    intro o s c h hlt hg
    obtain ⟨rfl, -, -⟩ := ready_same h
    refine issue_completes h ?_
    simp only [palselCheck_ok hlt hg, Res.ok_bind]
    rfl
  case palrd =>
    intro d a s c slot cls fa fb h hslot hcls hfb ha hg
    obtain ⟨rfl, -, -⟩ := ready_same h
    refine ⟨_, issue_completes h ?_, fun i hi => extractLsb'_joinCodes _ hi⟩
    rw [ha, palArgs_ok hslot hcls hfb, Res.ok_bind]
    simp only [hg, ensure_true, Res.ok_bind]
    rfl
  case palwr =>
    intro a b s c slot cls fa fb h hpos hslot hcls hfb ha hg
    obtain ⟨rfl, -, -⟩ := ready_same h
    have hne : slot ≠ 0 := by omega
    refine ⟨c.s.palWrite slot cls fa fb (c.s_ .b) 8, issue_completes h ?_, State.palWrite_eq 8,
      fun i => State.palEntry_palWrite_same hne (by decide),
      fun sl k f g _ _ hother => State.palEntry_palWrite_ne fun i hi hsame => ?_⟩
    · rw [ha, palArgs_ok hslot hcls hfb, Res.ok_bind]
      simp only [hg, bne_iff_ne.mpr hne, Bool.and_self, ensure_true, Res.ok_bind]
      rfl
    · obtain ⟨hsl, hk, hf, rfl⟩ := hsame
      exact hother ⟨hsl, hk, hf, toNat_add_div_eight hfb hi⟩
  case wint =>
    rw [p0Arith_of_isWInt hf hg, p0Int, if_pos (beq_iff_eq.mpr hs)]
  case named =>
    simpa [numeric, and_comm] using p0Arith_numeric hr

end Sys2Proof.Machine
end


section
/-! PROOFS. Elementwise vector results: formats from the palette, values element by element (R156–R161). -/

namespace Sys2Proof.Machine

/-! ### The forms of Table 6.4 -/

section
variable {i : Instr} {us : List Use} {s : State} {c : Ctx} {mk : Mk} {cls g0 : Nat} {rm : Rm} {sat wide : Bool} {p0 : FmtCode}
  {mix : Flags} (h : Issues i us s c mk)
include h

/-- Two sources: the format is the palette's, widened under WIDE. -/
theorem vecBin_completes (f : FmtCode → RMode → VOp → VOp → Nat → El)
    (hp : palette s cls (c.v_ .a).fmt (c.v_ .b).fmt = .ok (p0, mix))
    (hg : vecChecks c [c.v_ .a, c.v_ .b] (widened wide p0) = .ok g0) :
    issue i s us (fun c => finishV (vecBin c cls rm sat wide f)) mk = .next (complete c
      { s := (c.putV s (c.vw (widened wide p0) (s.me.rmode rm) (encArith (widened wide p0) (s.me.rmode rm) sat)
          [c.v_ .a, c.v_ .b] (f (widened wide p0) (s.me.rmode rm) (c.v_ .a) (c.v_ .b)) g0)).raise mix }) := by
  obtain ⟨rfl, -, -⟩ := ready_same h
  refine issue_completes h ?_
  simp only [vecBin, hp, hg, Res.ok_bind]
  rfl

/-- One source, looked up with itself; the correctly rounded functions refuse a wide integer (R160). -/
theorem vecUn_completes {noInt : Bool} (f : Val → Val × Flags) (hp : palette s cls (c.v_ .a).fmt (c.v_ .a).fmt = .ok (p0, mix))
    (hint : noInt = true → isWInt p0 = false) (hg : vecChecks c [c.v_ .a] p0 = .ok g0) :
    issue i s us (fun c => finishV (vecUn c cls rm sat noInt f)) mk = .next (complete c
      { s := (c.putV s (c.vw p0 (s.me.rmode rm) (encArith p0 (s.me.rmode rm) sat) [c.v_ .a]
          (fun j => .val (f ((c.v_ .a).elem j)).1 (f ((c.v_ .a).elem j)).2) g0)).raise mix }) := by
  obtain ⟨rfl, -, -⟩ := ready_same h
  have hok : (!(noInt && isWInt p0)) = true := by
    cases noInt with
    | false => rfl
    | true => simp [hint rfl]
  refine issue_completes h ?_
  simp only [vecUn, hp, hg, hok, ensure_true, Res.ok_bind]
  rfl

/-- Three sources: the format of the first two is looked up with the third in ADD. -/
theorem vecTri_completes {q : FmtCode} {mix1 mix2 : Flags} (f : RMode → Val → Val → Val → Val × Flags)
    (hq : palette s cls (c.v_ .a).fmt (c.v_ .b).fmt = .ok (q, mix1)) (hp : palette s 0 q (c.v_ .c).fmt = .ok (p0, mix2))
    (hg : vecChecks c [c.v_ .a, c.v_ .b, c.v_ .c] (widened wide p0) = .ok g0) :
    issue i s us (fun c => finishV (vecTri c cls rm sat wide f)) mk = .next (complete c
      { s := (c.putV s (c.vw (widened wide p0) (s.me.rmode rm) (encArith (widened wide p0) (s.me.rmode rm) sat)
          [c.v_ .a, c.v_ .b, c.v_ .c] (fun j => .val
            (f (s.me.rmode rm) ((c.v_ .a).elem j) ((c.v_ .b).elem j) ((c.v_ .c).elem j)).1
            (f (s.me.rmode rm) ((c.v_ .a).elem j) ((c.v_ .b).elem j) ((c.v_ .c).elem j)).2) g0)).raise (mix1 ||| mix2) }) := by
  obtain ⟨rfl, -, -⟩ := ready_same h
  refine issue_completes h ?_
  simp only [vecTri, hq, hp, hg, Res.ok_bind]
  rfl

end

/-! ### VCMP and VSEL -/

/-- The bits of a mask result (R148). -/
theorem getLsbD_maskResult (st : Strand) (mk : Mk) (old : BitVec 1024) (p : Nat → Bool) {j : Nat} (hj : j < 1024) :
    (maskResult st mk old p).getLsbD j =
      if st.padFrom ≤ j then false else if st.maskBit mk j then p j else old.getLsbD j := by
  rw [maskResult, BitVec.getLsbD_ofNat, testBit_joinCodes_one]
  by_cases h : st.padFrom ≤ j
  · simp [h, Nat.not_lt.mpr h]
  · simp [h, Nat.lt_of_not_le h, hj, nbits_one_eq_getLsbD]

/-- VCMP from its first element on, of operands without poison (R161). -/
theorem execVcmp_completes {mk : Mk} {cond : BitVec 3} {d a b : Opnd} {s : State} {c : Ctx} {f : FmtCode} {mix : Flags}
    (h : Issues (.vcmp mk cond d a b) [rdV .a a, rdV .b b, wrM d] s c mk)
    (hp : palette s 0 (c.v_ .a).fmt (c.v_ .b).fmt = .ok (f, mix)) (hlane : laneMismatch [c.v_ .a, c.v_ .b] = .ok ())
    (hcap : capCheck c [(c.v_ .a).fmt, (c.v_ .b).fmt] = .ok ()) (ht : s.me.tstart = 0#64)
    (hpsn : ∀ j ∈ c.actives, (c.v_ .a).psn j = false ∧ (c.v_ .b).psn j = false) :
    execVcmp mk cond d a b s = .next (complete c
      { s := (c.putM s (maskResult s.me mk (s.me.getM (c.rnum .d)) fun j =>
          (cmpV cond.toNat ((c.v_ .a).elem j) ((c.v_ .b).elem j)).1)).raise
            (c.actives.foldl (fun f j => f ||| (cmpV cond.toNat ((c.v_ .a).elem j) ((c.v_ .b).elem j)).2) mix) }) := by
  obtain ⟨rfl, -, rfl⟩ := ready_same h
  have hlo : 16 * (c.me.tstart.toNat / 16) = 0 := by rw [Ctx.me, ht]; rfl
  have hall : (c.actives.filter fun j => decide (0 ≤ j)) = c.actives := by simp
  have hclean : (c.actives.find? fun j => (c.v_ .a).psn j || (c.v_ .b).psn j) = none :=
    List.find?_eq_none.mpr fun j hj => by simp [hpsn j hj]
  refine issue_completes h ?_
  simp only [hp, hlane, hcap, hlo, hall, hclean, Res.ok_bind, Nat.not_lt_zero, if_false, lowBits, Nat.pow_zero, Nat.mod_one,
    Nat.sub_zero, Nat.add_zero, BitVec.ofNat_toNat, BitVec.setWidth_eq]
  rfl

theorem execVsel_completes {mk : Mk} {rm : Rm} {sat : Bool} {d a b x : Opnd} {s : State} {c : Ctx} {f : FmtCode} {mix : Flags}
    {g0 : Nat} (h : Issues (.vsel mk rm sat d a b x) [rdV .a a, rdV .b b, rdM .c x, wrV d] s c mk)
    (hp : palette s 0 (c.v_ .a).fmt (c.v_ .b).fmt = .ok (f, mix)) (hg : vecChecks c [c.v_ .a, c.v_ .b] f = .ok g0) :
    let pick := fun j => if (c.m_ .c).getLsbD j then c.v_ .a else c.v_ .b
    execVsel mk rm sat d a b x s = .next (complete c
      { s := (c.putV s
          { c.vw f (s.me.rmode rm) (encArith f (s.me.rmode rm) sat) [] (fun j => .val ((pick j).elem j) 0#7) g0 with
            feed := fun j => (pick j).psn j }).raise mix }) := by
  obtain ⟨rfl, -, -⟩ := ready_same h
  refine issue_completes h ?_
  simp only [hp, hg, nbits_one_eq_getLsbD, Res.ok_bind]
  rfl

/-- Settles O32: each form is one of Table 6.4's shapes with its own value function; VSEL and VCMP have their own. -/
theorem elementwiseResults : Obligations.ElementwiseResults := by
  refine ⟨⟨?binary, ?minMax, fun mk rm sat d a b s c f mix g0 h hp hg => vecBin_completes h divEl hp hg, ?signs, ?rounded⟩,
    fun mk rm sat wide d a b x s c q f0 mix1 mix2 g0 h hq hp hg => vecTri_completes h fmaV hq hp hg,
    fun mk rm sat d a b x s c q f mix1 mix2 g0 h hq hp hg => vecTri_completes h (fun _ => clipV) hq hp hg,
    fun mk rm sat d a b x s c f mix g0 h hp hg => execVsel_completes h hp hg,
    fun mk cond d a b s c f mix h hp hlane hcap ht hpsn =>
      ⟨_, _, execVcmp_completes h hp hlane hcap ht hpsn, rfl, fun j hj => getLsbD_maskResult _ _ _ _ hj⟩⟩
  case binary =>
    intro p hmem mk rm sat wide d a b s c f0 mix g0 h va vb m hp f hg
    obtain rfl | rfl | rfl : p = _ ∨ p = _ ∨ p = _ := by simpa using hmem
    · exact vecBin_completes h (plain2 addV) hp hg
    · exact vecBin_completes h (plain2 subV) hp hg
    · exact vecBin_completes h (plain2 fun _ => mulV) hp hg
  case minMax =>
    intro p hmem mk rm sat d a b s c f mix g0 h va vb m hp hg
    obtain rfl | rfl : p = _ ∨ p = _ := by simpa using hmem
    · exact vecBin_completes h (plain2 fun _ => minV) hp hg
    · exact vecBin_completes h (plain2 fun _ => maxV) hp hg
  case signs =>
    intro p hmem mk rm sat d a s c f mix g0 h va m hp hg
    obtain rfl | rfl : p = _ ∨ p = _ := by simpa using hmem
    · exact vecUn_completes h _ hp Bool.noConfusion hg
    · exact vecUn_completes h _ hp Bool.noConfusion hg
  case rounded =>
    intro p hmem mk rm d a s c f mix g0 h va m hp hint hg
    obtain rfl | rfl | rfl | rfl | rfl : p = _ ∨ p = _ ∨ p = _ ∨ p = _ ∨ p = _ := by simpa using hmem
    · exact vecUn_completes h sqrtV hp (fun _ => hint) hg
    · exact vecUn_completes h rsqrtV hp (fun _ => hint) hg
    · exact vecUn_completes h rcpV hp (fun _ => hint) hg
    · exact vecUn_completes h exp2V hp (fun _ => hint) hg
    · exact vecUn_completes h log2V hp (fun _ => hint) hg

end Sys2Proof.Machine
end


section
/-! PROOFS. Tags, conversions, moves and single elements of vector registers (R77–R80, R166–R171). -/

namespace Sys2Proof.Machine

/-! ### A register under another tag -/

theorem retag_vcls_ne (r : VReg) (f : FmtCode) : (retag r f false).vcls ≠ 3 :=
  fun h => Bool.noConfusion (VReg.vcls_eq_three.mp h : false = true)

/-- The codes of the new layout are the old bits in its places (R77). -/
theorem retag_code (r : VReg) (f : FmtCode) {j : Nat} (hj : j < cap f) :
    (retag r f false).code j = nbits r.data.toNat (elemBits f * j) (elemBits f) := by
  have hplace : elemBits f * j + elemBits f ≤ elemBits f * cap f := Nat.mul_le_mul_left _ hj
  change nbits (BitVec.ofNat 8192 (r.data.toNat % 2 ^ (elemBits f * cap f))).toNat (elemBits f * j) (elemBits f) = _
  rw [BitVec.toNat_ofNat, Nat.mod_eq_of_lt (Nat.lt_of_le_of_lt (Nat.mod_le _ _) r.data.isLt), nbits_mod hplace]

theorem psnAt_of_clean {r : VReg} (h : r.psn = 0#64) (g : Nat) : r.psnAt g = false := by
  rw [VReg.psnAt, nbits_one_eq_getLsbD, h, BitVec.getLsbD_zero]

theorem retag_clean {r : VReg} (h : r.psn = 0#64) (f : FmtCode) : (retag r f false).psn = 0#64 := by
  simp only [retag, Bool.false_eq_true, if_false, psnAt_of_clean h, Bool.false_and]
  rw [joinCodes_zero (by simp)]

/-! ### Checks and parts of the instructions -/

theorem consume_ok {v : VOp} {js : List Nat} (h : ∀ j ∈ js, v.psn j = false) : consume v js = .ok () := by
  rw [consume, List.find?_eq_none.mpr fun j hj => by simp [h j hj]]

/-- The index that a literal or S[B] gives, within the capacity (R169). -/
theorem elemIndex_ok {c : Ctx} {f : FmtCode} {e : IdxSel 10} {j : Nat}
    (he : (∃ k, e = .imm k ∧ j = k.toNat) ∨ ∃ o, e = .reg o ∧ j = (c.s_ .b).toNat) (hj : j < cap f) :
    elemIndex c f e = .ok j := by
  obtain ⟨k, rfl, rfl⟩ | ⟨o, rfl, rfl⟩ := he
  · have hk : (k.setWidth 64).toNat = k.toNat := BitVec.toNat_setWidth_of_le (by decide)
    simp only [elemIndex, hk, hj, decide_true, ensure_true, Res.ok_bind]
    rfl
  · simp only [elemIndex, hj, decide_true, ensure_true, Res.ok_bind]
    rfl

theorem bitVec2_cases (sel : BitVec 2) : sel = 0#2 ∨ sel = 1#2 ∨ sel = 2#2 ∨ sel = 3#2 := by
  revert sel; decide

theorem sigNV_singleton (v : Val) : sigNV [v] = if v.isSig then fNV else 0#7 := by
  rw [sigNV, List.any_cons, List.any_nil, Bool.or_false, flagIf]

theorem splatVal_eq (st : BitVec 2) (w : Word) : splatVal st.toNat w =
    if st = 0 then Val.ofInt w.toInt else if st = 1 then Val.ofNat w.toNat
      else if st = 2 then decodeFloat 0x0C#6 w.toNat else decodeFloat 0x0B#6 (w.toNat % 2 ^ 32) := by
  obtain rfl | rfl | rfl | rfl := bitVec2_cases st <;> rfl

theorem moveEl_eq (v : VOp) : moveEl v = fun j => if v.fmt = 0#6 then .raw (v.code j) 0 else .val (v.elem j) 0#7 :=
  funext fun j => by simp only [moveEl, beq_iff_eq]

section
variable {s : State} {c : Ctx}

/-! ### Whole registers and tags -/

theorem execVtag_imm {zero : Bool} {d : Opnd} {f : FmtCode}
    (h : Issues (.vtag zero d (.imm f)) [{ wrV d with whole := true }] s c) :
    execVtag zero d (.imm f) s = .next (complete c { s := c.putImg s (retag c.oldD f zero) }) := by
  obtain ⟨rfl, -, -⟩ := ready_same h
  rw [execVtag]
  exact issue_completes h rfl

theorem execVtag_reg {zero : Bool} {d o : Opnd} {f : FmtCode}
    (h : Issues (.vtag zero d (.reg o)) [rdS .a o, { wrV d with whole := true }] s c) (ha : c.s_ .a = f.setWidth 64)
    (hf : fmtReserved f = false) :
    execVtag zero d (.reg o) s = .next (complete c { s := c.putImg s (retag c.oldD f zero) }) := by
  obtain ⟨rfl, -, -⟩ := ready_same h
  have hlt : (f.setWidth 64).toNat < 64 := by
    rw [BitVec.toNat_setWidth_of_le (by decide)]; exact f.isLt
  have hlow : (f.setWidth 64 : Word).extractLsb' 0 6 = f :=
    BitVec.eq_of_toNat_eq (by simp [BitVec.extractLsb'_toNat]; omega)
  refine issue_completes h ?_
  simp only [ha, hlow, hf, hlt, decide_true, Bool.not_false, Bool.and_self, ensure_true, Res.ok_bind]
  rfl

theorem execVgtag_completes {sel : BitVec 2} {d a : Opnd}
    (h : Issues (.vgtag sel d a) [{ rdV .a a with whole := true }, wrS d] s c) :
    execVgtag sel d a s = .next (complete c { s := c.putS s (if sel = 0 then (c.v_ .a).img.tag
      else if sel = 1 then (c.v_ .a).img.valid else (c.v_ .a).img.psn) }) := by
  obtain ⟨rfl, -, -⟩ := ready_same h
  refine issue_completes h ?_
  obtain rfl | rfl | rfl | rfl := bitVec2_cases sel <;> rfl

/-- The bit that VVALID writes for each element of group g of register r (R171). -/
def validBit (sel : BitVec 2) (r : VReg) (g : Nat) : Bool :=
  let ok := decide (g < r.groups) && r.validAt g
  if sel = 0 then ok && !r.psnAt g else if sel = 1 then r.psnAt g else !ok

/-- The mask of the group conditions of a register, as far as n. -/
def validMask (sel : BitVec 2) (r : VReg) (n : Nat) : BitVec 1024 :=
  BitVec.ofNat 1024 (joinCodes 1 ((List.range n).map fun j => if validBit sel r (j / 16) then 1 else 0))

theorem getLsbD_validMask (sel : BitVec 2) (r : VReg) (n : Nat) {j : Nat} (hj : j < 1024) :
    (validMask sel r (Nat.min n 1024)).getLsbD j = (decide (j < n) && validBit sel r (j / 16)) := by
  have hmin : decide (j < Nat.min n 1024) = decide (j < n) :=
    decide_eq_decide.mpr ⟨fun h => (Nat.lt_min.mp h).1, fun h => Nat.lt_min.mpr ⟨h, hj⟩⟩
  rw [validMask, BitVec.getLsbD_ofNat, testBit_joinCodes_one, decide_eq_true hj, Bool.true_and, hmin]

theorem execVvalid_completes {sel : BitVec 2} {d a : Opnd}
    (h : Issues (.vvalid sel d a) [{ rdV .a a with whole := true }, wrM d] s c) :
    execVvalid sel d a s = .next (complete c
      { s := c.putM s (validMask sel (c.v_ .a).img (Nat.min s.me.vl.toNat 1024)) }) := by
  obtain ⟨rfl, -, -⟩ := ready_same h
  refine issue_completes h ?_
  obtain rfl | rfl | rfl | rfl := bitVec2_cases sel <;> rfl

/-! ### Single elements -/

section
variable {rm : Rm} {d a : Opnd} {e : IdxSel 10} {j : Nat}

theorem execVext_completes_wide (h : Issues (.vext rm d a e) ([{ rdV .a a with whole := true }] ++ idxUse .b e ++ [wrS d]) s c)
    (he : (∃ k, e = .imm k ∧ j = k.toNat) ∨ ∃ o, e = .reg o ∧ j = (c.s_ .b).toNat) (hj : j < cap (c.v_ .a).fmt)
    (hpsn : (c.v_ .a).psn j = false) (hst : isStorage (c.v_ .a).fmt = false) (hna : isNarrow (c.v_ .a).fmt = false) :
    execVext rm d a e s = .next (complete c
      { s := c.putS s
          (if isSInt (c.v_ .a).fmt ∧ (c.v_ .a).code j / 2 ^ (elemBits (c.v_ .a).fmt - 1) = 1
            then w64 ((c.v_ .a).code j + 2 ^ 64 - 2 ^ elemBits (c.v_ .a).fmt) else w64 ((c.v_ .a).code j)) }) := by
  obtain ⟨rfl, -, -⟩ := ready_same h
  refine issue_completes h ?_
  simp only [elemIndex_ok he hj, consume_ok (List.forall_mem_singleton.mpr hpsn), hst, hna, Res.ok_bind, Bool.or_self,
    Bool.false_eq_true, if_false, Bool.and_eq_true, beq_iff_eq]
  rfl

theorem execVext_completes_value (h : Issues (.vext rm d a e) ([{ rdV .a a with whole := true }] ++ idxUse .b e ++ [wrS d]) s c)
    (he : (∃ k, e = .imm k ∧ j = k.toNat) ∨ ∃ o, e = .reg o ∧ j = (c.s_ .b).toNat) (hj : j < cap (c.v_ .a).fmt)
    (hpsn : (c.v_ .a).psn j = false) (hval : (isStorage (c.v_ .a).fmt || isNarrow (c.v_ .a).fmt) = true) :
    execVext rm d a e s = .next (complete c
      { s := (c.putS s (w64 (roundTo 0x0B#6 (s.me.rmode rm) ((c.v_ .a).elem j)).1)).raise
          ((if ((c.v_ .a).elem j).isSig then fNV else 0#7) ||| (roundTo 0x0B#6 (s.me.rmode rm) ((c.v_ .a).elem j)).2) }) := by
  obtain ⟨rfl, -, -⟩ := ready_same h
  refine issue_completes h ?_
  simp only [elemIndex_ok he hj, consume_ok (List.forall_mem_singleton.mpr hpsn), hval, Res.ok_bind, if_true, sigNV_singleton]
  rfl

end

/-! ### Conversion and scaling -/

section
variable {mk : Mk} {rm : Rm} {d a b : Opnd} {f : FmtCode}

theorem execVcvt_completes (h : Issues (.vcvt mk rm d a f) [rdV .a a, wrV d] s c mk) (hunt : (c.v_ .a).fmt ≠ 0#6)
    (hlane : laneMismatch [c.v_ .a] = .ok ()) (hcap : capCheck c [(c.v_ .a).fmt, f] = .ok ())
    (hconf : laneConflict c f c.td = .ok ()) :
    execVcvt mk rm d a f s = .next (complete c
      { s := (c.putV s (c.vw f (s.me.rmode rm) (encConv f (s.me.rmode rm) (isWInt (c.v_ .a).fmt)) [c.v_ .a]
          fun j => .val ((c.v_ .a).elem j) (convFlags f ((c.v_ .a).elem j)))).raise 0#7 }) := by
  obtain ⟨rfl, -, -⟩ := ready_same h
  refine issue_completes h ?_
  simp only [beq_eq_false_iff_ne.mpr hunt, Bool.false_eq_true, if_false, hlane, hcap, hconf, Res.ok_bind]
  rfl

theorem execVresc_completes (h : Issues (.vresc mk rm d a b) [rdV .a a, rdS .b b, wrV d] s c mk)
    (hunt : (c.v_ .a).fmt ≠ 0#6) (hint : isWInt (c.v_ .a).fmt = false) (hlane : laneMismatch [c.v_ .a] = .ok ())
    (hcap : capCheck c [(c.v_ .a).fmt] = .ok ()) (hconf : laneConflict c (c.v_ .a).fmt c.td = .ok ())
    (hlo : -8192 ≤ (c.s_ .b).toInt) (hhi : (c.s_ .b).toInt ≤ 8192) :
    execVresc mk rm d a b s = .next (complete c
      { s := (c.putV s (c.vw (c.v_ .a).fmt (s.me.rmode rm) (roundTo (c.v_ .a).fmt (s.me.rmode rm)) [c.v_ .a]
          fun j => .val (((c.v_ .a).elem j).scale2 (c.s_ .b).toInt) (sigNV [(c.v_ .a).elem j]))).raise 0#7 }) := by
  obtain ⟨rfl, -, -⟩ := ready_same h
  refine issue_completes h ?_
  simp only [beq_eq_false_iff_ne.mpr hunt, hint, Bool.or_self, Bool.false_eq_true, if_false, hlane, hcap, hconf,
    Int.not_lt.mpr hlo, Int.not_lt.mpr hhi, Res.ok_bind]
  rfl

/-! ### Moves, splats and index vectors -/

theorem execVmov_elements {g0 : Nat}
    (h : Issues (.vmov mk rm false d a) [{ rdV .a a with whole := false }, { wrV d with whole := false }] s c mk)
    (hlane : laneMismatch [c.v_ .a] = .ok ()) (hcap : capCheck c [(c.v_ .a).fmt] = .ok ())
    (hg : restart c (c.v_ .a).fmt = .ok g0) :
    execVmov mk rm false d a s = .next (complete c
      { s := (c.putV s (c.vw (c.v_ .a).fmt (s.me.rmode rm) (encConv (c.v_ .a).fmt (s.me.rmode rm) true) [c.v_ .a]
          (moveEl (c.v_ .a)) g0)).raise 0#7 }) := by
  obtain ⟨rfl, -, -⟩ := ready_same h
  refine issue_completes h ?_
  simp only [Bool.false_eq_true, if_false, hlane, hcap, hg, Res.ok_bind]
  rfl

theorem execVsplat_completes {st : BitVec 2} {g0 : Nat} (h : Issues (.vsplat mk rm st d a f) [rdS .a a, wrV d] s c mk)
    (hcap : capCheck c [f] = .ok ()) (hg : restart c f = .ok g0) :
    execVsplat mk rm st d a f s = .next (complete c
      { s := (c.putV s (c.vw f (s.me.rmode rm) (encConv f (s.me.rmode rm) (decide (st.toNat < 2))) []
          (fun _ => if f = 0#6 then .raw ((c.s_ .a).toNat % 256) 0
            else .val (splatVal st.toNat (c.s_ .a)) (convFlags f (splatVal st.toNat (c.s_ .a)))) g0)).raise 0#7 }) := by
  obtain ⟨rfl, -, -⟩ := ready_same h
  refine issue_completes h ?_
  simp only [hcap, hg, Res.ok_bind, beq_iff_eq]
  rfl

theorem execViota_completes {count : Bool} {g0 : Nat} (h : Issues (.viota mk rm count d f) [wrV d] s c mk)
    (hcap : capCheck c [f] = .ok ()) (hg : restart c f = .ok g0) :
    execViota mk rm count d f s = .next (complete c
      { s := (c.putV s (c.vw f (s.me.rmode rm) (encConv f (s.me.rmode rm) true) [] (fun j =>
          .val (Val.ofNat (if count then ((List.range j).filter c.isAct).length else j)) 0#7) g0)).raise 0#7 }) := by
  obtain ⟨rfl, -, -⟩ := ready_same h
  refine issue_completes h ?_
  simp only [hcap, hg, Res.ok_bind]
  rfl

end

end

/-- Settles O31: each instruction completes with its result, and `retag` keeps the bits up to the new limit. -/
theorem tagAndMoveResults : Obligations.TagAndMoveResults := by
  refine ⟨⟨?vtag, fun sel d a s c h => execVgtag_completes h, fun sel d a s c h => ⟨_, execVvalid_completes h,
      fun j hj => getLsbD_validMask sel _ _ hj⟩, ?vmovAll,
      fun rm d a e s c j h he hj hpsn => ⟨execVext_completes_wide h he hj hpsn, execVext_completes_value h he hj hpsn⟩, ?vins⟩,
    ⟨fun r f => ⟨rfl, rfl, fun j => rfl⟩, fun r f => ⟨rfl, rfl, retag_vcls_ne r f, fun j => retag_code r f,
      fun h => retag_clean h f⟩⟩,
    fun mk rm d a f s c h => execVcvt_completes h,
    fun mk rm d a b s c h => execVresc_completes h,
    ?vmov, ?vsplat, fun mk rm count d f s c g0 h => execViota_completes h⟩
  case vtag =>
    intro zero d f s c f' h hf
    obtain rfl | ⟨o, rfl, ha, hres⟩ := hf
    · exact execVtag_imm h
    · exact execVtag_reg h ha hres
  case vmovAll =>
    intro mk rm d a s c h
    obtain ⟨rfl, -, -⟩ := ready_same h
    exact (issue_completes h rfl : execVmov mk rm true d a c.s = _)
  case vins =>
    intro rm d a e s c j h old f he hj w v el r
    obtain ⟨rfl, -, -⟩ := ready_same h
    refine (issue_completes h ?_ : execVins rm d a e c.s = _)
    have hidx : elemIndex c c.oldD.fmt e = .ok j := elemIndex_ok he hj
    simp only [hidx, Res.ok_bind]
    rfl
  case vmov =>
    intro mk rm d a s c g0 h v m hlane hcap hg
    refine (execVmov_elements h hlane hcap hg).trans ?_
    simp only [moveEl_eq]
    rfl
  case vsplat =>
    intro mk rm st d a f s c g0 h w m v hcap hg
    refine (execVsplat_completes h hcap hg).trans ?_
    simp only [splatVal_eq]
    rfl

end Sys2Proof.Machine
end


section
/-! PROOFS. Index registers, lengths, capacities, identity and progress (R113, R114, R140, R141, R144, R145). -/

namespace Sys2Proof.Machine

/-! ### Offsets of index registers -/

theorem bitAt_eq_decide (w : Word) (k : Nat) : bitAt w k = decide (bits w k 1 = 1) := by
  rw [bitAt, bits, Nat.pow_one, Bool.beq_eq_decide_eq]

/-- The window of an index register: LEN, where 0 stands for 64 (R122). -/
def ixWindow (x : Word) : Nat := if bits x 6 6 = 0 then 64 else bits x 6 6

theorem ixWindow_pos (x : Word) : 0 < ixWindow x := by
  unfold ixWindow
  split <;> omega

/-- The check of R141 on a new offset. -/
def ixAllows (x : Word) (v : Int) : Bool :=
  decide (0 ≤ v) && (if bitAt x 24 then decide (v < ixWindow x) else decide (v ≤ Nat.min (ixWindow x) 63))

theorem ixAllows_iff (x : Word) (v : Int) : ixAllows x v = true ↔
    if bits x 24 1 = 1 then 0 ≤ v ∧ v < ixWindow x else 0 ≤ v ∧ v ≤ (min (ixWindow x) 63 : Nat) := by
  have hmin : Nat.min (ixWindow x) 63 = min (ixWindow x) 63 := rfl
  by_cases h : bits x 24 1 = 1 <;> simp [ixAllows, bitAt_eq_decide, h, hmin]

theorem ixAllows_emod {x : Word} (h : bits x 24 1 = 1) (v : Int) : ixAllows x (v % (ixWindow x : Int)) = true := by
  have hpos := ixWindow_pos x
  rw [ixAllows_iff, if_pos h]
  exact ⟨Int.emod_nonneg _ (by omega), Int.emod_lt_of_pos _ (by omega)⟩

section
variable {c : Ctx} {d : BitVec 3} {v v' : Int} {wrapAdd : Bool}
  (hv : (if bits (c.me.getI d.toNat) 24 1 = 1 ∧ wrapAdd = true then v % (ixWindow (c.me.getI d.toNat) : Int) else v) = v')
include hv

/-- A move of an offset is the check of R141, then the write of OFF. -/
theorem ixMove_eq : ixMove c d v wrapAdd = (do
    ensure (ixAllows (c.me.getI d.toNat) v') .bound (w64 (d.toNat + 48)) (wInt v) 2#64
    done (c.s.setMe (c.me.setI d.toNat (setBits (c.me.getI d.toNat) 12 6 v'.toNat)))) := by
  have hmod : (if (bitAt (c.me.getI d.toNat) 24 && wrapAdd) = true then v % (ixWindow (c.me.getI d.toNat) : Int) else v) = v' := by
    simpa [bitAt_eq_decide] using hv
  rw [← hmod]
  rfl

theorem ixMove_completes (h : ixAllows (c.me.getI d.toNat) v' = true) : ixMove c d v wrapAdd =
    .ok { s := c.s.setMe (c.me.setI d.toNat (setBits (c.me.getI d.toNat) 12 6 v'.toNat)) } := by
  rw [ixMove_eq hv, ensure_of_true h, Res.ok_bind, done]

theorem ixMove_bound (h : ¬ixAllows (c.me.getI d.toNat) v' = true) : ixMove c d v wrapAdd =
    .error (.trap { cause := .bound, v0 := w64 (d.toNat + 48), v1 := wInt v, v2 := 2#64 }) := by
  rw [ixMove_eq hv, ensure_of_false (Bool.eq_false_iff.mpr h), Res.error_bind]

end

section
variable {d : BitVec 3} {n : SrcB} {s : State} {c : Ctx}

/-- IXADV reduces its sum modulo the window under WRAP, and checks it otherwise. -/
theorem execIxadv_wraps (h : Issues (.ixadv d n) (srcAUse n) s c) (hw : bits (s.me.getI d.toNat) 24 1 = 1) :
    execIxadv d n s = .next (complete c { s := s.setMe (s.me.setI d.toNat (setBits (s.me.getI d.toNat) 12 6
      ((bits (s.me.getI d.toNat) 12 6 + c.sAmt n) % (ixWindow (s.me.getI d.toNat) : Int)).toNat)) }) := by
  obtain ⟨rfl, -, -⟩ := ready_same h
  exact issue_completes h (ixMove_completes (if_pos ⟨hw, rfl⟩) (ixAllows_emod hw _))

theorem execIxadv_moves (h : Issues (.ixadv d n) (srcAUse n) s c) (hw : bits (s.me.getI d.toNat) 24 1 = 0)
    (ha : ixAllows (s.me.getI d.toNat) (bits (s.me.getI d.toNat) 12 6 + c.sAmt n) = true) :
    execIxadv d n s = .next (complete c { s := s.setMe (s.me.setI d.toNat (setBits (s.me.getI d.toNat) 12 6
      (bits (s.me.getI d.toNat) 12 6 + c.sAmt n).toNat)) }) := by
  obtain ⟨rfl, -, -⟩ := ready_same h
  exact issue_completes h (ixMove_completes (if_neg fun hc => absurd (hw.symm.trans hc.1) (by decide)) ha)

theorem execIxadv_bound (h : Issues (.ixadv d n) (srcAUse n) s c) (hw : bits (s.me.getI d.toNat) 24 1 = 0)
    (ha : ¬ixAllows (s.me.getI d.toNat) (bits (s.me.getI d.toNat) 12 6 + c.sAmt n) = true) :
    execIxadv d n s = .next (s.raises (.ixadv d n) (srcAUse n)
      { cause := .bound, v0 := w64 (d.toNat + 48), v1 := wInt (bits (s.me.getI d.toNat) 12 6 + c.sAmt n),
        v2 := 2#64 }) := by
  obtain ⟨rfl, -, -⟩ := ready_same h
  exact issue_raises h (ixMove_bound (if_neg fun hc => absurd (hw.symm.trans hc.1) (by decide)) ha)

theorem execIxoff_moves (h : Issues (.ixoff d n) (srcAUse n) s c) (ha : ixAllows (s.me.getI d.toNat) (c.sAmt n) = true) :
    execIxoff d n s = .next (complete c
      { s := s.setMe (s.me.setI d.toNat (setBits (s.me.getI d.toNat) 12 6 (c.sAmt n).toNat)) }) := by
  obtain ⟨rfl, -, -⟩ := ready_same h
  exact issue_completes h (ixMove_completes (if_neg fun hc => Bool.noConfusion hc.2) ha)

theorem execIxoff_bound (h : Issues (.ixoff d n) (srcAUse n) s c) (ha : ¬ixAllows (s.me.getI d.toNat) (c.sAmt n) = true) :
    execIxoff d n s = .next (s.raises (.ixoff d n) (srcAUse n)
      { cause := .bound, v0 := w64 (d.toNat + 48), v1 := wInt (c.sAmt n), v2 := 2#64 }) := by
  obtain ⟨rfl, -, -⟩ := ready_same h
  exact issue_raises h (ixMove_bound (if_neg fun hc => Bool.noConfusion hc.2) ha)

end

/-! ### The format of VSETL and VGETCAP (R144) -/

theorem extractLsb'_zero_eq_setWidth (w : Word) : w.extractLsb' 0 6 = w.setWidth 6 :=
  BitVec.eq_of_toNat_eq (by simp [BitVec.extractLsb'_toNat])

section
variable {c : Ctx} {o : Opnd} {f' : FmtCode}

theorem fmtArg_ok {f : FmtSel}
    (hf : f = .imm f' ∨ ∃ o, f = .reg o ∧ c.s_ .b = f'.setWidth 64 ∧ fmtReserved f' = false) : fmtArg c f = .ok f' := by
  obtain rfl | ⟨o, rfl, hb, hres⟩ := hf
  · rfl
  · have hlt : (f'.setWidth 64 : Word).toNat < 64 := by
      rw [BitVec.toNat_setWidth_of_le (by decide)]; exact f'.isLt
    have hlow : (f'.setWidth 64 : Word).extractLsb' 0 6 = f' := by
      rw [extractLsb'_zero_eq_setWidth]
      exact BitVec.setWidth_setWidth_of_le _ (by decide) |>.trans (BitVec.setWidth_eq _)
    simp only [fmtArg, hb, hlow, hres, hlt, decide_true, Bool.not_false, Bool.and_self, ensure_true, Res.ok_bind]
    rfl

theorem fmtArg_tagForbidden (h : 64 ≤ (c.s_ .b).toNat ∨ fmtReserved ((c.s_ .b).setWidth 6) = true) :
    fmtArg c (.reg o) = .error (.trap { cause := .tagForbidden, v0 := 3#64, v1 := c.s_ .b }) := by
  have hbad : (decide ((c.s_ .b).toNat < 64) && !fmtReserved ((c.s_ .b).extractLsb' 0 6)) = false := by
    rw [extractLsb'_zero_eq_setWidth]
    obtain h | h := h
    · simp [h]
    · simp [h]
  simp only [fmtArg, ensure_of_false hbad, Res.error_bind]

end

/-- Settles O29: IXADV and IXOFF by `ixMove`'s check, VSETL and VGETCAP by their format. -/
theorem indexAndLengthResults : Obligations.IndexAndLengthResults := by
  refine ⟨⟨?ixset, ?ixget, ?ixadv, ?ixoff⟩, ⟨?vsetl, ?vgetcap, ?getid, ?heartbeat⟩, ?vsetlReserved, ?vgetcapReserved⟩
  case ixset =>
    intro d a s c h
    obtain ⟨rfl, -, -⟩ := ready_same h
    exact (issue_completes h rfl : execIxset d a c.s = _)
  case ixget =>
    intro d a s c h
    obtain ⟨rfl, -, -⟩ := ready_same h
    exact (issue_completes h rfl : execIxget d a c.s = _)
  case ixadv =>
    intro d n s c h x b v
    have hallows : bits x 24 1 = 0 → (ixAllows x v = true ↔ 0 ≤ v ∧ v ≤ (min b 63 : Nat)) := fun hw => by
      rw [ixAllows_iff, if_neg (by omega)]
      rfl
    have hamt : v = bits x 12 6 + c.sAmt n := by cases n <;> rfl
    refine ⟨fun hw => ?_, fun hw h0 h1 => ?_, fun hw hout => ?_⟩
    · exact hamt ▸ execIxadv_wraps h hw
    · exact hamt ▸ execIxadv_moves h hw (hamt ▸ (hallows hw).mpr ⟨h0, h1⟩)
    · exact hamt ▸ execIxadv_bound h hw (hamt ▸ mt (hallows hw).mp hout)
  case ixoff =>
    intro d n s c h x b v ok
    have hallows : ixAllows x v = true ↔ ok := ixAllows_iff x v
    have hamt : v = c.sAmt n := by cases n <;> rfl
    refine ⟨fun hok => ?_, fun hout => ?_⟩
    · exact hamt ▸ execIxoff_moves h (hamt ▸ hallows.mpr hok)
    · exact hamt ▸ execIxoff_bound h (hamt ▸ mt hallows.mp hout)
  case vsetl =>
    intro d a f s c f' h hf
    obtain ⟨rfl, -, -⟩ := ready_same h
    refine (issue_completes h ?_ : execVsetl d a f c.s = _)
    rw [fmtArg_ok hf]
    rfl
  case vgetcap =>
    intro d f s c f' h hf
    obtain ⟨rfl, -, -⟩ := ready_same h
    refine (issue_completes h ?_ : execVgetcap d f c.s = _)
    rw [fmtArg_ok hf]
    rfl
  case getid =>
    intro d sel s c h
    obtain ⟨rfl, -, -⟩ := ready_same h
    exact (issue_completes h rfl : execGetid d sel c.s = _)
  case heartbeat =>
    intro a s c h
    obtain ⟨rfl, -, -⟩ := ready_same h
    refine ⟨fun hp => (issue_completes h ?_ : execHeartbeat a c.s = _),
      fun hp => (issue_completes h ?_ : execHeartbeat a c.s = _)⟩
    · rw [hp]; rfl
    · rw [hp]; rfl
  case vsetlReserved =>
    intro d a o s c h hres
    refine (issue_raises h ?_ : execVsetl d a (.reg o) s = _)
    rw [fmtArg_tagForbidden hres, Res.error_bind]
  case vgetcapReserved =>
    intro d o s c h hres
    refine (issue_raises h ?_ : execVgetcap d (.reg o) s = _)
    rw [fmtArg_tagForbidden hres, Res.error_bind]

end Sys2Proof.Machine
end


section
/-! PROOFS. LAUNCH (R89, R90, R95, R370, R371): the results of Table 4.4, and the caravan it creates. -/

namespace Sys2Proof.Machine

/-! ### Entries at successive keys -/

section
variable {α : Type} (t : Tab α) (lo : Nat) (f : Nat → α)

/-- Entries at n keys from lo on. -/
def Tab.putRange (n : Nat) : Tab α := (List.range n).foldl (fun t i => Tab.put t (lo + i) (f i)) t

theorem Tab.putRange_succ (n : Nat) : Tab.putRange t lo f (n + 1) = Tab.put (Tab.putRange t lo f n) (lo + n) (f n) := by
  rw [Tab.putRange, List.range_succ, List.foldl_append]
  rfl

theorem Tab.find_putRange_out {n k : Nat} (h : ¬(lo ≤ k ∧ k < lo + n)) : Tab.find (Tab.putRange t lo f n) k = Tab.find t k := by
  induction n with
  | zero => rfl
  | succ n ih => rw [Tab.putRange_succ, Tab.find_put_ne _ _ _ _ (by omega), ih (by omega)]

theorem Tab.find_putRange {n i : Nat} (h : i < n) : Tab.find (Tab.putRange t lo f n) (lo + i) = some (f i) := by
  induction n with
  | zero => omega
  | succ n ih =>
    rw [Tab.putRange_succ]
    by_cases hi : i = n
    · rw [hi, Tab.find_put_same]
    · rw [Tab.find_put_ne _ _ _ _ (by omega), ih (by omega)]

end

/-! ### The result of Table 4.4 -/

/-- The mapping of ENTRY, for execution on behalf of the waybill's strands. -/
def State.entryOf (s : State) (x : Waybill) : Res Xlat :=
  s.xlat { vi := s.myVi, user := x.laneWeight != 0, core := s.coreOf s.me } .fetch x.entry

/-- R89 refuses the waybill that the acting strand launches. -/
def State.refusesWaybill (s : State) (bs : List Byte) (x : Waybill) : Bool :=
  waybillMalformed bs x (s.me.priv == .mon) (s.seenDies s.myVi).length

section
variable {s : State} {bs : List Byte} {x : Waybill}

theorem launchResult_of_malformed (h : s.refusesWaybill bs x = true) : launchResult s bs x = .ok (some (-2)) := by
  unfold State.refusesWaybill at h
  simp only [launchResult, h, if_true]
  rfl

theorem launchResult_of_entryTrap {t : Trap} (h : s.refusesWaybill bs x = false) (he : s.entryOf x = .error (.trap t)) :
    launchResult s bs x = .ok (some (-3)) := by
  unfold State.refusesWaybill at h
  unfold State.entryOf at he
  simp only [launchResult, h, he, Bool.false_eq_true, if_false]
  rfl

/-- With a good waybill and its entry mapped, the class, the quota and the joint size are checked in turn. -/
theorem launchResult_of_entry {y : Xlat} (h : s.refusesWaybill bs x = false) (he : s.entryOf x = .ok y) :
    launchResult s bs x = .ok (
      if s.myVi ≠ 0 ∧ bits (s.vi s.myVi).q2 24 2 < x.cls then some (-4)
      else if s.myVi ≠ 0 ∧ ((s.vi s.myVi).en = false ∨ (s.vi s.myVi).allows x.need x.need = false) then some (-1)
      else if 64 * ((List.range 4).filter fun d => nbits x.diemask.toNat d 1 == 1).length < x.jr * x.jc then some (-1)
      else none) := by
  unfold State.refusesWaybill at h
  unfold State.entryOf at he
  simp only [launchResult, h, he, Bool.false_eq_true, if_false, Bool.and_eq_true, Bool.or_eq_true, Bool.not_eq_true', bne_iff_ne,
    decide_eq_true_eq]
  split_ifs <;> rfl

end

/-! ### LAUNCH of a readable waybill -/

section
variable {d a : Opnd} {s : State} {c : Ctx} {s1 s2 : State} {bs : List Byte} (h : Issues (.launch d a) [rdS .a a, wrS d] s c)
  (hal : (c.s_ .a).toNat % 128 = 0) (hread : s.plainRead (c.s_ .a) 128 = .ok (s1, bs))
  (hdrain : s1.drainCore (s1.coreOf s.me) = .ok s2)
include h hal hread hdrain

theorem exec_launch_answers {r : Int} (hr : launchResult s2 bs (Waybill.ofBytes bs) = .ok (some r)) :
    exec (.launch d a) s = .next (complete c
      { s := c.putS (if r = -3 then s2.spendEntry (Waybill.ofBytes bs) else s2) (wInt r) }) := by
  obtain ⟨rfl, -, -⟩ := ready_same h
  refine (issue_completes h ?_ : execLaunch d a c.s = _)
  simp only [ensure_of_true (beq_iff_eq.mpr hal), hread, hdrain, hr, Ctx.me, Res.ok_bind]
  rfl

/-- A result but −3 leaves no refused translation to spend. -/
theorem exec_launch_answers_ne {r : Int} (hr : launchResult s2 bs (Waybill.ofBytes bs) = .ok (some r)) (hne : r ≠ -3) :
    exec (.launch d a) s = .next (complete c { s := c.putS s2 (wInt r) }) := by
  rw [exec_launch_answers h hal hread hdrain hr, if_neg hne]

theorem exec_launch_creates (hr : launchResult s2 bs (Waybill.ofBytes bs) = .ok none) :
    exec (.launch d a) s = .next (complete c { s := c.putS (s2.createCaravan (Waybill.ofBytes bs)).1
                                                 (s2.createCaravan (Waybill.ofBytes bs)).2 }) := by
  obtain ⟨rfl, -, -⟩ := ready_same h
  refine (issue_completes h ?_ : execLaunch d a c.s = _)
  simp only [ensure_of_true (beq_iff_eq.mpr hal), hread, hdrain, hr, Ctx.me, Res.ok_bind]
  rfl

end

/-! ### The caravan -/

section
variable (s : State) (x : Waybill)

/-- The caravan of a waybill that the acting strand launches (R90, R95). -/
def State.newCaravan : Caravan :=
  { vi := s.myVi, handle := (s.createCaravan x).2, wb := x, counter := x.lo, seq := s.launchSeq
    service := s.me.priv == .mon && x.laneWeight == 0, monPriv := s.me.priv == .mon && x.laneWeight == 0
    teams := (List.range x.teams).map (s.nextTeam + ·) }

/-- Its PENDING team i. -/
def State.newTeam (i : Nat) : Team := { caravan := s.nextCaravan, idx := i, spLen := x.spbytes }

theorem State.caravans_createCaravan :
    (s.createCaravan x).1.caravans = Tab.put s.caravans s.nextCaravan (s.newCaravan x) := rfl

theorem State.teams_createCaravan :
    (s.createCaravan x).1.teams = Tab.putRange s.teams s.nextTeam (s.newTeam x) x.teams := rfl

end

/-- Settles O50: the result of Table 4.4 check by check, and the caravan by the keys that `createCaravan` puts. -/
theorem launchResults : Obligations.LaunchResults := by
  refine ⟨fun d a s c s1 s2 bs h hal hread hdrain => ?answered, fun d a s c s1 s2 bs h hal hread hdrain => ?checked,
    fun s x => ?created⟩
  case answered =>
    rw [(ready_same h).1] at hread
    exact ⟨fun r hr => exec_launch_answers h hal hread hdrain hr, exec_launch_creates h hal hread hdrain⟩
  case checked =>
    intro x bad q entry answers
    have hanswer {r : Int} (hr : launchResult s2 bs x = .ok (some r)) (hne : r ≠ -3) : answers r :=
      exec_launch_answers_ne h hal hread hdrain hr hne
    refine ⟨fun hbad => hanswer (launchResult_of_malformed hbad) (by decide), fun hbad t ht => ?_, fun hbad y hy => ?_⟩
    · exact (exec_launch_answers h hal hread hdrain (launchResult_of_entryTrap hbad ht)).trans (by rw [if_pos rfl])
    · have hresult := launchResult_of_entry hbad hy
      refine ⟨fun hvi hcls => ?_, fun hvi hcls hquota => ?_, fun hok hjoint => ?_⟩
      · rw [if_pos ⟨hvi, hcls⟩] at hresult
        exact hanswer hresult (by decide)
      · rw [if_neg fun hc => absurd hc.2 (Nat.not_lt.mpr hcls), if_pos ⟨hvi, hquota⟩] at hresult
        exact hanswer hresult (by decide)
      · have hcls : ¬(s2.myVi ≠ 0 ∧ bits q.q2 24 2 < x.cls) := fun hc => absurd hc.2 (Nat.not_lt.mpr (hok hc.1).1)
        have hquota : ¬(s2.myVi ≠ 0 ∧ (q.en = false ∨ q.allows x.need x.need = false)) := by
          rintro ⟨hvi, hq⟩
          obtain ⟨-, hen, hallows⟩ := hok hvi
          simp [hen, hallows] at hq
        rw [if_neg hcls, if_neg hquota, if_neg (Nat.not_lt.mpr hjoint)] at hresult
        exact exec_launch_creates h hal hread hdrain hresult
  case created =>
    intro r
    refine ⟨rfl, ⟨s.newCaravan x, ?_, rfl, rfl, rfl, rfl, ?_, rfl⟩,
      fun i hi => ⟨s.newTeam x i, ?_, rfl, rfl, rfl, rfl, rfl⟩, fun n hn => ?_, fun n hn => ?_⟩
    · rw [State.caravans_createCaravan, Tab.find_put_same]
    · simp [State.newCaravan]
    · rw [State.teams_createCaravan, Tab.find_putRange _ _ _ hi]
    · rw [State.caravans_createCaravan, Tab.find_put_ne _ _ _ _ hn]
    · rw [State.teams_createCaravan, Tab.find_putRange_out _ _ _ hn]

end Sys2Proof.Machine
end


section
/-! PROOFS. EXIT is charged as an issue of slot M, where Table 2.6 places opcodes 0xD0–0xD6 (R101, Table 16.3). -/

namespace Sys2Proof.Machine

/-- A strand alone in its team and on its core. -/
def loneStrand : State := { strands := [(0, {})], teams := [(0, { core := some 0, strands := [0] })] }

theorem issues_exit_loneStrand : Issues .exit [] loneStrand { s := loneStrand, i := .exit } :=
  issues_of_noQ rfl (fun h => Bool.noConfusion h) (by simp) rfl

/-- The issues that VI0 is charged with for one slot: 1 is S, 2 is V and 3 is M (Table 16.3). -/
def State.slotIssues (s : State) (slot : Nat) : Word := Tab.get 0#64 (s.vi 0).counters slot

/-- The EXIT of the lone strand is charged to slot M. -/
theorem exec_exit_loneStrand : exec .exit loneStrand = .next ((loneStrand.charge 0 3 1).leave.chargeWait .exit) := rfl

theorem slotIssues_exit : ((loneStrand.charge 0 3 1).leave.chargeWait .exit).slotIssues 1 = 0#64 := by decide

theorem slotIssues_chargedS : (loneStrand.charge 0 1 1).leave.slotIssues 1 = 1#64 := by decide

/-- Refutes O51: the statement charges EXIT to the VI's counter of slot S, but opcode 0xD1 issues in slot M. A strand alone in its team
leaves with no issue of slot S counted. -/
theorem not_strandResults : ¬ Obligations.StrandResults := by
  rintro ⟨⟨-, -, -, -, exit, -⟩, -, -⟩
  have hstated : exec .exit loneStrand = .next (loneStrand.charge 0 1 1).leave :=
    exit loneStrand _ loneStrand issues_exit_loneStrand rfl rfl
  have hsame := Host.Outcome.next.inj (exec_exit_loneStrand.symm.trans hstated)
  have hzero := slotIssues_exit
  rw [hsame, slotIssues_chargedS] at hzero
  exact absurd hzero (by decide)

end Sys2Proof.Machine
end


section
/-! PROOFS. Every event answers a next state: what something holds is held, and what is refused is answered. -/

namespace Sys2Proof.Machine

theorem orLater_next (i : Instr) (s : State) (r : Res State) : ∃ t, orLater i s r = .next t := by
  unfold orLater
  split <;> exact ⟨_, rfl⟩

theorem orRefuse_next (i : Instr) (vi : Nat) (s : State) (r : Res State) : ∃ t, orRefuse i vi s r = .next t := by
  unfold orRefuse
  split
  · exact ⟨_, rfl⟩
  · exact ⟨_, rfl⟩
  · exact orLater_next ..

theorem hostEvent_next (i : Instr) (vi : Nat) (s : State) (r : Res State) : ∃ t, hostEvent i vi s r = .next t := by
  unfold hostEvent
  split
  · exact ⟨_, rfl⟩
  · exact orRefuse_next ..

theorem execEvWeatreInboundRequest_next (src : Nat) (req : WeatreReq) (s : State) :
    ∃ t, execEvWeatreInboundRequest src req s = .next t := by
  unfold execEvWeatreInboundRequest
  dsimp only
  split
  · exact ⟨_, rfl⟩
  · exact orRefuse_next ..

theorem execEvXsendLanding_next (vi chan seq src dst off : Nat) (lines : List (List Byte × BitVec 16)) (fate : Landing) (s : State) :
    ∃ t, execEvXsendLanding vi chan seq src dst off lines fate s = .next t := by
  unfold execEvXsendLanding
  dsimp only
  split
  · exact ⟨_, rfl⟩
  · split_ifs
    · exact orLater_next ..
    · exact orLater_next ..
    · exact ⟨_, rfl⟩

theorem execEvXredReduce_next (vi chan seq : Nat) (peers : List PeerPart) (s : State) :
    ∃ t, execEvXredReduce vi chan seq peers s = .next t := by
  unfold execEvXredReduce
  split
  · exact ⟨_, rfl⟩
  · split
    · exact ⟨_, rfl⟩
    · split
      · split_ifs
        · exact orLater_next ..
        · exact ⟨_, rfl⟩
      · exact ⟨_, rfl⟩

/-- Every event answers a next state, but for the two that run a parked strand's instruction again. -/
theorem exec_event_next {i : Instr} (h : i.isEvent = true) (hne : ∀ sid, i ≠ .evWaitwReevaluate sid ∧ i ≠ .evIdleWake sid)
    (s : State) : ∃ t, exec i s = .next t := by
  cases i with
  | evWaitwReevaluate sid => exact absurd rfl (hne sid).1
  | evIdleWake sid => exact absurd rfl (hne sid).2
  | evAtomicApply => exact orLater_next ..
  | evXsendLanding => exact execEvXsendLanding_next ..
  | evXredReduce => exact execEvXredReduce_next ..
  | evHostWrite | evTagWindowWrite | evHostRead | evHostAtomicop | evEvqheadWrite | evEvqstatWrite | evMailboxDoorbell
  | evMmioRegisterWrite => exact hostEvent_next ..
  | evCxlMemRequest => exact orRefuse_next ..
  | evWeatreInboundRequest => exact execEvWeatreInboundRequest_next ..
  | evTeamAdmission | evPreemption | evTeamReclaim | evCaravanCompletion | evAccessPerform | evPriResponse | evHostInvalidation
  | evCopyRowRequest | evCopyRowComplete | evCopyRowFault | evRecodePageStart | evRecodePageReencode | evFrameMigration
  | evFrameSwitch | evTileCapacityGrant | evTileLineReserve | evTileCommit | evTileRelease | evExchangeOpComplete
  | evExchangePeerTimeout | evExchangePeerClose | evAsyncTrapDelivery | evWatchdogExpiry | evEphemeralExpiry | evSoftError
  | evDctlCommandDone | evFlitRetry | evLinkFailure | evDeviceUnreachable | evLinkLayerRetry | evLongHaulAck | evLhcfgWrite
  | evQuotaRecordWrite | evViReset | evViResetComplete | evCounterSnapshot | evCounterClear | evDctlAdmit | evDctlDrain
  | evDctlWb | evDctlMig | evDctlQuiesce | evDctlRst | evDctlRetrain | evOperatingPointChange | evPcapEstimate | evThermalTrip
  | evThermalReset | evDeviceReset | evBootPuf | evBootDhcp | evBootFetch | evBootVerify | evBootRetry | evBootBist | evBootDice
  | evMonitorStart | evLinkStateChange | evExchangePeerOpen | evEthernetTransportGaveUp | evConfigurationRequest =>
    exact ⟨_, rfl⟩
  | _ => exact Bool.noConfusion h

/-- An event that can happen has happened. -/
theorem next_getD_of_some {o : Option State} {s t : State} (h : o = some t) :
    (.next (o.getD s) : Host.Outcome State Fault Refusal) = .next t := by
  rw [h]
  rfl

end Sys2Proof.Machine
end


section
/-! PROOFS. Admission of a team (R91–R93). -/

namespace Sys2Proof.Machine

/-! ### The place of a team -/

/-- A fold that keeps what it has and finds something at one entry has something at its end. -/
theorem isSome_foldl {α β : Type} {f : Option β → α → Option β} (hkeep : ∀ a x, a.isSome = true → (f a x).isSome = true)
    {x : α} (hx : ∀ a, (f a x).isSome = true) {l : List α} (h : x ∈ l) (a : Option β) : (l.foldl f a).isSome = true := by
  obtain ⟨l1, l2, rfl⟩ := List.append_of_mem h
  rw [List.foldl_append, List.foldl_cons]
  exact List.foldlRecOn l2 f (motive := fun a => a.isSome = true) (hx _) fun a ha y _ => hkeep a y ha

section
variable {s : State} {skip : List Nat} {plan : List Placed} {id : Nat} {tm : Team}

/-- What a core adds to the search for the place of a team (R92): itself, where it qualifies with fewer occupied slots. -/
def State.placeStep (s : State) (skip : List Nat) (plan : List Placed) (id : Nat) (tm : Team) (a : Option (Nat × Placed))
    (core : Nat) : Option (Nat × Placed) :=
  if s.jointTaken tm core skip plan then a
  else
    match s.fit (s.useOf core skip plan) tm, a with
    | none, _ => a
    | some ph, none => some ((s.useOf core skip plan).slots, { team := id, core, phys := ph })
    | some ph, some (n, _) =>
      if (s.useOf core skip plan).slots < n then some ((s.useOf core skip plan).slots, { team := id, core, phys := ph }) else a

theorem State.placeOne_eq (hq : s.quotaAllows tm skip plan = true) : s.placeOne skip plan id tm =
    ((s.placesFor (s.car tm.caravan)).foldl (s.placeStep skip plan id tm) none).map fun x => x.2 := by
  rw [State.placeOne, hq]
  rfl

theorem State.isSome_placeStep {a : Option (Nat × Placed)} {core : Nat} (h : a.isSome = true) :
    (s.placeStep skip plan id tm a core).isSome = true := by
  unfold State.placeStep
  split
  · exact h
  · split
    · exact h
    · rfl
    · split
      · rfl
      · exact h

/-- A core that has room is a place where there was none. -/
theorem State.isSome_placeStep_of_fit {core : Nat} (hj : s.jointTaken tm core skip plan = false)
    (hfit : (s.fit (s.useOf core skip plan) tm).isSome = true) (a : Option (Nat × Placed)) :
    (s.placeStep skip plan id tm a core).isSome = true := by
  cases a with
  | some p => exact State.isSome_placeStep rfl
  | none =>
    obtain ⟨ph, hph⟩ := Option.isSome_iff_exists.mp hfit
    simp [State.placeStep, hj, hph]

/-- A place found is one found before, or the core just looked at. -/
theorem State.placeStep_eq_some {a : Option (Nat × Placed)} {core : Nat} {q : Nat × Placed}
    (h : s.placeStep skip plan id tm a core = some q) : a = some q ∨ q.2.team = id ∧ q.2.core = core := by
  unfold State.placeStep at h
  split at h
  · exact .inl h
  · split at h
    · exact .inl h
    · cases h; exact .inr ⟨rfl, rfl⟩
    · split at h
      · cases h; exact .inr ⟨rfl, rfl⟩
      · exact .inl h

/-- A team within its quota has a place where a core has room for it. -/
theorem State.exists_placeOne {core : Nat} (hq : s.quotaAllows tm skip plan = true) (hcore : core ∈ s.placesFor (s.car tm.caravan))
    (hj : s.jointTaken tm core skip plan = false) (hfit : (s.fit (s.useOf core skip plan) tm).isSome = true) :
    ∃ p, s.placeOne skip plan id tm = some p ∧ p.team = id ∧ p.core ∈ s.placesFor (s.car tm.caravan) := by
  have hsome := isSome_foldl (f := s.placeStep skip plan id tm) (fun _ _ => State.isSome_placeStep)
    (State.isSome_placeStep_of_fit hj hfit) hcore none
  obtain ⟨q, hfound⟩ := Option.isSome_iff_exists.mp hsome
  refine ⟨q.2, by rw [State.placeOne_eq hq, hfound, Option.map_some], ?_⟩
  revert hfound
  refine List.foldlRecOn (s.placesFor (s.car tm.caravan)) (s.placeStep skip plan id tm)
    (motive := fun a => a = some q → q.2.team = id ∧ q.2.core ∈ s.placesFor (s.car tm.caravan)) (fun h => nomatch h) ?_
  intro a ih k hk h
  obtain h | ⟨hid, rfl⟩ := State.placeStep_eq_some h
  · exact ih h
  · exact ⟨hid, hk⟩

end

/-! ### A team at its place -/

/-- Writing strands one after another leaves the teams. -/
theorem State.team_foldl_setStrand {β : Type} (l : List β) (k : β → Nat) (g : State → β → Strand) (s : State) (n : Nat) :
    (l.foldl (fun s b => s.setStrand (k b) (g s b)) s).team n = s.team n := by
  induction l generalizing s with
  | nil => rfl
  | cons b l ih => exact ih _

theorem State.strands_foldl_setStrand (lo n : Nat) (f : Nat → Strand) (s : State) :
    ((List.range n).foldl (fun s i => s.setStrand (lo + i) (f i)) s).strands = Tab.putRange s.strands lo f n := by
  induction n with
  | zero => rfl
  | succ n ih =>
    rw [Tab.putRange_succ, ← ih, List.range_succ, List.foldl_append]
    rfl

section
variable (s : State) (p : Placed)

/-- The team of a place once it is bound to it (R92, R217). -/
def State.boundTeam : Team :=
  let tm := s.team p.team
  { tm with
    core := some p.core, spPhys := p.phys, places := tm.places + 1, admitted := s.admitSeq
    spBase := if tm.places = 0 then p.phys else tm.spBase
    strands := if tm.places = 0 then (List.range (s.car tm.caravan).wb.strands).map (s.nextSid + ·) else tm.strands }

theorem State.team_settle : (s.settle p).team p.team = s.boundTeam p := by
  unfold State.settle State.boundTeam
  by_cases h : (s.team p.team).places = 0
  · simp only [h, if_true]
    exact (State.team_foldl_setStrand ..).trans (State.team_setTeam ..)
  · simp only [h, if_false]
    exact (State.team_foldl_setStrand ..).trans (State.team_setTeam ..)

/-- The first placement of a team makes its strands (R86). -/
theorem State.strand_settle {i : Nat} (h : (s.team p.team).places = 0) (hi : i < (s.car (s.team p.team).caravan).wb.strands) :
    (s.settle p).strand (s.nextSid + i) =
      { s.freshStrand p.team (s.team p.team) i with slot := (s.freeSlots p.core).getD i 0 } := by
  simp only [State.settle, h, if_true, State.strand, Tab.get]
  rw [State.strands_foldl_setStrand, Tab.find_putRange _ _ _ hi]
  rfl

end

/-! ### TEAM_ADMISSION -/

theorem State.resume_unsaved {s : State} {id : Nat} (h : (s.team id).saved = none) : s.resume id = .ok s := by
  simp only [State.resume, h]

section
variable {s : State} {id : Nat} {tm : Team}

/-- A team that has not been saved and is not of a gang is bound to its place, and the lanes of its core are allotted anew. -/
theorem State.admitTeam_of_place {p : Placed} (hhead : s.head = some (id, tm)) (hgang : (s.car tm.caravan).wb.gang = false)
    (hplace : s.placeOne [] [] id tm = some p) (hsaved : (s.team p.team).saved = none) :
    s.admitTeam = some ((s.settle p).realloc p.core) := by
  have hresume : (s.settle p).resume p.team = .ok (s.settle p) := State.resume_unsaved (by rw [State.team_settle]; exact hsaved)
  have hbatch : s.placeAll (s.batch (id, tm)) = some [p] := by
    simp [State.batch, hgang, State.placeAll, hplace]
  simp only [State.admitTeam, hhead, hbatch, State.admitAt, List.foldlM_cons, List.foldlM_nil, hresume]
  rfl

theorem State.admitTeam_of_victims {h : Nat × Team} (hhead : s.head = some h) (hplace : s.placeAll (s.batch h) = none)
    (hvs : (s.victims.filter fun v => !s.agenda.contains (.event (.evPreemption v))) ≠ []) :
    s.admitTeam = some { s with agenda := s.agenda ++
      (s.victims.filter fun v => !s.agenda.contains (.event (.evPreemption v))).map fun v => .event (.evPreemption v) } := by
  simp only [State.admitTeam, hhead, hplace, List.isEmpty_iff, hvs, if_false]

end

end Sys2Proof.Machine
end


section
/-! PROOFS. How teams and caravans leave: reclaim (R18), completion (R96) and pre-emption (R390–R392). -/

namespace Sys2Proof.Machine

/-! ### TEAM_RECLAIM -/

theorem exec_evTeamReclaim (s : State) (n : Nat) : exec (.evTeamReclaim n) s = .next ((s.reclaim n).getD s) := rfl

/-- The FAULTED streams of a team are cancelled. -/
def State.cancelFaulted (s : State) (n : Nat) (tm : Team) : State :=
  (tm.streams.filter fun p => p.2.state == .faulted).foldl (fun s p => s.cancelStream n p.1) s

section
variable {s : State} {n : Nat} {tm : Team} (hfind : Tab.find s.teams n = some tm) (hcore : tm.core ≠ none)
  (hlive : tm.reclaimed = false) (hstrands : tm.strands ≠ []) (hexited : ∀ k ∈ tm.strands, (s.strand k).run = .exited)
  (hidle : ∀ p ∈ tm.streams, p.2.state ≠ .active)
include hfind hcore hlive hstrands hexited hidle

/-- A placed team whose strands have exited is reclaimed unless interlock entries are left once its FAULTED streams are cancelled. -/
theorem State.reclaim_eq : s.reclaim n =
    if tm.strands.any fun k => !((s.cancelFaulted n tm).heldEntries k).isEmpty then
      if (tm.streams.filter fun p => p.2.state == .faulted).isEmpty then none else some (s.cancelFaulted n tm)
    else some ((s.cancelFaulted n tm).setTeam n { (s.cancelFaulted n tm).team n with core := none, reclaimed := true }) := by
  have hready : (tm.core.isNone || tm.reclaimed || tm.strands.isEmpty || !s.allExited tm
      || tm.streams.any (fun p => p.2.state == .active)) = false := by
    simpa [hlive, hstrands, State.allExited, Option.isSome_iff_ne_none.mpr hcore] using ⟨hexited, fun k x => hidle (k, x)⟩
  simp only [State.reclaim, hfind, hready, Bool.false_eq_true, if_false]
  rfl

theorem exec_evTeamReclaim_releases (hfree : ∀ k ∈ tm.strands, (s.cancelFaulted n tm).heldEntries k = []) :
    exec (.evTeamReclaim n) s = .next
      ((s.cancelFaulted n tm).setTeam n { (s.cancelFaulted n tm).team n with core := none, reclaimed := true }) := by
  have hnone : (tm.strands.any fun k => !((s.cancelFaulted n tm).heldEntries k).isEmpty) = false := by simpa using hfree
  have hr := State.reclaim_eq hfind hcore hlive hstrands hexited hidle
  rw [hnone, if_neg Bool.false_ne_true] at hr
  exact next_getD_of_some hr

/-- Without FAULTED streams nothing is cancelled, and the team waits as it is. -/
theorem exec_evTeamReclaim_waits (hheld : ∃ k ∈ tm.strands, (s.cancelFaulted n tm).heldEntries k ≠ []) :
    exec (.evTeamReclaim n) s = .next (s.cancelFaulted n tm) := by
  have hsome : (tm.strands.any fun k => !((s.cancelFaulted n tm).heldEntries k).isEmpty) = true := by simpa using hheld
  have hr := State.reclaim_eq hfind hcore hlive hstrands hexited hidle
  rw [hsome, if_pos rfl] at hr
  split at hr
  · next h =>
    have hs : s.cancelFaulted n tm = s := by
      rw [State.cancelFaulted, List.isEmpty_iff.mp h]
      rfl
    rw [exec_evTeamReclaim, hr, hs, Option.getD]
  · exact next_getD_of_some hr

end

/-! ### CARAVAN_COMPLETION -/

/-- The completion event of a caravan, where its waybill asks for one (R96). -/
def State.tellDone (s : State) (x : Caravan) : State :=
  if bitAt x.wb.wake 6 then s.postEvent x.vi { ty := 1, a := x.handle, vec := bits x.wb.wake 0 6 } else s

section
variable {s : State} {n : Nat} {x : Caravan} (hfind : Tab.find s.caravans n = some x)
  (hdone : ∀ t ∈ x.teams, (s.team t).reclaimed = true)
include hfind hdone

theorem exec_evCaravanCompletion_silent (haddr : x.wb.doneaddr = 0#64) :
    exec (.evCaravanCompletion n) s = .next ((s.tellDone x).retire n) := by
  have hall : (x.teams.all fun t => (s.team t).reclaimed) = true := List.all_eq_true.mpr hdone
  have hc : s.completeCaravan n = some ((s.tellDone x).retire n) := by
    simp only [State.completeCaravan, hfind, hall, haddr, Bool.not_true, Bool.false_eq_true, beq_self_eq_true, if_true, if_false]
    rfl
  exact next_getD_of_some hc

theorem exec_evCaravanCompletion_bumps {s1 : State} (haddr : x.wb.doneaddr ≠ 0#64) (hbump : s.bumpDone x = .ok s1) :
    exec (.evCaravanCompletion n) s = .next ((s1.tellDone x).retire n) := by
  have hall : (x.teams.all fun t => (s.team t).reclaimed) = true := List.all_eq_true.mpr hdone
  have hc : s.completeCaravan n = some ((s1.tellDone x).retire n) := by
    simp only [State.completeCaravan, hfind, hall, beq_eq_false_iff_ne.mpr haddr, hbump, Bool.not_true, Bool.false_eq_true, if_false]
    rfl
  exact next_getD_of_some hc

end

/-! ### PREEMPTION -/

/-- A team without a gang is to leave its core: none of its strands is waited for, its tiles and loads are left, its core's stores are
performed and its rows have ended, in `s2`. -/
structure State.Leaving (s : State) (n c : Nat) (s1 s2 : State) : Prop where
  chosen : s.chosen n = true
  alone : s.partners n = [n]
  placed : (s.team n).core = some c
  free : ∀ k ∈ (s.team n).strands, s.mustWait (s.strand k) = false
  drained : ((s.team n).strands.foldl State.stopLoad ((s.team n).strands.foldl State.leaveTile s)).drainCore c = .ok s1
  rows : s1.finishRows n = s2
  ended : s2.rowsInFlight n = false

/-- The end of a pre-emption: a group whose images are saved leaves; one that could not be saved is told, its slots free again. -/
def State.endPreemption (s s3 : State) (grp : List Nat) : Option State :=
  match s3.saveAll grp with
  | (.ok s4, _) => some (grp.foldl State.takeOff s4)
  | (.wait s4, _) => s.onlyAsked s4
  | (.bad s4 code va sub, bad) =>
    let s5 := grp.foldl (fun s g => match (s.team g).saved with
      | some slot => (s.setSlotWord (s.whoImage (s.team g)) slot 0).setTeam g { s.team g with saved := none }
      | none => s) s4
    some (grp.foldl (fun s g =>
      if g == bad then s.tellPreempt g code va sub else s.tellPreempt g 3 (w64 (s.team bad).idx) 0#64) s5)

section
variable {s : State} {n c : Nat} {s1 s2 : State} (h : s.Leaving n c s1 s2)
include h

theorem State.Leaving.preemptChosen_eq : s.preemptChosen n = s.endPreemption s2 [n] := by
  obtain ⟨hchosen, halone, hplaced, hfree, hdrained, rfl, hended⟩ := h
  have hwait : ([n].flatMap fun g => (s.team g).strands).any (fun k => s.mustWait (s.strand k)) = false := by simpa using hfree
  have hdrain : ([n].filterMap fun g => (s.team g).core).foldlM (fun s c => s.drainCore c)
      (([n].flatMap fun g => (s.team g).strands).foldl State.stopLoad
        (([n].flatMap fun g => (s.team g).strands).foldl State.leaveTile s)) = .ok s1 := by
    simp [hplaced, hdrained]
  have hrows : [n].any ([n].foldl State.finishRows s1).rowsInFlight = false := by simpa using hended
  simp only [State.preemptChosen, hchosen, if_true, State.preempt, halone, hplaced, hwait, hdrain, hrows, Option.isNone_some,
    Bool.or_self, Bool.false_eq_true, if_false]
  rfl

theorem State.Leaving.exec_evPreemption_saved {s3 : State} (hs : s2.saveTeam n = .ok s3) :
    exec (.evPreemption n) s = .next (s3.takeOff n) := by
  have hend : s.endPreemption s2 [n] = some (s3.takeOff n) := by
    simp only [State.endPreemption, State.saveAll, hs, List.foldl_cons, List.foldl_nil]
  exact next_getD_of_some (h.preemptChosen_eq.trans hend)

/-- Without a save area the team is told, and stays. -/
theorem State.Leaving.exec_evPreemption_told (harea : bits (s2.vi (s2.car (s2.team n).caravan).vi).savebase 0 16 = 0)
    (hsaved : (s2.team n).saved = none) : exec (.evPreemption n) s = .next (s2.tellPreempt n 0 0#64 0#64) := by
  have hsave : s2.saveTeam n = .bad s2 0 0#64 0#64 := by simp only [State.saveTeam, harea, if_true]
  have hend : s.endPreemption s2 [n] = some (s2.tellPreempt n 0 0#64 0#64) := by
    simp only [State.endPreemption, State.saveAll, hsave, hsaved, List.foldl_cons, List.foldl_nil, beq_self_eq_true, if_true]
  exact next_getD_of_some (h.preemptChosen_eq.trans hend)

end

end Sys2Proof.Machine
end


section
/-! PROOFS. Strands that are parked in WAITW and IDLE (R109, R380), asynchronous traps (R386), the watchdog (R399), and the accesses
that are still to be performed (R277, R282). -/

namespace Sys2Proof.Machine

/-! ### WAITW and IDLE -/

/-- An instruction that waits otherwise than by stalling was issued (R101). -/
theorem issue_holds {i : Instr} {s t : State} {us : List Use} {body : Ctx → Res Done} {mk : Mk} {ov : Ctx → Res Unit} {c : Ctx}
    (h : ready i s us mk ov = .ok c) (hb : body c = .error (.hold t)) : issue i s us body mk ov = .next (t.chargeWait i) := by
  simp only [issue_ready h, hb]
  rfl

section
variable {cond : BitVec 3} {sc : Scope} {d a b e : Opnd} {imm : BitVec 16} {u : State} {c : Ctx} {l : Loc} {s1 : State} {v : Nat}
  (h : Issues (.waitw cond sc d a b e imm) [rdS .a a, rdS .b b, rdS .c e, wrS d] u c) (hal : (c.address imm).toNat % 8 = 0)
  (hloc : u.locate false .load (c.address imm) 8 = .ok l) (hload : u.loadAt (.mem sc .acq) (c.address imm) 8 l = .ok (s1, v))
include h hal hloc hload

theorem exec_waitw_completes (hholds : waitHolds cond (w64 v) (c.s_ .c) = true) :
    exec (.waitw cond sc d a b e imm) u = .next (complete c { s := c.putS s1 (w64 v) }) := by
  obtain ⟨rfl, -, -⟩ := ready_same h
  refine (issue_completes h ?_ : execWaitw cond sc d a b e imm c.s = _)
  simp only [ensure_of_true (beq_iff_eq.mpr hal), hloc, hload, hholds, Res.ok_bind, if_true]
  rfl

theorem exec_waitw_parks (hfails : waitHolds cond (w64 v) (c.s_ .c) = false) :
    exec (.waitw cond sc d a b e imm) u = .next ((s1.setMe { s1.me with run := .parkWaitw (.waitw cond sc d a b e imm) l.line }).chargeWait
      (.waitw cond sc d a b e imm)) := by
  obtain ⟨rfl, -, -⟩ := ready_same h
  refine (issue_holds h ?_ : execWaitw cond sc d a b e imm c.s = _)
  simp only [ensure_of_true (beq_iff_eq.mpr hal), hloc, hload, hfails, Res.ok_bind, Bool.false_eq_true, if_false]
  rfl

end

section
variable {d a : Opnd} {u : State} {c : Ctx} (h : Issues (.idle d a) [rdS .a a, wrS d] u c) (hw : (c.s_ .a).toNat < 128)
include h hw

theorem exec_idle_completes (hm : u.mevt &&& c.s_ .a ≠ 0#64) : exec (.idle d a) u = .next (complete c
    { s := c.putS { u with mevt := u.mevt &&& ~~~(c.s_ .a) } (u.mevt &&& c.s_ .a) }) := by
  obtain ⟨rfl, -, -⟩ := ready_same h
  have hne : c.s_ .a ≠ 0#64 := fun h0 => hm (by rw [h0, BitVec.and_zero])
  refine (issue_completes h ?_ : execIdle d a c.s = _)
  simp only [ensure_of_true (decide_eq_true hw), beq_eq_false_iff_ne.mpr hne, beq_eq_false_iff_ne.mpr hm, Res.ok_bind,
    Bool.false_eq_true, if_false]
  rfl

theorem exec_idle_parks (hne : c.s_ .a ≠ 0#64) (hm : u.mevt &&& c.s_ .a = 0#64) :
    exec (.idle d a) u = .next ((u.setMe { u.me with run := .parkIdle (.idle d a) }).chargeWait (.idle d a)) := by
  obtain ⟨rfl, -, -⟩ := ready_same h
  refine (issue_holds h ?_ : execIdle d a c.s = _)
  simp only [ensure_of_true (decide_eq_true hw), beq_eq_false_iff_ne.mpr hne, hm, beq_self_eq_true, Res.ok_bind,
    Bool.false_eq_true, if_false, if_true]
  rfl

end

/-- The machine in which a parked strand looks at its instruction again. -/
def State.unparked (s : State) (sid : Nat) : State :=
  ({ s with cur := sid } : State).setStrand sid { s.strand sid with run := .active }

theorem exec_evWaitwReevaluate {s t : State} {sid ln : Nat} {cond : BitVec 3} {sc : Scope} {d a b e : Opnd} {imm : BitVec 16}
    (hpark : (s.strand sid).run = .parkWaitw (.waitw cond sc d a b e imm) ln)
    (hrun : exec (.waitw cond sc d a b e imm) (s.unparked sid) = .next t) :
    exec (.evWaitwReevaluate sid) s = .next { t with cur := s.cur } := by
  have hrun' : execWaitw cond sc d a b e imm (s.unparked sid) = .next t := hrun
  unfold State.unparked at hrun'
  change execEvWaitwReevaluate sid s = _
  simp only [execEvWaitwReevaluate, hpark, hrun']

theorem exec_evIdleWake {s t : State} {sid : Nat} {d a : Opnd} (hpark : (s.strand sid).run = .parkIdle (.idle d a))
    (hrun : exec (.idle d a) (s.unparked sid) = .next t) : exec (.evIdleWake sid) s = .next { t with cur := s.cur } := by
  have hrun' : execIdle d a (s.unparked sid) = .next t := hrun
  unfold State.unparked at hrun'
  change execEvIdleWake sid s = _
  simp only [execEvIdleWake, hpark, hrun']

/-! ### ASYNC_TRAP_DELIVERY and WATCHDOG_EXPIRY -/

section
variable {s : State} {sid : Nat} {st : Strand} {p : Pend} {c : Nat} (hst : Tab.find s.strands sid = some st)
  (hcore : (s.team st.team).core = some c) (hp : s.firstPend st = some p)
include hst hcore hp

theorem exec_evAsyncTrapDelivery_active (hrun : st.run = .active) :
    exec (.evAsyncTrapDelivery sid) s = .next (s.takePend sid p) := by
  have ht : s.takeAsync sid = some (s.takePend sid p) := by
    simp only [State.takeAsync, hst, hcore, hp, hrun, Option.isNone_some, Bool.false_eq_true, if_false]
  exact next_getD_of_some ht

theorem exec_evAsyncTrapDelivery_joint {i : Instr} (hrun : st.run = .joint i) :
    exec (.evAsyncTrapDelivery sid) s = .next ((s.leaveJoint sid).takePend sid p) := by
  have ht : s.takeAsync sid = some ((s.leaveJoint sid).takePend sid p) := by
    simp only [State.takeAsync, hst, hcore, hp, hrun, Option.isNone_some, Bool.false_eq_true, if_false]
  exact next_getD_of_some ht

theorem exec_evAsyncTrapDelivery_tile {id : Nat} (hrun : st.run = .tile id) (hwait : (Tab.get {} s.tiles id).begun = false) :
    exec (.evAsyncTrapDelivery sid) s = .next ((s.abandon id fun _ => none).takePend sid p) := by
  have ht : s.takeAsync sid = some ((s.abandon id fun _ => none).takePend sid p) := by
    simp only [State.takeAsync, hst, hcore, hp, hrun, hwait, Option.isNone_some, Bool.false_eq_true, if_false]
  exact next_getD_of_some ht

end

theorem exec_evWatchdogExpiry {s : State} {sid : Nat} {st : Strand} (hst : Tab.find s.strands sid = some st)
    (hdue : s.watchdogDue st = true) : exec (.evWatchdogExpiry sid) s = .next (s.expireWatchdog sid) := by
  have hany : (Tab.find s.strands sid).any s.watchdogDue = true := by rw [hst]; exact hdue
  exact congrArg Host.Outcome.next (if_pos hany)

/-! ### ACCESS_PERFORM -/

section
variable {s : State} {core track : Nat}

theorem exec_evAccessPerform_store {b : Buffered}
    (hfind : (s.storeQ.find? fun b => b.core == core && b.track == track) = some b) (hfree : s.waitsAt b = false) :
    exec (.evAccessPerform core track) s = .next ({ s with storeQ := s.storeQ.erase b }.performBuffered b) := by
  have hany : (s.storeQ.any fun b => b.core == core && b.track == track) = true :=
    List.any_eq_true.mpr ⟨b, List.mem_of_find?_eq_some hfind, by simpa using List.find?_some hfind⟩
  have hnext : s.performNext core track = some ({ s with storeQ := s.storeQ.erase b }.performBuffered b) := by
    simp only [State.performNext, hfind, hfree, Bool.false_eq_true, if_false]
  exact (congrArg Host.Outcome.next (if_pos hany)).trans (next_getD_of_some hnext)

theorem exec_evAccessPerform_late (hnone : ∀ b ∈ s.storeQ, b.core = core → b.track ≠ track) :
    exec (.evAccessPerform core track) s = .next ((s.performLate core track).getD s) := by
  have hany : ¬(s.storeQ.any fun b => b.core == core && b.track == track) = true := by simpa using hnone
  exact congrArg Host.Outcome.next (if_neg hany)

end

end Sys2Proof.Machine
end


section
/-! PROOFS. Events of memory: atomics from outside (R320), ATS (R244), frame moves (R237), expiry and soft errors (R219, R242), and the
pages of a recode job (R232–R234). -/

namespace Sys2Proof.Machine

/-! ### ATOMIC_APPLY -/

section
variable {s : State} {pa : Nat} {w8 : Bool} {op : Aop} {v : Word} {x : AtomicArg} (hal : pa % amoBytes w8 = 0)
  (hdev : s.region pa = .dev) (hlive : s.frameLive pa = true) (hback : pa / 0x10000 ∉ s.unbacked)
  (hhome : s.homeOffline (s.ephLine (pa / 128)) pa = false)
include hal hdev hlive hback hhome

/-- An atomic whose home answers is held by a reservation of its line, and performed otherwise. -/
theorem State.atomicEvent_eq : s.atomicEvent pa w8 op v x =
    if s.held true (pa / 128) then .error .stall
    else .ok (State.replyAtomic (s.applyAtomic (s.ephLine (pa / 128)) pa (amoBytes w8) (homeNew op (amoBytes w8) v x))) := by
  have hanswers : (pa % amoBytes w8 != 0 || s.region pa != .dev || !s.frameLive pa || s.unbacked.contains (pa / 0x10000)
      || s.homeOffline (s.ephLine (pa / 128)) pa) = false := by
    simp [hal, hdev, hlive, hback, hhome]
  simp only [State.atomicEvent, hanswers, Bool.false_eq_true, if_false]

theorem exec_evAtomicApply_held (hheld : s.held true (pa / 128) = true) : exec (.evAtomicApply pa w8 op v x) s =
    .next { s with deferred := s.deferred ++ [.evAtomicApply pa w8 op v x] } := by
  have he := State.atomicEvent_eq (op := op) (v := v) (x := x) hal hdev hlive hback hhome
  rw [hheld, if_pos rfl] at he
  exact congrArg (orLater (.evAtomicApply pa w8 op v x) s) he

theorem exec_evAtomicApply_free (hfree : s.held true (pa / 128) = false) : exec (.evAtomicApply pa w8 op v x) s =
    .next (State.replyAtomic (s.applyAtomic (s.ephLine (pa / 128)) pa (amoBytes w8) (homeNew op (amoBytes w8) v x))) := by
  have he := State.atomicEvent_eq (op := op) (v := v) (x := x) hal hdev hlive hback hhome
  rw [hfree, if_neg Bool.false_ne_true] at he
  exact congrArg (orLater (.evAtomicApply pa w8 op v x) s) he

end

section
variable {s : State} {eph : Bool} {pa n : Nat} {new : Nat → Option Nat}

theorem State.applyAtomic_poisoned (h : (s.homeLine (pa / 128)).cls = 2) : s.applyAtomic eph pa n new = (s, none) := by
  simp only [State.applyAtomic, h, beq_self_eq_true, if_true]

/-- An atomic of a line without poison answers with the old value, and writes the new one where there is one. -/
theorem State.applyAtomic_clean (h : (s.homeLine (pa / 128)).cls ≠ 2) : s.applyAtomic eph pa n new =
    ((match new (nbits (s.homeLine (pa / 128)).data (8 * (pa % 128)) (8 * n)) with
      | some y => s.writeLine false eph false (pa / 128) (stLine (s.homeLine (pa / 128)) (pa % 128) n y)
      | none => s), some (nbits (s.homeLine (pa / 128)).data (8 * (pa % 128)) (8 * n))) := by
  simp only [State.applyAtomic, beq_eq_false_iff_ne.mpr h, Bool.false_eq_true, if_false]
  cases new (nbits (s.homeLine (pa / 128)).data (8 * (pa % 128)) (8 * n)) <;> rfl

end

/-! ### ATS, frame moves, expiry and soft errors -/

section
variable {s : State}

theorem exec_evPriResponse {pasid page : Nat} {ok : Bool} (h : atsName pasid page ∈ s.priPending) :
    exec (.evPriResponse ⟨pasid, page⟩ ok) s = .next { s with
      ats := Tab.put s.ats (atsName pasid page) ok, priPending := s.priPending.filter (· != atsName pasid page) } :=
  congrArg Host.Outcome.next (if_pos (List.contains_iff_mem.mpr h))

theorem exec_evFrameMigration {f : Nat} (hmov : s.movable f = true) (hnew : f ∉ s.moving) :
    exec (.evFrameMigration f) s = .next { s with moving := f :: s.moving } := by
  have hc : (s.movable f && !s.moving.contains f) = true := by simp [hmov, hnew]
  exact congrArg Host.Outcome.next (if_pos hc)

/-- The frame is in the other tier. -/
def State.switched (s : State) (f : Nat) : State :=
  { s with moving := s.moving.filter (· != f), hbm := if s.hbm.contains f then s.hbm.filter (· != f) else f :: s.hbm }

theorem State.mem_hbm_switched (s : State) (f : Nat) : f ∈ (s.switched f).hbm ↔ f ∉ s.hbm := by
  unfold State.switched
  by_cases h : f ∈ s.hbm <;> simp [h]

theorem State.not_mem_moving_switched (s : State) (f : Nat) : f ∉ (s.switched f).moving := by
  simp [State.switched]

theorem exec_evFrameSwitch {f : Nat} (hf : f ∈ s.moving) (hmov : s.movable f = true)
    (hfree : ∀ t ∈ s.tiles, s.tileInFrame t.2 f = false) : exec (.evFrameSwitch f) s = .next (s.switched f) := by
  have hc : (s.moving.contains f && s.movable f && !s.tiles.any (fun t => s.tileInFrame t.2 f)) = true := by
    simpa [hf, hmov] using fun k t => hfree (k, t)
  exact congrArg Host.Outcome.next (if_pos hc)

theorem exec_evEphemeralExpiry {ln : Nat} (hexp : s.isExpired ln = true) (hnew : ln ∉ s.expired) :
    exec (.evEphemeralExpiry ln) s = .next { s with expired := ln :: s.expired } := by
  have hc : (s.isExpired ln && !s.expired.contains ln) = true := by simp [hexp, hnew]
  exact congrArg Host.Outcome.next (if_pos hc)

theorem exec_evSoftError_line {ln : Nat} (hst : s.stagedBy ln = none) (hdev : s.region (128 * ln) = .dev) :
    exec (.evSoftError none ln false) s =
      .next (({ s with tags := Tab.set tagReset s.tags ln (s.homeLine ln).poison.tag } : State).strikeWindows ln) := by
  have he : s.softError none ln = ({ s with tags := Tab.set tagReset s.tags ln (s.homeLine ln).poison.tag } : State).strikeWindows ln := by
    simp only [State.softError, hst, hdev, beq_self_eq_true, if_true]
  exact congrArg Host.Outcome.next he

theorem exec_evSoftError_scratchpad {n ln : Nat} {tm : Team} (hfind : Tab.find s.teams n = some tm)
    (hin : tm.outside (128 * ln) 128 = none) :
    exec (.evSoftError (some n) ln false) s = .next (s.setTeam n (tm.setSpLine ln (tm.spLine ln).poison)) := by
  have he : s.softError (some n) ln = s.setTeam n (tm.setSpLine ln (tm.spLine ln).poison) := by
    simp only [State.softError, hfind, hin, Option.isNone_none, if_true]
  exact congrArg Host.Outcome.next he

end

/-! ### RECODE_PAGE_START and RECODE_PAGE_REENCODE -/

section
variable {s : State} {vi : Nat}

section
variable (hrun : (s.vi vi).rc.state = .running) (hbusy : (s.vi vi).rc.busy = false)
include hrun hbusy

theorem exec_evRecodePageStart_same (hp : s.tensorPage vi (s.vi vi).rc.va (s.vi vi).rc.fmt = .error .same) :
    exec (.evRecodePageStart vi) s = .next (s.setVi vi { s.vi vi with rc := (s.vi vi).rc.advance 0#7 }) := by
  have he : s.recodeStart vi = some (s.setVi vi { s.vi vi with rc := (s.vi vi).rc.advance 0#7 }) := by
    simp only [State.recodeStart, hrun, hbusy, hp, bne_self_eq_false, Bool.or_self, Bool.false_eq_true, if_false]
  exact next_getD_of_some he

theorem exec_evRecodePageStart_err {n : Nat} (hp : s.tensorPage vi (s.vi vi).rc.va (s.vi vi).rc.fmt = .error (.err n)) :
    exec (.evRecodePageStart vi) s =
      .next (s.setVi vi { s.vi vi with rc := { (s.vi vi).rc with state := .failed, err := n } }) := by
  have he : s.recodeStart vi = some (s.setVi vi { s.vi vi with rc := { (s.vi vi).rc with state := .failed, err := n } }) := by
    simp only [State.recodeStart, hrun, hbusy, hp, bne_self_eq_false, Bool.or_self, Bool.false_eq_true, if_false]
  exact next_getD_of_some he

/-- The page's leaf has RCB = 1, its translations are dropped, and the loads that have read of it read anew (R233). -/
def State.pageStarted (s : State) (vi : Nat) (va : Word) (p : TensorPage) : State :=
  (((p.walk.foldl State.orByte s).writeEntry p.at' (p.leaf ||| 0x400_0000#64)).dropPage vi va).forget fun ln => p.hasFrame (ln / 512)

theorem exec_evRecodePageStart_page {p : TensorPage} (hp : s.tensorPage vi (s.vi vi).rc.va (s.vi vi).rc.fmt = .ok p)
    (hleaf : s.held true (p.at' / 128) = false) (hwalk : ∀ u ∈ p.walk, s.held true (u.1 / 128) = false)
    (hquota : vi = 0 ∨ (s.vi vi).backed.length + (s.toBack p (s.vi vi).rc.fmt).length ≤ bits (s.vi vi).q1 0 24) :
    exec (.evRecodePageStart vi) s =
      let s1 := s.pageStarted vi (s.vi vi).rc.va p
      .next (s1.setVi vi { s1.vi vi with rc := { (s.vi vi).rc with busy := true } }) := by
  have hroom : (vi != 0 && decide (bits (s.vi vi).q1 0 24 < (s.vi vi).backed.length + (s.toBack p (s.vi vi).rc.fmt).length)) = false := by
    simpa [or_iff_not_imp_left] using hquota
  have hfree : (s.held true (p.at' / 128) || p.walk.any fun u => s.held true (u.1 / 128)) = false := by
    simpa [hleaf] using fun a b => hwalk (a, b)
  have he : s.recodeStart vi = some ((s.pageStarted vi (s.vi vi).rc.va p).setVi vi
      { (s.pageStarted vi (s.vi vi).rc.va p).vi vi with rc := { (s.vi vi).rc with busy := true } }) := by
    simp only [State.recodeStart, hrun, hbusy, hp, hroom, hfree, bne_self_eq_false, Bool.or_self, Bool.false_eq_true, if_false]
    rfl
  exact next_getD_of_some he

end

/-- The members of joint stores that wait with lines of a page have left them. -/
def State.clearedOf (s : State) (p : TensorPage) : State := s.leaveJoints fun w => w.lines.any fun l => p.hasFrame (l.ln / 512)

/-- A page that nothing uses is done, with the flags of its elements. -/
theorem exec_evRecodePageReencode {p : TensorPage} (hrun : (s.vi vi).rc.state = .running) (hbusy : (s.vi vi).rc.busy = true)
    (hp : s.tensorPage vi (s.vi vi).rc.va (s.vi vi).rc.fmt = .ok p) (huse : (s.clearedOf p).pageInUse p = false)
    (hmarks : ∀ u ∈ p.marks (s.vi vi).rc.fmt, (s.clearedOf p).held true (u.1 / 128) = false) :
    ∃ t fl, exec (.evRecodePageReencode vi) s = .next t ∧ (t.vi vi).rc = (s.vi vi).rc.advance fl := by
  have hfree : ((s.clearedOf p).pageInUse p || (p.marks (s.vi vi).rc.fmt).any fun u => (s.clearedOf p).held true (u.1 / 128)) = false := by
    simpa [huse] using fun a b => hmarks (a, b)
  unfold State.clearedOf at hfree
  have he : ∃ (u : State) (x : Vi) (fl : Flags), s.recodePage vi = some (u.setVi vi x) ∧ x.rc = (s.vi vi).rc.advance fl := by
    simp only [State.recodePage, hrun, hbusy, hp, hfree, bne_self_eq_false, Bool.not_true, Bool.or_self, Bool.false_eq_true, if_false]
    exact ⟨_, _, _, rfl, rfl⟩
  obtain ⟨u, x, fl, he, hx⟩ := he
  exact ⟨_, fl, next_getD_of_some he, (congrArg Vi.rc (State.vi_setVi ..)).trans hx⟩

end

end Sys2Proof.Machine
end


section
/-! PROOFS. Events of strands and of memory: what each does where it can happen. -/

namespace Sys2Proof.Machine

/-- Settles O57: each event through the operation that it performs, under the conditions in which that operation does not wait. -/
theorem strandAndMemoryEvents : Obligations.StrandAndMemoryEvents := by
  refine ⟨fun i s h hne => exec_event_next h hne s,
    ⟨?admission, ?placed, ?victims, ?reclaim, ?completion, ?preemption, ?asyncTrap,
      fun s sid st hst hdue => exec_evWatchdogExpiry hst hdue, ?waitw, ?idle,
      fun s sid cond sc d a b e imm ln t => exec_evWaitwReevaluate, fun s sid d a t => exec_evIdleWake,
      fun s core track b => exec_evAccessPerform_store, fun s core track => exec_evAccessPerform_late⟩,
    ?atomic, fun s pasid page ok => exec_evPriResponse, fun s pasid page => rfl, fun s f => exec_evFrameMigration, ?frameSwitch,
    fun s ln => exec_evEphemeralExpiry, fun s team ln => rfl, fun s ln => exec_evSoftError_line,
    fun s n tm ln => exec_evSoftError_scratchpad, ?recodeStart, ?recodePage⟩
  case admission =>
    intro s id tm core hhead hgang hsaved hquota hcore hjoint hfit
    obtain ⟨p, hplace, hteam, hin⟩ := State.exists_placeOne hquota hcore hjoint hfit
    exact ⟨p, hplace, hteam, hin, next_getD_of_some (State.admitTeam_of_place hhead hgang hplace (hteam ▸ hsaved))⟩
  case placed =>
    intro s p u t
    have ht : t = s.boundTeam p := s.team_settle p
    rw [ht]
    refine ⟨rfl, rfl, rfl, rfl, fun h => ⟨if_pos h, if_pos h, fun i hi => ⟨_, s.strand_settle p h hi⟩⟩⟩
  case victims =>
    intro s h hhead hplace vs hvs
    exact next_getD_of_some (State.admitTeam_of_victims hhead hplace hvs)
  case reclaim =>
    intro s n tm hfind hcore hlive hstrands hexited hidle s1
    exact ⟨exec_evTeamReclaim_releases hfind hcore hlive hstrands hexited hidle,
      exec_evTeamReclaim_waits hfind hcore hlive hstrands hexited hidle⟩
  case completion =>
    intro s n x hfind hdone tell
    exact ⟨exec_evCaravanCompletion_silent hfind hdone, fun s1 => exec_evCaravanCompletion_bumps hfind hdone⟩
  case preemption =>
    intro s n c s1 hchosen halone hplaced hfree hdrained s2 hended
    have h : s.Leaving n c s1 s2 := ⟨hchosen, halone, hplaced, hfree, hdrained, rfl, hended⟩
    exact ⟨fun s3 => h.exec_evPreemption_saved, h.exec_evPreemption_told⟩
  case asyncTrap =>
    intro s sid st p c hst hcore hp
    exact ⟨exec_evAsyncTrapDelivery_active hst hcore hp, fun i => exec_evAsyncTrapDelivery_joint hst hcore hp,
      fun id => exec_evAsyncTrapDelivery_tile hst hcore hp⟩
  case waitw =>
    intro s sid cond sc d a b e imm ln c l s1 v hpark u va h hal hloc hload
    exact ⟨fun hholds => exec_evWaitwReevaluate hpark (exec_waitw_completes h hal hloc hload hholds),
      fun hfails => exec_evWaitwReevaluate hpark (exec_waitw_parks h hal hloc hload hfails)⟩
  case idle =>
    intro s sid d a c hpark u h hw
    exact ⟨fun hm => exec_evIdleWake hpark (exec_idle_completes h hw hm),
      fun hne hm => exec_evIdleWake hpark (exec_idle_parks h hw hne hm)⟩
  case atomic =>
    intro s pa w8 op v x n hal hdev hlive hback hhome i
    refine ⟨exec_evAtomicApply_held hal hdev hlive hback hhome, fun hfree hpsn => ?_, fun hfree hclean => ?_⟩
    · rw [exec_evAtomicApply_free hal hdev hlive hback hhome hfree, State.applyAtomic_poisoned hpsn]
      rfl
    · rw [exec_evAtomicApply_free hal hdev hlive hback hhome hfree, State.applyAtomic_clean hclean]
      cases x <;> rfl
  case frameSwitch =>
    intro s f hf hmov hfree
    exact ⟨s.switched f, exec_evFrameSwitch hf hmov hfree, rfl, s.mem_hbm_switched f, s.not_mem_moving_switched f⟩
  case recodeStart =>
    intro s vi r hrun hbusy
    exact ⟨exec_evRecodePageStart_same hrun hbusy, fun n => exec_evRecodePageStart_err hrun hbusy,
      fun p hp hleaf hwalk hquota => exec_evRecodePageStart_page hrun hbusy hp hleaf hwalk hquota⟩
  case recodePage =>
    intro s vi p r hrun hbusy hp s0 huse hmarks
    exact exec_evRecodePageReencode hrun hbusy hp huse hmarks

end Sys2Proof.Machine
end


section
/-! PROOFS. What the bit functions of Table 5.6 and the fields of R132 compute. -/

namespace Sys2Proof.Machine

/-! ### Counting zeros -/

theorem toNat_clzW {a : Word} (h : a ≠ 0) : (clzW a).toNat = 63 - a.toNat.log2 := by
  rw [clzW, if_neg (by simpa using h), BitVec.toNat_ofNat, Nat.mod_eq_of_lt (by omega)]

/-- The highest one bit of a word that is not zero lies below its zeros. -/
theorem getLsbD_clzW {a : Word} (h : a ≠ 0) : (clzW a).toNat < 64 ∧ a.getLsbD (63 - (clzW a).toNat) = true ∧
    ∀ k, 63 - (clzW a).toNat < k → a.getLsbD k = false := by
  have hne : a.toNat ≠ 0 := fun h0 => h (BitVec.eq_of_toNat_eq h0)
  have hlog : a.toNat.log2 < 64 := (Nat.log2_lt hne).mpr a.isLt
  have htop : 63 - (clzW a).toNat = a.toNat.log2 := by rw [toNat_clzW h]; omega
  refine ⟨by rw [toNat_clzW h]; omega, ?_, fun k hk => ?_⟩
  · rw [htop, ← BitVec.testBit_toNat]
    exact Nat.testBit_log2 hne
  · rw [htop] at hk
    rw [← BitVec.testBit_toNat]
    exact Nat.testBit_lt_two_pow (Nat.lt_log2_self.trans_le (Nat.pow_le_pow_right (by decide) hk))

/-- From bit k on, the search stops at the lowest one bit. -/
theorem ctzFrom_isLeast {n j : Nat} (hj : n.testBit j = true) : ∀ fuel k, k ≤ j → j < k + fuel →
    ctzFrom n fuel k ≤ j ∧ n.testBit (ctzFrom n fuel k) = true ∧ ∀ i, k ≤ i → i < ctzFrom n fuel k → n.testBit i = false
  | 0, k, hlo, hhi => absurd hhi (by omega)
  | fuel + 1, k, hlo, hhi => by
    rw [ctzFrom]
    split
    next hbit => exact ⟨hlo, by simpa [Nat.testBit_eq_decide_div_mod_eq] using hbit, fun i h1 h2 => absurd h2 (by omega)⟩
    next hbit =>
      have hk : n.testBit k = false := by simpa [Nat.testBit_eq_decide_div_mod_eq] using hbit
      have hne : k ≠ j := fun e => by rw [e, hj] at hk; cases hk
      obtain ⟨hle, hone, hzero⟩ := ctzFrom_isLeast hj fuel (k + 1) (by omega) (by omega)
      refine ⟨hle, hone, fun i h1 h2 => ?_⟩
      obtain rfl | h1 := h1.eq_or_lt
      · exact hk
      · exact hzero i h1 h2

theorem getLsbD_ctzW {a : Word} (h : a ≠ 0) : (ctzW a).toNat < 64 ∧ a.getLsbD (ctzW a).toNat = true ∧
    ∀ k, k < (ctzW a).toNat → a.getLsbD k = false := by
  obtain ⟨j, hj⟩ := Nat.exists_testBit_of_ne_zero fun h0 => h (BitVec.eq_of_toNat_eq h0)
  have hj64 : j < 64 := BitVec.lt_of_getLsbD (x := a) hj
  obtain ⟨hle, hone, hzero⟩ := ctzFrom_isLeast hj 64 0 (by omega) (by omega)
  have hval : (ctzW a).toNat = ctzFrom a.toNat 64 0 := by
    rw [ctzW, BitVec.toNat_ofNat, Nat.mod_eq_of_lt (by omega)]
  rw [hval]
  exact ⟨by omega, hone, fun k hk => hzero k (Nat.zero_le k) hk⟩

/-! ### Counting ones -/

theorem popNat_eq_length (x n : Nat) : popNat x n = ((List.range n).filter fun k => x.testBit k).length := by
  induction n with
  | zero => rfl
  | succ n ih =>
    have hstep : popNat x (n + 1) = popNat x n + x / 2 ^ n % 2 := by
      simp only [popNat, List.range_succ, List.foldl_append, List.foldl_cons, List.foldl_nil]
    rw [hstep, ih, List.range_succ, List.filter_append, List.length_append]
    by_cases h : x / 2 ^ n % 2 = 1
    · simp [Nat.testBit_eq_decide_div_mod_eq, h]
    · have h0 : x / 2 ^ n % 2 = 0 := by omega
      simp [Nat.testBit_eq_decide_div_mod_eq, h0]

theorem toNat_popW (a : Word) : (popW a).toNat = ((List.range 64).filter fun k => a.getLsbD k).length := by
  have hle : ((List.range 64).filter fun k => a.getLsbD k).length ≤ 64 :=
    (List.length_filter_le ..).trans_eq List.length_range
  rw [popW, popNat_eq_length, BitVec.toNat_ofNat]
  exact Nat.mod_eq_of_lt (by simpa only [BitVec.testBit_toNat] using Nat.lt_of_le_of_lt hle (by decide))

/-! ### Fields -/

theorem testBit_bits (w : Word) (lo n k : Nat) : (bits w lo n).testBit k = (decide (k < n) && w.getLsbD (lo + k)) := by
  rw [bits, Nat.testBit_mod_two_pow, Nat.testBit_div_two_pow, BitVec.testBit_toNat, Nat.add_comm]

theorem bits_lt (w : Word) (lo n : Nat) : bits w lo n < 2 ^ n := Nat.mod_lt _ (Nat.two_pow_pos n)

/-- A field below 2^len carried on by ones to bit 63. -/
theorem testBit_extendOnes {f len k : Nat} (hf : f < 2 ^ len) (hlen : len ≤ 64) (hk : k < 64) :
    (f + 2 ^ 64 - 2 ^ len).testBit k = if k < len then f.testBit k else true := by
  have hsplit : f + 2 ^ 64 - 2 ^ len = 2 ^ len * (2 ^ (64 - len) - 1) + f := by
    rw [Nat.mul_sub_one, ← Nat.pow_add, Nat.add_sub_cancel' hlen]
    have hpow : 2 ^ len ≤ 2 ^ 64 := Nat.pow_le_pow_right (by decide) hlen
    omega
  rw [hsplit, Nat.testBit_two_pow_mul_add _ hf, Nat.testBit_two_pow_sub_one]
  have hin : k - len < 64 - len ∨ k < len := by omega
  obtain h | h := hin
  · rw [decide_eq_true h]
  · rw [if_pos h, if_pos h]

theorem getLsbD_bfxW {a : Word} {pos len k : Nat} (sx : Bool) (hlen : 1 ≤ len) (hpos : pos + len ≤ 64) (hk : k < 64) :
    (bfxW a pos len sx).getLsbD k = if k < len then a.getLsbD (pos + k) else (sx && a.getLsbD (pos + len - 1)) := by
  have htop : decide (bits a pos len / 2 ^ (len - 1) % 2 = 1) = a.getLsbD (pos + len - 1) := by
    rw [← Nat.testBit_eq_decide_div_mod_eq, testBit_bits, decide_eq_true (by omega), Bool.true_and,
      Nat.add_sub_assoc hlen]
  have hsign : (sx && decide (bits a pos len / 2 ^ (len - 1) % 2 = 1)) = (sx && a.getLsbD (pos + len - 1)) := by rw [htop]
  simp only [bfxW, hsign]
  split
  next hs =>
    rw [hs, BitVec.getLsbD_ofNat, decide_eq_true hk, Bool.true_and, testBit_extendOnes (bits_lt ..) (by omega) hk,
      testBit_bits]
    by_cases h : k < len
    · simp [h]
    · simp [h]
  next hs =>
    rw [Bool.eq_false_iff.mpr hs, BitVec.getLsbD_ofNat, decide_eq_true hk, Bool.true_and, testBit_bits]
    by_cases h : k < len
    · simp [h]
    · simp [h]

/-- A word with a field replaced: what lies below it, the new field, what lies above it. -/
theorem setBits_eq_join (w : Word) (lo n v : Nat) :
    setBits w lo n v = w64 (2 ^ lo * (2 ^ n * (w.toNat / 2 ^ lo / 2 ^ n) + v % 2 ^ n) + w.toNat % 2 ^ lo) := by
  have hword : 2 ^ lo * (2 ^ n * (w.toNat / 2 ^ lo / 2 ^ n) + bits w lo n) + w.toNat % 2 ^ lo = w.toNat := by
    rw [bits, Nat.div_add_mod, Nat.div_add_mod]
  rw [setBits, Nat.mul_comm (bits w lo n), Nat.mul_comm (v % 2 ^ n)]
  congr 1
  rw [Nat.mul_add] at hword ⊢
  omega

theorem getLsbD_setBits (w : Word) (lo n v : Nat) {k : Nat} (hk : k < 64) :
    (setBits w lo n v).getLsbD k = if lo ≤ k ∧ k < lo + n then v.testBit (k - lo) else w.getLsbD k := by
  rw [setBits_eq_join, w64, BitVec.getLsbD_ofNat, decide_eq_true hk, Bool.true_and,
    Nat.testBit_two_pow_mul_add _ (Nat.mod_lt _ (Nat.two_pow_pos lo)),
    Nat.testBit_two_pow_mul_add _ (Nat.mod_lt _ (Nat.two_pow_pos n))]
  by_cases hlo : k < lo
  · rw [if_pos hlo, if_neg (by omega), Nat.testBit_mod_two_pow, decide_eq_true hlo, Bool.true_and, BitVec.testBit_toNat]
  · rw [if_neg hlo]
    by_cases hhi : k - lo < n
    · rw [if_pos hhi, if_pos (by omega), Nat.testBit_mod_two_pow, decide_eq_true hhi, Bool.true_and]
    · rw [if_neg hhi, if_neg (by omega), Nat.testBit_div_two_pow, Nat.testBit_div_two_pow, BitVec.testBit_toNat]
      congr 1
      omega

/-- Settles O17: the highest and the lowest one bit, the sum of the bits, and the fields as parts of a joined number. -/
theorem bitFieldFunctions : Obligations.BitFieldFunctions :=
  ⟨rfl, rfl, fun _ => getLsbD_clzW, fun _ => getLsbD_ctzW, toNat_popW,
    fun _ _ _ sx _ hlen hpos hk => getLsbD_bfxW sx hlen hpos hk,
    fun a b pos len _ _ _ hk => getLsbD_setBits a pos len b.toNat hk⟩

end Sys2Proof.Machine
end


section
/-! PROOFS. Results and flags of the scalar integer instructions (R130–R133, Table 5.6). -/

namespace Sys2Proof.Machine

/-! ### Signed and unsigned comparison -/

theorem boolW_slt (a b : Word) : boolW (a.slt b) = if a.toInt < b.toInt then 1#64 else 0#64 := by
  simp only [boolW, BitVec.slt_eq_decide, decide_eq_true_iff]

theorem boolW_ult (a b : Word) : boolW (a.ult b) = if a.toNat < b.toNat then 1#64 else 0#64 := by
  simp only [boolW, BitVec.ult_eq_decide, decide_eq_true_iff]

theorem if_slt (a b x y : Word) : (if a.slt b = true then x else y) = if a.toInt < b.toInt then x else y := by
  simp only [BitVec.slt_eq_decide, decide_eq_true_iff]

theorem if_ult (a b x y : Word) : (if a.ult b = true then x else y) = if a.toNat < b.toNat then x else y := by
  simp only [BitVec.ult_eq_decide, decide_eq_true_iff]

/-! ### Division (R131) -/

theorem divOver_iff (a b : Word) : divOver a b = true ↔ a.toInt = -2 ^ 63 ∧ b.toInt = -1 := by
  rw [divOver, Bool.and_eq_true, beq_iff_eq, beq_iff_eq, ← BitVec.toInt_inj, ← BitVec.toInt_inj]
  rfl

theorem divS_eq (a b : Word) : divS a b = if b = 0 then (0xFFFF_FFFF_FFFF_FFFF#64, fDZ)
    else if a.toInt = -2 ^ 63 ∧ b.toInt = -1 then (0x7FFF_FFFF_FFFF_FFFF#64, fSAT)
    else (BitVec.ofInt 64 (a.toInt.tdiv b.toInt), 0#7) := by
  simp only [divS, divOver_iff, beq_iff_eq, BitVec.ofNat_eq_ofNat]

theorem divU_eq (a b : Word) : divU a b =
    if b = 0 then (0xFFFF_FFFF_FFFF_FFFF#64, fDZ) else (BitVec.ofNat 64 (a.toNat / b.toNat), 0#7) := by
  simp only [divU, beq_iff_eq, BitVec.ofNat_eq_ofNat]

theorem remS_eq (a b : Word) : remS a b = if b = 0 then (a, fDZ)
    else if a.toInt = -2 ^ 63 ∧ b.toInt = -1 then (0, 0#7)
    else (BitVec.ofInt 64 (a.toInt - b.toInt * a.toInt.tdiv b.toInt), 0#7) := by
  simp only [remS, divOver_iff, beq_iff_eq, BitVec.ofNat_eq_ofNat, Int.tmod_def]

/-- The remainder of the natural numbers is that of the words: no product wraps. -/
theorem ofNat_mod_eq_sub (a b : Word) :
    BitVec.ofNat 64 (a.toNat % b.toNat) = a - b * BitVec.ofNat 64 (a.toNat / b.toNat) := by
  rw [eq_sub_iff_add_eq]
  calc BitVec.ofNat 64 (a.toNat % b.toNat) + b * BitVec.ofNat 64 (a.toNat / b.toNat)
      = BitVec.ofNat 64 (a.toNat % b.toNat + b.toNat * (a.toNat / b.toNat)) := by
        rw [BitVec.ofNat_add, BitVec.ofNat_mul, BitVec.ofNat_toNat, BitVec.setWidth_eq]
    _ = a := by rw [Nat.mod_add_div, BitVec.ofNat_toNat, BitVec.setWidth_eq]

theorem remU_eq (a b : Word) : remU a b =
    if b = 0 then (a, fDZ) else (a - b * BitVec.ofNat 64 (a.toNat / b.toNat), 0#7) := by
  simp only [remU, beq_iff_eq, BitVec.ofNat_eq_ofNat, ofNat_mod_eq_sub]

/-! ### Completion -/

section
variable {i : Instr} {us : List Use} {s : State} {c : Ctx}

/-- A form whose body writes S[D] and sets no flag. -/
theorem issue_putS_completes {body : Ctx → Res Done} (h : Issues i us s c) {w : Word} (hb : body c = done (c.putS c.s w)) :
    issue i s us body = .next (complete c { s := c.putS s w }) := by
  obtain ⟨rfl, -, -⟩ := ready_same h
  exact issue_completes h hb

/-- A form whose body writes S[D] and raises flags. -/
theorem issue_putS_raise_completes {body : Ctx → Res Done} (h : Issues i us s c) {w : Word} {f : Flags}
    (hb : body c = done ((c.putS c.s w).raise f)) :
    issue i s us body = .next (complete c { s := (c.putS s w).raise f }) := by
  obtain ⟨rfl, -, -⟩ := ready_same h
  exact issue_completes h hb

theorem alu1_completes {d a : Opnd} (f : Word → Word) (h : Issues i [rdS .a a, wrS d] s c) :
    alu1 i d a f s = .next (complete c { s := c.putS s (f (c.s_ .a)) }) :=
  issue_putS_completes h rfl

end

/-- A scalar form with two sources completes with this value and these flags. -/
def CompletesFlags (p : (Opnd → Opnd → SrcB → Instr) × (Word → Word → Word × Flags)) : Prop :=
  ∀ d a b s c, Issues (p.1 d a b) ([rdS .a a] ++ srcBUse b ++ [wrS d]) s c →
    exec (p.1 d a b) s = .next (complete c
      { s := (c.putS s (p.2 (c.s_ .a) (c.sB b)).1).raise (p.2 (c.s_ .a) (c.sB b)).2 })

/-- A scalar form with two sources completes with this value and no flag. -/
def CompletesValue (p : (Opnd → Opnd → SrcB → Instr) × (Word → Word → Word)) : Prop :=
  ∀ d a b s c, Issues (p.1 d a b) ([rdS .a a] ++ srcBUse b ++ [wrS d]) s c →
    exec (p.1 d a b) s = .next (complete c { s := (c.putS s (p.2 (c.s_ .a) (c.sB b))).raise 0#7 })

theorem completesFlags_of_alu2 {p : (Opnd → Opnd → SrcB → Instr) × (Word → Word → Word × Flags)}
    {f : Word → Word → Word × Flags} (hexec : ∀ d a b s, exec (p.1 d a b) s = alu2 (p.1 d a b) d a b f s)
    (hf : ∀ x y, f x y = p.2 x y) : CompletesFlags p := by
  intro d a b s c h
  rw [hexec, ← hf]
  exact issue_putS_raise_completes h rfl

theorem completesValue_of_alu2 {p : (Opnd → Opnd → SrcB → Instr) × (Word → Word → Word)} {f : Word → Word → Word × Flags}
    (hexec : ∀ d a b s, exec (p.1 d a b) s = alu2 (p.1 d a b) d a b f s) (hf : ∀ x y, f x y = (p.2 x y, 0#7)) :
    CompletesValue p :=
  completesFlags_of_alu2 (p := (p.1, fun x y => (p.2 x y, 0#7))) hexec hf

/-- Settles O15: each form is `alu2` with its own function; the divisions by their cases in R131. -/
theorem scalarIntegerResults : Obligations.ScalarIntegerResults := by
  change (∀ p ∈ _, CompletesValue p) ∧ ∀ p ∈ _, CompletesFlags p
  simp only [List.forall_mem_cons, List.not_mem_nil, false_implies, implies_true, and_true]
  refine ⟨⟨?add, ?sub, ?mul, ?mulh, ?mulhu, ?and, ?or, ?xor, ?shl, ?shr, ?sra, ?slt, ?sltu, ?min, ?max, ?minu, ?maxu⟩,
    ?div, ?divu, ?rem, ?remu⟩
  case add => exact completesValue_of_alu2 (fun d a b s => (rfl : execAdd d a b s = _)) fun _ _ => rfl
  case sub => exact completesValue_of_alu2 (fun d a b s => (rfl : execSub d a b s = _)) fun _ _ => rfl
  case mul => exact completesValue_of_alu2 (fun d a b s => (rfl : execMul d a b s = _)) fun _ _ => rfl
  case mulh => exact completesValue_of_alu2 (fun d a b s => (rfl : execMulh d a b s = _)) fun _ _ => rfl
  case mulhu => exact completesValue_of_alu2 (fun d a b s => (rfl : execMulhu d a b s = _)) fun _ _ => rfl
  case and => exact completesValue_of_alu2 (fun d a b s => (rfl : execAnd d a b s = _)) fun _ _ => rfl
  case or => exact completesValue_of_alu2 (fun d a b s => (rfl : execOr d a b s = _)) fun _ _ => rfl
  case xor => exact completesValue_of_alu2 (fun d a b s => (rfl : execXor d a b s = _)) fun _ _ => rfl
  case shl => exact completesValue_of_alu2 (fun d a b s => (rfl : execShl d a b s = _)) fun _ _ => rfl
  case shr => exact completesValue_of_alu2 (fun d a b s => (rfl : execShr d a b s = _)) fun _ _ => rfl
  case sra => exact completesValue_of_alu2 (fun d a b s => (rfl : execSra d a b s = _)) fun _ _ => rfl
  case slt => exact completesValue_of_alu2 (fun d a b s => (rfl : execSlt d a b s = _)) fun x y => congrArg (·, 0#7) (boolW_slt x y)
  case sltu => exact completesValue_of_alu2 (fun d a b s => (rfl : execSltu d a b s = _)) fun x y => congrArg (·, 0#7) (boolW_ult x y)
  case min => exact completesValue_of_alu2 (fun d a b s => (rfl : execMin d a b s = _)) fun x y => congrArg (·, 0#7) (if_slt x y x y)
  case max => exact completesValue_of_alu2 (fun d a b s => (rfl : execMax d a b s = _)) fun x y => congrArg (·, 0#7) (if_slt y x x y)
  case minu => exact completesValue_of_alu2 (fun d a b s => (rfl : execMinu d a b s = _)) fun x y => congrArg (·, 0#7) (if_ult x y x y)
  case maxu => exact completesValue_of_alu2 (fun d a b s => (rfl : execMaxu d a b s = _)) fun x y => congrArg (·, 0#7) (if_ult y x x y)
  case div => exact completesFlags_of_alu2 (fun d a b s => (rfl : execDiv d a b s = _)) divS_eq
  case divu => exact completesFlags_of_alu2 (fun d a b s => (rfl : execDivu d a b s = _)) divU_eq
  case rem => exact completesFlags_of_alu2 (fun d a b s => (rfl : execRem d a b s = _)) remS_eq
  case remu => exact completesFlags_of_alu2 (fun d a b s => (rfl : execRemu d a b s = _)) remU_eq

/-- Settles O16: CLZ to POPC, BFX and LIH are `alu1`; each other form writes S[D] once. -/
theorem scalarFieldAndLoadResults : Obligations.ScalarFieldAndLoadResults := by
  unfold Obligations.ScalarFieldAndLoadResults
  simp only [List.forall_mem_cons, List.not_mem_nil, false_implies, implies_true, and_true]
  refine ⟨⟨?clz, ?ctz, ?popc⟩, ?bfx, ?bfi, ?sel, ?li, ?lih⟩
  case clz => exact fun d a s c h => (alu1_completes _ h : execClz d a s = _)
  case ctz => exact fun d a s c h => (alu1_completes _ h : execCtz d a s = _)
  case popc => exact fun d a s c h => (alu1_completes _ h : execPopc d a s = _)
  case bfx => exact fun d a pos len1 sx s c h => (alu1_completes _ h : execBfx d a pos len1 sx s = _)
  case bfi => exact fun d a b pos len1 s c h => (issue_putS_completes h rfl : execBfi d a b pos len1 s = _)
  case sel =>
    intro d a b x s c h
    refine (issue_putS_completes h ?_ : execSel d a b x s = _)
    simp only [bne_iff_ne, BitVec.ofNat_eq_ofNat]
  case li => exact fun d imm s c h => (issue_putS_completes h rfl : execLi d imm s = _)
  case lih => exact fun d a imm s c h => (alu1_completes _ h : execLih d a imm s = _)

end Sys2Proof.Machine
end


section
/-! PROOFS. Results and flags of the scalar floating-point instructions (R136–R139, Table 5.8). -/

namespace Sys2Proof.Machine

/-! ### NV of an operation (R51) -/

theorem sigNV_pair (x y : Val) : sigNV [x, y] = if x.isSig || y.isSig then fNV else 0#7 := by
  simp only [sigNV, flagIf, List.any_cons, List.any_nil, Bool.or_false]

/-- Of the conditions of FCMP the ordered ones set NV for every NaN, the others for a signalling one (R137). -/
theorem cmpV_flags {n : Nat} (hn : n ≤ 4) (x y : Val) : (cmpV n x y).2 =
    if (if n = 2 ∨ n = 3 then x.isUnord || y.isUnord else x.isSig || y.isSig) then fNV else 0#7 := by
  have hord : (n == 2 || n == 3 || n == 5 || n == 6) = true ↔ n = 2 ∨ n = 3 := by
    simp only [Bool.or_eq_true, beq_iff_eq]
    omega
  simp only [cmpV, hord, sigNV_pair, flagIf]
  split
  · rfl
  · rfl

/-! ### Completion -/

section
variable {i : Instr} {us : List Use} {s : State} {c : Ctx} {t : FTy}

/-- A floating result is rounded once into its type, with the flags of the operation and of the rounding (R136). -/
theorem issue_fput_completes {body : Ctx → Res Done} (h : Issues i us s c) {m : RMode} {r : Val × Flags}
    (hb : body c = fput c t m r) : issue i s us body = .next (complete c
      { s := (c.putS s (w64 (roundTo t.fmt m r.1).1)).raise (r.2 ||| (roundTo t.fmt m r.1).2) }) :=
  issue_putS_raise_completes h (hb.trans (fput_eq c t m r))

/-- A floating form with two sources and this value function. -/
theorem fp2_completes {rm : Rm} {d a b : Opnd} (f : RMode → Val → Val → Val × Flags)
    (h : Issues i [rdS .a a, rdS .b b, wrS d] s c) : fp2 i t rm d a b f s =
      let m := s.me.rmode rm
      let r := f m (fval t (c.s_ .a)) (fval t (c.s_ .b))
      .next (complete c { s := (c.putS s (w64 (roundTo t.fmt m r.1).1)).raise (r.2 ||| (roundTo t.fmt m r.1).2) }) := by
  obtain ⟨rfl, -, -⟩ := ready_same h
  exact issue_fput_completes h rfl

/-- An exact value, which raises the flags of its rounding alone. -/
theorem issue_fput_exact_completes {body : Ctx → Res Done} (h : Issues i us s c) {m : RMode} {v : Val}
    (hb : body c = fput c t m (v, 0#7)) : issue i s us body = .next (complete c
      { s := (c.putS s (w64 (roundTo t.fmt m v).1)).raise (roundTo t.fmt m v).2 }) :=
  (issue_fput_completes h hb).trans (by rw [BitVec.zero_or])

end

/-- FCMP writes whether its condition holds, and NV as R137 gives. -/
theorem execFcmp_completes {t : FTy} {cond : BitVec 3} {d a b : Opnd} {s : State} {c : Ctx}
    (h : Issues (.fcmp t cond d a b) [rdS .a a, rdS .b b, wrS d] s c) {r : Bool} {f : Flags}
    (hr : cmpV cond.toNat (fval t (c.s_ .a)) (fval t (c.s_ .b)) = (r, f)) :
    execFcmp t cond d a b s = .next (complete c { s := (c.putS s (if r then 1#64 else 0#64)).raise f }) := by
  refine issue_putS_raise_completes h ?_
  rw [hr]

/-- Settles O20: each operation through its exact value and one rounding, FCMP by its condition, FCVT by its KIND. -/
theorem scalarFloatResults : Obligations.ScalarFloatResults := by
  unfold Obligations.ScalarFloatResults
  simp only [List.forall_mem_cons, List.not_mem_nil, false_implies, implies_true, and_true]
  refine ⟨⟨⟨?fadd, ?fsub, ?fmul, ?fdiv⟩, ⟨?fmin, ?fmax⟩, ?fsqrt, ?fma⟩, ?fcmp, ?flt, ?fromI, ?fromN, ?toI, ?toN, ?fclass⟩
  case fadd => exact fun t rm d a b s c h => (fp2_completes addV h : execFadd t rm d a b s = _)
  case fsub => exact fun t rm d a b s c h => (fp2_completes subV h : execFsub t rm d a b s = _)
  case fmul => exact fun t rm d a b s c h => (fp2_completes (fun _ => mulV) h : execFmul t rm d a b s = _)
  case fdiv => exact fun t rm d a b s c h => (fp2_completes (fun _ => divV) h : execFdiv t rm d a b s = _)
  case fmin => exact fun t d a b s c h => (fp2_completes (fun _ => minV) h : execFmin t d a b s = _)
  case fmax => exact fun t d a b s c h => (fp2_completes (fun _ => maxV) h : execFmax t d a b s = _)
  case fsqrt =>
    intro t rm d a s c h
    obtain ⟨rfl, -, -⟩ := ready_same h
    exact (issue_fput_completes h rfl : execFsqrt t rm d a c.s = _)
  case fma =>
    intro t rm d a b x s c h
    obtain ⟨rfl, -, -⟩ := ready_same h
    exact (issue_fput_completes h rfl : execFma t rm d a b x c.s = _)
  case fcmp =>
    intro t cond d a b s c h hcond
    refine (execFcmp_completes h (Prod.ext ?_ (cmpV_flags hcond _ _)) : execFcmp t cond d a b s = _)
    have hcases : cond.toNat = 0 ∨ cond.toNat = 1 ∨ cond.toNat = 2 ∨ cond.toNat = 3 ∨ cond.toNat = 4 := by omega
    obtain h | h | h | h | h := hcases
    all_goals rw [h]; rfl
  case flt =>
    intro t rm src d a s c h
    obtain ⟨rfl, -, -⟩ := ready_same h
    refine (issue_fput_completes h rfl : execFcvt t rm (.flt src) d a c.s = _).trans ?_
    rw [sigNV_singleton]
    rfl
  case fromI =>
    intro t rm d a s c h
    obtain ⟨rfl, -, -⟩ := ready_same h
    exact (issue_fput_exact_completes h rfl : execFcvt t rm .fromI d a c.s = _)
  case fromN =>
    intro t rm d a s c h
    obtain ⟨rfl, -, -⟩ := ready_same h
    exact (issue_fput_exact_completes h rfl : execFcvt t rm .fromN d a c.s = _)
  case toI =>
    intro t rm d a s c h
    obtain ⟨rfl, -, -⟩ := ready_same h
    exact (issue_putS_raise_completes h rfl : execFcvt t rm .toI d a c.s = _)
  case toN =>
    intro t rm d a s c h
    obtain ⟨rfl, -, -⟩ := ready_same h
    exact (issue_putS_raise_completes h rfl : execFcvt t rm .toN d a c.s = _)
  case fclass => exact fun t d a s c h => (issue_putS_completes h rfl : execFclass t d a s = _)

end Sys2Proof.Machine
end


section
/-! PROOFS. Control registers: CRD, CWR and CRSW, and what a register reads after a write (R119, R142, R387, Table 5.2). -/

namespace Sys2Proof.Machine

/-! ### The acting strand after its core's lanes are apportioned anew -/

theorem me_setStrand_lanes (s : State) (i n : Nat) :
    ∃ k, (s.setStrand i { s.strand i with lanes := n }).me = { s.me with lanes := k } := by
  by_cases h : i = s.cur
  · exact ⟨n, by rw [h]; exact State.strand_setStrand ..⟩
  · exact ⟨s.me.lanes, State.strand_setStrand_ne _ _ _ _ (Ne.symm h)⟩

theorem me_foldl_setStrand_lanes (cs : List Claim) (s : State) :
    ∃ k, (cs.foldl (fun s c => s.setStrand c.sid { s.strand c.sid with lanes := c.got }) s).me = { s.me with lanes := k } := by
  induction cs generalizing s with
  | nil => exact ⟨s.me.lanes, rfl⟩
  | cons c cs ih =>
    obtain ⟨k, hk⟩ := ih (s.setStrand c.sid { s.strand c.sid with lanes := c.got })
    obtain ⟨j, hj⟩ := me_setStrand_lanes s c.sid c.got
    exact ⟨k, hk.trans (by rw [hj])⟩

/-- Lane allocation changes nothing of the acting strand but its lanes (R103, R104). -/
theorem me_reallocMine (s : State) : ∃ k, s.reallocMine.me = { s.me with lanes := k } :=
  me_foldl_setStrand_lanes _ s

/-! ### What reads back -/

/-- A read of register n after a write that R119 accepts gives the written value under the mask m. -/
def ReadsBack (n : Nat) (m : Word) : Prop := ∀ (s : State) w t, s.crWrite n w = .ok t → t.crRead n = w &&& m

section
variable {n : Nat} {m : Word}

/-- A register that stands in the strand. -/
theorem readsBack_strand (f : Strand → Word → Strand) (g : Strand → Word)
    (hw : ∀ (s : State) w t, s.crWrite n w = .ok t → t = s.setMe (f s.me w))
    (hr : ∀ s : State, s.crRead n = g s.me) (hfg : ∀ st w, g (f st w) = w &&& m) : ReadsBack n m := by
  intro s w t h
  rw [hw s w t h, hr, State.me_setMe, hfg]

/-- A register of the strand whose write apportions the core's lanes anew. -/
theorem readsBack_strand_realloc (f : Strand → Word → Strand) (g : Strand → Word)
    (hw : ∀ (s : State) w t, s.crWrite n w = .ok t → t = (s.setMe (f s.me w)).reallocMine)
    (hr : ∀ s : State, s.crRead n = g s.me) (hg : ∀ (st : Strand) k, g { st with lanes := k } = g st)
    (hfg : ∀ st w, g (f st w) = w &&& m) : ReadsBack n m := by
  intro s w t h
  obtain ⟨k, hk⟩ := me_reallocMine (s.setMe (f s.me w))
  rw [hw s w t h, hr, hk, hg, State.me_setMe, hfg]

/-- A register that stands in a VI, which the write does not change to another. -/
theorem readsBack_vi (v : State → Nat) (f : Vi → Word → Vi) (g : Vi → Word)
    (hw : ∀ (s : State) w, s.crWrite n w = .ok (s.setVi (v s) (f (s.vi (v s)) w)))
    (hr : ∀ s : State, s.crRead n = g (s.vi (v s))) (hv : ∀ (s : State) i x, v (s.setVi i x) = v s)
    (hfg : ∀ x w, g (f x w) = w &&& m) : ReadsBack n m := by
  intro s w t h
  obtain rfl := Except.ok.inj ((hw s w).symm.trans h)
  rw [hr, hv, State.vi_setVi, hfg]

end

/-- A register without bits that read as zero. -/
theorem eq_and_allOnes (w : Word) : w = w &&& BitVec.allOnes 64 := BitVec.and_allOnes.symm

theorem readsBack_vl : ReadsBack 0x00 (BitVec.allOnes 64) :=
  readsBack_strand_realloc (fun st w => { st with vl := w }) Strand.vl (fun _ _ _ h => (Except.ok.inj h).symm) (fun _ => rfl)
    (fun _ _ => rfl) fun _ => eq_and_allOnes

theorem readsBack_vfmt : ReadsBack 0x01 (BitVec.allOnes 64) :=
  readsBack_strand_realloc (fun st w => { st with vfmt := w }) Strand.vfmt
    (fun s w t h => by
      obtain ⟨-, -, h⟩ := Res.bind_eq_ok.mp (h : (_ >>= _) = _)
      exact (Except.ok.inj h).symm)
    (fun _ => rfl) (fun _ _ => rfl) fun _ => eq_and_allOnes

theorem readsBack_tstart : ReadsBack 0x02 (BitVec.allOnes 64) :=
  readsBack_strand (fun st w => { st with tstart := w, mstep := 0#64 }) Strand.tstart
    (fun _ _ _ h => (Except.ok.inj h).symm) (fun _ => rfl) fun _ => eq_and_allOnes

theorem readsBack_mstep : ReadsBack 0x03 (BitVec.allOnes 64) :=
  readsBack_strand (fun st w => { st with mstep := w, tstart := 0#64 }) Strand.mstep
    (fun _ _ _ h => (Except.ok.inj h).symm) (fun _ => rfl) fun _ => eq_and_allOnes

theorem readsBack_palsel : ReadsBack 0x05 (BitVec.allOnes 64) :=
  readsBack_strand (fun st w => { st with palsel := w }) Strand.palsel
    (fun s w t h => by
      obtain ⟨-, -, h⟩ := Res.bind_eq_ok.mp (h : (_ >>= _) = _)
      exact (Except.ok.inj h).symm)
    (fun _ => rfl) fun _ => eq_and_allOnes

theorem readsBack_vdirty : ReadsBack 0x06 0xFFFF_FFFF_FFFF#64 :=
  readsBack_strand (fun st w => { st with vdirty := w &&& 0xFFFF_FFFF_FFFF#64 }) Strand.vdirty
    (fun _ _ _ h => (Except.ok.inj h).symm) (fun _ => rfl) fun _ _ => rfl

theorem readsBack_vpresent : ReadsBack 0x07 0xFFFF_FFFF_FFFF#64 :=
  readsBack_strand (fun st w => { st with vpresent := w &&& 0xFFFF_FFFF_FFFF#64 }) Strand.vpresent
    (fun _ _ _ h => (Except.ok.inj h).symm) (fun _ => rfl) fun _ _ => rfl

theorem readsBack_progress : ReadsBack 0x12 (BitVec.allOnes 64) :=
  readsBack_strand (fun st w => { st with progress := w }) Strand.progress
    (fun _ _ _ h => (Except.ok.inj h).symm) (fun _ => rfl) fun _ => eq_and_allOnes

theorem readsBack_vpad : ReadsBack 0x18 (BitVec.allOnes 64) :=
  readsBack_strand_realloc (fun st w => { st with vpad := w }) Strand.vpad (fun _ _ _ h => (Except.ok.inj h).symm)
    (fun _ => rfl) (fun _ _ => rfl) fun _ => eq_and_allOnes

theorem readsBack_sscratch : ReadsBack 0x2D (BitVec.allOnes 64) :=
  readsBack_strand (fun st w => { st with sscratch := w }) Strand.sscratch
    (fun _ _ _ h => (Except.ok.inj h).symm) (fun _ => rfl) fun _ => eq_and_allOnes

theorem readsBack_vicur : ReadsBack 0x49 (BitVec.allOnes 64) :=
  readsBack_strand (fun st w => { st with vicur := w }) Strand.vicur
    (fun _ _ _ h => (Except.ok.inj h).symm) (fun _ => rfl) fun _ => eq_and_allOnes

theorem readsBack_mscratch : ReadsBack 0x4A (BitVec.allOnes 64) :=
  readsBack_strand (fun st w => { st with mscratch := w }) Strand.mscratch
    (fun _ _ _ h => (Except.ok.inj h).symm) (fun _ => rfl) fun _ => eq_and_allOnes

/-! ### The registers of a trap level -/

/-- The bits of a level's register that do not read as zero (Table 17.1). -/
def trapMask (l : Priv) : Nat → Word
  | 1 => 0xFF#64
  | 6 => ~~~7#64
  | 7 => statMask l
  | _ => BitVec.allOnes 64

theorem TrapRegs.get_write (t : TrapRegs) (l : Priv) {k : Nat} (hk : k < 8) (w : Word) :
    (t.write l k w).get k = w &&& trapMask l k :=
  match k, hk with
  | 0, _ | 2, _ | 3, _ | 4, _ | 5, _ => eq_and_allOnes w
  | 1, _ | 6, _ | 7, _ => rfl

theorem readsBack_user (k : Fin 8) : ReadsBack (0x08 + k) (trapMask .user k) := by
  obtain ⟨k, hk⟩ := k
  refine readsBack_strand (fun st w => { st with ut := st.ut.write .user k w }) (fun st => st.ut.get k) ?_ ?_
    fun st => st.ut.get_write .user hk
  · interval_cases k
    all_goals exact fun _ _ _ h => (Except.ok.inj h).symm
  · interval_cases k
    all_goals exact fun _ => rfl

/-- STVEC stands in the VI, not in the strand's level. -/
theorem readsBack_sup (k : Fin 8) (hvec : (k : Nat) ≠ 6) : ReadsBack (0x20 + k) (trapMask .sup k) := by
  obtain ⟨k, hk⟩ := k
  have hcases : k < 6 ∨ k = 7 := by
    have hne : k ≠ 6 := hvec
    omega
  refine readsBack_strand (fun st w => { st with st := st.st.write .sup k w }) (fun st => st.st.get k) ?_ ?_
    fun st => st.st.get_write .sup hk
  · obtain hlt | rfl := hcases
    · interval_cases k
      all_goals exact fun _ _ _ h => (Except.ok.inj h).symm
    · exact fun _ _ _ h => (Except.ok.inj h).symm
  · obtain hlt | rfl := hcases
    · interval_cases k
      all_goals exact fun _ => rfl
    · exact fun _ => rfl

theorem readsBack_mon (k : Fin 8) : ReadsBack (0x40 + k) (trapMask .mon k) := by
  obtain ⟨k, hk⟩ := k
  refine readsBack_strand (fun st w => { st with mt := st.mt.write .mon k w }) (fun st => st.mt.get k) ?_ ?_
    fun st => st.mt.get_write .mon hk
  · interval_cases k
    all_goals exact fun _ _ _ h => (Except.ok.inj h).symm
  · interval_cases k
    all_goals exact fun _ => rfl

/-! ### The registers of a VI -/

theorem readsBack_stvec : ReadsBack 0x26 (~~~7#64) :=
  readsBack_vi State.myVi (fun v w => { v with stvec := w &&& ~~~7#64 }) Vi.stvec (fun _ _ => rfl) (fun _ => rfl)
    (fun _ _ _ => rfl) fun _ _ => rfl

/-- A write of VTBASE drops cached translations, which no register shows. -/
theorem readsBack_vtbase : ReadsBack 0x28 0x7_FFFF_FFFF_F000#64 := by
  intro s w t h
  obtain rfl := Except.ok.inj h
  exact congrArg Vi.vtbase (State.vi_setVi s s.myVi _)

theorem readsBack_kdcur : ReadsBack 0x29 (BitVec.allOnes 64) :=
  readsBack_vi (fun s => s.viOfCr s.me) (fun v w => { v with kdcur := w }) Vi.kdcur (fun _ _ => rfl) (fun _ => rfl)
    (fun _ _ _ => rfl) fun _ => eq_and_allOnes

theorem readsBack_wdwin : ReadsBack 0x2B 0xFFFF_FFFF#64 :=
  readsBack_vi State.myVi (fun v w => { v with wdwin := w &&& 0xFFFF_FFFF#64 }) Vi.wdwin (fun _ _ => rfl) (fun _ => rfl)
    (fun _ _ _ => rfl) fun _ _ => rfl

theorem readsBack_s2base : ReadsBack 0x48 0x7_FFFF_FFFF_F000#64 :=
  readsBack_vi (fun s => s.viOfCr s.me) (fun v w => { v with s2base := w &&& 0x7_FFFF_FFFF_F000#64 }) Vi.s2base
    (fun _ _ => rfl) (fun _ => rfl) (fun _ _ _ => rfl) fun _ _ => rfl

/-! ### CRD, CWR and CRSW -/

theorem crKeeps_eq (n : BitVec 12) : crKeeps n.toNat = decide (n = 0x02 ∨ n = 0x03) := by
  rw [Bool.eq_iff_iff, crKeeps, Bool.or_eq_true, beq_iff_eq, beq_iff_eq, decide_eq_true_iff, ← BitVec.toNat_inj,
    ← BitVec.toNat_inj]
  rfl

section
variable {d a : Opnd} {n : BitVec 12} {s s1 : State} {c : Ctx}

theorem execCwr_completes (h : Issues (.cwr n a) [rdS .a a] s c) (hw : s.crWrite n.toNat (c.s_ .a) = .ok s1) :
    execCwr n a s = .next (complete c { s := s1, keepT := decide (n = 0x02 ∨ n = 0x03) }) := by
  obtain ⟨rfl, -, -⟩ := ready_same h
  refine issue_completes h ?_
  rw [hw, Res.ok_bind, crKeeps_eq]

theorem execCrsw_completes (h : Issues (.crsw d n a) [rdS .a a, wrS d] s c) (hw : s.crWrite n.toNat (c.s_ .a) = .ok s1) :
    execCrsw d n a s =
      .next (complete c { s := c.putS s1 (s.crRead n.toNat), keepT := decide (n = 0x02 ∨ n = 0x03) }) := by
  obtain ⟨rfl, -, -⟩ := ready_same h
  refine issue_completes h ?_
  rw [hw, Res.ok_bind, crKeeps_eq]

/-- A write that R119 refuses raises its fault alone. -/
theorem execCwr_raises {t : Trap} (h : Issues (.cwr n a) [rdS .a a] s c)
    (hw : s.crWrite n.toNat (c.s_ .a) = .error (.trap t)) :
    execCwr n a s = .next (s.raises (.cwr n a) [rdS .a a] t) := by
  obtain ⟨rfl, -, -⟩ := ready_same h
  refine issue_raises h ?_
  rw [hw, Res.error_bind]

end

/-- Settles O27: the three instructions through `State.crWrite`, and the registers one by one, each where it stands. -/
theorem controlRegisterAccess : Obligations.ControlRegisterAccess := by
  refine ⟨⟨?crd, fun n a s c s1 h hw => execCwr_completes h hw, fun d n a s c s1 h hw => execCrsw_completes h hw,
    fun n a s c t h hw => execCwr_raises h hw⟩, ?reads⟩
  case crd =>
    intro d n s c h
    obtain ⟨rfl, -, -⟩ := ready_same h
    exact (issue_putS_completes h rfl : execCrd d n c.s = _)
  case reads =>
    change ∀ p ∈ _, ReadsBack (Prod.fst p) (Prod.snd p)
    simp only [List.forall_mem_cons, List.not_mem_nil, false_implies, implies_true, and_true]
    exact ⟨readsBack_vl, readsBack_vfmt, readsBack_tstart, readsBack_mstep, readsBack_palsel, readsBack_vdirty,
      readsBack_vpresent, readsBack_user 0, readsBack_user 1, readsBack_user 2, readsBack_user 3, readsBack_user 4,
      readsBack_user 5, readsBack_user 6, readsBack_user 7, readsBack_progress, readsBack_vpad,
      readsBack_sup 0 (by decide), readsBack_sup 1 (by decide), readsBack_sup 2 (by decide), readsBack_sup 3 (by decide),
      readsBack_sup 4 (by decide), readsBack_sup 5 (by decide), readsBack_stvec, readsBack_sup 7 (by decide),
      readsBack_vtbase, readsBack_kdcur, readsBack_wdwin, readsBack_sscratch, readsBack_mon 0, readsBack_mon 1,
      readsBack_mon 2, readsBack_mon 3, readsBack_mon 4, readsBack_mon 5, readsBack_mon 6, readsBack_mon 7,
      readsBack_s2base, readsBack_vicur, readsBack_mscratch⟩

end Sys2Proof.Machine
end


section
/-! PROOFS. The codes and poison of a committed result in a wide format (R147, R150). -/

namespace Sys2Proof.Machine

/-! ### Parts of joined codes -/

theorem nbits_nbits {lo n k : Nat} (h : lo + n ≤ k) (x a : Nat) : nbits (nbits x a k) lo n = nbits x (a + lo) n := by
  have hmod : nbits (nbits x a k) lo n = nbits (x / 2 ^ a) lo n := nbits_mod h
  rw [hmod, nbits, nbits, Nat.div_div_eq_div_mul, ← Nat.pow_add]

theorem joinCodes_lt {w : Nat} {cs : List Nat} (h : ∀ x ∈ cs, x < 2 ^ w) : joinCodes w cs < 2 ^ (w * cs.length) := by
  induction cs with
  | nil => simp [joinCodes]
  | cons x cs ih =>
    obtain ⟨hx, hcs⟩ := List.forall_mem_cons.mp h
    rw [joinCodes, List.length_cons, Nat.mul_succ, Nat.add_comm (w * _), Nat.pow_add]
    calc x + 2 ^ w * joinCodes w cs < 2 ^ w * (joinCodes w cs + 1) := by rw [Nat.mul_add, Nat.mul_one]; omega
      _ ≤ 2 ^ w * 2 ^ (w * cs.length) := Nat.mul_le_mul_left _ (ih hcs)

theorem joinCodes_range_lt {w n : Nat} {f : Nat → Nat} (h : ∀ i, f i < 2 ^ w) :
    joinCodes w ((List.range n).map f) < 2 ^ (w * n) := by
  have hlt := joinCodes_lt (cs := (List.range n).map f) (by simpa using fun i _ => h i)
  rwa [List.length_map, List.length_range] at hlt

theorem nbits_toNat_ofNat {v lo n : Nat} (h : lo + n ≤ v) (x : Nat) : nbits (BitVec.ofNat v x).toNat lo n = nbits x lo n := by
  rw [BitVec.toNat_ofNat, nbits_mod h]

theorem nbits_joinCodes_range {w n : Nat} {f : Nat → Nat} (h : ∀ i, i < n → f i < 2 ^ w) {i : Nat} (hi : i < n) :
    nbits (joinCodes w ((List.range n).map f)) (w * i) w = f i := by
  rw [nbits_joinCodes (by simpa using h)]
  simp [List.getD_eq_getElem?_getD, hi]

/-! ### Groups of a commit -/

/-- The capacity of a wide format is a whole number of groups, and fills DATA (Table 3.4). -/
theorem wide_capacity : ∀ f : FmtCode, isWide f = true →
    isNarrow f = false ∧ 16 * (cap f / 16) = cap f ∧ elemBits f * cap f = 8192 ∧ cap f / 16 ≤ 64 := by
  decide +kernel

/-- Group g as it stands in the old register. -/
def keptGroup (old : VReg) (w : VW) (g : Nat) : Grp :=
  { scale := old.scaleAt g, data := nbits old.data.toNat (16 * elemBits w.fmt * g) (16 * elemBits w.fmt), psn := old.psnAt g,
    fl := 0#7 }

/-- The result writes an element of group g. -/
def VW.touches (w : VW) (g : Nat) : Bool := (List.range 16).any fun k => w.act (16 * g + k) || w.pad (16 * g + k)

/-- The result writes every element of group g. -/
def VW.covers (w : VW) (g : Nat) : Bool := (List.range 16).all fun k => w.act (16 * g + k) || w.pad (16 * g + k)

/-- An active element of group g is fed from poison. -/
def VW.fed (w : VW) (g : Nat) : Bool := (List.range 16).any fun k => w.act (16 * g + k) && w.feed (16 * g + k)

/-- The code of element j of a wide result (R147). -/
def wideCode (old : VReg) (w : VW) (j : Nat) : Nat :=
  if w.act j then (match w.el j with | .val v _ => (w.enc v).1 | .raw c _ _ => c)
  else if w.pad j then 0 else if old.fmt = w.fmt then old.code j else 0

section
variable {old : VReg} {w : VW} {g : Nat}

theorem commitGroup_below (h : g < w.g0) : commitGroup old w g = keptGroup old w g := by
  rw [commitGroup, if_pos h]
  rfl

theorem commitGroup_untouched (h : w.g0 ≤ g) (ht : w.touches g = false) :
    commitGroup old w g = if old.fmt = w.fmt then keptGroup old w g else { scale := 0, data := 0, psn := false, fl := 0#7 } := by
  have hany : (((List.range 16).map fun k => 16 * g + k).any fun j => w.act j || w.pad j) = false := by
    rw [List.any_map]; exact ht
  simp only [commitGroup, hany, Nat.not_lt.mpr h, if_false, Bool.not_false, if_true, beq_iff_eq]
  rfl

theorem data_commitGroup_touched (hn : isNarrow w.fmt = false) (h : w.g0 ≤ g) (ht : w.touches g = true) :
    (commitGroup old w g).data = joinCodes (elemBits w.fmt) ((List.range 16).map fun k => wideCode old w (16 * g + k)) := by
  have hany : (((List.range 16).map fun k => 16 * g + k).any fun j => w.act j || w.pad j) = true := by
    rw [List.any_map]; exact ht
  simp only [commitGroup, hany, Nat.not_lt.mpr h, if_false, Bool.not_true, hn, Bool.false_eq_true, beq_iff_eq, List.map_map]
  congr 1
  refine List.map_congr_left fun k _ => ?_
  simp only [Function.comp_apply, wideCode]
  split_ifs
  · cases w.el (16 * g + k) <;> rfl
  all_goals rfl

theorem psn_commitGroup_touched (hn : isNarrow w.fmt = false) (h : w.g0 ≤ g) (ht : w.touches g = true) :
    (commitGroup old w g).psn = (w.fed g || (decide (old.fmt = w.fmt) && !w.covers g && old.psnAt g)) := by
  have hany : (((List.range 16).map fun k => 16 * g + k).any fun j => w.act j || w.pad j) = true := by
    rw [List.any_map]; exact ht
  simp only [commitGroup, hany, Nat.not_lt.mpr h, if_false, Bool.not_true, hn, Bool.false_eq_true, List.any_map, List.all_map]
  change (if (!(old.fmt == w.fmt) || w.covers g) = true then w.fed g else old.psnAt g || w.fed g) = _
  by_cases hf : old.fmt = w.fmt <;> cases w.covers g <;> simp [hf, Bool.or_comm]

end

section
variable {old : VReg} {w : VW} (hw : isWide w.fmt = true) (henc : ∀ v, (w.enc v).1 < 2 ^ elemBits w.fmt)
  (hraw : ∀ j c k fl, w.el j = .raw c k fl → c < 2 ^ elemBits w.fmt)
include hraw henc

theorem wideCode_lt (j : Nat) : wideCode old w j < 2 ^ elemBits w.fmt := by
  unfold wideCode
  split_ifs with hact hpad hfmt
  · cases hel : w.el j with
    | val v fl => exact henc v
    | raw c k fl => exact hraw j c k fl hel
  · exact Nat.two_pow_pos _
  · rw [← hfmt]; exact Nat.mod_lt _ (Nat.two_pow_pos _)
  · exact Nat.two_pow_pos _

include hw

/-- A group's data fits its place. -/
theorem data_commitGroup_lt (g : Nat) : (commitGroup old w g).data < 2 ^ (16 * elemBits w.fmt) := by
  have hkept : (keptGroup old w g).data < 2 ^ (16 * elemBits w.fmt) := Nat.mod_lt _ (Nat.two_pow_pos _)
  rcases Nat.lt_or_ge g w.g0 with hg | hg
  · rwa [commitGroup_below hg]
  · cases ht : w.touches g with
    | false =>
      rw [commitGroup_untouched hg ht]
      split_ifs
      · exact hkept
      · exact Nat.two_pow_pos _
    | true =>
      rw [data_commitGroup_touched (wide_capacity _ hw).1 hg ht, Nat.mul_comm 16 (elemBits w.fmt)]
      exact joinCodes_range_lt fun k => wideCode_lt henc hraw (16 * g + k)

omit hw henc hraw in
/-- An element of a group that stands, where the format stands. -/
theorem code_keptGroup (hf : old.fmt = w.fmt) (g : Nat) {k : Nat} (hk : k < 16) :
    nbits (keptGroup old w g).data (elemBits w.fmt * k) (elemBits w.fmt) = old.code (16 * g + k) := by
  rw [keptGroup, nbits_nbits (by rw [← Nat.mul_succ, Nat.mul_comm 16]; exact Nat.mul_le_mul_left _ hk), VReg.code, hf]
  congr 1
  ring

omit hw henc hraw in
theorem wideCode_of_untouched {g k : Nat} (ht : w.touches g = false) (hk : k < 16) :
    wideCode old w (16 * g + k) = if old.fmt = w.fmt then old.code (16 * g + k) else 0 := by
  have hk' := List.any_eq_false.mp ht k (List.mem_range.mpr hk)
  rw [Bool.not_eq_true, Bool.or_eq_false_iff] at hk'
  simp only [wideCode, hk'.1, hk'.2, Bool.false_eq_true, if_false]

/-- An element of a group that the commit performs. -/
theorem code_commitGroup {g k : Nat} (hg : w.g0 ≤ g) (hk : k < 16) :
    nbits (commitGroup old w g).data (elemBits w.fmt * k) (elemBits w.fmt) = wideCode old w (16 * g + k) := by
  cases ht : w.touches g with
  | false =>
    rw [commitGroup_untouched hg ht, wideCode_of_untouched ht hk]
    split_ifs with hf
    · exact code_keptGroup hf g hk
    · simp [nbits]
  | true =>
    rw [data_commitGroup_touched (wide_capacity _ hw).1 hg ht]
    exact nbits_joinCodes_range (fun i _ => wideCode_lt henc hraw (16 * g + i)) hk

/-! ### The register -/

/-- Element j of a committed register is that of its group. -/
theorem code_commit {j : Nat} (hj : j < cap w.fmt) :
    (commit old w).1.code j = nbits (commitGroup old w (j / 16)).data (elemBits w.fmt * (j % 16)) (elemBits w.fmt) := by
  obtain ⟨-, hgroups, hbits, -⟩ := wide_capacity _ hw
  have hin : elemBits w.fmt * (j % 16) + elemBits w.fmt ≤ 16 * elemBits w.fmt := by
    rw [← Nat.mul_succ, Nat.mul_comm 16]
    exact Nat.mul_le_mul_left _ (Nat.mod_lt j (by decide))
  have hplace : elemBits w.fmt * j = 16 * elemBits w.fmt * (j / 16) + elemBits w.fmt * (j % 16) := by
    conv_lhs => rw [← Nat.div_add_mod j 16]
    ring
  have hfits : elemBits w.fmt * j + elemBits w.fmt ≤ 8192 := by
    rw [← Nat.mul_succ, ← hbits]; exact Nat.mul_le_mul_left _ hj
  rw [VReg.code, commit, nbits_toNat_ofNat hfits, hplace, ← nbits_nbits hin, List.map_map]
  congr 1
  exact nbits_joinCodes_range (fun g _ => data_commitGroup_lt hw henc hraw g) (by omega)

omit henc hraw in
theorem psnAt_commit {g : Nat} (hg : g < cap w.fmt / 16) : (commit old w).1.psnAt g = (commitGroup old w g).psn := by
  obtain ⟨-, -, -, hmax⟩ := wide_capacity _ hw
  have hg64 : g < 64 := by omega
  simp only [VReg.psnAt, nbits_one_eq_getLsbD, commit, List.map_map, BitVec.getLsbD_ofNat]
  rw [show (List.range (cap w.fmt / 16)).map ((fun x : Grp => if x.psn = true then 1 else 0) ∘ commitGroup old w) =
    (List.range (cap w.fmt / 16)).map fun g => if (commitGroup old w g).psn then 1 else 0 from rfl, testBit_joinCodes_one]
  simp [hg, hg64]

end

theorem psn_commitGroup {old : VReg} {w : VW} {g : Nat} (hn : isNarrow w.fmt = false) (hg : w.g0 ≤ g) :
    (commitGroup old w g).psn = (w.fed g || (decide (old.fmt = w.fmt) && !w.covers g && old.psnAt g)) := by
  cases ht : w.touches g with
  | true => exact psn_commitGroup_touched hn hg ht
  | false =>
    have hnone : ∀ k ∈ List.range 16, ¬(w.act (16 * g + k) || w.pad (16 * g + k)) = true := List.any_eq_false.mp ht
    have hfed : w.fed g = false := List.any_eq_false.mpr fun k hk hfed =>
      hnone k hk (by rw [(Bool.and_eq_true_iff.mp hfed).1, Bool.true_or])
    have hcov : w.covers g = false := List.all_eq_false.mpr ⟨0, by simp, hnone 0 (by simp)⟩
    rw [commitGroup_untouched hg ht, hfed, hcov]
    split_ifs with hf <;> simp [hf, keptGroup]

/-- Settles O34: each element is one of its group, and a group is written, kept or left zero. -/
theorem committedWideResult : Obligations.CommittedWideResult := by
  intro old w hw henc hraw r
  obtain ⟨hnarrow, hgroups, -, -⟩ := wide_capacity _ hw
  refine ⟨rfl, rfl, fun j hj hg => ?written, fun j hg hj hf => ?below, fun g hg hlt => ?poison⟩
  case written =>
    rw [code_commit hw henc hraw hj, code_commitGroup hw henc hraw (by omega) (Nat.mod_lt j (by decide)), Nat.div_add_mod]
    rfl
  case below =>
    have hlt : j / 16 < w.g0 := by omega
    refine ⟨?_, ?_⟩
    · rw [code_commit hw henc hraw hj, commitGroup_below hlt, code_keptGroup hf _ (Nat.mod_lt j (by decide)), Nat.div_add_mod]
    · rw [psnAt_commit hw (by omega), commitGroup_below hlt, keptGroup]
  case poison =>
    rw [psnAt_commit hw hlt, psn_commitGroup hnarrow hg]
    rfl

end Sys2Proof.Machine
end


section
/-! PROOFS. The elements that a block of VTOPK keeps (R180): those of the lowest ranks in the order of magnitudes. -/

namespace Sys2Proof.Machine

/-! ### Ranks of distinct keys -/

section
variable {α β : Type} [LinearOrder β] {key : α → β} {xs : List α} {x y : α}

/-- How many elements of a list have a smaller key than x. -/
def rankBelow (key : α → β) (xs : List α) (x : α) : Nat := (xs.filter fun y => decide (key y < key x)).length

theorem rankBelow_lt_of_lt (hx : x ∈ xs) (h : key x < key y) : rankBelow key xs x < rankBelow key xs y := by
  have hsub : (xs.filter fun z => decide (key z < key x)) =
      (xs.filter fun z => decide (key z < key y)).filter fun z => decide (key z < key x) := by
    rw [List.filter_filter]
    refine List.filter_congr fun z _ => ?_
    rw [Bool.eq_iff_iff]
    simpa using fun hz => hz.trans h
  rw [rankBelow, rankBelow, hsub, List.length_filter_lt_length_iff_exists]
  exact ⟨x, by simpa using ⟨hx, h⟩, by simp⟩

theorem rankBelow_lt_length (hx : x ∈ xs) : rankBelow key xs x < xs.length :=
  List.length_filter_lt_length_iff_exists.mpr ⟨x, hx, by simp⟩

/-- Distinct keys have distinct ranks, which are all the numbers below the length. -/
theorem perm_range_rankBelow (h : (xs.map key).Nodup) : (xs.map (rankBelow key xs)).Perm (List.range xs.length) := by
  have hinj : ∀ x ∈ xs, ∀ y ∈ xs, rankBelow key xs x = rankBelow key xs y → x = y := fun x hx y hy e =>
    List.inj_on_of_nodup_map h hx hy (le_antisymm (not_lt.mp fun hlt => (rankBelow_lt_of_lt hy hlt).ne' e)
      (not_lt.mp fun hlt => (rankBelow_lt_of_lt hx hlt).ne e))
  have hnodup : (xs.map (rankBelow key xs)).Nodup := (List.Nodup.of_map _ h).map_on hinj
  refine (List.subperm_of_subset hnodup fun n hn => ?_).perm_of_length_le (by simp)
  obtain ⟨x, hx, rfl⟩ := List.mem_map.mp hn
  exact List.mem_range.mpr (rankBelow_lt_length hx)

theorem length_filter_range_lt (k n : Nat) : ((List.range n).filter fun m => decide (m < k)).length = min k n := by
  induction n with
  | zero => simp
  | succ n ih =>
    rw [List.range_succ, List.filter_append, List.length_append, ih, List.filter_singleton]
    by_cases h : n < k
    · simp [h]; omega
    · simp [h]; omega

theorem length_filter_rankBelow_lt (h : (xs.map key).Nodup) (k : Nat) :
    (xs.filter fun x => decide (rankBelow key xs x < k)).length = min k xs.length := by
  have hp := ((perm_range_rankBelow h).filter fun n => decide (n < k)).length_eq
  rw [length_filter_range_lt, List.filter_map, List.length_map] at hp
  exact hp
end

/-! ### The order of R180 -/

/-- The magnitude of a number; NaN and INVALID stand at ∞. -/
def Val.magnitude : Val → WithTop ℚ
  | .fin _ n d => ((n / d : ℚ) : WithTop ℚ)
  | _ => ⊤

/-- A candidate's place: NaN and INVALID last, then by falling magnitude, then by rising index. -/
def rankKey (x : Val × Nat) : Bool ×ₗ (WithTop ℚ)ᵒᵈ ×ₗ Nat := toLex (x.1.isUnord, toLex (OrderDual.toDual x.1.magnitude, x.2))

/-- A number has a denominator. -/
def Val.Proper (v : Val) : Prop := ∀ n a d, v = .fin n a d → d ≠ 0

theorem Val.ordered_cases {x : Val} (h : x.isUnord = false) : (∃ n a d, x = .fin n a d) ∨ ∃ n, x = .inf n := by
  cases x with
  | fin n a d => exact .inl ⟨n, a, d, rfl⟩
  | inf n => exact .inr ⟨n, rfl⟩
  | nan _ => cases h
  | invalid => cases h

theorem Val.magnitude_of_unord {x : Val} (h : x.isUnord = true) : x.magnitude = ⊤ := by
  cases x with
  | fin _ _ _ => cases h
  | inf _ => cases h
  | nan _ => rfl
  | invalid => rfl

theorem Val.abs_lt_abs {x y : Val} (hx : x.Proper) (hy : y.Proper) (hux : x.isUnord = false) (huy : y.isUnord = false) :
    x.abs.lt y.abs = decide (x.magnitude < y.magnitude) := by
  obtain ⟨n, a, d, rfl⟩ | ⟨n, rfl⟩ := Val.ordered_cases hux <;> obtain ⟨m, b, e, rfl⟩ | ⟨m, rfl⟩ := Val.ordered_cases huy
  · have hd : (0 : ℚ) < d := Nat.cast_pos.mpr (Nat.pos_of_ne_zero (hx _ _ _ rfl))
    have he : (0 : ℚ) < e := Nat.cast_pos.mpr (Nat.pos_of_ne_zero (hy _ _ _ rfl))
    simp only [abs, lt, snum, magnitude, WithTop.coe_lt_coe, div_lt_div_iff₀ hd he, Bool.false_eq_true, if_false,
      Int.ofNat_eq_natCast]
    norm_cast
  all_goals simp [abs, lt, magnitude]

theorem Val.abs_eq_abs {x y : Val} (hx : x.Proper) (hy : y.Proper) (hux : x.isUnord = false) (huy : y.isUnord = false) :
    x.abs.eq y.abs = decide (x.magnitude = y.magnitude) := by
  obtain ⟨n, a, d, rfl⟩ | ⟨n, rfl⟩ := Val.ordered_cases hux <;> obtain ⟨m, b, e, rfl⟩ | ⟨m, rfl⟩ := Val.ordered_cases huy
  · have hd : (d : ℚ) ≠ 0 := Nat.cast_ne_zero.mpr (hx _ _ _ rfl)
    have he : (e : ℚ) ≠ 0 := Nat.cast_ne_zero.mpr (hy _ _ _ rfl)
    simp only [abs, eq, snum, magnitude, WithTop.coe_inj, div_eq_div_iff hd he, Bool.false_eq_true, if_false,
      Int.ofNat_eq_natCast]
    norm_cast
  all_goals simp [abs, eq, magnitude]

theorem rankKey_lt {x y : Val × Nat} : rankKey x < rankKey y ↔ x.1.isUnord < y.1.isUnord ∨ x.1.isUnord = y.1.isUnord ∧
    (y.1.magnitude < x.1.magnitude ∨ x.1.magnitude = y.1.magnitude ∧ x.2 < y.2) := by
  simp [rankKey, Prod.Lex.toLex_lt_toLex]

/-- The comparison of VTOPK is the order of the keys. -/
theorem ranksBefore_eq {x y : Val × Nat} (hx : x.1.Proper) (hy : y.1.Proper) : ranksBefore x y = decide (rankKey x < rankKey y) := by
  rw [Bool.eq_iff_iff, decide_eq_true_iff, rankKey_lt, ranksBefore]
  cases hux : x.1.isUnord <;> cases huy : y.1.isUnord
  · simp [Val.abs_lt_abs hy hx huy hux, Val.abs_eq_abs hx hy hux huy]
  · simp
  · simp
  · simp [Val.magnitude_of_unord hux, Val.magnitude_of_unord huy]

section
variable {cands : List (Val × Nat)} (hidx : (cands.map fun x => x.2).Pairwise (· < ·)) (hden : ∀ x ∈ cands, x.1.Proper)

section
include hidx

/-- Rising indices make the keys distinct. -/
theorem nodup_rankKey : (cands.map rankKey).Nodup := by
  refine List.Nodup.of_map (fun k => (ofLex (ofLex k).2).2) ?_
  rw [List.map_map]
  exact hidx.imp Nat.ne_of_lt

theorem pairwise_keepTop (k : Nat) : (keepTop k cands).Pairwise (· < ·) := hidx.sublist (List.filter_sublist.map _)

/-- Candidates of one index are the same. -/
theorem eq_of_index_eq {x y : Val × Nat} (hx : x ∈ cands) (hy : y ∈ cands) (h : x.2 = y.2) : x = y :=
  List.inj_on_of_nodup_map (hidx.imp Nat.ne_of_lt) hx hy h

end

include hden

theorem keepTop_eq (k : Nat) :
    keepTop k cands = (cands.filter fun x => decide (rankBelow rankKey cands x < k)).map fun x => x.2 := by
  have hrank : ∀ x ∈ cands, (cands.filter fun y => ranksBefore y x).length = rankBelow rankKey cands x := fun x hx => by
    rw [rankBelow, List.filter_congr fun y hy => ranksBefore_eq (hden y hy) (hden x hx)]
  rw [keepTop, List.filter_congr fun x hx => by rw [hrank x hx]]

include hidx

theorem mem_keepTop {k : Nat} {x : Val × Nat} (hx : x ∈ cands) : x.2 ∈ keepTop k cands ↔ rankBelow rankKey cands x < k := by
  simp only [keepTop_eq hden, List.mem_map, List.mem_filter, decide_eq_true_iff]
  refine ⟨fun ⟨y, ⟨hy, hk⟩, e⟩ => eq_of_index_eq hidx hy hx e ▸ hk, fun hk => ⟨x, ⟨hx, hk⟩, rfl⟩⟩

end

/-- Settles O38: the candidates kept are those of rank below k. -/
theorem topKeeps : Obligations.TopKeeps := by
  intro k cands hidx hden
  refine ⟨?count, pairwise_keepTop hidx k, fun x hx y hy hkept hbefore => ?closed⟩
  case count => rw [keepTop_eq hden, List.length_map, length_filter_rankBelow_lt (nodup_rankKey hidx)]
  case closed =>
    have hlt : rankKey y < rankKey x := by simpa [ranksBefore_eq (hden y hy) (hden x hx)] using hbefore
    rw [mem_keepTop hidx hden hy]
    exact (rankBelow_lt_of_lt hy hlt).trans ((mem_keepTop hidx hden hx).mp hkept)

end Sys2Proof.Machine
end


section
/-! PROOFS. Logic and shifts on codes (R162, R163), and the steps of VDOT4 (R406). -/

namespace Sys2Proof.Machine

/-! ### Logic and shifts -/

section
variable {i : Instr} {us : List Use} {s : State} {c : Ctx} {mk : Mk} {g0 : Nat} (h : Issues i us s c mk)
include h

/-- A logic form whose sources have one format. -/
theorem logic_completes {f : FmtCode} (vs : Ctx → List VOp) (op : List Nat → Nat) (hfirst : ((vs c).headD (VOp.ofReg {})).fmt = f)
    (hlast : ((vs c).map fun v => v.fmt).getLastD f = f) (hf : f = 0#6 ∨ isWInt f = true)
    (hg : vecChecks c (vs c) f = .ok g0) :
    issue i s us (fun c => logic c (vs c) op) mk = .next (complete c
      { s := (c.putV s (c.vw f (s.me.rmode .fctl) (encConv f (s.me.rmode .fctl) true) (vs c)
          (fun j => .raw (op ((vs c).map fun v => v.code j) % 2 ^ elemBits f) 0) g0)).raise 0#7 }) := by
  obtain ⟨rfl, -, -⟩ := ready_same h
  have hok : (f == 0#6 || isWInt f) = true := by simpa using hf
  refine issue_completes h ?_
  simp only [logic, hfirst, hlast, hok, hg, Bool.not_true, bne_self_eq_false, Bool.or_self, Bool.false_eq_true, if_false,
    Res.ok_bind]
  rfl

theorem shiftV_completes_imm {k : BitVec 6} (op : Nat → Nat → Nat → Nat) (hf : isWInt (c.v_ .a).fmt = true)
    (hg : vecChecks c [c.v_ .a] (c.v_ .a).fmt = .ok g0) :
    issue i s us (fun c => shiftV c (.imm k) op) mk = .next (complete c
      { s := (c.putV s (c.vw (c.v_ .a).fmt (s.me.rmode .fctl) (encConv (c.v_ .a).fmt (s.me.rmode .fctl) true) [c.v_ .a]
          (fun j => .raw (op (elemBits (c.v_ .a).fmt) ((c.v_ .a).code j) (k.toNat % elemBits (c.v_ .a).fmt) %
            2 ^ elemBits (c.v_ .a).fmt) 0) g0)).raise 0#7 }) := by
  obtain ⟨rfl, -, -⟩ := ready_same h
  refine issue_completes h ?_
  simp only [shiftV, hf, hg, Bool.not_true, Bool.false_and, Bool.or_self, Bool.false_eq_true, if_false, Res.ok_bind]
  rfl

theorem shiftV_completes_reg {o : Opnd} (op : Nat → Nat → Nat → Nat) (hf : isWInt (c.v_ .a).fmt = true)
    (hamt : isWInt (c.v_ .b).fmt = true) (hg : vecChecks c [c.v_ .a, c.v_ .b] (c.v_ .a).fmt = .ok g0) :
    issue i s us (fun c => shiftV c (.reg o) op) mk = .next (complete c
      { s := (c.putV s (c.vw (c.v_ .a).fmt (s.me.rmode .fctl) (encConv (c.v_ .a).fmt (s.me.rmode .fctl) true)
          [c.v_ .a, c.v_ .b]
          (fun j => .raw (op (elemBits (c.v_ .a).fmt) ((c.v_ .a).code j) ((c.v_ .b).code j % elemBits (c.v_ .a).fmt) %
            2 ^ elemBits (c.v_ .a).fmt) 0) g0)).raise 0#7 }) := by
  obtain ⟨rfl, -, -⟩ := ready_same h
  refine issue_completes h ?_
  simp only [shiftV, hf, hamt, hg, Bool.not_true, Bool.true_and, Bool.or_self, Bool.false_eq_true, if_false, if_true, Res.ok_bind]
  rfl

end

/-! ### Stops that leave nothing performed -/

/-- A check or step that never stops with part of its instruction performed. -/
def KeepsNothing {α : Type} (x : Res α) : Prop := ∀ e t, x ≠ .error (.trapIn e t)

namespace KeepsNothing
variable {α β : Type}

theorem ok {a : α} : KeepsNothing (.ok a) := fun _ _ h => nomatch h

theorem raise {k : Cause} {v0 v1 v2 v3 : Word} : KeepsNothing (Machine.raise (α := α) k v0 v1 v2 v3) := fun _ _ h => nomatch h

theorem ensure {p : Bool} {k : Cause} {v0 v1 v2 v3 : Word} : KeepsNothing (Machine.ensure p k v0 v1 v2 v3) := by
  cases p
  · exact raise
  · exact ok

theorem bind {x : Res α} {f : α → Res β} (hx : KeepsNothing x) (hf : ∀ a, KeepsNothing (f a)) : KeepsNothing (x >>= f) := by
  cases x with
  | ok a => exact hf a
  | error e => exact fun e' t h => hx e' t (by cases h; rfl)

theorem forEach {f : α → Res Unit} (hf : ∀ a, KeepsNothing (f a)) {xs : List α} : KeepsNothing (Machine.forEach f xs) := by
  induction xs with
  | nil => exact ok
  | cons x xs ih => exact bind (hf x) fun _ => ih

theorem palette {s : State} {cls : Nat} {fa fb : FmtCode} : KeepsNothing (Machine.palette s cls fa fb) :=
  bind ensure fun _ => bind ensure fun _ => ok

theorem laneConflict {c : Ctx} {f : FmtCode} {t : Tgt} : KeepsNothing (Machine.laneConflict c f t) := by
  cases t with
  | lane b regs => exact forEach fun _ => ensure
  | _ => exact ok

theorem restart {c : Ctx} {f : FmtCode} : KeepsNothing (Machine.restart c f) := by
  refine bind laneConflict fun _ => ?_
  cases c.td with
  | reg n => exact bind ensure fun _ => ok
  | _ => exact ok

theorem laneMismatch {vs : List VOp} : KeepsNothing (Machine.laneMismatch vs) := by
  refine forEach fun v => ?_
  cases v.bad with
  | none => exact ok
  | some p => exact raise

theorem vecChecks {c : Ctx} {vs : List VOp} {f : FmtCode} : KeepsNothing (Machine.vecChecks c vs f) :=
  bind laneMismatch fun _ => bind (forEach fun _ => ensure) fun _ => restart

theorem vecBin {c : Ctx} {cls : Nat} {rm : Rm} {sat wide : Bool} {f : FmtCode → RMode → VOp → VOp → Nat → El} :
    KeepsNothing (Machine.vecBin c cls rm sat wide f) :=
  bind palette fun _ => bind vecChecks fun _ => ok

theorem vecTri {c : Ctx} {cls : Nat} {rm : Rm} {sat wide : Bool} {f : RMode → Val → Val → Val → Val × Flags} :
    KeepsNothing (Machine.vecTri c cls rm sat wide f) :=
  bind palette fun _ => bind palette fun _ => bind vecChecks fun _ => ok

theorem presentBefore {c : Ctx} : KeepsNothing (Machine.presentBefore c) := by
  have hslot : ∀ sl, KeepsNothing (match c.tgt sl with
      | .reg n => checkPresent c.me sl (n + c.me.mstep.toNat) | _ => .ok ()) := fun sl => by
    cases c.tgt sl with
    | reg n => exact ensure
    | _ => exact ok
  exact bind (hslot .a) fun _ => hslot .b

theorem dotStep {c : Ctx} {rm : Rm} {sat : Bool} {k : Nat} : KeepsNothing (Machine.dotStep c rm sat k) := by
  unfold Machine.dotStep
  refine bind (bind presentBefore fun _ => forEach fun _ => ensure) fun _ => ?_
  split_ifs
  · exact vecBin
  · exact vecTri

end KeepsNothing

/-! ### The acting strand stays the one that acts -/

theorem cur_foldl {α : Type} {f : State → α → State} (hf : ∀ s x, (f s x).cur = s.cur) (xs : List α) (s : State) :
    (xs.foldl f s).cur = s.cur := by
  induction xs generalizing s with
  | nil => rfl
  | cons x xs ih => rw [List.foldl_cons, ih, hf]

theorem cur_putVAt (s : State) (t : Tgt) (w : VW) : (putVAt s t w).cur = s.cur := by
  cases t with
  | lane b regs => exact cur_foldl (f := fun s n => s.setMe ((s.me.setV n _).raise _)) (fun _ _ => rfl) _ _
  | _ => rfl

theorem vecBin_cur {c : Ctx} {cls : Nat} {rm : Rm} {sat wide : Bool} {f : FmtCode → RMode → VOp → VOp → Nat → El} {t : State}
    (h : vecBin c cls rm sat wide f = .ok t) : t.cur = c.s.cur := by
  obtain ⟨_, -, h⟩ := Res.bind_eq_ok.mp h
  obtain ⟨_, -, h⟩ := Res.bind_eq_ok.mp h
  cases h
  exact cur_putVAt ..

theorem vecTri_cur {c : Ctx} {cls : Nat} {rm : Rm} {sat wide : Bool} {f : RMode → Val → Val → Val → Val × Flags} {t : State}
    (h : vecTri c cls rm sat wide f = .ok t) : t.cur = c.s.cur := by
  obtain ⟨_, -, h⟩ := Res.bind_eq_ok.mp h
  obtain ⟨_, -, h⟩ := Res.bind_eq_ok.mp h
  obtain ⟨_, -, h⟩ := Res.bind_eq_ok.mp h
  cases h
  exact cur_putVAt ..

theorem dotStep_cur {c : Ctx} {rm : Rm} {sat : Bool} {k : Nat} {t : State} (h : dotStep c rm sat k = .ok t) : t.cur = c.s.cur := by
  unfold dotStep at h
  obtain ⟨_, -, h⟩ := Res.bind_eq_ok.mp h
  split_ifs at h
  · exact (vecBin_cur h :)
  · exact (vecTri_cur h :)

/-! ### VDOT4 -/

theorem dotSteps_trapIn_cur {c : Ctx} {rm : Rm} {sat : Bool} {e : Trap} {t : State} {n k : Nat}
    (h : dotSteps c rm sat n k = .error (.trapIn e t)) : t.cur = c.s.cur := by
  induction n generalizing c k with
  | zero => cases h
  | succ n ih =>
    rw [dotSteps] at h
    cases hstep : dotStep { c with s := c.s.setMe { c.me with mstep := w64 k } } rm sat k with
    | ok u =>
      simp only [hstep] at h
      exact (ih h).trans (dotStep_cur hstep :)
    | error x =>
      cases x with
      | trap p => simp only [hstep] at h; cases h; rfl
      | trapIn p u => exact absurd hstep (KeepsNothing.dotStep p u)
      | _ => simp only [hstep] at h; cases h

theorem cur_chargeIssue (s : State) (i : Instr) : (s.chargeIssue i).cur = s.cur := by
  unfold State.chargeIssue
  split_ifs <;> rfl

/-- An instruction without a queue destination that traps keeps the part that it has performed. -/
theorem issue_raises_in {i : Instr} {s : State} {us : List Use} {body : Ctx → Res Done} {mk : Mk} {ov : Ctx → Res Unit} {c : Ctx}
    {e : Trap} {t : State} (h : ready i s us mk ov = .ok c) (hb : body c = .error (.trapIn e t))
    (hpush : us.any Use.pushes = false) (hcur : t.cur = s.cur) : issue i s us body mk ov = .next (t.raises i [] e) := by
  have hcharged : (t.chargeIssue i).cur = s.cur := (cur_chargeIssue t i).trans hcur
  simp only [issue_ready h, hb, stopIssue, State.dropTstart, hpush, Bool.false_eq_true, if_false, stopState, State.raises,
    List.any_nil, hcharged]

/-- A destination that names a queue is resolved to a push onto it. -/
theorem resolveUse_push_td {c c' : Ctx} {u : Use} {q : BitVec 3} (ho : u.o = .q q) (hslot : u.slot = .d) (hwr : u.wr = true)
    (h : resolveUse c u = .ok c') : c'.td = .push q.toNat := by
  simp only [resolveUse, ho, resolveQueue, hslot, hwr, if_true] at h
  obtain ⟨_, -, h⟩ := Res.bind_eq_ok.mp h
  cases h
  rfl

section
variable {mk : Mk} {rm : Rm} {sat : Bool} {d a b : Opnd} {s : State} {c : Ctx}
  (h : Issues (.vdot4 mk rm sat d a b)
    [{ rdV .a a with grp := 4, isGrp := true, late := true }, { rdV .b b with grp := 4, isGrp := true, late := true },
     { wrV d with late := true }] s c mk (fun c => do overlapCheck c .d 1 .a 4; overlapCheck c .d 1 .b 4))
include h

theorem execVdot4_completes_queue {q : Nat} {r : Done} (hd : c.td = .push q) (hr : dotQueue c rm sat q = .ok r) :
    execVdot4 mk rm sat d a b s = .next (complete c r) :=
  issue_completes h (by simp only [hd, hr])

variable (hd : ∀ q, c.td ≠ .push q)
include hd

theorem vdot4_opnd_ne_q (q : BitVec 3) : d ≠ .q q := by
  rintro rfl
  obtain ⟨-, hres, -⟩ := ready_ok.mp h
  obtain ⟨_, -, hres⟩ := Res.bind_eq_ok.mp hres
  obtain ⟨_, -, hres⟩ := Res.bind_eq_ok.mp hres
  obtain ⟨_, hdst, hres⟩ := Res.bind_eq_ok.mp hres
  cases hres
  exact hd _ (resolveUse_push_td rfl rfl rfl hdst)

theorem execVdot4_completes {t : State} (ht : dotSteps c rm sat (4 - s.me.mstep.toNat) s.me.mstep.toNat = .ok t) :
    execVdot4 mk rm sat d a b s = .next (complete c { s := t }) := by
  obtain ⟨rfl, -, -⟩ := ready_same h
  refine issue_completes h ?_
  split
  · next q htd => exact absurd htd (hd q)
  · exact congrArg finishV ht

theorem execVdot4_raises {e : Trap} {t : State}
    (ht : dotSteps c rm sat (4 - s.me.mstep.toNat) s.me.mstep.toNat = .error (.trapIn e t)) :
    execVdot4 mk rm sat d a b s = .next (t.raises (.vdot4 mk rm sat d a b) [] e) := by
  obtain ⟨rfl, -, -⟩ := ready_same h
  refine issue_raises_in h ?_ ?_ (dotSteps_trapIn_cur ht)
  · split
    · next q htd => exact absurd htd (hd q)
    · exact congrArg finishV ht
  · cases d with
    | q q => exact absurd rfl (vdot4_opnd_ne_q h hd q)
    | _ => rfl

end

/-- Settles O33: each form on codes through the shape it shares, VDOT4 by its steps. -/
theorem logicShiftDotResults : Obligations.LogicShiftDotResults := by
  refine ⟨⟨?logic, fun mk d a s c g0 h hf hg => logic_completes h (fun c => [c.v_ .a]) _ rfl rfl hf hg, ?shifts⟩, ?dot⟩
  case logic =>
    intro p hmem mk d a b s c g0 h va vb m hf heq hg
    obtain rfl | rfl | rfl : p = _ ∨ p = _ ∨ p = _ := by simpa using hmem
    · exact logic_completes h (fun c => [c.v_ .a, c.v_ .b]) _ rfl heq.symm hf hg
    · exact logic_completes h (fun c => [c.v_ .a, c.v_ .b]) _ rfl heq.symm hf hg
    · exact logic_completes h (fun c => [c.v_ .a, c.v_ .b]) _ rfl heq.symm hf hg
  case shifts =>
    intro p hmem
    obtain rfl | rfl | rfl : p = _ ∨ p = _ ∨ p = _ := by simpa using hmem
    · exact ⟨fun mk d a k s c g0 h hf hg => shiftV_completes_imm h _ hf hg,
        fun mk d a o s c g0 h hf hamt hg => shiftV_completes_reg h _ hf hamt hg⟩
    · exact ⟨fun mk d a k s c g0 h hf hg => shiftV_completes_imm h _ hf hg,
        fun mk d a o s c g0 h hf hamt hg => shiftV_completes_reg h _ hf hamt hg⟩
    · simp only [← beq_iff_eq (α := Nat)]
      exact ⟨fun mk d a k s c g0 h hf hg => shiftV_completes_imm h _ hf hg,
        fun mk d a o s c g0 h hf hamt hg => shiftV_completes_reg h _ hf hamt hg⟩
  case dot =>
    exact fun mk rm sat d a b s c h => ⟨fun q r hd hr => execVdot4_completes_queue h hd hr,
      fun hd => ⟨fun t ht => execVdot4_completes h hd ht, fun e t ht => execVdot4_raises h hd ht⟩⟩

end Sys2Proof.Machine
end


section
/-! PROOFS. Reductions and scans over the active elements (R164, R165). -/

namespace Sys2Proof.Machine

/-- The depth of the tree over n elements. -/
theorem log2Up_le (n k : Nat) : log2Up n ≤ k ↔ n ≤ 2 ^ k := by
  have hpos := Nat.two_pow_pos k
  unfold log2Up
  split_ifs with hn
  · exact ⟨fun _ => by omega, fun _ => Nat.zero_le k⟩
  · rw [Nat.succ_le_iff, Nat.log2_lt (by omega)]
    omega

section
variable {i : Instr} {us : List Use} {s : State} {c : Ctx} {mk : Mk} {rm : Rm} {sat wide : Bool} {d a : Opnd} {p : FmtCode}
  {mix : Flags}

theorem reduceV_completes (op : RMode → Val → Val → Val × Flags) (h : Issues i us s c mk)
    (hp : palette s 0 (c.v_ .a).fmt (c.v_ .a).fmt = .ok (p, mix)) (hlane : laneMismatch [c.v_ .a] = .ok ())
    (hcap : capCheck c [(c.v_ .a).fmt, widened wide p] = .ok ()) (hconf : laneConflict c (widened wide p) c.td = .ok ()) :
    let m := s.me.rmode rm
    let f := widened wide p
    let k := log2Up s.me.vl.toNat
    let r := redTree (op m) (roundAcc f m sat) k
      ((List.range (2 ^ k)).map fun j => if c.isAct j then some ((c.v_ .a).elem j) else none)
    issue i s us (fun c => reduceV c rm sat wide op) mk = .next (complete c
      { s := (c.putV s
          { fmt := f, act := fun j => j == 0, pad := fun j => j != 0, hush := c.isPad, el := fun _ => .val (r.1.getD Val.zero) 0#7,
            feed := fun _ => c.actives.any (c.v_ .a).psn, rm := m, enc := encArith f m sat }).raise (mix ||| r.2) }) := by
  obtain ⟨rfl, -, -⟩ := ready_same h
  refine issue_completes h ?_
  simp only [reduceV, hp, hlane, hcap, hconf, Res.ok_bind]
  rfl

theorem execVscan_completes {op : BitVec 2} (h : Issues (.vscan mk rm sat wide op d a) [rdV .a a, wrV d] s c mk)
    (hp : palette s 0 (c.v_ .a).fmt (c.v_ .a).fmt = .ok (p, mix)) (hlane : laneMismatch [c.v_ .a] = .ok ())
    (hcap : capCheck c [(c.v_ .a).fmt, widened wide p] = .ok ()) (hconf : laneConflict c (widened wide p) c.td = .ok ()) :
    let m := s.me.rmode rm
    let f := widened wide p
    let g := if op = 0 then addV m else if op = 1 then maxV else minV
    let r := scanFrom (c.v_ .a) g (roundAcc f m sat) c.actives none false [] 0#7
    execVscan mk rm sat wide op d a s = .next (complete c
      { s := (c.putV s
          { c.vw f m (encArith f m sat) [] (fun j => .val (Tab.get (Val.zero, false) r.1 j).1 0#7) with
            feed := fun j => (Tab.get (Val.zero, false) r.1 j).2 }).raise (mix ||| r.2) }) := by
  obtain ⟨rfl, -, -⟩ := ready_same h
  refine issue_completes h ?_
  simp only [hp, hlane, hcap, hconf, Res.ok_bind]
  obtain rfl | rfl | rfl | rfl := bitVec2_cases op <;> rfl

end

/-- Settles O35: the reductions share one shape, and the depth of the tree is the logarithm rounded up. -/
theorem reductionResults : Obligations.ReductionResults := by
  refine ⟨⟨?reductions, fun mk rm sat wide op d a s c f0 mix h hp hlane hcap hconf =>
    execVscan_completes h hp hlane hcap hconf⟩, log2Up_le⟩
  intro p hmem mk rm sat wide d a s c f0 mix h va m f hp hlane hcap hconf
  obtain rfl | rfl | rfl : p = _ ∨ p = _ ∨ p = _ := by simpa using hmem
  · exact reduceV_completes addV h hp hlane hcap hconf
  · exact reduceV_completes (fun _ => maxV) h hp hlane hcap hconf
  · exact reduceV_completes (fun _ => minV) h hp hlane hcap hconf

end Sys2Proof.Machine
end


section
/-! PROOFS. The forms that move elements between positions (R173–R177), bit-field packing (R178, R179), VTOPK (R180) and the mask
forms (R181, R182). -/

namespace Sys2Proof.Machine

/-! ### Elements moved between positions -/

theorem zeroEl_eq (f : FmtCode) : zeroEl f = if f = 0#6 then .raw 0 0 else .val Val.zero 0#7 := by
  simp only [zeroEl, beq_iff_eq]

/-- The element that a position takes, or zero. -/
def movedEl (v : VOp) : Option Nat → El
  | some k => if v.fmt = 0#6 then .raw (v.code k) 0 else .val (v.elem k) 0#7
  | none => if v.fmt = 0#6 then .raw 0 0 else .val Val.zero 0#7

theorem permute_eq (c : Ctx) (rm : Rm) (v : VOp) (src : Nat → Option Nat) (fed : Nat → Bool) :
    permute c rm v src fed = { c.vw v.fmt (c.me.rmode rm) (encConv v.fmt (c.me.rmode rm) true) [] (fun j => movedEl v (src j)) with
      feed := fed } := by
  have hel : (fun j => match src j with | some k => moveEl v k | none => zeroEl v.fmt) = fun j => movedEl v (src j) := by
    funext j
    cases src j with
    | some k => simp only [moveEl_eq, movedEl]
    | none => exact zeroEl_eq _
  exact congrArg (fun el => { c.vw v.fmt (c.me.rmode rm) (encConv v.fmt (c.me.rmode rm) true) [] el with feed := fed }) hel

section
variable {mk : Mk} {rm : Rm} {d a b : Opnd} {s : State} {c : Ctx}

theorem slide_completes {i : Instr} {us : List Use} (h : Issues i us s c mk) (src : Ctx → Nat → Option Nat)
    (hlane : laneMismatch [c.v_ .a] = .ok ()) (hcap : capCheck c [(c.v_ .a).fmt] = .ok ())
    (hconf : laneConflict c (c.v_ .a).fmt c.td = .ok ()) :
    issue i s us (fun c => slide c rm (src c)) mk = .next (complete c
      { s := (c.putV s { c.vw (c.v_ .a).fmt (s.me.rmode rm) (encConv (c.v_ .a).fmt (s.me.rmode rm) true) []
          (fun j => movedEl (c.v_ .a) (src c j)) with feed := fun j => (src c j).any (c.v_ .a).psn }).raise 0#7 }) := by
  obtain ⟨rfl, -, -⟩ := ready_same h
  refine issue_completes h ?_
  simp only [slide, hlane, hcap, hconf, permute_eq, Res.ok_bind]
  rfl

/-- The count that an immediate or a scalar register gives. -/
def srcCount (c : Ctx) (sl : Slot) : SrcB → Nat
  | .imm i => i.toNat
  | .op _ => (c.s_ sl).toNat

section
variable {n : SrcB} (hlane : laneMismatch [c.v_ .a] = .ok ()) (hcap : capCheck c [(c.v_ .a).fmt] = .ok ())
  (hconf : laneConflict c (c.v_ .a).fmt c.td = .ok ())
include hlane hcap hconf

theorem execVslup_completes (h : Issues (.vslup mk rm d a n) ([rdV .a a] ++ srcBUse n ++ [wrV d]) s c mk) :
    let src := fun j => if srcCount c .b n ≤ j then some (j - srcCount c .b n) else none
    execVslup mk rm d a n s = .next (complete c
      { s := (c.putV s { c.vw (c.v_ .a).fmt (s.me.rmode rm) (encConv (c.v_ .a).fmt (s.me.rmode rm) true) []
          (fun j => movedEl (c.v_ .a) (src j)) with feed := fun j => (src j).any (c.v_ .a).psn }).raise 0#7 }) := by
  rw [execVslup]
  cases n with
  | imm i => exact slide_completes h (fun c j => if i.toNat ≤ j then some (j - i.toNat) else none) hlane hcap hconf
  | op o => exact slide_completes h (fun c j => if (c.s_ .b).toNat ≤ j then some (j - (c.s_ .b).toNat) else none) hlane hcap hconf

theorem execVsldn_completes (h : Issues (.vsldn mk rm d a n) ([rdV .a a] ++ srcBUse n ++ [wrV d]) s c mk) :
    let src := fun j => if j + srcCount c .b n < s.me.vl.toNat then some (j + srcCount c .b n) else none
    execVsldn mk rm d a n s = .next (complete c
      { s := (c.putV s { c.vw (c.v_ .a).fmt (s.me.rmode rm) (encConv (c.v_ .a).fmt (s.me.rmode rm) true) []
          (fun j => movedEl (c.v_ .a) (src j)) with feed := fun j => (src j).any (c.v_ .a).psn }).raise 0#7 }) := by
  obtain ⟨rfl, -, -⟩ := ready_same h
  rw [execVsldn]
  cases n with
  | imm i => exact slide_completes h (fun c j => if j + i.toNat < c.me.vlen then some (j + i.toNat) else none) hlane hcap hconf
  | op o =>
    exact slide_completes h (fun c j => if j + (c.s_ .b).toNat < c.me.vlen then some (j + (c.s_ .b).toNat) else none) hlane hcap
      hconf

end

theorem execVshuf_completes (h : Issues (.vshuf mk rm d a b) [rdV .a a, rdV .b b, wrV d] s c mk) (hunt : (c.v_ .b).fmt ≠ 0#6)
    (hlane : laneMismatch [c.v_ .a, c.v_ .b] = .ok ()) (hcap : capCheck c [(c.v_ .a).fmt, (c.v_ .b).fmt] = .ok ())
    (hconf : laneConflict c (c.v_ .a).fmt c.td = .ok ()) :
    let src := fun j => indexOf ((c.v_ .b).elem j) s.me.vl.toNat
    execVshuf mk rm d a b s = .next (complete c
      { s := (c.putV s { c.vw (c.v_ .a).fmt (s.me.rmode rm) (encConv (c.v_ .a).fmt (s.me.rmode rm) true) []
          (fun j => movedEl (c.v_ .a) (src j)) with
            feed := fun j => (c.v_ .b).psn j || (src j).any (c.v_ .a).psn }).raise 0#7 }) := by
  obtain ⟨rfl, -, -⟩ := ready_same h
  refine issue_completes h ?_
  simp only [beq_eq_false_iff_ne.mpr hunt, Bool.false_eq_true, if_false, hlane, hcap, hconf, permute_eq, Res.ok_bind]
  rfl

theorem execVlook_completes (h : Issues (.vlook mk rm d a b) [rdV .a a, rdV .b b, wrV d] s c mk) (hunt : (c.v_ .a).fmt ≠ 0#6)
    (hlane : laneMismatch [c.v_ .a, c.v_ .b] = .ok ()) (hcap : capCheck c [(c.v_ .a).fmt, (c.v_ .b).fmt] = .ok ())
    (hconf : laneConflict c (c.v_ .b).fmt c.td = .ok ()) :
    let src := fun j => indexOf ((c.v_ .a).elem j) (cap (c.v_ .b).fmt)
    execVlook mk rm d a b s = .next (complete c
      { s := (c.putV s { c.vw (c.v_ .b).fmt (s.me.rmode rm) (encConv (c.v_ .b).fmt (s.me.rmode rm) true) []
          (fun j => movedEl (c.v_ .b) (src j)) with
            feed := fun j => (c.v_ .a).psn j || (src j).any (c.v_ .b).psn }).raise
              (if c.actives.any fun j => (src j).isNone then fSAT else 0#7) }) := by
  obtain ⟨rfl, -, -⟩ := ready_same h
  refine issue_completes h ?_
  simp only [beq_eq_false_iff_ne.mpr hunt, Bool.false_eq_true, if_false, hlane, hcap, hconf, permute_eq, Res.ok_bind]
  rfl

theorem execVcomp_completes (h : Issues (.vcomp mk rm d a) [rdV .a a, wrV d] s c mk)
    (hlane : laneMismatch [c.v_ .a] = .ok ()) (hcap : capCheck c [(c.v_ .a).fmt] = .ok ())
    (hconf : laneConflict c (c.v_ .a).fmt c.td = .ok ()) :
    let src := fun j => c.actives[j]?
    execVcomp mk rm d a s = .next (complete c
      { s := (c.putV s { c.vw (c.v_ .a).fmt (s.me.rmode rm) (encConv (c.v_ .a).fmt (s.me.rmode rm) true) []
          (fun j => movedEl (c.v_ .a) (src j)) with
            feed := fun j => (src j).any (c.v_ .a).psn
            act := fun j => decide (j < s.me.vl.toNat), pad := fun _ => false }).raise 0#7 }) := by
  obtain ⟨rfl, -, -⟩ := ready_same h
  refine issue_completes h ?_
  simp only [hlane, hcap, hconf, permute_eq, Res.ok_bind]
  rfl

theorem execVexpd_completes (h : Issues (.vexpd mk rm d a) [rdV .a a, wrV d] s c mk)
    (hlane : laneMismatch [c.v_ .a] = .ok ()) (hcap : capCheck c [(c.v_ .a).fmt] = .ok ())
    (hconf : laneConflict c (c.v_ .a).fmt c.td = .ok ()) :
    let src := fun j => c.actives.idxOf? j
    execVexpd mk rm d a s = .next (complete c
      { s := (c.putV s { c.vw (c.v_ .a).fmt (s.me.rmode rm) (encConv (c.v_ .a).fmt (s.me.rmode rm) true) []
          (fun j => movedEl (c.v_ .a) (src j)) with feed := fun j => (src j).any (c.v_ .a).psn }).raise 0#7 }) := by
  obtain ⟨rfl, -, -⟩ := ready_same h
  refine issue_completes h ?_
  simp only [hlane, hcap, hconf, permute_eq, Res.ok_bind]
  rfl

/-! ### VZIP -/

/-- The operand and the element that position j of VZIP takes (R177). -/
def zipFrom (va vb : VOp) (mode : BitVec 2) (l j : Nat) : Option (VOp × Nat) :=
  let h := (l + 1) / 2
  let cat := fun k => if k < l then some (va, k) else if k < 2 * l then some (vb, k - l) else none
  let side := if j % 2 = 1 then vb else va
  if mode = 0 then some (side, j / 2)
  else if mode = 1 then (if j / 2 + h < l then some (side, j / 2 + h) else none)
  else if mode = 2 then cat (2 * j) else cat (2 * j + 1)

theorem zipFrom_eq (va vb : VOp) (mode : BitVec 2) (l j : Nat) :
    zipFrom va vb mode l j = (zipSrc mode.toNat l j).map fun p => (if p.1 then vb else va, p.2) := by
  obtain rfl | rfl | rfl | rfl := bitVec2_cases mode <;>
    simp [zipFrom, zipSrc, apply_ite (Option.map _)]

/-- The element that VZIP writes. -/
def zipEl (f : FmtCode) : Option (VOp × Nat) → El
  | some (v, k) => if v.fmt = 0#6 then .raw (v.code k) 0 else .val (v.elem k) 0#7
  | none => if f = 0#6 then .raw 0 0 else .val Val.zero 0#7

theorem execVzip_completes {mode : BitVec 2} (h : Issues (.vzip mk rm mode d a b) [rdV .a a, rdV .b b, wrV d] s c mk)
    (hfmt : (c.v_ .a).fmt = (c.v_ .b).fmt) (hlane : laneMismatch [c.v_ .a, c.v_ .b] = .ok ())
    (hcap : capCheck c [(c.v_ .a).fmt, (c.v_ .b).fmt] = .ok ()) (hconf : laneConflict c (c.v_ .a).fmt c.td = .ok ()) :
    let src := zipFrom (c.v_ .a) (c.v_ .b) mode s.me.vl.toNat
    execVzip mk rm mode d a b s = .next (complete c
      { s := (c.putV s
          { c.vw (c.v_ .a).fmt (s.me.rmode rm) (encConv (c.v_ .a).fmt (s.me.rmode rm) true) []
            (fun j => zipEl (c.v_ .a).fmt (src j)) with feed := fun j => (src j).any fun p => p.1.psn p.2 }).raise 0#7 }) := by
  obtain ⟨rfl, -, -⟩ := ready_same h
  have hel : ∀ o : Option (Bool × Nat), zipEl (c.v_ .a).fmt (o.map fun p => (if p.1 then c.v_ .b else c.v_ .a, p.2)) =
      match o with | some p => moveEl (if p.1 then c.v_ .b else c.v_ .a) p.2 | none => zeroEl (c.v_ .a).fmt := fun o => by
    cases o with
    | some p => simp only [moveEl_eq]; rfl
    | none => exact (zeroEl_eq _).symm
  refine issue_completes h ?_
  simp only [hlane, hcap, hconf, beq_iff_eq.mpr hfmt, ensure_true, Res.ok_bind, zipFrom_eq, hel, Option.any_map]
  rfl

/-! ### Bit fields -/

theorem execVunpk_completes {w1 : BitVec 4} {f : FmtCode} (h : Issues (.vunpk mk d a w1 f) [rdV .a a, wrV d] s c mk)
    (hunt : (c.v_ .a).fmt = 0#6) (hlane : laneMismatch [c.v_ .a] = .ok ()) (hcap : capCheck c [(c.v_ .a).fmt, f] = .ok ())
    (hconf : laneConflict c f c.td = .ok ()) :
    let w := w1.toNat + 1
    execVunpk mk d a w1 f s = .next (complete c
      { s := (c.putV s
          { c.vw f (s.me.rmode .fctl) (encConv f (s.me.rmode .fctl) true) [] (fun j =>
              let x := fieldOf (c.v_ .a) w j
              let y := clampInt (intMin f) (intMax f) (if isSInt f then sextN w x else (x : Int))
              .raw (wrapTo (elemBits f) y.1) 0 (if y.2 then fSAT else 0#7)) with
            feed := fun j => (fieldBytes w j).any fun b => decide (b < 1024) && (c.v_ .a).psn b }).raise 0#7 }) := by
  obtain ⟨rfl, -, -⟩ := ready_same h
  have hno : ((c.v_ .a).fmt != 0#6) = false := by rw [hunt]; rfl
  refine issue_completes h ?_
  simp only [hno, Bool.false_eq_true, if_false, hlane, hcap, hconf, Res.ok_bind]
  rfl

/-- A field that VPACK writes, with its flag (R179). -/
def packField (v : VOp) (sat : Bool) (w j : Nat) : Nat × Flags :=
  let lo : Int := if isSInt v.fmt then -(2 ^ (w - 1)) else 0
  let hi : Int := if isSInt v.fmt then 2 ^ (w - 1) - 1 else 2 ^ w - 1
  if sat then
    let y := clampInt lo hi (if isSInt v.fmt then sextN (elemBits v.fmt) (v.code j) else (v.code j : Int))
    (wrapTo w y.1, if y.2 then fSAT else 0#7)
  else (v.code j % 2 ^ w, 0#7)

/-- The registers of a lane-mode destination with their own fields written (R126). -/
def packLanes (s : State) (regs : Tab Nat) (w : Nat) (put : Nat → Option Nat) (fed : Nat → Bool) : State :=
  (laneSet regs).foldl (fun s n => s.setMe (s.me.setV n (packInto (s.me.getV n) w (8192 / w + 1)
    (fun j => if Tab.find regs j == some n then put j else none) (fun j => !(Tab.find regs j == some n)) fed))) s

/-- VPACK completes; a destination that is no lane-mode one takes the whole image. -/
theorem execVpack_completes {sat : Bool} {w1 : BitVec 4} (h : Issues (.vpack mk sat d a w1) [rdV .a a, wrV d] s c mk)
    (hint : isWInt (c.v_ .a).fmt = true) (hlane : laneMismatch [c.v_ .a] = .ok ()) (hcap : capCheck c [(c.v_ .a).fmt, 0#6] = .ok ())
    (hlen : (w1.toNat + 1) * s.me.vl.toNat ≤ 8192) (hconf : laneConflict c 0#6 c.td = .ok ()) :
    let w := w1.toNat + 1
    let one := packField (c.v_ .a) sat w
    let put := fun j => if c.isAct j then some (one j).1 else none
    execVpack mk sat d a w1 s = .next (complete c
      { s := (match c.td with
          | .lane _ regs => packLanes s regs w put (c.v_ .a).psn
          | _ => c.putImg s (packInto c.oldD w s.me.vl.toNat put (fun j => decide (j < s.me.padFrom) && !c.isAct j)
              (c.v_ .a).psn)).raise (c.actives.foldl (fun f j => f ||| (one j).2) 0#7) }) := by
  obtain ⟨rfl, -, -⟩ := ready_same h
  have hlen : decide ((w1.toNat + 1) * c.me.vlen ≤ 8192) = true := decide_eq_true hlen
  have hok : (!isWInt (c.v_ .a).fmt) = false := by rw [hint]; rfl
  refine issue_completes h ?_
  simp only [hok, Bool.false_eq_true, if_false, hlane, hcap, hlen, hconf, ensure_true, Res.ok_bind]
  cases c.td <;> rfl

/-! ### VTOPK -/

theorem execVtopk_completes {x : Opnd} {k : BitVec 11} {bs : BitVec 3} {n : Nat} (h : Issues (.vtopk mk rm d a x k bs)
      [rdV .a a, { rdV .c x with rd := false, wr := true }, { wrV d with grp := 2, isGrp := true }] s c mk
      (fun c => do overlapCheck c .d 2 .a 1; overlapCheck c .d 2 .c 1))
    (hunt : (c.v_ .a).fmt ≠ 0#6) (hlane : laneMismatch [c.v_ .a] = .ok ()) (hcap : capCheck c [(c.v_ .a).fmt] = .ok ())
    (hc : c.tc = .reg n) :
    let va := c.v_ .a
    let f := va.fmt
    let m := s.me.rmode rm
    let l := s.me.vl.toNat
    let b := 64 * 2 ^ bs.toNat
    let nb := (l + b - 1) / b
    (List.range nb).foldl (fun t i => t + min k.toNat (min b (l - b * i))) 0 ≤ 256 →
    let kept : List (Nat × Bool) := (List.range nb).flatMap fun i =>
      let cs := (List.range (min b (l - b * i))).filterMap fun o =>
        if c.isAct (b * i + o) then some (va.elem (b * i + o), b * i + o) else none
      (keepTop k.toNat cs).map fun j => (j, cs.any fun y => va.psn y.2)
    let out := fun (g : FmtCode) (el : Nat → El) => ({
      fmt := g, act := fun j => decide (j < kept.length), pad := fun j => decide (kept.length ≤ j), hush := c.isPad, el := el
      feed := fun j => (kept[j]?).any fun y => y.2, rm := m, enc := encConv g m true } : VW)
    let at_ := fun (j : Nat) => ((kept[j]?).map fun y => y.1).getD 0
    let s1 := putVAt s c.td (out f fun j => .val (va.elem (at_ j)) 0#7)
    let s2 := putVAt s1 (c.td.plus 1) (out 0x03#6 fun j => .raw (at_ j) 0)
    let r := commit (s2.me.getV n) { c.vw f m (encConv f m true) [va] (fun j =>
      if kept.any fun y => y.1 == j then .val Val.zero 0#7 else .val (va.elem j) 0#7) with
        act := fun j => decide (j < s.me.padFrom) }
    execVtopk mk rm d a x k bs s = .next (complete c
      { s := s2.setMe ((s2.me.setV n { r.1 with psn := r.1.psn ||| psnOf va r.1.groups }).raise r.2) }) := by
  obtain ⟨rfl, -, -⟩ := ready_same h
  intro va f m l b nb htotal
  have hmove : moveEl (c.v_ .a) = fun j => .val ((c.v_ .a).elem j) 0#7 := by simp [moveEl_eq, hunt]
  have hzero : zeroEl (c.v_ .a).fmt = .val Val.zero 0#7 := by simp [zeroEl_eq, hunt]
  refine issue_completes h ?_
  simp only [beq_eq_false_iff_ne.mpr hunt, Bool.false_eq_true, if_false, hlane, hcap, Res.ok_bind]
  refine Res.bind_eq_ok.mpr ⟨(), ensure_of_true (decide_eq_true htotal) .., ?_⟩
  simp only [hmove, hzero, hc]
  rfl

/-! ### Masks -/

theorem bitM_eq (x : BitVec 1024) : bitM x = fun j => x.getLsbD j := funext fun j => nbits_one_eq_getLsbD x j

theorem getLsbD_maskOf (p : Nat → Bool) {j : Nat} (hj : j < 1024) : (maskOf p).getLsbD j = p j := by
  rw [maskOf, BitVec.getLsbD_ofNat, testBit_joinCodes_one]
  simp [hj]

/-- The bit of MLOG: TT at the number that the two bits form (R181). -/
theorem mlog_bit (tt : BitVec 4) (x y : Bool) : (nbits tt.toNat ((if x then 2 else 0) + (if y then 1 else 0)) 1 == 1) =
    tt.getLsbD (2 * (if x then 1 else 0) + (if y then 1 else 0)) := by
  rw [nbits_one_eq_getLsbD]
  cases x <;> rfl

theorem execMlog_completes {tt : BitVec 4} (h : Issues (.mlog tt d a b) [rdM .a a, rdM .b b, wrM d] s c) :
    execMlog tt d a b s = .next (complete c { s := c.putM s (maskOf fun j =>
      tt.getLsbD (2 * (if (c.m_ .a).getLsbD j then 1 else 0) + (if (c.m_ .b).getLsbD j then 1 else 0))) }) := by
  obtain ⟨rfl, -, -⟩ := ready_same h
  refine issue_completes h ?_
  simp only [bitM_eq, mlog_bit]
  rfl

theorem execMpop_completes (h : Issues (.mpop d a) [rdM .a a, wrS d] s c) :
    execMpop d a s = .next (complete c
      { s := c.putS s (w64 ((List.range (min s.me.vl.toNat 1024)).filter fun j => (c.m_ .a).getLsbD j).length) }) := by
  obtain ⟨rfl, -, -⟩ := ready_same h
  refine issue_completes h ?_
  simp only [bitM_eq]
  rfl

section
variable (h : Issues (.mfirst d a) [rdM .a a, wrS d] s c)
include h

theorem execMfirst_completes_some {j : Nat} (hl : j < s.me.vl.toNat) (hj : j < 1024) (hset : (c.m_ .a).getLsbD j = true)
    (hclear : ∀ k, k < j → (c.m_ .a).getLsbD k = false) :
    execMfirst d a s = .next (complete c { s := c.putS s (w64 j) }) := by
  obtain ⟨rfl, -, -⟩ := ready_same h
  have hfind : (List.range (Nat.min c.me.vlen 1024)).find? (fun j => (c.m_ .a).getLsbD j) = some j := by
    rw [List.find?_range_eq_some]
    exact ⟨hset, List.mem_range.mpr (Nat.lt_min.mpr ⟨hl, hj⟩), fun k hk => by rw [hclear k hk]; rfl⟩
  refine issue_completes h ?_
  simp only [bitM_eq, hfind]
  rfl

theorem execMfirst_completes_none (hclear : ∀ j, j < s.me.vl.toNat → j < 1024 → (c.m_ .a).getLsbD j = false) :
    execMfirst d a s = .next (complete c { s := c.putS s 0xFFFF_FFFF_FFFF_FFFF#64 }) := by
  obtain ⟨rfl, -, -⟩ := ready_same h
  have hfind : (List.range (Nat.min c.me.vlen 1024)).find? (fun j => (c.m_ .a).getLsbD j) = none := by
    rw [List.find?_eq_none]
    intro j hj
    obtain ⟨hl, hj⟩ := Nat.lt_min.mp (List.mem_range.mp hj)
    rw [hclear j hl hj]
    decide
  refine issue_completes h ?_
  simp only [bitM_eq, hfind]
  rfl

end

theorem execMset_completes {n : SrcB}
    (h : Issues (.mset d n) ((match n with | .op o => [rdS .a o] | .imm _ => []) ++ [wrM d]) s c) :
    execMset d n s = .next (complete c { s := c.putM s (maskOf fun j =>
      decide (j < srcCount c .a n)) }) := by
  cases n with
  | op o =>
    obtain ⟨rfl, -, -⟩ := ready_same h
    exact issue_completes h rfl
  | imm i =>
    obtain ⟨rfl, -, -⟩ := ready_same h
    exact issue_completes h rfl

theorem execMtov_completes {f : FmtCode} (h : Issues (.mtov mk rm d a f) [rdM .a a, wrV d] s c mk)
    (hcap : capCheck c [f] = .ok ()) (hconf : laneConflict c f c.td = .ok ()) :
    execMtov mk rm d a f s = .next (complete c
      { s := (c.putV s (c.vw f (s.me.rmode rm) (encConv f (s.me.rmode rm) true) []
          fun j => .val (Val.ofNat (if (c.m_ .a).getLsbD j then 1 else 0)) 0#7)).raise 0#7 }) := by
  obtain ⟨rfl, -, -⟩ := ready_same h
  refine issue_completes h ?_
  simp only [hcap, hconf, Res.ok_bind, bitM_eq]
  rfl

theorem execVtom_completes (h : Issues (.vtom mk d a) [rdV .a a, wrM d] s c mk) (hlane : laneMismatch [c.v_ .a] = .ok ())
    (hcap : capCheck c [(c.v_ .a).fmt] = .ok ()) (hpsn : ∀ j ∈ c.actives, (c.v_ .a).psn j = false) :
    execVtom mk d a s = .next (complete c { s := c.putM s (maskResult s.me mk (s.me.getM (c.rnum .d)) fun j =>
      !((c.v_ .a).elem j).isZero && (c.v_ .a).elem j != .invalid) }) := by
  obtain ⟨rfl, -, rfl⟩ := ready_same h
  refine issue_completes h ?_
  simp only [hlane, hcap, consume_ok hpsn, Res.ok_bind]
  rfl

end

/-- Settles O36: each form with the element that a position takes, the field, block or mask that it computes. -/
theorem permutationResults : Obligations.PermutationResults := by
  refine ⟨⟨?vslup, ?vsldn, ?vshuf, ?vlook, ?vcomp, ?vexpd, ?vzip⟩, ⟨?vunpk, ?vpack, ?vtopk⟩,
    fun tt d a b s c h => ⟨_, execMlog_completes h, fun j hj => getLsbD_maskOf _ hj⟩, fun d a s c h => execMpop_completes h,
    fun d a s c h => ⟨fun j hl hj hset hclear => execMfirst_completes_some h hl hj hset hclear, execMfirst_completes_none h⟩,
    fun d n s c h => ⟨_, execMset_completes h, fun j hj => getLsbD_maskOf _ hj⟩,
    fun mk rm d a f s c h hcap hconf => execMtov_completes h hcap hconf,
    fun mk d a s c h hlane hcap hpsn => ⟨_, execVtom_completes h hlane hcap hpsn, fun j hj => getLsbD_maskResult _ _ _ _ hj⟩⟩
  case vslup => exact fun mk rm d a n s c h hlane hcap hconf => execVslup_completes hlane hcap hconf h
  case vsldn => exact fun mk rm d a n s c h hlane hcap hconf => execVsldn_completes hlane hcap hconf h
  case vshuf => exact fun mk rm d a b s c h hunt hlane hcap hconf => execVshuf_completes h hunt hlane hcap hconf
  case vlook => exact fun mk rm d a b s c h hunt hlane hcap hconf => execVlook_completes h hunt hlane hcap hconf
  case vcomp =>
    refine fun mk rm d a s c h hlane hcap hconf => (execVcomp_completes h hlane hcap hconf).trans ?_
    generalize c.actives = js
    rfl
  case vexpd =>
    refine fun mk rm d a s c h hlane hcap hconf => (execVexpd_completes h hlane hcap hconf).trans ?_
    generalize c.actives = js
    rfl
  case vzip => exact fun mk rm mode d a b s c h hfmt hlane hcap hconf => execVzip_completes h hfmt hlane hcap hconf
  case vunpk => exact fun mk d a w1 f s c h hunt hlane hcap hconf => execVunpk_completes h hunt hlane hcap hconf
  case vpack =>
    intro mk sat d a w1 s c h va w hint hlane hcap hlen hconf lo hi one
    refine ⟨_, execVpack_completes h hint hlane hcap hlen hconf, fun hd => ?_⟩
    split
    · next b r htd => exact absurd htd (hd b r)
    · rfl
  case vtopk => exact fun mk rm d a x k bs s c n h hunt hlane hcap hc htotal => execVtopk_completes h hunt hlane hcap hc htotal

end Sys2Proof.Machine
end


section
/-! PROOFS. Mask results (R29, R148). -/

namespace Sys2Proof.Machine

theorem maskBit_m (st : Strand) (n : BitVec 4) (inv : Bool) (j : Nat) :
    st.maskBit (.m n inv) j = ((st.getM n.toNat).getLsbD j ^^ inv) := by
  rw [Strand.maskBit, nbits_one_eq_getLsbD]

theorem me_putM {c : Ctx} {n : Nat} (h : c.td = .reg n) (s : State) (x : BitVec 1024) : (c.putM s x).me = s.me.setM n x := by
  rw [Ctx.putM, h, State.me_setMe]

/-- Settles O37: bit by bit, and the register written alone. -/
theorem maskResultBits : Obligations.MaskResultBits := by
  refine ⟨fun st mk old p j hj => getLsbD_maskResult st mk old p hj, fun st n inv j _ => ⟨rfl, maskBit_m st n inv j⟩,
    fun c s x n hd => ?written⟩
  rw [me_putM hd]
  exact ⟨Strand.getM_setM .., fun k hk => Strand.getM_setM_ne _ _ _ _ hk⟩

end Sys2Proof.Machine
end


section
/-! PROOFS. The vector loads (R262–R267), and the formats of the lines that a load takes (R154, R262). -/

namespace Sys2Proof.Machine

/-! ### The lines of a planned load -/

theorem forEach_eq_ok {α : Type} {f : α → Res Unit} {xs : List α} : forEach f xs = .ok () ↔ ∀ x ∈ xs, f x = .ok () := by
  refine ⟨fun h => ?_, forEach_ok⟩
  induction xs with
  | nil => exact fun x hx => nomatch hx
  | cons x xs ih =>
    obtain ⟨⟨⟩, hx, hxs⟩ := Res.bind_eq_ok.mp h
    exact List.forall_mem_cons.mpr ⟨hx, ih hxs⟩

/-- What holds of the answer of a step that does not stop. -/
def Gives {α : Type} (P : α → Prop) (x : Res α) : Prop := ∀ a, x = .ok a → P a

theorem Gives.bind {α β : Type} {P : β → Prop} {x : Res α} {f : α → Res β} (hf : ∀ a, x = .ok a → Gives P (f a)) :
    Gives P (x >>= f) := fun b h => by
  obtain ⟨a, hx, h⟩ := Res.bind_eq_ok.mp h
  exact hf a hx b h

/-- What a load that has planned its footprint went through: the state came from the line of its format, its length, the order of its
access and the lines that it gathered; its last checks passed, and its elements lie below the one that fails. -/
structure LoadPlan.Found (c : Ctx) (sp : Space) (kb : Option Nat) (trim restarts : Bool) (fm : Form) (p : LoadPlan) : Prop where
  state : ∃ arr ref s1 s2 ls got, c.s.loadFmt sp kb arr fm = .ok ref ∧ trimTo c ref.s trim arr fm ref.f = .ok p.c1 ∧
    p.c1.s.order sp = .ok s1 ∧ s1.gather ls ref.got = .ok (s2, got) ∧ (p.s1 = s2 ∨ ∃ x, p.s1 = s2.used x)
  checks : p.r.checks p.c1 restarts (p.fail.map fun x => x.1) = .ok p.g0
  below : ∀ x ∈ p.r.cells, ∀ n e, p.fail = some (n, e) → x.j < n

theorem loadPlan_found {c : Ctx} {sp : Space} {kb : Option Nat} {trim first restarts : Bool} {fm : Form} :
    Gives (LoadPlan.Found c sp kb trim restarts fm) (loadPlan c sp kb trim first restarts fm) := by
  unfold loadPlan
  refine .bind fun arr _ => .bind fun ref href => ?_
  extract_lets base t plan
  have hplan : ∀ u, Gives (LoadPlan.Found c sp kb trim restarts fm) (plan u) := fun _ => by
    refine .bind fun c1 htrim => .bind fun _ _ => ?_
    extract_lets located
    have hlocated : ∀ u, Gives (LoadPlan.Found c sp kb trim restarts fm) (located u) := fun _ => by
      refine .bind fun ft _ => .bind fun _ _ => .bind fun _ _ => ?_
      extract_lets k read
      have hread : ∀ u, Gives (LoadPlan.Found c sp kb trim restarts fm) (read u) := fun _ => by
        refine .bind fun s1 horder => .bind fun ⟨s2, got⟩ hgather p hp => ?_
        obtain ⟨g0, hg, hp⟩ := Res.bind_eq_ok.mp hp
        cases hp
        refine ⟨⟨arr, ref, s1, s2, _, got, href, htrim, horder, hgather, ?_⟩, hg, fun x hx n e h => ?_⟩
        · dsimp only
          generalize base = b
          cases b with
          | none => exact .inl rfl
          | some x =>
            cases fm.fromLine with
            | true => exact .inl rfl
            | false => exact .inr ⟨x, rfl⟩
        · have hf : ft.failing first t = some (n, e) := h
          have hj := (List.mem_filter.mp hx).2
          simpa only [k, hf, Option.map_some, decide_eq_true_iff] using hj
      split
      · exact .bind fun u _ => hread u
      · exact hread ()
    split
    · exact .bind fun u _ => hlocated u
    · exact hlocated ()
  split
  · exact .bind fun u _ => hplan u
  · exact hplan ()

/-- TAG_MISMATCH passed over every element below the failing one (R262). -/
theorem Read.mismatch_ok {r : Read} {k : Option Nat} (h : r.mismatch k = .ok ()) (hk : ∀ x ∈ r.cells, ∀ n, k = some n → x.j < n) :
    ∀ x ∈ r.cells, (r.line x.va).cls = 2 ∨ (r.line x.va).cls = 3 ∨ (r.line x.va).fmt = r.f := by
  intro x hx
  have hline := ensure_eq_ok.mp (forEach_eq_ok.mp h x hx)
  cases k with
  | none => simpa [or_assoc] using hline
  | some n => simpa [or_assoc, Nat.not_le.mpr (hk x hx n rfl)] using hline

/-- The checks of a read that passed: TAG_MISMATCH, and CAPACITY of a load without a failing element. -/
theorem Read.checks_ok {r : Read} {c : Ctx} {restarts : Bool} {k : Option Nat} {g0 : Nat} (h : r.checks c restarts k = .ok g0) :
    r.mismatch k = .ok () ∧ (k = none → c.me.vlen ≤ cap r.f) := by
  obtain ⟨⟨⟩, hmis, h⟩ := Res.bind_eq_ok.mp h
  obtain ⟨⟨⟩, hcap, -⟩ := Res.bind_eq_ok.mp h
  refine ⟨hmis, ?_⟩
  rintro rfl
  simpa using ensure_eq_ok.mp hcap

theorem loadPlan_formats {c : Ctx} {sp : Space} {kb : Option Nat} {trim first restarts : Bool} {fm : Form} {p : LoadPlan}
    (h : loadPlan c sp kb trim first restarts fm = .ok p) :
    (∀ x ∈ p.r.cells, (p.r.line x.va).cls = 2 ∨ (p.r.line x.va).cls = 3 ∨ (p.r.line x.va).fmt = p.r.f) ∧
      (p.fail = none → p.c1.me.vlen ≤ cap p.r.f) := by
  obtain ⟨-, hchecks, hbelow⟩ := loadPlan_found p h
  obtain ⟨hmis, hcap⟩ := Read.checks_ok hchecks
  refine ⟨Read.mismatch_ok hmis fun x hx n hn => ?_, fun hf => hcap (by rw [hf]; rfl)⟩
  obtain ⟨⟨m, e⟩, hf, rfl⟩ := Option.map_eq_some_iff.mp hn
  exact hbelow x hx m e hf

/-! ### A load leaves the strands as they are until it writes -/

/-- A state with the same strands, of which the same one acts. -/
def State.SameStrands (s t : State) : Prop := t.strands = s.strands ∧ t.cur = s.cur

namespace State.SameStrands
variable {s t u : State}

theorem refl (s : State) : s.SameStrands s := ⟨rfl, rfl⟩

theorem trans (h : s.SameStrands t) (k : t.SameStrands u) : s.SameStrands u := ⟨k.1.trans h.1, k.2.trans h.2⟩

theorem me (h : s.SameStrands t) : t.me = s.me := by
  rw [State.me, State.me, h.1, h.2]

theorem foldl {α : Type} {f : State → α → State} (hf : ∀ s x, State.SameStrands s (f s x)) (xs : List α) (s : State) :
    State.SameStrands s (xs.foldl f s) := by
  induction xs generalizing s with
  | nil => exact refl s
  | cons x xs ih => exact (hf s x).trans (ih _)

theorem writeHost (s : State) (nc : Bool) (ln : Nat) (l : LineV) : s.SameStrands (s.writeHost nc ln l) := by
  unfold State.writeHost
  split <;> exact ⟨rfl, rfl⟩

theorem orByte (s : State) (p : Nat × Nat) : s.SameStrands (s.orByte p) := by
  simp only [State.orByte]
  split
  · exact writeHost ..
  · exact writeHost ..
  · simp only [State.notify]
    split <;> exact ⟨rfl, rfl⟩

theorem used (s : State) (x : Xlat) : s.SameStrands (s.used x) := by
  refine (foldl orByte x.upd s).trans ?_
  simp only [State.used, State.keepOnStack]
  split <;> exact ⟨rfl, rfl⟩

theorem fillHost (s : State) (x : Xlat) : s.SameStrands (s.fillHost x) := by
  unfold State.fillHost
  split
  · split
    · split <;> exact ⟨rfl, rfl⟩
    · split <;> exact ⟨rfl, rfl⟩
  · split
    · split <;> exact ⟨rfl, rfl⟩
    · split <;> exact ⟨rfl, rfl⟩
  · exact refl s

theorem touch (s : State) (l : Loc) : s.SameStrands (s.touch l) := by
  cases l with
  | mem x => exact ((used s x).trans (fillHost _ x)).trans ⟨rfl, rfl⟩
  | sp a => exact refl s

theorem writeLine (s : State) (nc eph whole : Bool) (ln : Nat) (l : LineV) : s.SameStrands (s.writeLine nc eph whole ln l) := by
  unfold State.writeLine
  split
  · exact writeHost ..
  · exact writeHost ..
  · simp only [State.notify, State.revive]
    split
    · exact ⟨rfl, rfl⟩
    · split <;> exact ⟨rfl, rfl⟩

theorem performBuffered (s : State) (b : Buffered) : s.SameStrands (s.performBuffered b) := by
  have hcharge : s.SameStrands (s.chargeLine b.vi b.pa) := ⟨rfl, rfl⟩
  exact hcharge.trans (writeLine ..)

theorem drainWhere {p : Buffered → Bool} {bs : List Buffered} (h : drainWhere p bs s = .ok t) : s.SameStrands t := by
  induction bs generalizing s with
  | nil => cases h; exact refl _
  | cons b bs ih =>
    simp only [Machine.drainWhere] at h
    split at h
    · split at h
      · cases h
      · have hqueue : s.SameStrands { s with storeQ := s.storeQ.erase b } := ⟨rfl, rfl⟩
        exact (hqueue.trans (performBuffered _ b)).trans (ih h)
    · exact ih h

theorem order {sp : Space} (h : s.order sp = .ok t) : s.SameStrands t := by
  unfold State.order at h
  split at h
  · cases h; exact refl s
  · cases h; exact refl s
  · cases h; exact refl s
  · exact drainWhere h
  · cases h; exact refl s

theorem gatherAdd (g : Gather) (l : Loc) : g.s.SameStrands (g.add l).s := by
  unfold Gather.add
  dsimp only
  split
  · exact refl _
  · split
    · exact refl _
    · split
      · exact refl _
      · split
        · next hload => exact drainWhere hload
        · exact refl _

theorem gatherFold (ls : List Loc) (g : Gather) : g.s.SameStrands (ls.foldl Gather.add g).s := by
  induction ls generalizing g with
  | nil => exact refl _
  | cons l ls ih => exact (gatherAdd g l).trans (ih _)

theorem gather {ls : List Loc} {pre got : Tab LineV} (h : s.gather ls pre = .ok (t, got)) : s.SameStrands t := by
  unfold State.gather at h
  dsimp only at h
  split at h
  · cases h
  · obtain ⟨s1, hload, h⟩ := Res.bind_eq_ok.mp h
    cases h
    exact (gatherFold ls { s, lines := pre }).trans (drainWhere hload)

theorem loadFmt {sp : Space} {kb : Option Nat} {arr : Option (Nat × Bool)} {fm : Form} {ref : LoadRef}
    (h : s.loadFmt sp kb arr fm = .ok ref) : s.SameStrands ref.s := by
  unfold State.loadFmt at h
  dsimp only at h
  split at h
  · cases h; exact refl s
  · cases h; exact refl s
  · split at h
    · obtain ⟨_, -, h⟩ := Res.bind_eq_ok.mp h
      obtain ⟨s1, horder, h⟩ := Res.bind_eq_ok.mp h
      obtain ⟨⟨s2, got⟩, hgather, h⟩ := Res.bind_eq_ok.mp h
      cases h
      exact (order horder).trans (gather hgather)
    · cases h; exact refl s

end State.SameStrands

/-- Without TRIM a load keeps its length. -/
theorem trimTo_whole {c c1 : Ctx} {s : State} {arr : Option (Nat × Bool)} {fm : Form} {f : Option FmtCode}
    (h : trimTo c s false arr fm f = .ok c1) : c1.s = s := by
  unfold trimTo at h
  split at h <;> cases h <;> rfl

theorem loadPlan_me {c : Ctx} {sp : Space} {kb : Option Nat} {first restarts : Bool} {fm : Form} {p : LoadPlan}
    (h : loadPlan c sp kb false first restarts fm = .ok p) : p.s1.me = c.s.me := by
  obtain ⟨⟨arr, ref, s1, s2, ls, got, hfmt, htrim, horder, hgather, hused⟩, -, -⟩ := loadPlan_found p h
  have hs2 : c.s.SameStrands s2 := by
    have hpre := State.SameStrands.loadFmt hfmt
    rw [← trimTo_whole htrim] at hpre
    exact (hpre.trans (.order horder)).trans (.gather hgather)
  obtain hp | ⟨x, hp⟩ := hused
  · rw [hp, hs2.me]
  · rw [hp, (hs2.trans (.used s2 x)).me]

/-! ### What a load does with its plan -/

/-- The state of a plan with its lines touched. -/
def LoadPlan.touched (p : LoadPlan) : State := p.lines.foldl (fun s (q : Nat × Loc) => s.touch q.2) p.s1

theorem LoadPlan.me_touched (p : LoadPlan) : p.touched.me = p.s1.me :=
  (State.SameStrands.foldl (fun s (q : Nat × Loc) => .touch s q.2) p.lines p.s1).me

/-- The lines that a load read. -/
def LoadPlan.linesRead (p : LoadPlan) : Option (Tab LineV) := some (memLines p.lines fun va => p.r.line (w64 va))

section
variable {c : Ctx} {restarts : Bool} {rm : Rm} {fm : Form} {p : LoadPlan}

theorem loadFinish_one {first : Bool} (hfail : p.fail = none) (hfm : fm.manifest = none ∨ ∀ n, c.td ≠ .reg n) :
    loadFinish c first restarts rm fm p =
      .ok { s := p.c1.putV p.touched (p.r.vw 0 p.g0 (c.me.rmode rm)), lines := p.linesRead } := by
  simp only [loadFinish, hfail]
  split
  · next m n hm hd =>
    rcases hfm with hfm | hfm
    · rw [hfm] at hm; cases hm
    · exact absurd hd (hfm n)
  · rfl

theorem loadFinish_rows {first : Bool} {m : Manifest} {k n : Nat} (hfail : p.fail = none) (hd : c.td = .reg n) :
    loadFinish c first restarts rm (c.manForm m k) p = .ok
      { s := (List.range k).foldl (fun s row => putVAt s (.reg (n + row)) (p.r.vw row p.g0 (c.me.rmode rm))) p.touched
        lines := p.linesRead } := by
  simp only [loadFinish, hfail, hd]
  rfl

/-- VLDF keeps the elements below the failing one (R266). -/
theorem loadFinish_trimmed {n : Nat} {e : Trap} (hfail : p.fail = some (n, e)) (hn : 0 < n) :
    loadFinish c true restarts rm fm p = .ok
      { s := ({ p.c1 with s := (p.touched.spendFor e).trimVl n } : Ctx).putV ((p.touched.spendFor e).trimVl n)
          (p.r.vw 0 p.g0 (c.me.rmode rm)) } := by
  simp only [loadFinish, hfail, if_true, Nat.ne_of_gt hn, if_false]
  rfl

end

/-- Flags leave the rounding mode in force (R61). -/
theorem rmode_raise (st : Strand) (f : Flags) (rm : Rm) : (st.raise f).rmode rm = st.rmode rm := by
  have hlow : (fctlRaise st.fctl f).extractLsb' 0 3 = st.fctl.extractLsb' 0 3 := by
    refine BitVec.eq_of_getLsbD_eq fun i hi => ?_
    have h8 : i < 8 := by omega
    simp [fctlRaise, BitVec.getLsbD_shiftLeft, h8]
  simp only [Strand.rmode, Strand.raise, hlow]

theorem rmode_putVAt_reg (s : State) (n : Nat) (w : VW) (rm : Rm) : (putVAt s (.reg n) w).me.rmode rm = s.me.rmode rm := by
  rw [putVAt, State.me_setMe, rmode_raise]
  rfl

/-- Rows that are written one after another all round in the mode of the first. -/
theorem foldl_rows_rmode (f : RMode → Nat → VW) (rm : Rm) (n : Nat) (rows : List Nat) (s : State) :
    rows.foldl (fun s row => putVAt s (.reg (n + row)) (f (s.me.rmode rm) row)) s =
      rows.foldl (fun u row => putVAt u (.reg (n + row)) (f (s.me.rmode rm) row)) s := by
  induction rows generalizing s with
  | nil => rfl
  | cons row rows ih => rw [List.foldl_cons, List.foldl_cons, ih, rmode_putVAt_reg]

/-! ### The instructions -/

section
variable {i : Instr} {us : List Use} {mk : Mk} {s : State} {c : Ctx} {fm : Form} {p : LoadPlan} {d : Done}

/-- A load completes as its plan does. -/
theorem load_completes (l : LoadSpec) (h : Issues i us s c mk) (hfm : l.form c = .ok fm)
    (hp : loadPlan c l.sp l.kb l.trim l.first l.restarts fm = .ok p) (hd : loadFinish c l.first l.restarts l.rm fm p = .ok d) :
    issue i s us l.body mk = .next (complete c d) :=
  issue_completes h (by rw [LoadSpec.body, hfm, Res.ok_bind, hp, Res.ok_bind, hd])

theorem manLoad_ok {sp : Space} {h : BitVec 4} {m : Manifest} (hslot : c.slotH h = .ok m) (hten : (sp.isSp && m.ten) = false)
    (k : Nat) : c.manLoad sp h k = .ok (c.manForm m k) := by
  simp only [Ctx.manLoad, hslot, Res.ok_bind, Ctx.spTen, hten, Bool.not_false, ensure_true]
  rfl

end

/-- Settles O39: each load through its plan, and the checks that the plan has passed. -/
theorem vectorLoadResults : Obligations.VectorLoadResults := by
  refine ⟨⟨?vld, ?vlds, ?vldx, ?vldf, ?vldm, ?vldmReg, ?vldg⟩, fun c sp kb trim first restarts fm p h => loadPlan_formats h⟩
  case vld =>
    intro mk rm ql trim d a b imm s c p h hp hfail
    obtain ⟨rfl, -, -⟩ := ready_same h
    exact load_completes (vldSpec mk rm ql trim d a b imm) h rfl hp (loadFinish_one hfail (.inl rfl))
  case vlds =>
    intro mk rm ql d a b imm s c p h hp hfail
    obtain ⟨rfl, -, -⟩ := ready_same h
    exact load_completes (vldsSpec mk rm ql d a b imm) h rfl hp (loadFinish_one hfail (.inl rfl))
  case vldx =>
    intro mk rm ql d a b imm s c p h hp hfail
    obtain ⟨rfl, -, -⟩ := ready_same h
    exact load_completes (vldxSpec mk rm ql d a b imm) h rfl hp (loadFinish_one hfail (.inl rfl))
  case vldf =>
    intro mk rm ql d a b imm s c p h hp
    obtain ⟨rfl, -, -⟩ := ready_same h
    exact ⟨fun hfail => load_completes (vldfSpec mk rm ql d a b imm) h rfl hp (loadFinish_one hfail (.inl rfl)),
      fun n e hfail hn => load_completes (vldfSpec mk rm ql d a b imm) h rfl hp (loadFinish_trimmed hfail hn)⟩
  case vldm =>
    intro mk rm sp d h b x s c man p hi hslot hten hd hp hfail
    obtain ⟨rfl, -, -⟩ := ready_same hi
    exact load_completes (vldmSpec mk rm sp d h b x) hi (manLoad_ok hslot hten 1) hp (loadFinish_one hfail (.inr hd))
  case vldmReg =>
    intro mk rm sp d h b x s c man p n hi hslot hten hd hp hfail
    obtain ⟨rfl, -, -⟩ := ready_same hi
    exact load_completes (vldmSpec mk rm sp d h b x) hi (manLoad_ok hslot hten 1) hp (loadFinish_rows hfail hd)
  case vldg =>
    intro mk rm sp d h b x k s c man p n hi hslot hten hd hp hfail
    obtain ⟨rfl, -, -⟩ := ready_same hi
    have hmode : p.touched.me.rmode rm = c.s.me.rmode rm := by rw [p.me_touched, loadPlan_me hp]
    have hrows := foldl_rows_rmode (fun m row => p.r.vw row p.g0 m) rm n (List.range k.toNat) p.touched
    rw [hmode] at hrows
    refine (load_completes (vldgSpec mk rm sp d h b x k) hi (manLoad_ok hslot hten k.toNat) hp (loadFinish_rows hfail hd)).trans ?_
    exact congrArg (fun t => Host.Outcome.next (complete c { s := t, lines := p.linesRead })) hrows.symm

end Sys2Proof.Machine
end


section
/-! PROOFS. The vector stores (R268–R272), VAMO (R323, R331, R332), and the images of VSAVE and VRSTR (R172). -/

namespace Sys2Proof.Machine

section
variable {i : Instr} {us : List Use} {mk : Mk} {s : State} {c : Ctx}

/-- What a vector store that has planned its lines has done: they are written, and the flags of their encodings raised. -/
def StorePlan.done (p : StorePlan) (m : RMode) : Done :=
  { s := (p.write m).1.raise (p.write m).2
    lines := some (memLines (p.lines.map fun l => (l, l.loc)) fun _ => { data := 0, tag := tagReset }) }

theorem vecStore_ok {sp : Space} {fm : Form} {vs : List VOp} {reg : Nat} {p : StorePlan} (rm : Rm)
    (hp : storePlan c sp fm vs reg = .ok p) : vecStore c sp rm fm vs reg = .ok (p.done (c.me.rmode rm)) := by
  rw [vecStore, hp, Res.ok_bind]
  rfl

theorem store_completes {sp : Space} {fm : Form} {vs : List VOp} {reg : Nat} {p : StorePlan} (rm : Rm) (h : Issues i us s c mk)
    (hp : storePlan c sp fm vs reg = .ok p) {body : Ctx → Res Done} (hbody : body c = vecStore c sp rm fm vs reg) :
    issue i s us body mk = .next (complete c (p.done (s.me.rmode rm))) := by
  obtain ⟨rfl, -, -⟩ := ready_same h
  exact issue_completes h (hbody.trans (vecStore_ok rm hp))

/-- The slot of a manifest form that is bound, and no tensor's in the scratchpad (R250). -/
theorem slotH_spTen_bind {α : Type} {sp : Space} {h : BitVec 4} {m : Manifest} (hslot : c.slotH h = .ok m)
    (hten : (sp.isSp && m.ten) = false) (f : Manifest → Res α) :
    (do let m ← c.slotH h; c.spTen sp m; f m) = f m := by
  simp only [hslot, Res.ok_bind, Ctx.spTen, hten, Bool.not_false, ensure_true]

end

/-- Settles O40: each store through its plan, VAMO through its atomics, and the images through their nine lines. -/
theorem vectorStoreResults : Obligations.VectorStoreResults := by
  refine ⟨⟨?vst, ?vsts, ?vstx, ?vstm, ?vstg⟩, ?vamo, ?vsave, ?vrstr⟩
  case vst =>
    intro mk rm sp d a b imm s c p h hp
    exact store_completes rm h hp rfl
  case vsts =>
    intro mk rm sp d a b imm s c p h hp
    exact store_completes rm h hp rfl
  case vstx =>
    intro mk rm sp d a b imm s c p h hp
    exact store_completes rm h hp rfl
  case vstm =>
    intro mk rm sp d h b x s c man p hi hslot hten hp
    exact store_completes rm hi hp (slotH_spTen_bind hslot hten fun m => vecStore c sp rm (c.manForm m 1) [c.v_ .d] 0)
  case vstg =>
    intro mk rm sp d h b x k s c man p hi hslot hten hp
    obtain ⟨rfl, -, -⟩ := ready_same hi
    exact store_completes rm hi hp (slotH_spTen_bind hslot hten fun m => vecStore c sp rm (c.manForm m k.toNat)
      ((List.range k.toNat).map fun i => VOp.ofReg (c.me.getV (c.rnum .d + i)) (c.rnum .d + i)) (c.rnum .d))
  case vamo =>
    intro mk op noret sp d a b e x s c p h hp
    cases noret <;> exact issue_completes h (by rw [hp, Res.ok_bind]; rfl)
  case vsave =>
    intro sc o a b e imm s c p t h hp ht
    refine issue_completes h ?_
    simp only [Ctx.address, hp, ht, Res.ok_bind]
    rfl
  case vrstr =>
    intro sc o d a b imm s c p s2 bs n h hp hread htag hfmt hd
    have hkind : imageTag bs / 256 = 0 := Nat.div_eq_of_lt htag
    refine issue_completes h ?_
    simp only [Ctx.address, hp, hread, hkind, hfmt, hd, Res.ok_bind, Ctx.putImg]
    rfl

end Sys2Proof.Machine
end

section
/-! PROOFS. The cells of a canvas: what a write leaves of the others, and outer products position by position (R190, R192). -/

namespace Sys2Proof.Machine

/-! ### One cell -/

section
variable (cv : Canvas) (i j code : Nat)

@[simp] theorem Canvas.setCell_cf : (cv.setCell i j code).cf = cv.cf := rfl
@[simp] theorem Canvas.setCell_mr : (cv.setCell i j code).mr = cv.mr := rfl
@[simp] theorem Canvas.setCell_jb : (cv.setCell i j code).jb = cv.jb := rfl
@[simp] theorem Canvas.poison_cf : (cv.poison i j).cf = cv.cf := rfl
@[simp] theorem Canvas.poison_mr : (cv.poison i j).mr = cv.mr := rfl
@[simp] theorem Canvas.poison_jb : (cv.poison i j).jb = cv.jb := rfl
@[simp] theorem Canvas.poison_cell (k l : Nat) : (cv.poison i j).cell k l = cv.cell k l := rfl

end

theorem cellKey_inj {i j k l : Nat} (hj : j < 256) (hl : l < 256) : 256 * k + l = 256 * i + j ↔ (k, l) = (i, j) := by
  rw [Prod.mk.injEq]
  omega

/-- Writing a cell leaves the others. -/
theorem Canvas.cell_setCell (cv : Canvas) {i j k l : Nat} (code : Nat) (hj : j < 256) (hl : l < 256) :
    (cv.setCell i j code).cell k l = if (k, l) = (i, j) then w64 code else cv.cell k l := by
  split
  case isTrue h =>
    cases h
    exact Tab.get_set_same ..
  case isFalse h => exact Tab.get_set_ne _ _ _ _ _ (mt (cellKey_inj hj hl).mp h)

/-! ### Position by position -/

/-- Rows in order, and in each its columns in order, are the positions of the rectangle in order. -/
theorem foldl_product {α β γ : Type} (f : γ → α × β → γ) (xs : List α) (ys : List β) (a : γ) :
    (xs ×ˢ ys).foldl f a = xs.foldl (fun a x => ys.foldl (fun a y => f a (x, y)) a) a := by
  simp only [SProd.sprod, List.product, List.foldl_flatMap, List.foldl_map]

/-- The sum that COP puts in a cell, with the flags of the multiply-add (R192). -/
def copSum (m : RMode) (st : CopStep) (cv : Canvas) (p : Nat × Nat) : Val × Flags :=
  fmaV m (quiet (st.row p.1)) (quiet (st.vb.elem p.2)) (quiet (cv.val p.1 p.2))

/-- The code of that sum in the cell. -/
def copCell (tick : Nat) (m : RMode) (st : CopStep) (cv : Canvas) (p : Nat × Nat) : Nat × Flags :=
  copCode tick (256 * p.1 + p.2) cv.cf m (copSum m st cv p).1

/-- A canvas after one multiply-add, at one position. -/
def copAt (tick : Nat) (m : RMode) (st : CopStep) (z : Canvas × Flags) (p : Nat × Nat) : Canvas × Flags :=
  let cv := z.1.setCell p.1 p.2 (copCell tick m st z.1 p).1
  (if st.rowPsn p.1 || st.vb.psn p.2 then cv.poison p.1 p.2 else cv,
    z.2 ||| (copSum m st z.1 p).2 ||| (copCell tick m st z.1 p).2)

theorem copStep_eq_foldl (tick : Nat) (m : RMode) (cols : List Nat) (a : Canvas × Flags) (st : CopStep) :
    copStep tick m cols a st = (List.range a.1.mr ×ˢ cols).foldl (copAt tick m st) a :=
  (foldl_product (copAt tick m st) (List.range a.1.mr) cols a).symm

section
variable (tick : Nat) (m : RMode) (st : CopStep) (z : Canvas × Flags) (p : Nat × Nat)

@[simp] theorem copAt_cf : (copAt tick m st z p).1.cf = z.1.cf := by
  dsimp only [copAt]; split <;> rfl

@[simp] theorem copAt_mr : (copAt tick m st z p).1.mr = z.1.mr := by
  dsimp only [copAt]; split <;> rfl

@[simp] theorem copAt_jb : (copAt tick m st z p).1.jb = z.1.jb := by
  dsimp only [copAt]; split <;> rfl

theorem copAt_cell {k l : Nat} (hp : p.2 < 256) (hl : l < 256) : (copAt tick m st z p).1.cell k l =
    if (k, l) = p then w64 (copCell tick m st z.1 p).1 else z.1.cell k l := by
  rw [← Canvas.cell_setCell z.1 (copCell tick m st z.1 p).1 hp hl]
  dsimp only [copAt]; split <;> rfl

/-- The code that a position is given depends on its own cell and on the format alone. -/
theorem copCell_congr {cv cv' : Canvas} (hcf : cv'.cf = cv.cf) (hcell : cv'.cell p.1 p.2 = cv.cell p.1 p.2) :
    copCell tick m st cv' p = copCell tick m st cv p := by
  simp only [copCell, copSum, Canvas.val, hcf, hcell]

end

/-- Positions that occur once are each written once, and from the cell as it was before all of them. -/
theorem foldl_copAt (tick : Nat) (m : RMode) (st : CopStep) {ps : List (Nat × Nat)} (hnd : ps.Nodup) (hps : ∀ p ∈ ps, p.2 < 256)
    (z : Canvas × Flags) :
    let r := (ps.foldl (copAt tick m st) z).1
    r.cf = z.1.cf ∧ r.mr = z.1.mr ∧ r.jb = z.1.jb ∧ ∀ k l, l < 256 →
      r.cell k l = if (k, l) ∈ ps then w64 (copCell tick m st z.1 (k, l)).1 else z.1.cell k l := by
  induction ps generalizing z with
  | nil => simp
  | cons p ps ih =>
    obtain ⟨hp, hnd⟩ := List.nodup_cons.mp hnd
    have hp256 : p.2 < 256 := hps p List.mem_cons_self
    obtain ⟨hcf, hmr, hjb, hcell⟩ := ih hnd (fun q hq => hps q (List.mem_cons_of_mem _ hq)) (copAt tick m st z p)
    refine ⟨hcf.trans (copAt_cf ..), hmr.trans (copAt_mr ..), hjb.trans (copAt_jb ..), fun k l hl => ?_⟩
    rw [List.foldl_cons, hcell k l hl, copAt_cell _ _ _ _ _ hp256 hl]
    by_cases hkl : (k, l) = p
    · subst hkl
      simp only [hp, if_false, if_true, List.mem_cons_self]
    · have hkeep := copCell_congr tick m st (k, l) (copAt_cf tick m st z p)
        ((copAt_cell _ _ _ _ _ hp256 hl).trans (if_neg hkl))
      simp only [hkl, List.mem_cons, false_or, if_false, hkeep]

theorem copStep_cells (tick : Nat) (m : RMode) {cols : List Nat} (cv : Canvas) (fl : Flags) (st : CopStep) (hnd : cols.Nodup)
    (hcols : ∀ j ∈ cols, j < 256) :
    let r := (copStep tick m cols (cv, fl) st).1
    r.cf = cv.cf ∧ r.mr = cv.mr ∧ r.jb = cv.jb ∧ ∀ i j, j < 256 →
      r.cell i j = if i < cv.mr ∧ j ∈ cols then w64 (copCell tick m st cv (i, j)).1 else cv.cell i j := by
  simpa only [copStep_eq_foldl, List.mem_product, List.mem_range] using
    foldl_copAt tick m st ((List.nodup_range (n := cv.mr)).product hnd) (fun p hp => hcols p.2 (List.mem_product.mp hp).2) (cv, fl)

/-- COP puts a finite sum in a cell as any other value is put there, and clamps an infinite one in I32 (R190). -/
theorem copCode_cases (tick k : Nat) (cf : FmtCode) (m : RMode) (neg : Bool) (a b : Nat) :
    (cf ≠ 0x03#6 → ∀ v, copCode tick k cf m v = cellCode cf m v) ∧
      copCode tick k cf m (.fin neg a b) = cellCode cf m (.fin neg a b) ∧
      copCode tick k 0x03#6 m (.inf neg) = (if neg then 2 ^ 31 else 2 ^ 31 - 1, fSAT) := by
  refine ⟨fun hcf v => ?_, ?_, rfl⟩
  · simp only [copCode, beq_eq_false_iff_ne.mpr hcf, Bool.false_eq_true, if_false]
  · simp only [copCode, ite_self]

end Sys2Proof.Machine
end

section
/-! PROOFS. COP and COPK: the checks that the steps pass, and what they add to the canvas (R187–R193). -/

namespace Sys2Proof.Machine

theorem foldlM_append_ok {α β : Type} {f : α → Res β} {xs : List α} {ys : List β} (h : xs.map f = ys.map .ok) (acc : List β) :
    xs.foldlM (fun acc x => do return acc ++ [← f x]) acc = .ok (acc ++ ys) := by
  induction xs generalizing ys acc with
  | nil =>
    obtain rfl := List.map_eq_nil_iff.mp h.symm
    rw [List.append_nil]
    rfl
  | cons x xs ih =>
    obtain ⟨y, ys, rfl, hx, hxs⟩ := List.map_eq_cons_iff.mp h.symm
    rw [List.foldlM_cons, ← hx, ← List.singleton_append, ← List.append_assoc]
    exact ih hxs.symm (acc ++ [y])

/-- The formats of a step that fit the canvas, and its lengths (R188, R191). -/
def CopStep.Fits (st : CopStep) (vl : Nat) (cv : Canvas) : Prop :=
  (∀ f, st.fa2 = some f → st.fa = 0x0C#6 ∧ f = 0x0C#6) ∧ vl ≤ cv.nc ∧
    cv.mr ≤ (if cv.pair then 2 else 1) * cap st.fa ∧ vl ≤ cap st.vb.fmt

/-- The state after the steps of COP and COPK: their cells, their charge, and the flags of their sums and of the palette. -/
def Ctx.accumulated (c : Ctx) (d : BitVec 3) (rm : Rm) (cv : Canvas) (steps : List CopStep) (mixes : List Flags) : State :=
  let r := steps.foldl (copStep c.s.tick (c.s.me.rmode rm) c.actives) (cv, 0#7)
  ((c.s.setCanvas d r.1).charge c.s.myVi 5
    (steps.foldl (fun n st => n + bitProd c.s.tick cv.cf st.fa st.vb.fmt * (cv.mr * c.actives.length)) 0)).raise
      (r.2 ||| mixes.foldl (fun a f => a ||| f) 0#7)

/-- Steps that pass every check accumulate. -/
theorem accumulate_ok {c : Ctx} {d : BitVec 3} {rm : Rm} {cv : Canvas} {steps : List CopStep} {mixes : List Flags}
    (hcv : c.canvas d = .ok cv) (hpal : (steps.map fun st => palette c.s 2 st.fa st.vb.fmt) = mixes.map fun f => .ok (cv.cf, f))
    (hlane : laneMismatch (steps.flatMap fun st => [st.va, st.vb]) = .ok ()) (hfits : ∀ st ∈ steps, st.Fits c.s.me.vl.toNat cv) :
    accumulate c d rm steps = .ok { s := c.accumulated d rm cv steps mixes } := by
  refine Res.bind_eq_ok.mpr ⟨cv, hcv, Res.bind_eq_ok.mpr ⟨_, foldlM_append_ok (hpal.trans List.map_map.symm) [],
    Res.bind_eq_ok.mpr ⟨(), forEach_ok ?pairs, Res.bind_eq_ok.mpr ⟨(), hlane, Res.bind_eq_ok.mpr ⟨(), forEach_ok ?lengths,
      Res.bind_eq_ok.mpr ⟨(), forEach_ok ?formats, ?results⟩⟩⟩⟩⟩⟩
  case pairs =>
    intro st hst
    obtain ⟨hpair, -⟩ := hfits st hst
    split
    · obtain ⟨ha, rfl⟩ := hpair _ ‹_›
      simp only [ha, beq_self_eq_true, ensure_true, Res.ok_bind]
    · rfl
  case lengths =>
    intro st hst
    obtain ⟨-, hnc, hmr, hvl⟩ := hfits st hst
    exact Res.bind_eq_ok.mpr ⟨(), ensure_of_true (decide_eq_true hnc) .., Res.bind_eq_ok.mpr
      ⟨(), ensure_of_true (decide_eq_true hmr) .., ensure_of_true (decide_eq_true hvl) ..⟩⟩
  case formats =>
    simp
  case results =>
    rw [List.nil_append, List.foldl_map]
    rfl

section
variable {mk : Mk} {rm : Rm} {d : BitVec 3} {a b : Opnd} {s : State} {c : Ctx} {cv : Canvas} {mixes : List Flags}

/-- A form whose body accumulates steps that pass every check. -/
theorem accumulate_completes {i : Instr} {us : List Use} {steps : List CopStep} {body : Ctx → Res Done} (h : Issues i us s c mk)
    (hbody : body c = accumulate c d rm steps) (hcv : c.canvas d = .ok cv)
    (hpal : (steps.map fun st => palette s 2 st.fa st.vb.fmt) = mixes.map fun f => .ok (cv.cf, f))
    (hlane : laneMismatch (steps.flatMap fun st => [st.va, st.vb]) = .ok ()) (hfits : ∀ st ∈ steps, st.Fits s.me.vl.toNat cv) :
    issue i s us body mk = .next (complete c { s := c.accumulated d rm cv steps mixes }) := by
  obtain ⟨rfl, -, -⟩ := ready_same h
  exact issue_completes h (hbody.trans (accumulate_ok hcv hpal hlane hfits))

theorem execCop_one (hpair : s.copPair d = false) : execCop mk rm d a b s =
    issue (.cop mk rm d a b) s [rdV .a a, rdV .b b] (fun c => accumulate c d rm [CopStep.of (c.v_ .a) (c.v_ .b) none]) mk := by
  simp only [execCop, hpair, Bool.false_and, Bool.false_eq_true, if_false]

theorem execCop_two (hpair : s.copPair d = true) (hgroup : groupFits a 2 = true) : execCop mk rm d a b s =
    issue (.cop mk rm d a b) s [{ rdV .a a with grp := 2, isGrp := true }, rdV .b b]
      (fun c => accumulate c d rm [CopStep.of (c.v_ .a) (c.v_ .b) (some (c.readV (c.ta.plus 1)))]) mk := by
  simp only [execCop, hpair, hgroup, Bool.not_true, Bool.and_false, Bool.false_eq_true, if_false, if_true]

end

/-- Settles O45: the steps that COP and COPK accumulate, the cells after one, and the code of a sum. -/
theorem outerProductResults : Obligations.OuterProductResults := by
  refine ⟨⟨?one, ?two, ?group⟩, ?cells, fun tick k cf m neg a b => copCode_cases tick k cf m neg a b⟩
  case one =>
    rintro mk rm d a b s c cv mixes hpair h hcv steps ⟨hpal, hlane, hfits⟩
    obtain ⟨rfl, -, -⟩ := ready_same h
    exact (execCop_one hpair).trans (accumulate_completes h rfl hcv hpal hlane hfits)
  case two =>
    rintro mk rm d a b s c cv mixes hpair hgroup h hcv steps ⟨hpal, hlane, hfits⟩
    obtain ⟨rfl, -, -⟩ := ready_same h
    exact (execCop_two hpair hgroup).trans (accumulate_completes h rfl hcv hpal hlane hfits)
  case group =>
    rintro mk rm d a b k s c cv mixes pair ka hgroup h hcv va vb steps ⟨hpal, hlane, hfits⟩
    obtain ⟨rfl, -, -⟩ := ready_same h
    have hexec : exec (.copk mk rm d a b k) c.s = issue (.copk mk rm d a b k) c.s _ _ mk :=
      if_neg (by simp only [Bool.not_eq_true', Bool.not_eq_false]; exact hgroup)
    exact hexec.trans (accumulate_completes h rfl hcv hpal hlane hfits)
  case cells =>
    intro tick m cols cv fl st hnd hcols
    exact copStep_cells tick m cv fl st hnd hcols

end Sys2Proof.Machine
end

section
/-! PROOFS. CZERO, CADD, CSTAT, and the rows and columns of canvases (R184, R194–R198). -/

namespace Sys2Proof.Machine

/-! ### CADD -/

theorem Canvas.nc_le (cv : Canvas) : cv.nc ≤ 256 := by
  unfold Canvas.nc
  split <;> decide

/-- A key whose entries all hold one value, and that is listed unless it reads so anyway, reads as that value. -/
theorem Tab.get_of_mem {α : Type} {d v : α} {t : Tab α} {k : Nat} (hall : ∀ q ∈ t, q.1 = k → q.2 = v)
    (hmem : v ≠ d → (k, v) ∈ t) : Tab.get d t k = v := by
  induction t with
  | nil => exact (not_not.mp fun h => List.not_mem_nil (hmem h)).symm
  | cons q t ih =>
    obtain ⟨j, w⟩ := q
    by_cases hk : k = j
    · subst hk
      simpa [Tab.get, Tab.find] using hall (k, w) List.mem_cons_self rfl
    · have htail : Tab.get d ((j, w) :: t) k = Tab.get d t k := by simp only [Tab.get, Tab.find, hk, if_false]
      rw [htail]
      refine ih (fun q hq => hall q (List.mem_cons_of_mem _ hq)) fun hv => ?_
      obtain heq | hin := List.mem_cons.mp (hmem hv)
      · exact absurd (congrArg Prod.fst heq) hk
      · exact hin

/-- The code of the sum of two cells, rounded once (R197). -/
def sumCode (m : RMode) (x y : Canvas) (p : Nat × Nat) : Nat × Flags :=
  cellCode x.cf m (addV m (x.val p.1 p.2) (y.val p.1 p.2)).1

/-- The sum of one cell, listed unless it is zero. -/
def sumAt (m : RMode) (x y : Canvas) (acc : Tab Word × Flags) (p : Nat × Nat) : Tab Word × Flags :=
  (if (sumCode m x y p).1 = 0 then acc.1 else (256 * p.1 + p.2, w64 (sumCode m x y p).1) :: acc.1,
    acc.2 ||| (addV m (x.val p.1 p.2) (y.val p.1 p.2)).2 ||| (sumCode m x y p).2)

/-- The sums of two canvases, the last first, and their flags. -/
def sumCells (m : RMode) (x y : Canvas) : Tab Word × Flags :=
  (List.range 256 ×ˢ List.range x.nc).foldl (sumAt m x y) ([], 0#7)

theorem mem_foldl_sumAt {m : RMode} {x y : Canvas} {ps : List (Nat × Nat)} {acc : Tab Word × Flags} {q : Nat × Word} :
    q ∈ (ps.foldl (sumAt m x y) acc).1 ↔
      q ∈ acc.1 ∨ ∃ p ∈ ps, (sumCode m x y p).1 ≠ 0 ∧ q = (256 * p.1 + p.2, w64 (sumCode m x y p).1) := by
  induction ps generalizing acc with
  | nil => simp
  | cons p ps ih =>
    have hstep : q ∈ (sumAt m x y acc p).1 ↔
        q ∈ acc.1 ∨ ((sumCode m x y p).1 ≠ 0 ∧ q = (256 * p.1 + p.2, w64 (sumCode m x y p).1)) := by
      by_cases h0 : (sumCode m x y p).1 = 0 <;> simp [sumAt, h0, or_comm]
    rw [List.foldl_cons, ih, hstep, List.exists_mem_cons_iff, or_assoc]

theorem sumCells_get (m : RMode) (x y : Canvas) {i j : Nat} (hi : i < 256) (hj : j < x.nc) :
    Tab.get 0#64 (sumCells m x y).1.reverse (256 * i + j) = w64 (sumCode m x y (i, j)).1 := by
  refine Tab.get_of_mem (fun q hq hk => ?_) fun hv => ?_
  · obtain hq | ⟨⟨k, l⟩, hp, -, rfl⟩ := mem_foldl_sumAt.mp (List.mem_reverse.mp hq)
    · cases hq
    · have hl : l < x.nc := List.mem_range.mp (List.mem_product.mp hp).2
      rw [(cellKey_inj (hj.trans_le x.nc_le) (hl.trans_le x.nc_le)).mp hk]
  · have hne : (sumCode m x y (i, j)).1 ≠ 0 := fun h0 => hv (by rw [h0]; rfl)
    exact List.mem_reverse.mpr (mem_foldl_sumAt.mpr
      (.inr ⟨(i, j), List.mem_product.mpr ⟨List.mem_range.mpr hi, List.mem_range.mpr hj⟩, hne, rfl⟩))

theorem execCadd_completes {rm : Rm} {d a b : BitVec 3} {s : State} {c : Ctx} {x y z : Canvas} (h : Issues (.cadd rm d a b) [] s c)
    (hx : c.canvas a = .ok x) (hy : c.canvas b = .ok y) (hz : c.canvas d = .ok z) (hcf : x.cf = y.cf) :
    execCadd rm d a b s = .next (complete c
      { s := (s.setCanvas d { z with cf := x.cf, mr := x.mr, cells := (sumCells (s.me.rmode rm) x y).1.reverse
                                     psn := x.psn ||| y.psn }).raise (sumCells (s.me.rmode rm) x y).2 }) := by
  obtain ⟨rfl, -, -⟩ := ready_same h
  refine issue_completes h ?_
  simp only [hx, hy, hz, ensure_of_true (beq_iff_eq.mpr hcf), Res.ok_bind, sumCells, foldl_product]
  rfl

/-! ### Rows and columns -/

section
variable {c : Ctx} {cv : Canvas} {col hi : Bool} {x : IdxSel 8}

/-- The elements of a row or column that fit its format and the canvas. -/
theorem lineChecks_ok {f : FmtCode} {n : Nat} {conflict : Res Unit} (hcap : c.me.vl.toNat ≤ cap f)
    (hlen : c.me.vl.toNat ≤ if col then (if hi then 128 else 256) else cv.nc) (hconf : conflict = .ok ())
    (hn : n < if col then cv.nc else 256) : lineChecks c cv col hi f n conflict = .ok () :=
  Res.bind_eq_ok.mpr ⟨(), ensure_of_true (decide_eq_true hcap) .., Res.bind_eq_ok.mpr ⟨(), ensure_of_true (decide_eq_true hlen) ..,
    Res.bind_eq_ok.mpr ⟨(), hconf, ensure_of_true (decide_eq_true hn) ..⟩⟩⟩

/-- The result of CRROW and CRCOL: cells `at' j`, encoded once. -/
def Ctx.lineRead (c : Ctx) (rm : Rm) (sat : Bool) (cv : Canvas) (f : FmtCode) (at' : Nat → Nat × Nat) : VW :=
  { fmt := f, act := c.isAct, pad := c.isPad, hush := c.isPad, rm := c.s.me.rmode rm, enc := encArith f (c.s.me.rmode rm) sat
    el := fun j => .val (cv.val (at' j).1 (at' j).2) 0#7, feed := fun j => cv.poisoned (at' j).1 (at' j).2 }

theorem readLineOf_ok {rm : Rm} {sat : Bool} {cn : BitVec 3} {f : FmtCode} (hcv : c.canvas cn = .ok cv)
    (hok : lineChecks c cv col hi f (c.lineNo .b x) (laneConflict c f c.td) = .ok ()) :
    readLineOf c rm sat col hi cn x f =
      .ok { s := (c.putV c.s (c.lineRead rm sat cv f (cellAt col hi (c.lineNo .b x)))).raise 0#7 } := by
  rw [readLineOf, hcv, Res.ok_bind]
  dsimp only
  rw [hok, Res.ok_bind]
  rfl

/-- The canvas after CWROW and CWCOL: each active element at `at' j`, converted once, poisoning its subtile. -/
def Ctx.lineWritten (c : Ctx) (rm : Rm) (cv : Canvas) (v : VOp) (at' : Nat → Nat × Nat) : Canvas × Flags :=
  c.actives.foldl (fun z j =>
    let r := cellCode cv.cf (c.s.me.rmode rm) (v.elem j)
    let z1 := z.1.setCell (at' j).1 (at' j).2 r.1
    (if v.psn j then z1.poison (at' j).1 (at' j).2 else z1,
      z.2 ||| r.2 ||| (if cv.cf = 0x03#6 then 0#7 else convFlags cv.cf (v.elem j)))) (cv, 0#7)

theorem writeLineOf_ok {rm : Rm} {d : BitVec 3} (hcv : c.canvas d = .ok cv) (hunt : (c.v_ .b).fmt ≠ 0#6)
    (hlane : laneMismatch [c.v_ .b] = .ok ())
    (hok : lineChecks c cv col hi (c.v_ .b).fmt (c.lineNo .a x) (.ok ()) = .ok ()) :
    let r := c.lineWritten rm cv (c.v_ .b) (cellAt col hi (c.lineNo .a x))
    writeLineOf c rm col hi d x = .ok { s := (c.s.setCanvas d r.1).raise r.2 } := by
  simp only [writeLineOf, hcv, beq_eq_false_iff_ne.mpr hunt, Bool.false_eq_true, if_false, hlane, hok, Res.ok_bind, beq_iff_eq]
  rfl

end

/-- The high half of a column has 128 rows, the whole column 256 (R194, R195). -/
theorem columnLength {n : Nat} {hi : Bool} (h : n ≤ 256 - if hi then 128 else 0) : n ≤ if hi then 128 else 256 := by
  cases hi <;> exact h

/-- Settles O44: each form passes its checks and writes its cells, its vector or its word. -/
theorem canvasResults : Obligations.CanvasResults := by
  refine ⟨⟨?czero, ?crrow, ?crcol, ?cadd, ?cstat⟩, ?cwrow, ?cwcol⟩
  case czero =>
    intro d cf mr s c cv h hcv n hlo hhi
    obtain ⟨rfl, -, -⟩ := ready_same h
    have hok : (decide (1 ≤ n) && decide (n ≤ 256)) = true := by simp only [hlo, hhi, decide_true, Bool.and_self]
    exact (issue_completes h (Res.bind_eq_ok.mpr ⟨cv, hcv, Res.bind_eq_ok.mpr ⟨(), ensure_of_true hok .., rfl⟩⟩) :
      execCzero d cf mr c.s = _)
  case crrow =>
    intro mk rm sat d cn x f s c cv h hcv n m hcap hlen hconf hn
    obtain ⟨rfl, -, -⟩ := ready_same h
    exact (issue_completes h (readLineOf_ok hcv (lineChecks_ok hcap hlen hconf hn)) : execCrrow mk rm sat d cn x f c.s = _)
  case crcol =>
    intro mk rm sat hi d cn x f s c cv h hcv n m lo hcap hlen hconf hn
    obtain ⟨rfl, -, -⟩ := ready_same h
    exact (issue_completes h (readLineOf_ok hcv (lineChecks_ok hcap (columnLength hlen) hconf hn)) :
      execCrcol mk rm sat hi d cn x f c.s = _)
  case cadd =>
    intro rm d a b s c x y z h hx hy hz hcf
    exact ⟨_, _, (execCadd_completes h hx hy hz hcf : exec (.cadd rm d a b) s = _), rfl, rfl, rfl, rfl,
      fun i j hi hj => sumCells_get (s.me.rmode rm) x y hi hj⟩
  case cstat =>
    intro d cn sel s c cv h hcv
    obtain ⟨rfl, -, -⟩ := ready_same h
    refine (issue_completes h ?_ : execCstat d cn sel c.s = _)
    simp only [hcv, Res.ok_bind, beq_iff_eq]
    rfl
  case cwrow =>
    intro mk rm d x b s c cv h hcv v n hunt hlane hcap hlen hn
    obtain ⟨rfl, -, -⟩ := ready_same h
    exact (issue_completes h (writeLineOf_ok hcv hunt hlane (lineChecks_ok hcap hlen rfl hn)) : execCwrow mk rm d x b c.s = _)
  case cwcol =>
    intro mk rm hi d x b s c cv h hcv v n lo hunt hlane hcap hlen hn
    obtain ⟨rfl, -, -⟩ := ready_same h
    exact (issue_completes h (writeLineOf_ok hcv hunt hlane (lineChecks_ok hcap (columnLength hlen) rfl hn)) :
      execCwcol mk rm hi d x b c.s = _)

end Sys2Proof.Machine
end

section
/-! PROOFS. CLD, CST, CJOIN and CSTJ (R199–R201, R204–R206, R306, R317). -/

namespace Sys2Proof.Machine

theorem Res.bind_of_ok {α β : Type} {x : Res α} {a : α} (h : x = .ok a) (f : α → Res β) : (x >>= f) = f a := by
  rw [h, Res.ok_bind]

/-! ### CLD and CST -/

section
variable {rm : Rm} {atom store : Bool} {sp : Space} {d : BitVec 3} {h : BitVec 4} {b x : Opnd} {ncol : BitVec 9} {s s1 : State}
  {c : Ctx} {cv : Canvas} {man : Manifest} {tf : TileForm} {p : TilePlan}

/-- What CLD and CST find before they move anything: the canvas, the manifest and the plan, with their check of the width at its
place in it (R203). -/
theorem tilePlan_bind {α : Type} (hcv : c.canvas d = .ok cv) (hslot : c.slotH h = .ok man) (hten : (sp.isSp && man.ten) = false)
    (htf : c.tileForm store cv man atom sp ncol = tf)
    (hp : planTile c tf (ensure (tf.cols ≤ cv.nc) .capacity (w64 tf.cols) (cv.cf.setWidth 64)) = .ok p)
    (f : Canvas → Manifest → TilePlan → Res α) :
    (do
      let cv ← c.canvas d
      let m ← c.slotH h
      c.spTen sp m
      let p ← planTile c (c.tileForm store cv m atom sp ncol)
        (ensure ((c.tileForm store cv m atom sp ncol).cols ≤ cv.nc) .capacity (w64 (c.tileForm store cv m atom sp ncol).cols)
          (cv.cf.setWidth 64))
      f cv m p) = f cv man p := by
  subst htf
  rw [hcv, Res.ok_bind, slotH_spTen_bind hslot hten, hp, Res.ok_bind]

/-- The lines of a tile load that have its format, are poisoned or are zero (R200, R251). -/
theorem loadTags_ok {line : Loc → LineV} (hf : p.f ≠ 0#6) (hmis : p.mismatch = none)
    (hfits : ∀ l ∈ p.lines, (line l.loc).cls = 2 ∨ (line l.loc).cls = 3 ∨ (line l.loc).fmt = p.f) : loadTags p line = .ok () := by
  simp only [loadTags, beq_eq_false_iff_ne.mpr hf, Bool.false_eq_true, if_false, hmis, raiseLater]
  refine Res.bind_eq_ok.mpr ⟨(), rfl, forEach_ok fun l hl => ensure_of_true ?_ ..⟩
  simpa only [Bool.or_eq_true, beq_iff_eq, or_assoc] using hfits l hl

/-- The state after a CLD that is no tile (R200): its cells and poison, and the flags of their conversions. -/
def Ctx.loaded (c : Ctx) (d : BitVec 3) (cv : Canvas) (rm : Rm) (tf : TileForm) (p : TilePlan) (s : State) (got : Tab LineV) : State :=
  let fed := p.lines.map fun l =>
    { line := s.gathered got l.loc, els := l.cells.map fun (e : Nat × Nat × Nat) => (e.1, cellNo e.2.1 e.2.2) : Fed }
  let r := loadCells p.f (c.s.me.rmode rm) tf.rows tf.cols fed cv
  ((p.lines.foldl (fun s l => s.touch l.loc) s).setCanvas d r.1).raise r.2

/-- The part of the tile that a CLD starts. -/
def Ctx.loadPart (c : Ctx) (d : BitVec 3) (cv : Canvas) (rm : Rm) (tf : TileForm) (p : TilePlan) : TilePart :=
  c.part d cv.cf p.f rm tf.rows tf.cols (p.lines.map fun l => l.keep false fun i j => (cellNo i j, false))

section
variable (hi : Issues (.cld rm atom sp d h b x ncol) [rdS .b b, rdS .c x] s c) (hcv : c.canvas d = .ok cv)
  (hslot : c.slotH h = .ok man) (hten : (sp.isSp && man.ten) = false) (htf : c.tileForm false cv man atom sp ncol = tf)
  (hp : planTile c tf (ensure (tf.cols ≤ cv.nc) .capacity (w64 tf.cols) (cv.cf.setWidth 64)) = .ok p)
  (hf : p.f ≠ 0#6) (hmis : p.mismatch = none)
include hi hcv hslot hten htf hp hf hmis

theorem execCld_completes {got : Tab LineV} (hat : tf.atom = none) (hgot : p.s.tileGather sp p.lines = .ok (s1, got))
    (hfits : ∀ l ∈ p.lines, (s1.gathered got l.loc).cls = 2 ∨ (s1.gathered got l.loc).cls = 3 ∨ (s1.gathered got l.loc).fmt = p.f) :
    execCld rm atom sp d h b x ncol s = .next (complete c { s := c.loaded d cv rm tf p s1 got }) := by
  obtain ⟨rfl, -, -⟩ := ready_same hi
  refine issue_completes hi ((tilePlan_bind hcv hslot hten htf hp _).trans ?_)
  simp only [htf, hat, hgot, loadTags_ok hf hmis hfits, Res.ok_bind]
  rfl

theorem execCld_starts (hat : tf.atom ≠ none) (hheld : ∀ l ∈ p.lines, p.s.notHeld false l.loc = .ok ())
    (hready : p.s.readyTile false p.lines = .ok s1)
    (hfits : ∀ l ∈ p.lines, (s1.lineOf l.loc).cls = 2 ∨ (s1.lineOf l.loc).cls = 3 ∨ (s1.lineOf l.loc).fmt = p.f) :
    execCld rm atom sp d h b x ncol s =
      .next ((s1.startTile false [c.loadPart d cv rm tf p]).chargeWait (.cld rm atom sp d h b x ncol)) := by
  obtain ⟨sc, hat⟩ := Option.ne_none_iff_exists'.mp hat
  refine issue_holds hi ((tilePlan_bind hcv hslot hten htf hp _).trans ?_)
  simp only [htf, hat, forEach_ok hheld, hready, loadTags_ok hf hmis hfits, Res.ok_bind]
  rfl

end

section
variable (hi : Issues (.cst rm atom sp d h b x ncol) [rdS .b b, rdS .c x] s c) (hcv : c.canvas d = .ok cv)
  (hslot : c.slotH h = .ok man) (hten : (sp.isSp && man.ten) = false) (htf : c.tileForm true cv man atom sp ncol = tf)
  (hp : planTile c tf (ensure (tf.cols ≤ cv.nc) .capacity (w64 tf.cols) (cv.cf.setWidth 64)) = .ok p)
  (htags : storeTags cv p (p.lines.map (PlanLine.write cv tf.cols)) = .ok ())
include hi hcv hslot hten htf hp htags

theorem execCst_completes (hat : tf.atom = none) (hstore : p.s.storeLines sp p.t (p.lines.map (PlanLine.write cv tf.cols)) = .ok s1) :
    let r := s1.writeLines sp (stFmt cv.cf p.t (s.me.rmode rm)) p.f (p.lines.map (PlanLine.write cv tf.cols))
    execCst rm atom sp d h b x ncol s = .next (complete c { s := r.1.raise r.2 }) := by
  obtain ⟨rfl, -, -⟩ := ready_same hi
  refine issue_completes hi ((tilePlan_bind hcv hslot hten htf hp _).trans ?_)
  simp only [htf, hat, hstore, htags, Res.ok_bind]
  rfl

theorem execCst_starts (hat : tf.atom ≠ none) (hready : p.s.readyTile true p.lines = .ok s1) :
    execCst rm atom sp d h b x ncol s =
      .next ((s1.startTile true [c.storePart d cv rm tf p (p.lines.map (PlanLine.write cv tf.cols))]).chargeWait
        (.cst rm atom sp d h b x ncol)) := by
  obtain ⟨sc, hat⟩ := Option.ne_none_iff_exists'.mp hat
  refine issue_holds hi ((tilePlan_bind hcv hslot hten htf hp _).trans ?_)
  simp only [htf, hat, hready, htags, Res.ok_bind]
  rfl

end

end

/-! ### Joint canvases -/

section
variable {d : BitVec 3} {s : State} {c : Ctx} {cv : Canvas}

/-- No other team of the caravan holds a position (R204). -/
theorem heldPosition_eq_false {s : State} {p q : Nat} (hfree : ∀ t ∈ s.teams, t.1 ≠ s.me.team → t.2.caravan = s.myTeam.caravan →
      ∀ n, t.2.binding ≠ some (n, p, q)) :
    (s.teams.any fun t => t.1 != s.me.team && t.2.caravan == s.myTeam.caravan
      && (match t.2.binding with | some (_, a, b) => a == p && b == q | none => false)) = false := by
  refine List.any_eq_false.mpr fun t ht => ?_
  simp only [Bool.and_eq_true, bne_iff_ne, beq_iff_eq, not_and]
  rintro ⟨hteam, hcar⟩
  split
  · rename_i n a b hb
    simp only [Bool.and_eq_true, beq_iff_eq, not_and]
    rintro rfl rfl
    exact hfree t ht hteam hcar n hb
  · exact Bool.false_ne_true

theorem execCjoin_bind {a : Opnd} {p q : BitVec 2} (h : Issues (.cjoin d (.bind a p q)) [rdS .a a] s c) (hcv : c.canvas d = .ok cv)
    (hhandle : c.s_ .a = s.myCar.handle) (hjr : s.myCar.wb.jr ≠ 0) (hp : p.toNat < s.myCar.wb.jr) (hq : q.toNat < s.myCar.wb.jc)
    (hnone : s.myTeam.binding = none) (hfree : ∀ t ∈ s.teams, t.1 ≠ s.me.team → t.2.caravan = s.myTeam.caravan →
      ∀ n, t.2.binding ≠ some (n, p.toNat, q.toNat)) :
    execCjoin d (.bind a p q) s = .next (complete c
      { s := s.setCanvas d { cv with jb := some (s.myCar.handle, p.toNat, q.toNat) } }) := by
  obtain ⟨rfl, -, -⟩ := ready_same h
  have hjoint : (c.s_ .a == c.s.myCar.handle && c.s.myCar.wb.jr != 0) = true := by simp [hhandle, hjr]
  have hin : (decide (p.toNat < c.s.myCar.wb.jr) && decide (q.toNat < c.s.myCar.wb.jc)) = true := by simp [hp, hq]
  rw [← hhandle]
  refine issue_completes h (Res.bind_eq_ok.mpr ⟨cv, hcv, Res.bind_eq_ok.mpr ⟨(), ensure_of_true hjoint ..,
    Res.bind_eq_ok.mpr ⟨(), ensure_of_true hin .., Res.bind_eq_ok.mpr ⟨(), ensure_of_true ?_ ..,
      Res.bind_eq_ok.mpr ⟨(), ensure_of_true (by rw [hnone]; rfl) .., rfl⟩⟩⟩⟩⟩)
  rw [Bool.not_eq_true']
  exact heldPosition_eq_false hfree

theorem execCjoin_unbind (h : Issues (.cjoin d .unbind) [] s c) (hcv : c.canvas d = .ok cv) :
    execCjoin d .unbind s = .next (complete c { s := if cv.jb.isSome then s.unbind s.me.team else s }) := by
  obtain ⟨rfl, -, -⟩ := ready_same h
  exact issue_completes h (Res.bind_eq_ok.mpr ⟨cv, hcv, rfl⟩)

/-- The form of CSTJ: the whole canvas at its place in the joint canvas (R205). -/
def Ctx.jointForm (c : Ctx) (cv : Canvas) (man : Manifest) (sc : Scope) (o : Ord) (p q : Nat) : TileForm :=
  let f0 := c.tileForm true cv man true (.mem sc o) 0#9
  { f0 with x0 := f0.x0 + cv.nc * q, y0 := f0.y0 + 256 * p, rows := 256, cols := cv.nc }

/-- A member waits in the store of its caravan, which starts with its last (R205, R317). -/
def State.joinStore (s : State) (i : Instr) (part : TilePart) : State :=
  let y := s.car s.myTeam.caravan
  ((s.setCar s.myTeam.caravan { y with joint := y.joint ++ [part] }).setMe { s.me with run := .joint i, late := [] }).formJoint
    s.myTeam.caravan

theorem execCstj_joins {rm : Rm} {sc : Scope} {o : Ord} {h : BitVec 4} {b x : Opnd} {hd : Word} {p q : Nat} {man : Manifest}
    {pl : TilePlan} {s1 : State} {tf : TileForm} (hi : Issues (.cstj rm sc o d h b x) [rdS .b b, rdS .c x] s c)
    (hcv : c.canvas d = .ok cv) (hjb : cv.jb = some (hd, p, q)) (hslot : c.slotH h = .ok man) (htf : c.jointForm cv man sc o p q = tf)
    (hp : planTile c tf = .ok pl) (htags : storeTags cv pl (pl.lines.map (PlanLine.write cv tf.cols)) = .ok ())
    (hbusy : s.jointBusy s.me.team s.myCar = false) (hready : pl.s.readyTile true pl.lines = .ok s1) :
    let part := { c.storePart d cv rm tf pl (pl.lines.map (PlanLine.write cv tf.cols)) with p, q }
    execCstj rm sc o d h b x s = .next ((s1.joinStore c.i part).chargeWait (.cstj rm sc o d h b x)) := by
  obtain ⟨rfl, -, -⟩ := ready_same hi
  subst htf
  refine issue_holds hi ((Res.bind_of_ok hcv _).trans ?_)
  rw [hjb]
  refine (Res.bind_of_ok hslot _).trans ((Res.bind_of_ok hp _).trans ((Res.bind_of_ok htags _).trans ((if_neg ?_).trans
    (Res.bind_of_ok hready _))))
  exact Bool.eq_false_iff.mp hbusy

end

/-- Settles O46: a plan that passes its checks moves its elements at once, or starts its tile; CJOIN binds and unbinds; CSTJ joins
the store of its caravan. -/
theorem tileTransferResults : Obligations.TileTransferResults := by
  refine ⟨⟨?cld, ?cst⟩, ?bind, ?unbind, ?cstj⟩
  case cld =>
    intro rm atom sp d h b x ncol s c cv man p hi hcv hslot hten tf hp hf hmis
    refine ⟨fun s1 got hat hgot hfits => ?_, fun s1 hat hheld hready hfits => ?_⟩
    · obtain ⟨rfl, -, -⟩ := ready_same hi
      exact execCld_completes hi hcv hslot hten rfl hp hf hmis hat hgot hfits
    · exact execCld_starts hi hcv hslot hten rfl hp hf hmis hat hheld hready hfits
  case cst =>
    intro rm atom sp d h b x ncol s c cv man p s1 hi hcv hslot hten tf hp ls htags
    exact ⟨execCst_completes hi hcv hslot hten rfl hp htags, execCst_starts hi hcv hslot hten rfl hp htags⟩
  case bind =>
    intro d a p q s c cv h hcv w hhandle hjr hp hq hnone hfree
    exact execCjoin_bind h hcv hhandle hjr hp hq hnone hfree
  case unbind =>
    intro d s c cv h hcv
    refine ⟨fun hjb => ?_, fun hjb => ?_⟩
    · have hsome : cv.jb.isSome = false := by rw [hjb]; rfl
      exact (execCjoin_unbind h hcv : exec (.cjoin d .unbind) s = _).trans (by rw [hsome]; rfl)
    · exact (execCjoin_unbind h hcv : exec (.cjoin d .unbind) s = _).trans (by rw [if_pos (Option.isSome_iff_ne_none.mpr hjb)])
  case cstj =>
    intro rm sc o d h b x s c cv hd p q man pl s1 hi hcv hjb hslot f0 tf hp ls htags hbusy hready
    exact execCstj_joins hi hcv hjb hslot rfl hp htags hbusy hready

end Sys2Proof.Machine
end

section
/-! PROOFS. QBIND, QCLOSE and QSTAT (R208, R209, R214–R216). -/

namespace Sys2Proof.Machine

section
variable {i : Instr} {us : List Use} {s : State} {c : Ctx} {q : BitVec 3}

/-- A queue below CR.QMASK's count is one that the team holds. -/
theorem Ctx.queueHeld_of_lt (hq : q.toNat < c.s.myCar.wb.queues) : c.queueHeld q = true := decide_eq_true hq

/-- QBIND accepts a queue that is unbound or holds no entry (R214 item 2). -/
theorem queueEmpty_of_entries {t : Tab Queue} {n : Nat} (h : ∀ y, Tab.find t n = some y → y.entries = []) :
    (match Tab.find t n with | some x => x.entries.isEmpty | none => true) = true := by
  cases hf : Tab.find t n with
  | none => rfl
  | some y => exact List.isEmpty_iff.mpr (h y hf)

end

/-- The fields of a configuration word (Table 8.3), the type as the bit itself. -/
theorem Queue.ofWord_eq (w : Word) : Queue.ofWord w =
    { vec := w.getLsbD 8, depth := bits w 0 5 + 1, prod := w.extractLsb' 16 16, cons := w.extractLsb' 32 16 } := by
  have hvec : bitAt w 8 = w.getLsbD 8 := by
    rw [BitVec.getLsbD, Nat.testBit_eq_decide_div_mod_eq]
    rfl
  rw [Queue.ofWord, hvec]

section
variable {d a : Opnd} {q : BitVec 3} {c : Ctx}

/-- A zero word unbinds the queue (R208). -/
theorem execQbind_unbinds (h : Issues (.qbind q a) [rdS .a a] c.s c) (hq : q.toNat < c.s.myCar.wb.queues)
    (hempty : ∀ y, Tab.find c.s.myTeam.queues q.toNat = some y → y.entries = []) (hw : c.s_ .a = 0#64) :
    execQbind q a c.s = .next (complete c
      { s := c.s.setMyTeam { c.s.myTeam with queues := Tab.del c.s.myTeam.queues q.toNat } }) := by
  refine issue_completes h ?_
  simp only [Ctx.queueHeld_of_lt hq, hw, beq_self_eq_true, Bool.true_or, ensure_true, Res.ok_bind, if_true]
  exact Res.bind_of_ok (ensure_of_true (queueEmpty_of_entries hempty) ..) _

/-- A well-formed word binds the queue where the pool has the units that it draws (R209, R214). -/
theorem execQbind_binds (h : Issues (.qbind q a) [rdS .a a] c.s c) (hq : q.toNat < c.s.myCar.wb.queues)
    (hempty : ∀ y, Tab.find c.s.myTeam.queues q.toNat = some y → y.entries = []) (hw : c.s_ .a ≠ 0#64)
    (hgood : qbindBad (c.s_ .a) c.s.myCar.wb.strands = false)
    (hunits : (Queue.ofWord (c.s_ .a)).units ≤ 28 * c.s.myCar.wb.queues - c.s.myTeam.unitsUsed q.toNat) :
    execQbind q a c.s = .next (complete c
      { s := c.s.setMyTeam { c.s.myTeam with queues := Tab.put c.s.myTeam.queues q.toNat (Queue.ofWord (c.s_ .a)) } }) := by
  refine issue_completes h ?_
  simp only [Ctx.queueHeld_of_lt hq, beq_eq_false_iff_ne.mpr hw, hgood, decide_eq_true hunits, Bool.not_false, Bool.or_true,
    ensure_true, Res.ok_bind]
  exact Res.bind_of_ok (ensure_of_true (queueEmpty_of_entries hempty) ..) _

/-- A producer of a bound queue marks it closed (R215). -/
theorem execQclose_closes {x : Queue} (h : Issues (.qclose q) [] c.s c) (hq : q.toNat < c.s.myCar.wb.queues)
    (hx : Tab.find c.s.myTeam.queues q.toNat = some x) (hprod : nbits x.prod.toNat c.s.me.idx 1 = 1) :
    execQclose q c.s = .next (complete c
      { s := c.s.setMyTeam { c.s.myTeam with
          queues := Tab.put c.s.myTeam.queues q.toNat { x with pclosed := x.pclosed ||| BitVec.ofNat 16 (2 ^ c.s.me.idx) } } }) := by
  refine issue_completes h ?_
  have hme : (nbits x.prod.toNat c.me.idx 1 == 1) = true := beq_iff_eq.mpr hprod
  simp only [hx, Ctx.queueHeld_of_lt hq, hme, ensure_true, Res.ok_bind]
  rfl

/-- QSTAT answers the fields of a bound queue and 0 for an unbound one (R216). -/
theorem execQstat_answers (h : Issues (.qstat d q) [wrS d] c.s c) (hq : q.toNat < c.s.myCar.wb.queues) :
    execQstat d q c.s = .next (complete c { s := c.putS c.s (match Tab.find c.s.myTeam.queues q.toNat with
      | some x => c.s.qstat c.s.myTeam x
      | none => 0#64) }) := by
  refine issue_completes h ?_
  simp only [Ctx.queueHeld_of_lt hq, ensure_true, Res.ok_bind]
  rfl

end

/-- Settles O43: each instruction passes its checks and completes. -/
theorem queueResults : Obligations.QueueResults := by
  refine ⟨?qbind, ?qclose, ?qstat⟩
  case qbind =>
    intro d a s c h q w tm x hq hempty
    obtain ⟨rfl, -, -⟩ := ready_same h
    have hofWord : Queue.ofWord w = x := Queue.ofWord_eq w
    exact ⟨fun hw => execQbind_unbinds h hq hempty hw,
      fun hw hgood hunits => hofWord ▸ execQbind_binds h hq hempty hw hgood (hofWord ▸ hunits)⟩
  case qclose =>
    intro a s c x h hq hx hprod
    obtain ⟨rfl, -, -⟩ := ready_same h
    exact execQclose_closes h hq hx hprod
  case qstat =>
    intro d a s c h hq
    obtain ⟨rfl, -, -⟩ := ready_same h
    have hexec : exec (.qstat d a) c.s = _ := execQstat_answers h hq
    exact ⟨fun x hx => by rw [hexec, hx], fun hnone => by rw [hexec, hnone]⟩

end Sys2Proof.Machine
end

section
/-! PROOFS. The canonical form of memory is kept: what it means of an answer, a stop and an outcome, and how it passes
through the steps of an instruction. -/

namespace Sys2Proof.Machine

/-- A stop that carries a state carries one whose memory is canonical. -/
def Stop.Keeps : Stop → Prop
  | .trapIn _ s => Memory.wf s = true
  | .hold s => Memory.wf s = true
  | _ => True

/-- A stop that is kept for later, if there is one, keeps memory canonical. -/
def LaterKeeps (o : Option Stop) : Prop := ∀ e, o = some e → e.Keeps

/-- A check or step answers what satisfies `p`, or stops and keeps memory canonical. -/
def Keeps {α : Type} (p : α → Prop) : Res α → Prop
  | .ok a => p a
  | .error e => e.Keeps

/-- A check or step whose stops carry no state, or one whose memory is canonical. -/
abbrev Quiet {α : Type} (x : Res α) : Prop := Keeps (fun _ => True) x

/-- A state that may be answered has canonical memory. -/
def OptKeeps : Option State → Prop
  | some t => Memory.wf t = true
  | none => True

/-- An outcome that is a next state is one whose memory is canonical. -/
def OutKeeps : Host.Outcome State Fault Refusal → Prop
  | .next t => Memory.wf t = true
  | _ => True

section
variable {α β : Type} {p : α → Prop} {q : β → Prop} {x : Res α} {f : α → Res β}

theorem Keeps.bind (hx : Keeps p x) (hf : ∀ a, p a → Keeps q (f a)) : Keeps q (x >>= f) := by
  cases x with
  | ok a => exact hf a hx
  | error e => exact hx

theorem Quiet.bind (hx : Quiet x) (hf : ∀ a, Keeps q (f a)) : Keeps q (x >>= f) := Keeps.bind hx fun a _ => hf a

theorem Keeps.ok {a : α} (h : p a) : Keeps p (.ok a) := h

theorem Keeps.of_ok {a : α} (e : x = .ok a) (hx : Keeps p x) : p a := by rw [e] at hx; exact hx

theorem Keeps.of_error {e : Stop} (h : x = .error e) (hx : Keeps p x) : e.Keeps := by rw [h] at hx; exact hx

theorem Quiet.map {f : α → β} (hx : Quiet x) : Quiet (x.map f) := by
  cases x with
  | ok a => trivial
  | error e => exact hx

theorem Keeps.raise {k : Cause} {v0 v1 v2 v3 : Word} : Keeps p (Machine.raise (α := α) k v0 v1 v2 v3) := trivial

theorem Quiet.ensure {b : Bool} {k : Cause} {v0 v1 v2 v3 : Word} : Quiet (Machine.ensure b k v0 v1 v2 v3) := by
  cases b <;> trivial

theorem Quiet.forEach {f : α → Res Unit} (hf : ∀ a, Quiet (f a)) {xs : List α} : Quiet (Machine.forEach f xs) := by
  induction xs with
  | nil => trivial
  | cons x xs ih => exact Quiet.bind (hf x) fun _ => ih

theorem Keeps.foldlM {f : β → α → Res β} {xs : List α} {b : β} (hb : q b) (hf : ∀ b a, q b → Keeps q (f b a)) :
    Keeps q (xs.foldlM f b) := by
  induction xs generalizing b with
  | nil => exact hb
  | cons x xs ih =>
    rw [List.foldlM_cons]
    exact Keeps.bind (hf b x hb) fun _ h => ih h

theorem Quiet.foldlM {f : β → α → Res β} {xs : List α} {b : β} (hf : ∀ b a, Quiet (f b a)) : Quiet (xs.foldlM f b) :=
  Keeps.foldlM trivial fun b a _ => hf b a

theorem Quiet.mapM_mem {f : α → Res β} {xs : List α} (hf : ∀ a ∈ xs, Quiet (f a)) : Quiet (xs.mapM f) := by
  induction xs with
  | nil => trivial
  | cons x xs ih =>
    rw [List.mapM_cons]
    exact Quiet.bind (hf x List.mem_cons_self) fun _ =>
      Quiet.bind (ih fun a ha => hf a (List.mem_cons_of_mem _ ha)) fun _ => trivial

end

/-! ### States with the memory of another, and states that are built step by step -/

theorem OptKeeps.of_eq {o : Option State} {t : State} (e : o = some t) (h : OptKeeps o) : Memory.wf t = true := by
  rw [e] at h; exact h

theorem OptKeeps.getD {o : Option State} {s : State} (ho : OptKeeps o) (h : Memory.wf s = true) :
    Memory.wf (o.getD s) = true := by
  cases o with
  | none => exact h
  | some t => exact ho

/-- A state that differs from one of canonical memory in other fields than its bytes and tags. -/
theorem Memory.wf_same {s t : State} (h : Memory.wf s = true) (hm : t.mem = s.mem) (ht : t.tags = s.tags) :
    Memory.wf t = true := Memory.wf_of_eq hm ht h

theorem Memory.wf_of_fst {β : Type} {p : State × β} {t : State} {b : β} (e : p = (t, b)) (h : Memory.wf p.1 = true) :
    Memory.wf t = true := by
  rw [e] at h; exact h

theorem foldl_wf {α : Type} {f : State → α → State} {xs : List α} {s : State} (h : Memory.wf s = true)
    (hf : ∀ s x, Memory.wf s = true → Memory.wf (f s x) = true) : Memory.wf (xs.foldl f s) = true := by
  induction xs generalizing s with
  | nil => exact h
  | cons x xs ih => exact ih (hf s x h)

theorem foldl_fst_wf {α β : Type} {f : State × β → α → State × β} {xs : List α} {a : State × β}
    (h : Memory.wf a.1 = true) (hf : ∀ a x, Memory.wf a.1 = true → Memory.wf (f a x).1 = true) :
    Memory.wf (xs.foldl f a).1 = true := by
  induction xs generalizing a with
  | nil => exact h
  | cons x xs ih => exact ih (hf a x h)

/-! Strands, teams, caravans, VIs and dies stand apart from the bytes and tags. -/

theorem State.setMe_wf {s : State} {st : Strand} (h : Memory.wf s = true) : Memory.wf (s.setMe st) = true := h
theorem State.setStrand_wf {s : State} {i : Nat} {st : Strand} (h : Memory.wf s = true) :
    Memory.wf (s.setStrand i st) = true := h
theorem State.setTeam_wf {s : State} {i : Nat} {x : Team} (h : Memory.wf s = true) : Memory.wf (s.setTeam i x) = true := h
theorem State.setMyTeam_wf {s : State} {x : Team} (h : Memory.wf s = true) : Memory.wf (s.setMyTeam x) = true := h
theorem State.setCar_wf {s : State} {i : Nat} {x : Caravan} (h : Memory.wf s = true) : Memory.wf (s.setCar i x) = true := h
theorem State.setVi_wf {s : State} {i : Nat} {x : Vi} (h : Memory.wf s = true) : Memory.wf (s.setVi i x) = true := h
theorem State.setDie_wf {s : State} {i : Nat} {x : Die} (h : Memory.wf s = true) : Memory.wf (s.setDie i x) = true := h

end Sys2Proof.Machine
end

section
/-! PROOFS. Traps, charges, translation and events keep memory canonical. -/

namespace Sys2Proof.Machine

theorem State.deliverAt_wf {s : State} {sid : Nat} {t : Trap} {async esc : Bool} {l : Priv} (h : Memory.wf s = true) :
    Memory.wf (s.deliverAt sid t async esc l) = true := State.setStrand_wf h

theorem State.realloc_wf {s : State} {core : Nat} (h : Memory.wf s = true) : Memory.wf (s.realloc core) = true :=
  foldl_wf h fun _ _ ht => State.setStrand_wf ht

theorem State.reallocMine_wf {s : State} (h : Memory.wf s = true) : Memory.wf s.reallocMine = true := State.realloc_wf h

theorem State.viReset_wf {s : State} {n : Nat} (h : Memory.wf s = true) : Memory.wf (s.viReset n) = true := by
  simp only [State.viReset]
  split
  · exact h
  · exact foldl_wf (State.setVi_wf h) fun _ _ ht => State.realloc_wf ht

theorem State.viRevoke_wf {s : State} {n : Nat} (h : Memory.wf s = true) : Memory.wf (s.viRevoke n) = true := State.setVi_wf h

theorem State.deliver_wf {s : State} {sid : Nat} {t : Trap} {async second : Bool} {atLvl : Option Priv}
    (h : Memory.wf s = true) : Memory.wf (s.deliver sid t async second atLvl) = true := by
  simp only [State.deliver]
  split
  · exact State.deliverAt_wf h
  · split
    · exact State.setStrand_wf h
    · exact State.viReset_wf (State.setStrand_wf h)

theorem State.tret_keeps {s : State} (h : Memory.wf s = true) : OptKeeps s.tret := by
  simp only [State.tret]
  split
  · trivial
  · split
    · exact h
    · exact State.setMe_wf h

theorem State.takePend_wf {s : State} {sid : Nat} {p : Pend} (h : Memory.wf s = true) : Memory.wf (s.takePend sid p) = true :=
  State.deliver_wf (State.setStrand_wf h)

theorem State.addPend_wf {s : State} {sid : Nat} {p : Pend} (h : Memory.wf s = true) : Memory.wf (s.addPend sid p) = true :=
  State.setStrand_wf h

theorem State.forget_wf {s : State} {p : Nat → Bool} (h : Memory.wf s = true) : Memory.wf (s.forget p) = true := h

theorem ofLines_keeps {α : Type} {p : α → Prop} {n : Unit → Nat} {x : Res α} (hx : Keeps p x) :
    Keeps p (ofLines n x) := by
  unfold ofLines
  split
  · trivial
  · trivial
  · exact hx

theorem State.count_wf {s : State} {vi : Nat} {f : Tab Word → Tab Word} (h : Memory.wf s = true) :
    Memory.wf (s.count vi f) = true := State.setVi_wf h

theorem State.chargeLlc_wf {s : State} {vi n : Nat} (h : Memory.wf s = true) : Memory.wf (s.chargeLlc vi n) = true :=
  State.count_wf h

theorem State.chargeTileLine_wf {s : State} {vi pa : Nat} (h : Memory.wf s = true) :
    Memory.wf (s.chargeTileLine vi pa) = true := State.count_wf h

theorem drainWhere_keeps {p : Buffered → Bool} {bs : List Buffered} {s : State} (h : Memory.wf s = true) :
    Keeps (fun t => Memory.wf t = true) (drainWhere p bs s) := by
  induction bs generalizing s with
  | nil => exact h
  | cons b bs ih =>
    simp only [drainWhere]
    split
    · split
      · trivial
      · exact ih (State.performBuffered_wf (s := { s with storeQ := s.storeQ.erase b }) h)
    · exact ih h

theorem State.drainTracks_keeps {s : State} {core : Nat} {p : Buffered → Bool} (h : Memory.wf s = true) :
    Keeps (fun t => Memory.wf t = true) (s.drainTracks core p) := drainWhere_keeps h

theorem State.drainCore_keeps {s : State} {core : Nat} (h : Memory.wf s = true) :
    Keeps (fun t => Memory.wf t = true) (s.drainCore core) := drainWhere_keeps h

theorem State.checkPa_quiet {s : State} {vi : Nat} {k : AccKind} {va : Word} {pa : Nat} : Quiet (s.checkPa vi k va pa) := by
  simp only [State.checkPa]
  split
  · split <;> trivial
  · split <;> trivial
  · split <;> trivial
  · trivial
  · trivial

theorem State.answersAt_quiet {s : State} {va : Word} {eph : Bool} {pa : Nat} : Quiet (s.answersAt va eph pa) := by
  simp only [State.answersAt]
  split
  · split <;> trivial
  · split
    · trivial
    · split <;> trivial
  · trivial

theorem State.entryOpen_quiet {s : State} {vi : Nat} {k : AccKind} {va : Word} {pa : Nat} :
    Quiet (s.entryOpen vi k va pa) := by
  simp only [State.entryOpen]
  split
  · trivial
  · refine Quiet.bind State.checkPa_quiet fun _ => Quiet.bind State.answersAt_quiet fun _ => ?_
    split <;> trivial

theorem State.s2Trap_keeps {α : Type} {p : α → Prop} {s : State} {vi : Nat} {k : AccKind} {va : Word} {f : S2Fault} :
    Keeps p (s.s2Trap vi k va f) := by
  unfold State.s2Trap
  split
  · exact Quiet.bind State.entryOpen_quiet fun _ => Keeps.raise
  · exact Keeps.raise

theorem State.walk1From_quiet {s : State} {vi : Nat} {k : AccKind} {va : Word} {fuel lvl table : Nat} :
    Quiet (s.walk1From vi k va fuel lvl table) := by
  induction fuel generalizing lvl table with
  | zero => exact Keeps.raise
  | succ fuel ih =>
    simp only [State.walk1From]
    split
    · exact State.s2Trap_keeps
    · refine Quiet.bind State.entryOpen_quiet fun _ => ?_
      split
      · exact Keeps.raise
      · split
        · exact Keeps.raise
        · split
          · exact Quiet.bind ih fun _ => trivial
          · trivial

theorem permit1_quiet {k : AccKind} {user : Bool} {va : Word} {lvl : Nat} {e : Word} : Quiet (permit1 k user va lvl e) := by
  simp only [permit1]
  split
  · trivial
  · split
    · split <;> trivial
    · split <;> trivial
    · split
      · trivial
      · split
        · split <;> trivial
        · split <;> trivial
        · split <;> trivial

theorem State.leavesFree_quiet {s : State} {upd : List (Nat × Nat)} : Quiet (s.leavesFree upd) := by
  simp only [State.leavesFree]
  split <;> trivial

theorem State.walked_quiet {s : State} {w : Who} {k : AccKind} {va : Word} : Quiet (s.walked w k va) := by
  simp only [State.walked]
  refine Quiet.bind State.walk1From_quiet fun _ => Quiet.bind permit1_quiet fun _ => ?_
  split
  · exact State.s2Trap_keeps
  · trivial

theorem TlbEntry.through_quiet {t : TlbEntry} {w : Who} {k : AccKind} {va : Word} : Quiet (t.through w k va) :=
  Quiet.bind permit1_quiet fun _ => Quiet.bind Quiet.ensure fun _ => trivial

theorem State.target_quiet {s : State} {w : Who} {k : AccKind} {va : Word} : Quiet (s.target w k va) := by
  refine Quiet.bind Quiet.ensure fun _ => ?_
  split
  · exact State.walked_quiet
  · split
    · exact TlbEntry.through_quiet
    · exact State.walked_quiet

theorem State.xlat_quiet {s : State} {w : Who} {k : AccKind} {va : Word} : Quiet (s.xlat w k va) := by
  refine Quiet.bind State.target_quiet fun _ => Quiet.bind State.checkPa_quiet fun _ => ?_
  split
  · trivial
  · exact Quiet.bind State.leavesFree_quiet fun _ => trivial

theorem State.spendAt_wf {s : State} {vi : Nat} {pas : List Nat} (h : Memory.wf s = true) :
    Memory.wf (s.spendAt vi pas) = true := by
  simp only [State.spendAt]
  split <;> exact h

theorem State.spend_wf {s : State} {vi : Nat} {va : Word} (h : Memory.wf s = true) : Memory.wf (s.spend vi va) = true :=
  State.spendAt_wf h

theorem State.checkHome_quiet {s : State} {va : Word} {x : Xlat} : Quiet (s.checkHome va x) := State.answersAt_quiet

theorem State.reachAny_quiet {s : State} {w : Who} {k : AccKind} {va : Word} {regsOk : Bool} {extra : Xlat → Res Unit}
    (hextra : ∀ x, Quiet (extra x)) : Quiet (s.reachAny w k va regsOk extra) := by
  refine Quiet.bind State.xlat_quiet fun x => Quiet.bind Quiet.ensure fun _ => ?_
  have hrest : Quiet (do ensure (k != .patch || x.ps) .access va 2#64 (w64 x.lvl1); extra x; return x) :=
    Quiet.bind Quiet.ensure fun _ => Quiet.bind (hextra x) fun _ => trivial
  split
  · exact Quiet.bind Quiet.ensure fun _ => hrest
  · exact hrest

theorem State.reach_quiet {s : State} {w : Who} {k : AccKind} {va : Word} {regsOk : Bool} {extra : Xlat → Res Unit}
    (hextra : ∀ x, Quiet (extra x)) : Quiet (s.reach w k va regsOk extra) :=
  Quiet.bind (State.reachAny_quiet hextra) fun _ => Quiet.bind State.checkHome_quiet fun _ => trivial

theorem State.loadLine_quiet {s : State} {x : Xlat} : Quiet (s.loadLine x) := by
  simp only [State.loadLine]
  split <;> trivial

theorem State.fillHost_wf {s : State} {x : Xlat} (h : Memory.wf s = true) : Memory.wf (s.fillHost x) = true := by
  simp only [State.fillHost]
  split
  · split <;> split <;> exact h
  · split <;> split <;> exact h
  · exact h

theorem State.askPri_wf {s : State} {page : Nat} (h : Memory.wf s = true) : Memory.wf (s.askPri page) = true := by
  simp only [State.askPri]
  split <;> exact h

theorem State.spendBy_wf {s : State} {vi : Nat} {t : Trap} (h : Memory.wf s = true) : Memory.wf (s.spendBy vi t) = true := by
  simp only [State.spendBy]
  split
  · exact State.spend_wf h
  · exact h

theorem State.storeFor_keeps {s : State} {w : Who} {k : AccKind} {va : Word} {data : List Byte} (h : Memory.wf s = true) :
    Keeps (fun p => Memory.wf p.1 = true) (s.storeFor w k va data) := by
  refine Quiet.bind (State.reach_quiet fun _ => trivial) fun _ => ?_
  split
  · trivial
  · exact State.writeLine_wf (State.chargeLine_wf (State.used_wf h))

theorem State.setMevt_wf {s : State} {k : Nat} (h : Memory.wf s = true) : Memory.wf (s.setMevt k) = true := h

theorem State.signal_wf {s : State} {n vec : Nat} (h : Memory.wf s = true) : Memory.wf (s.signal n vec) = true := by
  simp only [State.signal]
  split
  · exact State.setVi_wf h
  · exact h

/-- The states that writing a reserved entry leaves have canonical memory. -/
def EvqRes.Keeps : EvqRes → Prop
  | .idle => True
  | .wrote s | .waits s | .faults s => Memory.wf s = true

theorem State.writeEvent_keeps {s : State} {n : Nat} (h : Memory.wf s = true) : (s.writeEvent n).Keeps := by
  simp only [State.writeEvent]
  split
  · split
    · trivial
    · split
      · next hstore => exact State.signal_wf (State.setVi_wf (Keeps.of_ok hstore (State.storeFor_keeps h) :))
      · exact State.spendBy_wf h
      · exact State.askPri_wf h
      · exact h
  · trivial

theorem State.drainEvents_wf {n fuel : Nat} {s : State} (h : Memory.wf s = true) :
    Memory.wf (State.drainEvents n fuel s) = true := by
  induction fuel generalizing s with
  | zero => exact h
  | succ fuel ih =>
    have hwrite := State.writeEvent_keeps (n := n) h
    unfold State.drainEvents
    split
    · exact h
    · next heq => rw [heq] at hwrite; exact ih hwrite
    · next heq => rw [heq] at hwrite; exact hwrite
    · next heq => rw [heq] at hwrite; exact hwrite

theorem State.flushEvents_wf {s : State} {n : Nat} {retry : Bool} (h : Memory.wf s = true) :
    Memory.wf (s.flushEvents n retry) = true := by
  simp only [State.flushEvents]
  split
  · exact h
  · exact State.drainEvents_wf (State.setVi_wf h)

theorem State.postEvent_wf {s : State} {n : Nat} {e : Event} (h : Memory.wf s = true) :
    Memory.wf (s.postEvent n e) = true := by
  simp only [State.postEvent]
  split
  · exact State.flushEvents_wf (State.setVi_wf h)
  · exact State.setMevt_wf (State.setVi_wf h)

end Sys2Proof.Machine
end

section
/-! PROOFS. Reading operands, stopping, completing and issuing an instruction keep memory canonical. -/

namespace Sys2Proof.Machine

theorem checkPresent_quiet {st : Strand} {sl : Slot} {n : Nat} : Quiet (checkPresent st sl n) := Quiet.ensure

theorem resolveIx_quiet {st : Strand} {i : Instr} {f : OFile} {sl : Slot} {n : Nat} : Quiet (resolveIx st i f sl n) :=
  Quiet.bind Quiet.ensure fun _ => Quiet.bind Quiet.ensure fun _ => Quiet.bind Quiet.ensure fun _ =>
    Quiet.bind Quiet.ensure fun _ => Quiet.bind Quiet.ensure fun _ => trivial

theorem laneRegs_quiet {r : IxRes} {v : VReg} {t0 : Word} {js : List Nat} {acc : Tab Nat} :
    Quiet (laneRegs r v t0 js acc) := by
  induction js generalizing acc with
  | nil => trivial
  | cons j js ih =>
    rw [laneRegs]
    dsimp only
    split_ifs
    · exact Keeps.raise
    · exact ih
    · exact Keeps.raise
    · exact ih

theorem presentBefore_quiet {c : Ctx} : Quiet (presentBefore c) := by
  have hslot : ∀ sl, Quiet (match c.tgt sl with
      | .reg n => checkPresent c.me sl (n + c.me.mstep.toNat)
      | _ => .ok ()) := fun sl => by
    split
    · exact checkPresent_quiet
    · trivial
  exact Quiet.bind (hslot .a) fun _ => hslot .b

theorem stepPresent_quiet {c : Ctx} : Quiet (stepPresent c) :=
  Quiet.bind presentBefore_quiet fun _ => Quiet.forEach fun _ => checkPresent_quiet

theorem lanePresent_quiet {c : Ctx} {u : Use} {l : Nat} : Quiet (lanePresent c u l) := by
  simp only [lanePresent]
  split
  · exact checkPresent_quiet
  · split
    · trivial
    · exact Quiet.bind presentBefore_quiet fun _ => checkPresent_quiet

theorem resolveLane_quiet {c : Ctx} {u : Use} {n : Nat} {r : IxRes} : Quiet (resolveLane c u n r) := by
  refine Quiet.bind Quiet.ensure fun _ => Quiet.bind Quiet.ensure fun _ => Quiet.bind lanePresent_quiet fun _ =>
    Quiet.bind Quiet.ensure fun _ => Quiet.bind Quiet.ensure fun _ => Quiet.bind laneRegs_quiet fun _ => ?_
  split
  · exact Quiet.bind (Quiet.forEach fun _ => checkPresent_quiet) fun _ => trivial
  · trivial

theorem queueOf_quiet {c : Ctx} {f : OFile} {q : Nat} : Quiet (queueOf c f q) := by
  simp only [queueOf]
  split
  · split <;> trivial
  · trivial

theorem resolveQueue_quiet {c : Ctx} {u : Use} {q : Nat} : Quiet (resolveQueue c u q) := by
  refine Quiet.bind queueOf_quiet fun _ => ?_
  split <;> trivial

theorem resolveUse_quiet {c : Ctx} {u : Use} : Quiet (resolveUse c u) := by
  unfold resolveUse
  split
  · exact resolveQueue_quiet
  · split
    · exact Quiet.bind (Quiet.forEach fun _ => checkPresent_quiet) fun _ => trivial
    · trivial
  · refine Quiet.bind resolveIx_quiet fun _ => ?_
    dsimp only
    split
    · exact Quiet.bind resolveLane_quiet fun _ => trivial
    · refine Quiet.bind Quiet.ensure fun _ => ?_
      split
      · exact Quiet.bind (Quiet.forEach fun _ => checkPresent_quiet) fun _ => trivial
      · trivial

theorem resolveAll_quiet {us : List Use} {c : Ctx} : Quiet (resolveAll c us) := by
  induction us generalizing c with
  | nil => trivial
  | cons u us ih => exact Quiet.bind resolveUse_quiet fun _ => ih

theorem queueFault_quiet {c : Ctx} {u : Use} : Quiet (queueFault c u) := by
  simp only [queueFault]
  split
  · exact Quiet.bind Quiet.ensure fun _ => Quiet.bind Quiet.ensure fun _ => Quiet.bind Quiet.ensure fun _ => Quiet.ensure
  · trivial

theorem State.pushQ_wf {s : State} {q : Nat} {e : QEntry} (h : Memory.wf s = true) : Memory.wf (s.pushQ q e) = true :=
  State.setMyTeam_wf h

theorem Ctx.putS_wf {c : Ctx} {s : State} {w : Word} (hs : Memory.wf s = true) :
    Memory.wf (c.putS s w) = true := by
  simp only [Ctx.putS]
  split
  · exact State.setMe_wf hs
  · exact State.pushQ_wf hs
  · exact hs

theorem Ctx.putM_wf {c : Ctx} {s : State} {x : BitVec 1024} (hs : Memory.wf s = true) :
    Memory.wf (c.putM s x) = true := by
  simp only [Ctx.putM]
  split
  · exact State.setMe_wf hs
  · exact hs

theorem State.raise_wf {s : State} {f : Flags} (h : Memory.wf s = true) : Memory.wf (s.raise f) = true := State.setMe_wf h

theorem laneConflict_quiet {c : Ctx} {f : FmtCode} {t : Tgt} : Quiet (laneConflict c f t) := by
  simp only [laneConflict]
  split
  · exact Quiet.forEach fun _ => Quiet.ensure
  · trivial

theorem putVAt_wf {s : State} {t : Tgt} {w : VW} (h : Memory.wf s = true) : Memory.wf (putVAt s t w) = true := by
  simp only [putVAt]
  split
  · exact State.setMe_wf h
  · exact State.pushQ_wf (State.raise_wf h)
  · exact foldl_wf h fun _ _ hu => State.setMe_wf hu
  · exact h

theorem Ctx.putV_wf {c : Ctx} {s : State} {w : VW} (hs : Memory.wf s = true) :
    Memory.wf (c.putV s w) = true := putVAt_wf hs

theorem Ctx.putImg_wf {c : Ctx} {s : State} {r : VReg} (hs : Memory.wf s = true) :
    Memory.wf (c.putImg s r) = true := by
  simp only [Ctx.putImg]
  split
  · exact State.setMe_wf hs
  · exact State.pushQ_wf hs
  · exact hs

theorem capCheck_quiet {c : Ctx} {fs : List FmtCode} : Quiet (capCheck c fs) := Quiet.forEach fun _ => Quiet.ensure

theorem laneMismatch_quiet {vs : List VOp} : Quiet (laneMismatch vs) := by
  refine Quiet.forEach fun _ => ?_
  split <;> trivial

theorem restart_quiet {c : Ctx} {f : FmtCode} : Quiet (restart c f) := by
  refine Quiet.bind laneConflict_quiet fun _ => ?_
  split
  · trivial
  · exact Quiet.bind Quiet.ensure fun _ => trivial
  · trivial

theorem forbid3_keeps {α : Type} {p : α → Prop} {fa fb : FmtCode} {v1 : Word} : Keeps p (forbid3 fa fb v1) := trivial

theorem consume_quiet {v : VOp} {js : List Nat} : Quiet (consume v js) := by
  simp only [consume]
  split <;> trivial

theorem consumeAs_quiet {o : Opnd} {v : VOp} {js : List Nat} : Quiet (consumeAs o v js) := consume_quiet

theorem done_keeps {s : State} (h : Memory.wf s = true) : Keeps (fun r => Memory.wf r.s = true) (done s) := h

theorem State.popAll_wf {s : State} {pops : Tab Nat} (h : Memory.wf s = true) : Memory.wf (s.popAll pops) = true :=
  foldl_wf h fun _ _ ht => State.setMyTeam_wf ht

theorem State.chargeIssue_wf {s : State} {i : Instr} (h : Memory.wf s = true) : Memory.wf (s.chargeIssue i) = true := by
  simp only [State.chargeIssue]
  split
  · exact State.setMe_wf h
  · exact State.charge_wf h

theorem State.chargeWait_wf {s : State} {i : Instr} (h : Memory.wf s = true) : Memory.wf (s.chargeWait i) = true := by
  simp only [State.chargeWait]
  split
  · exact State.setMe_wf (State.chargeIssue_wf h)
  · exact h

theorem complete_wf {c : Ctx} {d : Done} (hd : Memory.wf d.s = true) :
    Memory.wf (complete c d) = true := by
  simp only [complete]
  split
  · exact State.deliver_wf (State.setMe_wf (State.chargeIssue_wf (State.setMe_wf (State.popAll_wf hd))))
  · exact State.chargeIssue_wf (State.setMe_wf (State.popAll_wf hd))

theorem State.spendFor_wf {s : State} {t : Trap} (h : Memory.wf s = true) : Memory.wf (s.spendFor t) = true :=
  State.spendBy_wf h

theorem State.holdRequests_wf {s : State} {n : Nat} (h : Memory.wf s = true) : Memory.wf (s.holdRequests n) = true := by
  simp only [State.holdRequests]
  split
  · exact State.setMe_wf h
  · exact h

theorem stopState_keeps {s : State} {e : Stop} (h : Memory.wf s = true) (he : e.Keeps) : OutKeeps (stopState s e) := by
  cases e with
  | trap t => exact State.deliver_wf (State.spendFor_wf h)
  | trapIn t u => exact State.deliver_wf (State.spendFor_wf he)
  | stall => exact h
  | hold u => exact he
  | pri p n => exact State.holdRequests_wf (State.askPri_wf h)
  | page n => exact State.holdRequests_wf h
  | fault f => trivial

theorem lanesHeld_quiet {i : Instr} {us : List Use} {c : Ctx} : Quiet (lanesHeld i us c) := by
  unfold lanesHeld
  split
  · split
    · exact Quiet.bind stepPresent_quiet fun _ => Keeps.raise
    · exact Keeps.raise
  · trivial

theorem ready_quiet {i : Instr} {s : State} {us : List Use} {mk : Mk} {ov : Ctx → Res Unit} (hov : ∀ c, Quiet (ov c)) :
    Quiet (ready i s us mk ov) := by
  refine Quiet.bind Quiet.ensure fun _ => Quiet.bind resolveAll_quiet fun c => Quiet.bind lanesHeld_quiet fun _ =>
    Quiet.bind (hov c) fun _ => Quiet.bind (Quiet.forEach fun _ => queueFault_quiet) fun _ => ?_
  split <;> trivial

theorem ready_keeps {i : Instr} {s : State} {us : List Use} {mk : Mk} {ov : Ctx → Res Unit} (h : Memory.wf s = true)
    (hov : ∀ c, Quiet (ov c)) : Keeps (fun c => Memory.wf c.s = true) (ready i s us mk ov) := by
  cases hready : ready i s us mk ov with
  | error e => exact Keeps.of_error hready (ready_quiet hov)
  | ok c =>
    show Memory.wf c.s = true
    rw [(ready_same hready).1]
    exact h

theorem State.dropTstart_wf {s : State} {us : List Use} (h : Memory.wf s = true) : Memory.wf (s.dropTstart us) = true := by
  simp only [State.dropTstart]
  split
  · exact State.setMe_wf h
  · exact h

theorem stopIssue_keeps {i : Instr} {s : State} {us : List Use} {e : Stop} (h : Memory.wf s = true) (he : e.Keeps) :
    OutKeeps (stopIssue i s us e) := by
  cases e with
  | trap t => exact stopState_keeps (State.chargeIssue_wf (State.dropTstart_wf h)) he
  | trapIn t u =>
    exact stopState_keeps (e := .trapIn t ((u.dropTstart us).chargeIssue i)) h
      (State.chargeIssue_wf (State.dropTstart_wf he))
  | hold u => exact stopState_keeps (e := .hold (u.chargeWait i)) h (State.chargeWait_wf he)
  | _ => exact stopState_keeps h he

/-- An instruction keeps memory canonical where its body does (R37, R385). -/
theorem issue_overlap_keeps {i : Instr} {s : State} {us : List Use} {body : Ctx → Res Done} {mk : Mk} {ov : Ctx → Res Unit}
    (h : Memory.wf s = true) (hov : ∀ c, Quiet (ov c))
    (hbody : ∀ c : Ctx, Memory.wf c.s = true → Keeps (fun d => Memory.wf d.s = true) (body c)) :
    OutKeeps (issue i s us body mk ov) := by
  unfold issue
  split
  · next hready => exact stopIssue_keeps h (Keeps.of_error hready (ready_quiet hov))
  · next c hready =>
    have hc : Memory.wf c.s = true := (Keeps.of_ok hready (ready_keeps h hov) :)
    split
    · next hstop => exact stopIssue_keeps h (Keeps.of_error hstop (hbody c hc))
    · next hdone => exact complete_wf (Keeps.of_ok hdone (hbody c hc) :)

theorem issue_keeps {i : Instr} {s : State} {us : List Use} {body : Ctx → Res Done} {mk : Mk} (h : Memory.wf s = true)
    (hbody : ∀ c : Ctx, Memory.wf c.s = true → Keeps (fun d => Memory.wf d.s = true) (body c)) :
    OutKeeps (issue i s us body mk) := issue_overlap_keeps h (fun _ => trivial) hbody

theorem overlapCheck_quiet {c : Ctx} {ds : Slot} {dn : Nat} {sl : Slot} {sn : Nat} : Quiet (overlapCheck c ds dn sl sn) :=
  Quiet.forEach fun _ => Quiet.forEach fun _ => Quiet.ensure

theorem State.setPalEntry_wf {s : State} {slot cls : Nat} {fa fb : FmtCode} {e : Byte} (h : Memory.wf s = true) :
    Memory.wf (s.setPalEntry slot cls fa fb e) = true := h

theorem palette_quiet {s : State} {cls : Nat} {fa fb : FmtCode} : Quiet (palette s cls fa fb) :=
  Quiet.bind Quiet.ensure fun _ => Quiet.bind Quiet.ensure fun _ => trivial

theorem palselCheck_quiet {s : State} {w : Word} : Quiet (palselCheck s w) := Quiet.bind Quiet.ensure fun _ => Quiet.ensure

theorem palArgs_quiet {w : Word} : Quiet (palArgs w) := Quiet.bind Quiet.ensure fun _ => trivial

theorem putDone_keeps {c : Ctx} {w : VW} {fl : Flags} (h : Memory.wf c.s = true) :
    Keeps (fun r => Memory.wf r.s = true) (putDone c w fl) := done_keeps (State.raise_wf (Ctx.putV_wf h))

theorem elemIndex_quiet {c : Ctx} {f : FmtCode} {e : IdxSel 10} : Quiet (elemIndex c f e) :=
  Quiet.bind Quiet.ensure fun _ => trivial

theorem vecChecks_quiet {c : Ctx} {vs : List VOp} {p : FmtCode} : Quiet (vecChecks c vs p) :=
  Quiet.bind laneMismatch_quiet fun _ => Quiet.bind capCheck_quiet fun _ => restart_quiet

theorem vecBin_keeps {c : Ctx} {cls : Nat} {rm : Rm} {sat wide : Bool} {f : FmtCode → RMode → VOp → VOp → Nat → El}
    (h : Memory.wf c.s = true) : Keeps (fun t => Memory.wf t = true) (vecBin c cls rm sat wide f) :=
  Quiet.bind palette_quiet fun _ => Quiet.bind vecChecks_quiet fun _ => State.raise_wf (Ctx.putV_wf h)

theorem vecUn_keeps {c : Ctx} {cls : Nat} {rm : Rm} {sat noInt : Bool} {f : Val → Val × Flags}
    (h : Memory.wf c.s = true) : Keeps (fun t => Memory.wf t = true) (vecUn c cls rm sat noInt f) :=
  Quiet.bind palette_quiet fun _ => Quiet.bind Quiet.ensure fun _ => Quiet.bind vecChecks_quiet fun _ =>
    State.raise_wf (Ctx.putV_wf h)

theorem vecTri_keeps {c : Ctx} {cls : Nat} {rm : Rm} {sat wide : Bool} {f : RMode → Val → Val → Val → Val × Flags}
    (h : Memory.wf c.s = true) : Keeps (fun t => Memory.wf t = true) (vecTri c cls rm sat wide f) :=
  Quiet.bind palette_quiet fun _ => Quiet.bind palette_quiet fun _ => Quiet.bind vecChecks_quiet fun _ =>
    State.raise_wf (Ctx.putV_wf h)

theorem finishV_keeps {r : Res State} (h : Keeps (fun t => Memory.wf t = true) r) :
    Keeps (fun d => Memory.wf d.s = true) (finishV r) := Keeps.bind h fun _ ht => ht

theorem logic_keeps {c : Ctx} {vs : List VOp} {f : List Nat → Nat} (h : Memory.wf c.s = true) :
    Keeps (fun r => Memory.wf r.s = true) (logic c vs f) := by
  simp only [logic]
  split
  · trivial
  · exact Quiet.bind vecChecks_quiet fun _ => putDone_keeps h

theorem shiftV_keeps {c : Ctx} {b : IdxSel 6} {f : Nat → Nat → Nat → Nat} (h : Memory.wf c.s = true) :
    Keeps (fun r => Memory.wf r.s = true) (shiftV c b f) := by
  simp only [shiftV]
  split
  · split
    · trivial
    · exact Quiet.bind vecChecks_quiet fun _ => putDone_keeps h
  · split
    · trivial
    · exact Quiet.bind vecChecks_quiet fun _ => putDone_keeps h

theorem dotStep_keeps {c : Ctx} {rm : Rm} {sat : Bool} {k : Nat} (h : Memory.wf c.s = true) :
    Keeps (fun t => Memory.wf t = true) (dotStep c rm sat k) := by
  refine Quiet.bind stepPresent_quiet fun _ => ?_
  split
  · exact vecBin_keeps h
  · exact vecTri_keeps h

theorem dotSteps_keeps {c : Ctx} {rm : Rm} {sat : Bool} {fuel k : Nat} (h : Memory.wf c.s = true) :
    Keeps (fun t => Memory.wf t = true) (dotSteps c rm sat fuel k) := by
  induction fuel generalizing c k with
  | zero => exact h
  | succ fuel ih =>
    have hstep := dotStep_keeps (c := { c with s := c.s.setMe { c.me with mstep := w64 k } }) (rm := rm) (sat := sat) (k := k) h
    unfold dotSteps
    dsimp only
    split
    · next hok => exact ih (Keeps.of_ok hok hstep :)
    · exact h
    · next herr => exact Keeps.of_error herr hstep

theorem dotQueue_keeps {c : Ctx} {rm : Rm} {sat : Bool} {q : Nat} (h : Memory.wf c.s = true) :
    Keeps (fun d => Memory.wf d.s = true) (dotQueue c rm sat q) := by
  simp only [dotQueue]
  split
  · next hok => exact State.pushQ_wf (State.setMe_wf (Keeps.of_ok hok (dotSteps_keeps h) :))
  · exact h
  · next herr => exact Keeps.of_error herr (dotSteps_keeps h)

end Sys2Proof.Machine
end

section
/-! PROOFS. Canvases, scalar accesses and the registers of the platform keep memory canonical. -/

namespace Sys2Proof.Machine

theorem Ctx.canvas_quiet {c : Ctx} {n : BitVec 3} : Quiet (c.canvas n) := by
  refine Quiet.bind Quiet.ensure fun _ => ?_
  split <;> trivial

theorem State.setCanvas_wf {s : State} {n : BitVec 3} {cv : Canvas} (h : Memory.wf s = true) :
    Memory.wf (s.setCanvas n cv) = true := State.setMyTeam_wf h

theorem accumulate_keeps {c : Ctx} {d : BitVec 3} {rm : Rm} {steps : List CopStep} (h : Memory.wf c.s = true) :
    Keeps (fun d => Memory.wf d.s = true) (accumulate c d rm steps) := by
  refine Quiet.bind Ctx.canvas_quiet fun cv => ?_
  refine Quiet.bind (Quiet.foldlM fun _ _ => Quiet.bind palette_quiet fun _ => Keeps.ok trivial) fun ps => ?_
  refine Quiet.bind (Quiet.forEach fun st => ?pairs) fun _ => ?_
  case pairs =>
    split
    · exact Quiet.bind Quiet.ensure fun _ => Quiet.ensure
    · trivial
  refine Quiet.bind laneMismatch_quiet fun _ => ?_
  refine Quiet.bind (Quiet.forEach fun _ => Quiet.bind Quiet.ensure fun _ => Quiet.bind Quiet.ensure fun _ => Quiet.ensure)
    fun _ => ?_
  exact Quiet.bind (Quiet.forEach fun _ => Quiet.ensure) fun _ => State.raise_wf (State.charge_wf (State.setCanvas_wf h))

theorem lineChecks_quiet {c : Ctx} {cv : Canvas} {col hi : Bool} {f : FmtCode} {x : Nat} {conflict : Res Unit}
    (hconflict : Quiet conflict) : Quiet (lineChecks c cv col hi f x conflict) :=
  Quiet.bind Quiet.ensure fun _ => Quiet.bind Quiet.ensure fun _ => Quiet.bind hconflict fun _ => Quiet.ensure

theorem readLineOf_keeps {c : Ctx} {rm : Rm} {sat col hi : Bool} {cn : BitVec 3} {x : IdxSel 8} {f : FmtCode}
    (h : Memory.wf c.s = true) : Keeps (fun r => Memory.wf r.s = true) (readLineOf c rm sat col hi cn x f) :=
  Quiet.bind Ctx.canvas_quiet fun _ => Quiet.bind (lineChecks_quiet laneConflict_quiet) fun _ => putDone_keeps h

theorem writeLineOf_keeps {c : Ctx} {rm : Rm} {col hi : Bool} {d : BitVec 3} {x : IdxSel 8} (h : Memory.wf c.s = true) :
    Keeps (fun r => Memory.wf r.s = true) (writeLineOf c rm col hi d x) := by
  simp only [writeLineOf]
  refine Quiet.bind Ctx.canvas_quiet fun _ => ?_
  split
  · trivial
  · exact Quiet.bind laneMismatch_quiet fun _ => Quiet.bind (lineChecks_quiet trivial) fun _ =>
      done_keeps (State.raise_wf (State.setCanvas_wf h))

theorem fail_keeps {α : Type} {p : α → Prop} {k : Cause} {v0 v1 v2 v3 : Word} :
    Keeps p (fail (α := α) k v0 v1 v2 v3) := trivial

theorem State.locate_quiet {s : State} {sp : Bool} {k : AccKind} {va : Word} {n : Nat} {regsOk : Bool}
    {extra : Xlat → Res Unit} (hextra : ∀ x, Quiet (extra x)) : Quiet (s.locate sp k va n regsOk extra) := by
  unfold State.locate
  split
  · split <;> trivial
  · exact Quiet.bind (State.reach_quiet hextra) fun _ => trivial

theorem State.notHeld_quiet {s : State} {write : Bool} {a : Loc} : Quiet (s.notHeld write a) := by
  simp only [State.notHeld]
  split
  · split <;> trivial
  · trivial

theorem State.touch_wf {s : State} {a : Loc} (h : Memory.wf s = true) : Memory.wf (s.touch a) = true := by
  simp only [State.touch]
  split
  · exact State.chargeLine_wf (State.fillHost_wf (State.used_wf h))
  · exact h

theorem State.putLine_wf {s : State} {whole : Bool} {l : LineV} {a : Loc} (h : Memory.wf s = true) :
    Memory.wf (s.putLine whole l a) = true := by
  simp only [State.putLine]
  split
  · exact State.writeLine_wf (State.chargeLine_wf (State.used_wf h))
  · exact State.setMyTeam_wf h

theorem State.inOrder_keeps {s : State} {l : Loc} (h : Memory.wf s = true) :
    Keeps (fun t => Memory.wf t = true) (s.inOrder l) := State.drainTracks_keeps h

theorem State.loadOrder_keeps {s : State} {l : Loc} (h : Memory.wf s = true) :
    Keeps (fun t => Memory.wf t = true) (s.loadOrder l) := State.drainTracks_keeps h

theorem State.free_quiet {s : State} {write sp : Bool} {va : Word} {n : Nat} {kb : Option Nat} :
    Quiet (s.free write sp va n kb) := by
  simp only [State.free]
  split <;> trivial

theorem State.order_keeps {s : State} {a : Space} (h : Memory.wf s = true) :
    Keeps (fun t => Memory.wf t = true) (s.order a) := by
  simp only [State.order]
  split
  · exact h
  · exact h
  · exact h
  · exact State.drainCore_keeps h
  · exact h

theorem State.requests_quiet {s : State} {n : Nat} : Quiet (s.requests n) := by
  simp only [State.requests]
  split <;> trivial

theorem Gather.add_wf {g : Gather} {l : Loc} (h : Memory.wf g.s = true) : Memory.wf (g.add l).s = true := by
  simp only [Gather.add]
  split
  · exact h
  · split
    · exact h
    · split
      · exact h
      · split
        · next hload => exact (Keeps.of_ok hload (State.loadOrder_keeps h) :)
        · exact h

theorem Gather.fold_wf {ls : List Loc} {g : Gather} (h : Memory.wf g.s = true) :
    Memory.wf (ls.foldl Gather.add g).s = true := by
  induction ls generalizing g with
  | nil => exact h
  | cons l ls ih => exact ih (Gather.add_wf h)

theorem State.gather_keeps {s : State} {ls : List Loc} {pre : Tab LineV} (h : Memory.wf s = true) :
    Keeps (fun p => Memory.wf p.1 = true) (s.gather ls pre) := by
  have hg := Gather.fold_wf (ls := ls) (g := { s, lines := pre }) h
  simp only [State.gather]
  split
  · split
    · trivial
    · exact hg
  · exact Keeps.bind (State.loadOrder_keeps hg) fun _ ht => ht

theorem lineBytes_quiet {l : LineV} {va : Word} {off n : Nat} : Quiet (lineBytes l va off n) :=
  Quiet.bind Quiet.ensure fun _ => trivial

theorem State.markRead_wf {s : State} {b : Buffered} (h : Memory.wf s = true) : Memory.wf (s.markRead b) = true := h

theorem State.loadAt_keeps {s : State} {sp : Space} {va : Word} {n : Nat} {l : Loc} (h : Memory.wf s = true) :
    Keeps (fun p => Memory.wf p.1 = true) (s.loadAt sp va n l) := by
  refine Quiet.bind State.free_quiet fun _ => Quiet.bind State.requests_quiet fun _ =>
    Keeps.bind (State.order_keeps h) fun _ hs0 => ?_
  split
  · split
    · exact State.touch_wf (State.markRead_wf hs0)
    · exact Quiet.bind State.notHeld_quiet fun _ => Keeps.bind (State.loadOrder_keeps hs0) fun _ hs1 =>
        Quiet.bind lineBytes_quiet fun _ => State.touch_wf hs1
  · exact Quiet.bind State.notHeld_quiet fun _ => Keeps.bind (State.loadOrder_keeps hs0) fun _ hs1 =>
      Quiet.bind lineBytes_quiet fun _ => State.touch_wf hs1

theorem State.enqueue_wf {s : State} {x : Xlat} {va : Word} {data : List Byte} {tag : Option (BitVec 16)} {part : Bool}
    (h : Memory.wf s = true) : Memory.wf (s.enqueue x va data tag part) = true := State.notify_wf (State.used_wf h)

theorem State.storeHome_keeps {s : State} {n v : Nat} {l : Loc} (h : Memory.wf s = true) :
    Keeps (fun t => Memory.wf t = true) (s.storeHome n v l) :=
  Quiet.bind State.notHeld_quiet fun _ => Keeps.bind (State.inOrder_keeps h) fun _ hs1 => State.putLine_wf hs1

theorem State.fenced_keeps {s : State} (h : Memory.wf s = true) : Keeps (fun t => Memory.wf t = true) s.fenced :=
  State.drainTracks_keeps h

theorem State.storeAt_keeps {s : State} {sp : Space} {va : Word} {n v : Nat} {l : Loc} {now : Bool}
    (h : Memory.wf s = true) : Keeps (fun t => Memory.wf t = true) (s.storeAt sp va n v l now) := by
  refine Quiet.bind State.free_quiet fun _ => Quiet.bind State.requests_quiet fun _ =>
    Keeps.bind (State.order_keeps h) fun _ hs1 => ?_
  split
  · split
    · exact Keeps.bind (State.fenced_keeps hs1) fun _ hs2 => State.enqueue_wf hs2
    · exact State.storeHome_keeps hs1
  · exact State.storeHome_keeps hs1

theorem State.atomicAt_wf {s : State} {cas : Bool} {n : Nat} {f : Nat → Option Nat × Flags} {l : Loc}
    (h : Memory.wf s = true) : Memory.wf (s.atomicAt cas n f l).1 = true := by
  unfold State.atomicAt
  extract_lets clean x old r
  split
  · exact h
  · have hr : Memory.wf r.1 = true := by
      unfold r
      split
      · exact State.putLine_wf h
      · exact State.touch_wf h
    split
    · change Memory.wf (if _ then r.1 else s) = true
      split
      · exact hr
      · exact h
    · exact hr

theorem State.scalarAtomic_keeps {s : State} {sp : Space} {cas : Bool} {op : Aop} {va : Word} {n : Nat}
    {f : Nat → Option Nat × Flags} (h : Memory.wf s = true) :
    Keeps (fun p => Memory.wf p.1 = true) (s.scalarAtomic sp cas op va n f) := by
  refine Quiet.bind Quiet.ensure fun _ => Quiet.bind (State.locate_quiet fun _ => Quiet.ensure) fun _ =>
    Quiet.bind State.notHeld_quiet fun _ => Quiet.bind State.free_quiet fun _ => Quiet.bind State.requests_quiet fun _ =>
    Keeps.bind (State.order_keeps h) fun _ hs0 => Keeps.bind (State.inOrder_keeps hs0) fun _ hs1 =>
    Keeps.bind (State.loadOrder_keeps hs1) fun _ hs2 => ?_
  split
  · next e => exact State.raise_wf (Memory.wf_of_fst e (State.atomicAt_wf hs2))
  · next e =>
    show Stop.Keeps _
    split
    · exact Memory.wf_of_fst e (State.atomicAt_wf hs2)
    · trivial

theorem State.dropStage1_wf {s : State} {vi : Nat} (h : Memory.wf s = true) : Memory.wf (s.dropStage1 vi) = true := h

/-- Most registers are the strand's own; the rest live in a VI, or have a page, an allocation or a queue of events. -/
theorem State.crWrite_keeps {s : State} {n : Nat} {w : Word} (h : Memory.wf s = true) :
    Keeps (fun t => Memory.wf t = true) (s.crWrite n w) := by
  simp only [State.crWrite]
  split
  case h_1 | h_18 => exact State.reallocMine_wf (State.setMe_wf h)
  case h_2 => exact Quiet.bind Quiet.ensure fun _ => State.reallocMine_wf (State.setMe_wf h)
  case h_6 => exact Quiet.bind palselCheck_quiet fun _ => State.setMe_wf h
  case h_27 => exact State.dropStage1_wf (State.setVi_wf h)
  case h_31 => exact State.flushEvents_wf (State.setVi_wf h)
  all_goals exact h

theorem ixMove_keeps {c : Ctx} {d : BitVec 3} {v : Int} {wrapAdd : Bool} (h : Memory.wf c.s = true) :
    Keeps (fun r => Memory.wf r.s = true) (ixMove c d v wrapAdd) :=
  Quiet.bind Quiet.ensure fun _ => done_keeps (State.setMe_wf h)

theorem fmtArg_quiet {c : Ctx} {a : FmtSel} : Quiet (fmtArg c a) := by
  simp only [fmtArg]
  split
  · trivial
  · exact Quiet.bind Quiet.ensure fun _ => trivial

theorem State.withdraw_wf {s : State} {k : Nat} (h : Memory.wf s = true) : Memory.wf (s.withdraw k) = true := by
  simp only [State.withdraw]
  split <;> exact h

theorem State.regrant_wf {s : State} {n : Nat} {q2 : Word} (h : Memory.wf s = true) : Memory.wf (s.regrant n q2) = true := by
  refine foldl_wf h fun _ _ ht => ?_
  dsimp only
  split
  · split
    · exact ht
    · exact State.withdraw_wf ht
  · split
    · exact State.withdraw_wf ht
    · exact ht

theorem State.writeQuota_wf {s : State} {n off : Nat} {w : Word} (h : Memory.wf s = true) :
    Memory.wf (s.writeQuota n off w) = true := by
  simp only [State.writeQuota]
  split
  · exact State.setVi_wf h
  · exact State.setVi_wf h
  · refine State.setVi_wf ?_
    split
    · exact h
    · exact State.regrant_wf h
  · exact State.setVi_wf h
  · exact State.setVi_wf h
  · split
    · exact State.viReset_wf (State.setVi_wf h)
    · exact State.setVi_wf h
  · exact h

theorem State.snapshot_wf {s : State} {n : Nat} (h : Memory.wf s = true) : Memory.wf (s.snapshot n) = true := State.setVi_wf h

theorem State.clearCounters_wf {s : State} {n : Nat} (h : Memory.wf s = true) : Memory.wf (s.clearCounters n) = true := by
  simp only [State.clearCounters]
  split
  · exact h
  · exact State.setVi_wf h

theorem State.writeEvqhead_wf {s : State} {n : Nat} {w : Word} (h : Memory.wf s = true) :
    Memory.wf (s.writeEvqhead n w) = true := State.flushEvents_wf (State.setVi_wf h)

theorem State.writeEvqstat_wf {s : State} {n : Nat} {w : Word} (h : Memory.wf s = true) :
    Memory.wf (s.writeEvqstat n w) = true := State.setVi_wf h

theorem State.setMsixMask_wf {s : State} {n : Nat} {m : BitVec 64} (h : Memory.wf s = true) :
    Memory.wf (s.setMsixMask n m) = true := h

theorem State.writeMsix_wf {s : State} {n k : Nat} {w : Word} (h : Memory.wf s = true) :
    Memory.wf (s.writeMsix n k w) = true := by
  simp only [State.writeMsix]
  split
  · exact h
  · exact State.setMsixMask_wf h

theorem State.postDie_wf {s : State} {d ty : Nat} (h : Memory.wf s = true) : Memory.wf (s.postDie d ty) = true :=
  foldl_wf h fun _ _ ht => State.postEvent_wf ht

theorem State.dctlAdmit_wf {s : State} {d : Nat} {a : Bool} (h : Memory.wf s = true) :
    Memory.wf (s.dctlAdmit d a) = true := by
  simp only [State.dctlAdmit]
  split
  · exact State.postDie_wf (State.setDie_wf h)
  · split
    · exact State.postDie_wf (State.setDie_wf h)
    · exact State.setDie_wf h

theorem State.expireDie_wf {s : State} {d : Nat} (h : Memory.wf s = true) : Memory.wf (s.expireDie d) = true := by
  simp only [State.expireDie]
  split <;> exact h

theorem State.zeroDie_wf {s : State} {d : Nat} (h : Memory.wf s = true) : Memory.wf (s.zeroDie d) = true := h

theorem State.dctlCommand_wf {s : State} {d : Nat} {c : DieCmd} (h : Memory.wf s = true) :
    Memory.wf (s.dctlCommand d c) = true := by
  simp only [State.dctlCommand]
  split
  · exact h
  · split
    · exact State.setMevt_wf (State.setDie_wf h)
    · split
      · exact State.zeroDie_wf (State.expireDie_wf (State.setDie_wf h))
      · exact State.setDie_wf h
      · exact State.setDie_wf h
      · exact State.setDie_wf h

theorem State.writeDctl_wf {s : State} {d : Nat} {w : Word} (h : Memory.wf s = true) :
    Memory.wf (s.writeDctl d w) = true := by
  simp only [State.writeDctl]
  split
  · exact State.dctlAdmit_wf h
  · split
    · exact State.dctlAdmit_wf h
    · exact State.dctlCommand_wf (State.dctlAdmit_wf h)
    · exact State.setMevt_wf (State.setDie_wf (State.dctlAdmit_wf h))

theorem State.writeLhcfg_wf {s : State} {p : Nat} {w : Word} (h : Memory.wf s = true) :
    Memory.wf (s.writeLhcfg p w) = true := by
  simp only [State.writeLhcfg]
  split <;> exact h

theorem State.writeLhbase_wf {s : State} {p : Nat} {w : Word} (h : Memory.wf s = true) :
    Memory.wf (s.writeLhbase p w) = true := by
  simp only [State.writeLhbase]
  split <;> exact h

theorem State.writeIsland_wf {s : State} {i : Nat} {w : Word} (h : Memory.wf s = true) :
    Memory.wf (s.writeIsland i w) = true := by
  simp only [State.writeIsland]
  split
  · split <;> exact h
  · exact h

theorem State.regWrite_wf {s : State} {r : Reg} {w : Word} (h : Memory.wf s = true) : Memory.wf (s.regWrite r w) = true := by
  simp only [State.regWrite]
  split
  · exact State.writeEvqhead_wf h
  · exact State.writeEvqstat_wf h
  · exact State.writeMsix_wf h
  · exact State.writeQuota_wf h
  · split
    · exact State.snapshot_wf h
    · split
      · exact State.clearCounters_wf h
      · exact h
  · exact State.writeLhcfg_wf h
  · exact State.writeLhbase_wf h
  · exact State.writeDctl_wf h
  · exact h
  · exact State.writeIsland_wf h
  · exact h
  · exact h

theorem State.regStore_wf {s : State} {off n v : Nat} (h : Memory.wf s = true) : Memory.wf (s.regStore off n v) = true := by
  simp only [State.regStore]
  split <;> exact State.regWrite_wf h

theorem State.fence_wf {s : State} {kind : BitVec 3} (h : Memory.wf s = true) : Memory.wf (s.fence kind) = true := h

theorem State.rangePages_quiet {s : State} {w : Who} {va : Word} {len fuel off : Nat} :
    Quiet (s.rangePages w va len fuel off) := by
  induction fuel generalizing off with
  | zero => trivial
  | succ fuel ih =>
    simp only [State.rangePages]
    split
    · trivial
    · split
      · split
        · trivial
        · next herr => exact Keeps.of_error herr ih
      · split
        · exact ih
        · split
          · exact ih
          · trivial
      · next herr => exact Keeps.of_error herr State.xlat_quiet

theorem State.flushPage_wf {drop : Bool} {s : State} {p : Xlat × Nat} (h : Memory.wf s = true) :
    Memory.wf (State.flushPage drop s p) = true := by
  simp only [State.flushPage]
  split <;> exact foldl_wf (State.used_wf h) fun _ _ ht => State.writeBackHost_wf ht

theorem flushRange_keeps {c : Ctx} {imm : BitVec 16} {drop : Bool} (h : Memory.wf c.s = true) :
    Keeps (fun r => Memory.wf r.s = true) (flushRange c imm drop) := by
  simp only [flushRange]
  split
  · trivial
  · exact Quiet.bind State.rangePages_quiet fun _ => Quiet.bind State.free_quiet fun _ =>
      Keeps.bind (State.fenced_keeps h) fun _ hs1 => done_keeps (foldl_wf hs1 fun _ _ hs => State.flushPage_wf hs)

end Sys2Proof.Machine
end

section
/-! PROOFS. Vector loads, stores and atomics keep memory canonical. -/

namespace Sys2Proof.Machine

theorem Ctx.slotH_quiet {c : Ctx} {h : BitVec 4} : Quiet (c.slotH h) := by
  simp only [Ctx.slotH]
  split <;> trivial

theorem Ctx.narrowSlot_quiet {c : Ctx} {m : Manifest} {t : FmtCode} : Quiet (c.narrowSlot m t) := Quiet.ensure

theorem State.tenPage_quiet {s : State} {w : Who} {k : AccKind} {m : Manifest} {base : Xlat} {e : Int} :
    Quiet (s.tenPage w k m base e) := by
  unfold State.tenPage
  extract_lets g va tensorPage
  have hpage : ∀ x, Quiet (tensorPage x) := fun _ => by
    unfold tensorPage
    split
    · exact fail_keeps
    · split
      · exact fail_keeps
      · trivial
  split
  · exact Quiet.bind trivial hpage
  · exact Quiet.bind State.xlat_quiet hpage

theorem State.manPlace_quiet {s : State} {w : Who} {k : AccKind} {m : Manifest} {base : Option Xlat} {t : FmtCode}
    {x y z2 z3 : Nat} : Quiet (s.manPlace w k m base t x y z2 z3) := by
  simp only [State.manPlace]
  split
  · exact Quiet.bind State.tenPage_quiet fun _ => trivial
  · trivial

theorem State.plainRead_keeps {s : State} {va : Word} {n : Nat} (h : Memory.wf s = true) :
    Keeps (fun p => Memory.wf p.1 = true) (s.plainRead va n) :=
  Quiet.bind (State.locate_quiet fun _ => trivial) fun _ => Keeps.bind (State.loadAt_keeps h) fun _ ha => ha

theorem State.performEarlier_keeps {s : State} (h : Memory.wf s = true) :
    Keeps (fun t => Memory.wf t = true) s.performEarlier := State.drainTracks_keeps h

theorem pageConflicts_quiet {f t : FmtCode} {ls : List LineW} : Quiet (pageConflicts f t ls) := by
  refine Quiet.bind (Quiet.forEach ?_) fun _ => ?_
  · intro x
    split
    · exact Quiet.ensure
    · trivial
  refine Quiet.forEach fun _ => ?_
  split
  · exact Quiet.ensure
  · trivial

theorem State.lineTags_quiet {s : State} {t : FmtCode} {ls : List LineW} : Quiet (s.lineTags t ls) :=
  Quiet.forEach fun _ => Quiet.ensure

theorem State.storePoison_quiet {s : State} {ls : List LineW} : Quiet (s.storePoison ls) := by
  refine Quiet.forEach fun _ => ?_
  split
  · split
    · exact Quiet.ensure
    · exact Quiet.ensure
    · trivial
  · trivial

theorem State.readyLines_keeps {s : State} {sp : Space} {t : FmtCode} {ls : List LineW} (h : Memory.wf s = true) :
    Keeps (fun t => Memory.wf t = true) (s.readyLines sp t ls) := by
  unfold State.readyLines
  refine Quiet.bind (Quiet.forEach fun _ => State.free_quiet) fun _ => ?_
  extract_lets ordered
  have hordered : ∀ u, Keeps (fun t => Memory.wf t = true) (ordered u) := fun _ => by
    refine Keeps.bind (State.order_keeps h) fun _ hs1 => Quiet.bind (Quiet.forEach fun l => ?_) fun _ =>
      Keeps.bind (Keeps.foldlM hs1 fun _ _ hu => State.inOrder_keeps hu) fun _ hs2 => State.fenced_keeps hs2
    split
    · split <;> trivial
    · exact State.notHeld_quiet
  split
  · exact Quiet.bind State.requests_quiet hordered
  · exact hordered ()

theorem State.storeLines_keeps {s : State} {sp : Space} {t : FmtCode} {ls : List LineW} (h : Memory.wf s = true) :
    Keeps (fun t => Memory.wf t = true) (s.storeLines sp t ls) :=
  Keeps.bind (State.readyLines_keeps h) fun _ hs1 => Quiet.bind State.lineTags_quiet fun _ =>
    Quiet.bind State.storePoison_quiet fun _ => hs1

theorem State.writeOne_wf {s : State} {sp : Space} {sf : StFmt} {f : FmtCode} {n : Nat} {l : LineW}
    (h : Memory.wf s = true) : Memory.wf (s.writeOne sp sf f n l).1 = true := by
  simp only [State.writeOne]
  split
  · split
    · exact State.enqueue_wf h
    · exact State.putLine_wf h
  · exact State.putLine_wf h

theorem State.writeLines_wf {s : State} {sp : Space} {sf : StFmt} {f : FmtCode} {ls : List LineW}
    (h : Memory.wf s = true) : Memory.wf (s.writeLines sp sf f ls).1 = true := foldl_fst_wf h fun _ _ hx => State.writeOne_wf hx

theorem State.place_quiet {s : State} {w : Who} {k : AccKind} {fm : Form} {base : Option Xlat} {t : FmtCode}
    {row j : Nat} : Quiet (s.place w k fm base t row j) := by
  simp only [State.place]
  split
  · trivial
  · trivial
  · trivial
  · exact State.manPlace_quiet

theorem misaligned_quiet {fm : Form} {t : FmtCode} {js : List Nat} : Quiet (misaligned fm t js) := by
  refine Quiet.bind Quiet.ensure fun _ => ?_
  split
  · split
    · trivial
    · exact Quiet.forEach fun _ => Quiet.ensure
  · trivial

theorem coordOk_quiet {d c n ext : Nat} : Quiet (coordOk d c n ext) := Quiet.ensure

theorem boundCheck_quiet {fm : Form} {f : Option FmtCode} {vl : Nat} : Quiet (boundCheck fm f vl) := by
  simp only [boundCheck]
  split
  · exact Quiet.bind coordOk_quiet fun _ => Quiet.bind coordOk_quiet fun _ => Quiet.bind coordOk_quiet fun _ =>
      Quiet.bind coordOk_quiet fun _ => Quiet.ensure
  · trivial

theorem offsetCheck_quiet {c : Ctx} {fm : Form} {t : FmtCode} {js : List Nat} : Quiet (offsetCheck c fm t js) := by
  simp only [offsetCheck]
  split
  · split
    · exact forbid3_keeps
    · trivial
  · split
    · trivial
    · exact Quiet.bind laneMismatch_quiet fun _ => Quiet.bind Quiet.ensure fun _ => Quiet.forEach fun _ => Quiet.ensure
  · trivial

theorem preChecks_quiet {c : Ctx} {fm : Form} {t : FmtCode} {js : List Nat} : Quiet (preChecks c fm t js) :=
  Quiet.bind misaligned_quiet fun _ => Quiet.bind boundCheck_quiet fun _ => offsetCheck_quiet

theorem State.footRow_quiet {s : State} {sp : Bool} {k : AccKind} {fm : Form} {base : Option Xlat} {t : FmtCode} {row : Nat}
    {js : List Nat} {ft : Foot} : Quiet (s.footRow sp k fm base t row js ft) := by
  induction js generalizing ft with
  | nil => trivial
  | cons j js ih =>
    rw [State.footRow]
    split_ifs
    · trivial
    · split
      · trivial
      · next herr => exact Keeps.of_error herr State.place_quiet
      · dsimp only
        split
        · exact ih
        · split
          · trivial
          · next herr => exact Keeps.of_error herr (State.locate_quiet fun _ => trivial)
          · exact ih

theorem State.foot_quiet {s : State} {sp : Bool} {k : AccKind} {fm : Form} {base : Option Xlat} {t : FmtCode}
    {js : List Nat} : Quiet (s.foot sp k fm base t js) :=
  Quiet.bind (Quiet.foldlM fun _ _ => State.footRow_quiet) fun _ => trivial

theorem Ctx.arrival_quiet {c : Ctx} {k : Nat} : Quiet (c.arrival k) := Quiet.bind Quiet.ensure fun _ => trivial

theorem State.trimVl_wf {s : State} {n : Nat} (h : Memory.wf s = true) : Memory.wf (s.trimVl n) = true :=
  State.reallocMine_wf (State.setMe_wf h)

theorem State.loadRef_quiet {s : State} {isSp : Bool} {fm : Form} : Quiet (s.loadRef isSp fm) := by
  simp only [State.loadRef]
  split
  · exact Quiet.map (State.locate_quiet fun _ => trivial)
  · split
    · exact Quiet.map (State.locate_quiet fun _ => trivial)
    · split
      · exact Quiet.map State.xlat_quiet
      · trivial

theorem State.lineReady_quiet {s : State} {isSp : Bool} {kb : Option Nat} {arr : Option (Nat × Bool)} {va : Nat} :
    Quiet (s.lineReady isSp kb arr va) := by
  simp only [State.lineReady]
  split
  · split
    · trivial
    · exact State.free_quiet
  · exact State.free_quiet

/-- What a load finds for its format keeps memory canonical, and so does the stop that it meets there. -/
def LoadRef.Keeps (r : LoadRef) : Prop := Memory.wf r.s = true ∧ LaterKeeps r.err

theorem State.loadFmt_keeps {s : State} {sp : Space} {kb : Option Nat} {arr : Option (Nat × Bool)} {fm : Form}
    (h : Memory.wf s = true) : Keeps LoadRef.Keeps (s.loadFmt sp kb arr fm) := by
  simp only [State.loadFmt]
  split
  · next e herr =>
    have he : e.Keeps := Keeps.of_error herr State.loadRef_quiet
    exact ⟨h, fun e' he' => by cases he'; exact he⟩
  · exact ⟨h, fun _ he => nomatch he⟩
  · split
    · exact Quiet.bind State.lineReady_quiet fun _ => Keeps.bind (State.order_keeps h) fun _ hs1 =>
        Keeps.bind (State.gather_keeps hs1) fun _ hs2 => ⟨hs2, fun _ he => nomatch he⟩
    · exact ⟨h, fun _ he => nomatch he⟩

theorem trimTo_keeps {c : Ctx} {s : State} {trim : Bool} {arr : Option (Nat × Bool)} {fm : Form} {f : Option FmtCode}
    (hs : Memory.wf s = true) :
    Keeps (fun r => Memory.wf r.s = true) (trimTo c s trim arr fm f) := by
  simp only [trimTo]
  split
  · split
    · split
      · trivial
      · exact State.trimVl_wf hs
    · exact hs
  · exact hs

theorem fmtChecks_quiet {c : Ctx} {fm : Form} {f : Option FmtCode} {js : List Nat} : Quiet (fmtChecks c fm f js) := by
  simp only [fmtChecks]
  split
  · exact preChecks_quiet
  · exact Quiet.bind boundCheck_quiet fun _ => offsetCheck_quiet

theorem Form.firstFails_quiet {fm : Form} {js : List Nat} {fail : Option (Nat × Trap)} : Quiet (fm.firstFails js fail) := by
  simp only [Form.firstFails]
  split
  · split <;> trivial
  · trivial

theorem Read.mismatch_quiet {r : Read} {k : Option Nat} : Quiet (r.mismatch k) := Quiet.forEach fun _ => Quiet.ensure

theorem Read.checks_quiet {r : Read} {c : Ctx} {restarts : Bool} {k : Option Nat} : Quiet (r.checks c restarts k) := by
  refine Quiet.bind Read.mismatch_quiet fun _ => Quiet.bind Quiet.ensure fun _ => ?_
  split
  · exact restart_quiet
  · exact Quiet.bind laneConflict_quiet fun _ => trivial

/-- The operands' state and the planned state of a load have canonical memory. -/
def LoadPlan.Wf (p : LoadPlan) : Prop := Memory.wf p.c1.s = true ∧ Memory.wf p.s1 = true

theorem loadPlan_keeps {c : Ctx} {sp : Space} {kb : Option Nat} {trim first restarts : Bool} {fm : Form}
    (h : Memory.wf c.s = true) : Keeps LoadPlan.Wf (loadPlan c sp kb trim first restarts fm) := by
  simp only [loadPlan]
  refine Quiet.bind ?arrival fun arr => Keeps.bind (State.loadFmt_keeps h) fun ref href => ?_
  case arrival =>
    split
    · exact Quiet.bind Ctx.arrival_quiet fun _ => trivial
    · trivial
  obtain ⟨href, herr⟩ := href
  split
  on_goal 1 => refine Quiet.bind Ctx.narrowSlot_quiet fun _ => ?_
  all_goals
    refine Keeps.bind (trimTo_keeps href) fun c1 hc1 => Quiet.bind fmtChecks_quiet fun _ => ?_
    split
    · next e he => exact herr e he
    · refine Quiet.bind (ofLines_keeps State.foot_quiet) fun ft => Quiet.bind Form.firstFails_quiet fun _ =>
        Quiet.bind (Quiet.forEach fun _ => State.lineReady_quiet) fun _ => ?_
      split
      on_goal 1 => refine Quiet.bind State.requests_quiet fun _ => ?_
      all_goals
        refine Keeps.bind (State.order_keeps hc1) fun s1 hs1 => Keeps.bind (State.gather_keeps hs1) fun s2 hs2 =>
          Quiet.bind Read.checks_quiet fun _ => ⟨hc1, ?_⟩
        split
        · split
          · exact hs2
          · exact State.used_wf hs2
        · exact hs2

theorem LoadPlan.touched_wf {p : LoadPlan} (h : Memory.wf p.s1 = true) : Memory.wf p.touched = true :=
  foldl_wf h fun _ _ hs => State.touch_wf hs

theorem LoadPlan.commitTo_wf {p : LoadPlan} {c : Ctx} {m : RMode} {g : Nat} (hp : p.Wf) :
    Memory.wf (p.commitTo c m g) = true :=
  State.setMe_wf (Ctx.putV_wf (foldl_wf hp.2 fun _ _ hs => State.touch_wf hs))

theorem loadFinish_keeps {c : Ctx} {first restarts : Bool} {rm : Rm} {fm : Form} {p : LoadPlan} (h : Memory.wf c.s = true)
    (hp : p.Wf) : Keeps (fun d => Memory.wf d.s = true) (loadFinish c first restarts rm fm p) := by
  have htouched : Memory.wf p.touched = true := LoadPlan.touched_wf hp.2
  unfold loadFinish
  dsimp only
  split
  · split
    · split
      · trivial
      · exact Ctx.putV_wf (State.trimVl_wf (State.spendFor_wf htouched))
    · split
      · trivial
      · split
        · trivial
        · split
          · exact State.setMe_wf h
          · exact LoadPlan.commitTo_wf hp
  · split
    · exact foldl_wf htouched fun _ _ hs => putVAt_wf hs
    · exact Ctx.putV_wf htouched

theorem LoadSpec.body_keeps {l : LoadSpec} {c : Ctx} (hform : ∀ c, Quiet (l.form c)) (h : Memory.wf c.s = true) :
    Keeps (fun d => Memory.wf d.s = true) (l.body c) :=
  Quiet.bind (hform c) fun _ => Keeps.bind (loadPlan_keeps h) fun _ hp => loadFinish_keeps h hp

theorem Ctx.spTen_quiet {c : Ctx} {sp : Space} {m : Manifest} : Quiet (c.spTen sp m) := Quiet.ensure

theorem Ctx.manLoad_quiet {c : Ctx} {sp : Space} {h : BitVec 4} {k : Nat} : Quiet (c.manLoad sp h k) :=
  Quiet.bind Ctx.slotH_quiet fun _ => Quiet.bind Ctx.spTen_quiet fun _ => trivial

theorem loadSpec_form_quiet {i : Instr} {l : LoadSpec} (hl : loadSpec i = some l) (c : Ctx) : Quiet (l.form c) := by
  unfold loadSpec at hl
  split at hl <;> cases hl
  · trivial
  · trivial
  · trivial
  · exact Ctx.manLoad_quiet

theorem State.loadStopped_keeps {s : State} {i : Instr} {n : Nat} (h : Memory.wf s = true) : OptKeeps (s.loadStopped i n) := by
  simp only [State.loadStopped]
  split
  · trivial
  · next l hl =>
    split
    · next t hok =>
      refine (Keeps.of_ok (p := fun t => Memory.wf t = true) hok ?_ :)
      refine Keeps.bind (ready_keeps h fun _ => trivial) fun c hc => Quiet.bind (loadSpec_form_quiet hl c) fun _ =>
        Keeps.bind (loadPlan_keeps hc) fun p hp => ?_
      split
      · trivial
      · split_ifs
        · trivial
        · exact LoadPlan.commitTo_wf hp
    · trivial

theorem State.storeCells_quiet {s : State} {sp : Bool} {fm : Form} {base : Option Xlat} {t : FmtCode} {el : Nat → Nat → StEl}
    {js : List (Nat × Nat)} {ls : Tab Loc} : Quiet (s.storeCells sp fm base t el js ls) := by
  induction js generalizing ls with
  | nil => trivial
  | cons j js ih =>
    refine Quiet.bind State.place_quiet fun _ => Quiet.bind ?_ fun _ => Quiet.bind ih fun _ => trivial
    split
    · trivial
    · exact State.locate_quiet fun _ => trivial

theorem sourceFmts_quiet {vs : List VOp} {r : FmtCode} {reg : Nat} : Quiet (sourceFmts vs r reg) :=
  Quiet.bind laneMismatch_quiet fun _ => Quiet.forEach fun _ => Quiet.ensure

theorem storePlan_keeps {c : Ctx} {sp : Space} {fm : Form} {vs : List VOp} {reg : Nat} (h : Memory.wf c.s = true) :
    Keeps (fun p => Memory.wf p.s1 = true) (storePlan c sp fm vs reg) := by
  unfold storePlan
  extract_lets s isSp v0 r f refLoc page t js s0 afterHeld afterNarrow
  have href : Quiet refLoc := by
    unfold refLoc
    split
    · trivial
    · exact Quiet.map State.xlat_quiet
  clear_value page refLoc
  have hs0 : Memory.wf s0 = true := by
    unfold s0
    split
    · exact State.used_wf h
    · exact h
  have hheld : ∀ u, Keeps (fun p => Memory.wf p.s1 = true) (afterHeld u) := fun u => by
    refine Quiet.bind preChecks_quiet fun _ => Quiet.bind href fun _ =>
      Quiet.bind (ofLines_keeps State.storeCells_quiet) fun cells => ?_
    extract_lets ls afterPolicy afterFormats
    have hpolicy : ∀ u, Keeps (fun p => Memory.wf p.s1 = true) (afterPolicy u) := fun u =>
      Quiet.bind pageConflicts_quiet fun _ => Keeps.bind (State.storeLines_keeps hs0) fun _ hs => hs
    have hformats : ∀ u, Keeps (fun p => Memory.wf p.s1 = true) (afterFormats u) := fun u => by
      refine Quiet.bind sourceFmts_quiet fun _ => Quiet.bind Quiet.ensure fun _ => ?_
      split
      · exact Quiet.bind Quiet.ensure hpolicy
      · exact hpolicy ()
    split
    · exact Quiet.bind forbid3_keeps hformats
    · exact hformats ()
  have hnarrow : ∀ u, Keeps (fun p => Memory.wf p.s1 = true) (afterNarrow u) := fun u => by
    unfold afterNarrow
    split
    · exact hheld ()
    · exact hheld ()
    · exact href
  split
  · exact Quiet.bind Ctx.narrowSlot_quiet hnarrow
  · exact hnarrow ()

theorem StorePlan.write_wf {p : StorePlan} {m : RMode} (h : Memory.wf p.s1 = true) : Memory.wf (p.write m).1 = true :=
  State.writeLines_wf h

theorem vecStore_keeps {c : Ctx} {sp : Space} {rm : Rm} {fm : Form} {vs : List VOp} {reg : Nat}
    (h : Memory.wf c.s = true) : Keeps (fun r => Memory.wf r.s = true) (vecStore c sp rm fm vs reg) :=
  Keeps.bind (storePlan_keeps h) fun _ hp => State.raise_wf (StorePlan.write_wf hp)

theorem State.amoFoot_quiet {s : State} {sp : Bool} {p : Word} {n : Nat} {o : VOp} {xs : List Nat} :
    Quiet (s.amoFoot sp p n o xs) := by
  induction xs with
  | nil =>
    simp only [State.amoFoot]
    trivial
  | cons y ys ih =>
    simp only [State.amoFoot]
    exact Quiet.bind (State.locate_quiet fun _ => trivial) fun _ => Quiet.bind ih fun _ => trivial

theorem amoPlan_keeps {c : Ctx} {op : Aop} {noret : Bool} {sp : Space} (h : Memory.wf c.s = true) :
    Keeps (fun p => Memory.wf p.s1 = true) (amoPlan c op noret sp) := by
  simp only [amoPlan]
  refine Quiet.bind Quiet.ensure fun _ => ?_
  split
  · exact Keeps.bind (p := fun _ => False) forbid3_keeps fun _ h => h.elim
  refine Quiet.bind laneMismatch_quiet fun _ =>
    Quiet.bind capCheck_quiet fun _ => Quiet.bind consumeAs_quiet fun _ => Quiet.bind consumeAs_quiet fun _ =>
    Quiet.bind (ofLines_keeps State.amoFoot_quiet) fun ls => Quiet.bind (Quiet.forEach fun q => ?allowed) fun _ =>
    Quiet.bind laneConflict_quiet fun _ =>
    Quiet.bind (Quiet.forEach fun _ => Quiet.bind State.notHeld_quiet fun _ => State.free_quiet) fun _ => ?_
  case allowed =>
    split
    · exact Quiet.ensure
    · trivial
  split
  on_goal 1 => refine Quiet.bind State.requests_quiet fun _ => ?_
  all_goals
    refine Keeps.bind (State.order_keeps h) fun s1 hs1 => Keeps.bind (Keeps.foldlM hs1 fun _ _ hs => ?_) fun _ hs2 => hs2
    exact Keeps.bind (State.inOrder_keeps hs) fun _ ht => State.loadOrder_keeps ht

theorem AmoPlan.apply_wf {p : AmoPlan} {op : Aop} {e : Int} {vc : VOp} (h : Memory.wf p.s1 = true) :
    Memory.wf (p.apply op e vc).1 = true := foldl_fst_wf h fun _ _ hx => State.atomicAt_wf hx

theorem Ctx.imageLines_quiet {c : Ctx} {k : AccKind} {va : Word} : Quiet (c.imageLines k va) :=
  Quiet.mapM_mem fun _ _ => Quiet.bind (State.locate_quiet fun _ => trivial) fun _ => trivial

theorem noTensor_quiet {va : Word} {ls : List (Word × Loc)} : Quiet (noTensor va ls) := Quiet.forEach fun _ => Quiet.ensure

theorem Ctx.imagePlan_keeps {c : Ctx} {store : Bool} {sc : Scope} {o : Ord} {va : Word} (h : Memory.wf c.s = true) :
    Keeps (fun p => Memory.wf p.2 = true) (c.imagePlan store sc o va) :=
  Quiet.bind Quiet.ensure fun _ => Quiet.bind (ofLines_keeps Ctx.imageLines_quiet) fun _ => Quiet.bind noTensor_quiet fun _ =>
    Quiet.bind (Quiet.forEach fun _ => State.free_quiet) fun _ => Quiet.bind State.requests_quiet fun _ =>
    Keeps.bind (State.order_keeps h) fun _ hs1 => hs1

theorem imageReady_keeps {sp : Space} {ls : List (Word × Loc)} {s : State} (h : Memory.wf s = true) :
    Keeps (fun t => Memory.wf t = true) (imageReady sp ls s) :=
  Quiet.bind (Quiet.forEach fun _ => State.notHeld_quiet) fun _ => Keeps.bind (p := fun t =>
    Memory.wf t = true) (Keeps.foldlM h fun _ _ ht => State.inOrder_keeps ht) fun _ hs1 => State.fenced_keeps hs1

theorem writeUntLines_wf {sp : Space} {ws : List ((Word × Loc) × Nat)} {s : State} (h : Memory.wf s = true) :
    Memory.wf (writeUntLines sp ws s) = true := by
  refine foldl_wf h fun _ _ ht => ?_
  split
  · split
    · exact State.enqueue_wf ht
    · exact State.putLine_wf ht
  · exact State.putLine_wf ht

theorem writeImage_wf {sp : Space} {r : VReg} {ls : List (Word × Loc)} {s : State} (h : Memory.wf s = true) :
    Memory.wf (writeImage sp r ls s) = true := writeUntLines_wf h

theorem readLines_keeps {s : State} {ls : List (Word × Loc)} (h : Memory.wf s = true) :
    Keeps (fun p => Memory.wf p.1 = true) (readLines s ls) :=
  Keeps.bind (State.gather_keeps h) fun _ ha => Quiet.bind (Quiet.foldlM fun _ _ => Quiet.bind lineBytes_quiet fun _ =>
    trivial) fun _ => ha

end Sys2Proof.Machine
end

section
/-! PROOFS. Tiles keep memory canonical. -/

namespace Sys2Proof.Machine

theorem raiseLater_quiet {o : Option Stop} (h : LaterKeeps o) : Quiet (raiseLater o) := by
  cases o with
  | none => trivial
  | some e => exact h e rfl

theorem State.tileScope_quiet {s : State} {w : Who} {k : AccKind} {sc : Scope} {vas : List Word} :
    Quiet (s.tileScope w k sc vas) := by
  unfold State.tileScope
  extract_lets at' afterHost
  have hhost : ∀ u, Quiet (afterHost u) := fun u => by
    unfold afterHost
    split
    · split <;> trivial
    · trivial
  split
  · exact Quiet.bind fail_keeps hhost
  · exact hhost ()

/-- What a tile finds at BASE keeps memory canonical, and so does the stop that it meets there. -/
def TileRef.Keeps (r : TileRef) : Prop := Memory.wf r.s = true ∧ LaterKeeps r.err

theorem Ctx.tileRef_keeps {c : Ctx} {tf : TileForm} (h : Memory.wf c.s = true) : Keeps TileRef.Keeps (c.tileRef tf) := by
  have hnone : LaterKeeps none := fun _ he => nomatch he
  have hsome : ∀ {e : Stop}, e.Keeps → LaterKeeps (some e) := fun he _ h => by cases h; exact he
  simp only [Ctx.tileRef]
  split
  · split
    · next herr => exact ⟨h, hsome (Keeps.of_error herr (State.locate_quiet fun _ => trivial))⟩
    · exact Quiet.bind State.free_quiet fun _ => Keeps.bind (State.order_keeps h) fun _ hs1 =>
        Keeps.bind (State.gather_keeps hs1) fun _ hs2 => ⟨hs2, hnone⟩
  · split
    · split
      · exact ⟨h, hnone⟩
      · next herr _ => exact ⟨h, hsome (Keeps.of_error herr State.xlat_quiet)⟩
      · next herr _ => exact ⟨h, hsome (Keeps.of_error herr State.xlat_quiet)⟩
    · exact ⟨h, hnone⟩

theorem firstError_quiet {es : List (Nat × Stop)} (h : ∀ p ∈ es, p.2.Keeps) : Quiet (firstError es) := by
  unfold firstError
  split
  · next e hfirst =>
    refine List.foldlRecOn (motive := fun a : Option (Nat × Stop) => ∀ p, a = some p → p.2.Keeps) es _
      (fun _ hp => by cases hp) (fun a ha e he p hp => ?_) e hfirst
    split at hp
    · cases hp; exact h e he
    · split_ifs at hp
      · cases hp; exact h e he
      · exact ha p hp
  · trivial

theorem errOf_keeps {α : Type} {x : Res α} (hx : Quiet x) : LaterKeeps (errOf x) := fun e he => by
  cases x with
  | ok a => cases he
  | error e' => cases he; exact hx

theorem State.tileLines_keeps {s : State} {tf : TileForm} {page : Option Xlat} {err : Option Stop} {t : FmtCode} {width : Nat}
    (herr : LaterKeeps err) : Keeps (fun p => LaterKeeps p.2) (s.tileLines tf page err t width) := by
  unfold State.tileLines
  extract_lets w k cells num ls found placeErrs lineErrs afterScope
  have hplace : ∀ p ∈ placeErrs, p.2.Keeps := fun p hp => by
    obtain ⟨x, hx, hp⟩ := List.mem_filterMap.mp hp
    obtain ⟨e, he, rfl⟩ := Option.map_eq_some_iff.mp hp
    obtain ⟨i, -, hx⟩ := List.mem_flatMap.mp hx
    obtain ⟨j, -, rfl⟩ := List.mem_map.mp hx
    exact errOf_keeps State.manPlace_quiet e he
  have hfound : ∀ p ∈ found, Quiet p.2 := fun p hp => by
    obtain ⟨l, -, rfl⟩ := List.mem_map.mp hp
    dsimp only
    split_ifs
    · exact State.locate_quiet fun _ => trivial
    · exact Quiet.map (State.reachAny_quiet fun _ => trivial)
    · exact State.locate_quiet fun _ => trivial
  have hlines : ∀ p ∈ lineErrs, p.2.Keeps := fun p hp => by
    obtain ⟨x, hx, hp⟩ := List.mem_filterMap.mp hp
    obtain ⟨e, he, rfl⟩ := Option.map_eq_some_iff.mp hp
    exact errOf_keeps (hfound x.2 (List.of_mem_zip hx).2) e he
  have hscope : ∀ u, Keeps (fun p => LaterKeeps p.2) (afterScope u) := fun u => by
    refine Quiet.bind (raiseLater_quiet herr) fun _ => Quiet.bind (firstError_quiet fun p hp => ?_) fun _ =>
      Quiet.bind (Quiet.mapM_mem hfound) fun _ => fun e he => ?_
    · obtain hp | hp := List.mem_append.mp hp
      · exact hplace p (List.mem_of_mem_filter hp)
      · exact hlines p hp
    · obtain ⟨p, hp, rfl⟩ := Option.map_eq_some_iff.mp he
      exact hplace p (List.mem_of_find?_eq_some hp)
  refine Quiet.bind Quiet.ensure fun _ => ?_
  split
  · exact Quiet.bind State.tileScope_quiet hscope
  · exact hscope ()

/-- The planned state of a tile has canonical memory, and its TAG_MISMATCH keeps it. -/
def TilePlan.Keeps (p : TilePlan) : Prop := Memory.wf p.s = true ∧ LaterKeeps p.mismatch

theorem planTile_keeps {c : Ctx} {tf : TileForm} {wide : Res Unit} (h : Memory.wf c.s = true) (hwide : Quiet wide) :
    Keeps TilePlan.Keeps (planTile c tf wide) := by
  unfold planTile
  extract_lets m
  refine Keeps.bind (Ctx.tileRef_keeps h) fun ref href => ?_
  obtain ⟨href, herr⟩ := href
  extract_lets g t s afterAlign afterFormat
  have hs : Memory.wf s = true := by
    unfold s
    split
    · exact State.used_wf href
    · exact href
  have halign : ∀ u, Keeps TilePlan.Keeps (afterAlign u) := fun u =>
    Keeps.bind (State.tileLines_keeps herr) fun _ hmismatch => ⟨hs, hmismatch⟩
  have hformat : ∀ u, Keeps TilePlan.Keeps (afterFormat u) := fun u => by
    refine Quiet.bind hwide fun _ => Quiet.bind coordOk_quiet fun _ => Quiet.bind coordOk_quiet fun _ =>
      Quiet.bind coordOk_quiet fun _ => Quiet.bind coordOk_quiet fun _ => ?_
    split
    · exact Quiet.bind Quiet.ensure halign
    · exact Quiet.bind (raiseLater_quiet herr) halign
  split
  · exact Quiet.bind Ctx.narrowSlot_quiet hformat
  · exact hformat ()

theorem loadTags_quiet {p : TilePlan} {line : Loc → LineV} (hp : LaterKeeps p.mismatch) : Quiet (loadTags p line) := by
  unfold loadTags
  extract_lets afterUnt
  have hrest : ∀ u, Quiet (afterUnt u) := fun _ =>
    Quiet.bind (raiseLater_quiet hp) fun _ => Quiet.forEach fun _ => Quiet.ensure
  split
  · exact Quiet.bind forbid3_keeps hrest
  · exact hrest ()

theorem State.startTile_wf {s : State} {store : Bool} {parts : List TilePart} (h : Memory.wf s = true) :
    Memory.wf (s.startTile store parts) = true := foldl_wf h fun _ _ ht => State.setStrand_wf ht

theorem State.readyTile_keeps {s : State} {store : Bool} {ls : List PlanLine} (h : Memory.wf s = true) :
    Keeps (fun t => Memory.wf t = true) (s.readyTile store ls) :=
  Quiet.bind (Quiet.forEach fun _ => State.free_quiet) fun _ => Quiet.bind State.requests_quiet fun _ =>
    State.drainCore_keeps h

theorem State.tileGather_keeps {s : State} {space : Space} {ls : List PlanLine} (h : Memory.wf s = true) :
    Keeps (fun p => Memory.wf p.1 = true) (s.tileGather space ls) := by
  unfold State.tileGather
  refine Quiet.bind (Quiet.forEach fun _ => State.free_quiet) fun _ => ?_
  extract_lets ordered
  have hordered : ∀ u, Keeps (fun p => Memory.wf p.1 = true) (ordered u) := fun _ =>
    Keeps.bind (State.order_keeps h) fun _ hs1 => State.gather_keeps hs1
  split
  · exact Quiet.bind State.requests_quiet hordered
  · exact hordered ()

theorem storeTags_quiet {cv : Canvas} {p : TilePlan} {ls : List LineW} (hp : LaterKeeps p.mismatch) :
    Quiet (storeTags cv p ls) := by
  unfold storeTags
  extract_lets afterPolicy afterMemUnt afterUnt
  have hmem : ∀ u, Quiet (afterMemUnt u) := fun _ => by
    refine Quiet.bind (raiseLater_quiet hp) fun _ => ?_
    split
    · exact Quiet.bind Quiet.ensure fun _ => pageConflicts_quiet
    · exact pageConflicts_quiet
  have hrest : ∀ u, Quiet (afterUnt u) := fun _ => by
    unfold afterUnt
    split
    · exact Quiet.bind forbid3_keeps hmem
    · exact hmem ()
  split
  · exact Quiet.bind forbid3_keeps hrest
  · exact hrest ()

theorem State.giveUp_wf {s : State} {p : TilePart} {t : Option Trap} (h : Memory.wf s = true) :
    Memory.wf (s.giveUp p t) = true := by
  simp only [State.giveUp]
  split
  · exact h
  · split
    · exact State.deliver_wf (State.setStrand_wf h)
    · exact State.setStrand_wf h

theorem State.dropTile_wf {s : State} {id : Nat} (h : Memory.wf s = true) : Memory.wf (s.dropTile id) = true := h

theorem State.abandon_wf {s : State} {id : Nat} {trap : TilePart → Option Trap} (h : Memory.wf s = true) :
    Memory.wf (s.abandon id trap) = true := foldl_wf (State.dropTile_wf h) fun _ _ ht => State.giveUp_wf ht

theorem State.finishPart_wf {s : State} {p : TilePart} (h : Memory.wf s = true) : Memory.wf (s.finishPart p) = true := by
  simp only [State.finishPart]
  split
  · exact h
  · exact complete_wf (State.raise_wf (State.setMe_wf h))

theorem State.grantTile_keeps {s : State} (h : Memory.wf s = true) : OptKeeps s.grantTile := by
  simp only [State.grantTile]
  split
  · trivial
  · split
    · exact h
    · split
      · exact h
      · trivial

theorem State.reserveLineBind_keeps {s : State} {id ln : Nat} {t : Tile} (h : Memory.wf s = true) :
    OptKeeps (State.reserveLine.bind s id t ln) := by
  simp only [State.reserveLine.bind]
  split
  · trivial
  · split
    · change Memory.wf (if _ then _ else _) = true
      split <;> exact h
    · exact h

theorem State.reserveLine_keeps {s : State} {id : Nat} (h : Memory.wf s = true) : OptKeeps (s.reserveLine id) := by
  unfold State.reserveLine
  split
  · trivial
  · split
    · trivial
    · split <;> split
      · exact State.abandon_wf h
      · exact State.reserveLineBind_keeps h
      · exact h
      · exact State.reserveLineBind_keeps h

theorem State.flipPart_wf {s : State} {hit : List Nat} {p : TilePart} (h : Memory.wf s = true) :
    Memory.wf (s.flipPart hit p).1 = true :=
  foldl_fst_wf h fun _ _ hx => State.chargeTileLine_wf (State.writeLine_wf (foldl_wf hx fun _ _ ht => State.orByte_wf ht))

theorem State.loadPart_wf {s : State} {p : TilePart} (h : Memory.wf s = true) : Memory.wf (s.loadPart p).1 = true := by
  simp only [State.loadPart]
  split
  · exact foldl_wf h fun _ _ ht => State.chargeTileLine_wf (foldl_wf ht fun _ _ hu => State.orByte_wf hu)
  · exact State.setTeam_wf (foldl_wf h fun _ _ ht => State.chargeTileLine_wf (foldl_wf ht fun _ _ hu => State.orByte_wf hu))

theorem State.commitTile_keeps {s : State} {id : Nat} (h : Memory.wf s = true) : OptKeeps (s.commitTile id) := by
  simp only [State.commitTile]
  split
  · trivial
  · split
    · trivial
    · split
      · exact State.abandon_wf h
      · refine foldl_fst_wf h fun _ _ ha => ?_
        simp only
        split
        · exact State.flipPart_wf ha
        · exact State.loadPart_wf ha

theorem State.releaseTile_keeps {s : State} {id : Nat} (h : Memory.wf s = true) : OptKeeps (s.releaseTile id) := by
  simp only [State.releaseTile]
  split
  · trivial
  · split
    · exact foldl_wf (State.dropTile_wf h) fun _ _ hu => State.finishPart_wf hu
    · trivial

theorem State.loseMember_wf {s : State} {car p q : Nat} (h : Memory.wf s = true) : Memory.wf (s.loseMember car p q) = true :=
  foldl_wf (foldl_wf (State.setCar_wf h) fun _ _ ht => State.giveUp_wf ht) fun _ _ ht => State.abandon_wf ht

theorem State.unbind_wf {s : State} {team : Nat} (h : Memory.wf s = true) : Memory.wf (s.unbind team) = true := by
  simp only [State.unbind]
  split
  · exact h
  · exact State.loseMember_wf (State.setTeam_wf h)

theorem State.formJoint_wf {s : State} {car : Nat} (h : Memory.wf s = true) : Memory.wf (s.formJoint car) = true := by
  simp only [State.formJoint]
  split
  · exact h
  · split
    · exact foldl_wf (State.setCar_wf h) fun _ _ ht => State.giveUp_wf ht
    · split
      · exact foldl_wf (State.setCar_wf h) fun _ _ ht => State.giveUp_wf ht
      · exact State.startTile_wf (State.setCar_wf h)

theorem State.extReserve_wf {s : State} {src : Nat} {excl : Bool} {lines : List Nat} (h : Memory.wf s = true) :
    Memory.wf (s.extReserve src excl lines) = true := h

theorem State.extStage_wf {s : State} {id : Nat} {ws : List ExtWrite} (h : Memory.wf s = true) :
    Memory.wf (s.extStage id ws) = true := by
  simp only [State.extStage]
  split
  · exact h
  · split
    · exact h
    · split
      · exact h
      · split
        · exact h
        · split <;> exact h

theorem State.extFlip_wf {s : State} {id : Nat} (h : Memory.wf s = true) : Memory.wf (s.extFlip id) = true := by
  simp only [State.extFlip]
  split
  · exact h
  · split
    · exact h
    · split
      · exact h
      · exact foldl_wf h fun _ _ hu => State.extWrite_wf hu

theorem State.extRelease_wf {s : State} {id : Nat} (h : Memory.wf s = true) : Memory.wf (s.extRelease id) = true := by
  simp only [State.extRelease]
  split
  · split
    · exact State.dropTile_wf h
    · exact h
  · exact h

end Sys2Proof.Machine
end

section
/-! PROOFS. Copy streams keep memory canonical. -/

namespace Sys2Proof.Machine

theorem State.setStream_wf {s : State} {team k : Nat} {x : Stream} (h : Memory.wf s = true) :
    Memory.wf (s.setStream team k x) = true := State.setTeam_wf h

theorem Ctx.streamOf_quiet {c : Ctx} {k : BitVec 4} : Quiet (c.streamOf k) := Quiet.bind Quiet.ensure fun _ => trivial

theorem State.withdrawCopy_wf {s : State} {x : Stream} {k : Nat} (h : Memory.wf s = true) :
    Memory.wf (s.withdrawCopy x k) = true := by
  simp only [State.withdrawCopy]
  split
  · exact State.setStrand_wf h
  · exact h

theorem rowsBound_quiet {m : Manifest} {ys : List Nat} : Quiet (rowsBound m ys) := by
  simp only [rowsBound]
  split
  · exact Quiet.ensure
  · trivial

theorem cpBound_quiet {m : Manifest} {f : FmtCode} {x0 ncol : Nat} {rows : Res Unit} (hr : Quiet rows) :
    Quiet (cpBound m f x0 ncol rows) := by
  refine Quiet.bind Quiet.ensure fun _ => Quiet.bind hr fun _ => ?_
  split
  · exact Quiet.bind Quiet.ensure fun _ => Quiet.ensure
  · trivial

theorem Ctx.engineReady_keeps {c : Ctx} {n : Nat} {s : State} (hs : Memory.wf s = true) :
    Keeps (fun t => Memory.wf t = true) (c.engineReady n s) := by
  simp only [Ctx.engineReady]
  split
  · trivial
  · exact State.drainCore_keeps hs

theorem State.freeRange_quiet {s : State} {e : Interlock} : Quiet (s.freeRange e) := by
  simp only [State.freeRange]
  split <;> trivial

theorem Ctx.startable_quiet {c : Ctx} {k : BitVec 4} : Quiet (c.startable k) := by
  refine Quiet.bind Ctx.streamOf_quiet fun _ => Quiet.bind Quiet.ensure fun _ => ?_
  split <;> trivial

theorem Ctx.cpDest_quiet {c : Ctx} : Quiet c.cpDest := Quiet.bind Quiet.ensure fun _ => trivial

theorem Ctx.startStream_keeps {c : Ctx} {k slot : BitVec 4} {kind : CpKind} {m : Manifest} {f : FmtCode}
    {reg : Nat × Nat} {rm : Rm} {x0 ncol dest : Nat} {ys : List Nat} (h : Memory.wf c.s = true) :
    Keeps (fun d => Memory.wf d.s = true) (c.startStream k slot kind m f reg rm x0 ncol dest ys) := by
  refine Quiet.bind Quiet.ensure fun _ => ?_
  extract_lets rowlen n toMem il x jp
  have hjp : ∀ u, Keeps (fun d => Memory.wf d.s = true) (jp u) := fun u => by
    unfold jp
    split
    · exact done_keeps (State.setStream_wf h)
    · exact Quiet.bind (Quiet.forEach fun _ => State.freeRange_quiet) fun _ =>
        Keeps.bind (Ctx.engineReady_keeps h) fun s1 hs1 => done_keeps (State.setStream_wf hs1)
  split
  · exact Quiet.bind Keeps.raise hjp
  · exact hjp ()

theorem Ctx.memFmt_keeps {c : Ctx} {m : Manifest} (h : Memory.wf c.s = true) :
    Keeps (fun p => Memory.wf p.2 = true) (c.memFmt m) := by
  simp only [Ctx.memFmt]
  split
  · exact Quiet.bind State.xlat_quiet fun _ => State.used_wf h
  · exact h

theorem Ctx.cpNarrow_quiet {c : Ctx} {m : Manifest} {f : FmtCode} : Quiet (c.cpNarrow m f) :=
  Quiet.bind Ctx.narrowSlot_quiet fun _ => Quiet.ensure

theorem State.cancelStream_wf {s : State} {team k : Nat} (h : Memory.wf s = true) :
    Memory.wf (s.cancelStream team k) = true := State.setStream_wf (State.withdrawCopy_wf h)

/-- A row of a copy stream goes on, or waits, in a state of canonical memory. -/
def RowRes.Keeps : RowRes → Prop
  | .ok t => Memory.wf t = true
  | .wait t => Memory.wf t = true
  | .bad _ => True

/-- The early ends of a row that a view found keep memory canonical. -/
def EndsKeep (es : List (Nat × RowRes)) : Prop := ∀ e ∈ es, e.2.Keeps

theorem EndsKeep.nil : EndsKeep [] := fun _ he => absurd he (List.not_mem_nil)

theorem EndsKeep.cons {e : Nat × RowRes} {es : List (Nat × RowRes)} (he : e.2.Keeps) (hes : EndsKeep es) :
    EndsKeep (e :: es) := by
  intro a ha
  rcases List.mem_cons.mp ha with rfl | ha
  · exact he
  · exact hes a ha

theorem EndsKeep.append {as bs : List (Nat × RowRes)} (ha : EndsKeep as) (hb : EndsKeep bs) : EndsKeep (as ++ bs) := by
  intro a h
  rcases List.mem_append.mp h with h | h
  · exact ha a h
  · exact hb a h

theorem EndsKeep.filterMap {α : Type} {f : α → Option (Nat × RowRes)} {xs : List α}
    (hf : ∀ x e, f x = some e → e.2.Keeps) : EndsKeep (xs.filterMap f) := by
  intro e he
  obtain ⟨x, -, hx⟩ := List.mem_filterMap.mp he
  exact hf x e hx

theorem State.rowStop_keeps {s : State} {i : Nat} {va : Word} {e : Stop} (h : Memory.wf s = true) :
    (s.rowStop i va e).Keeps := by
  cases e with
  | trap t => trivial
  | trapIn t u => trivial
  | pri p n => exact State.askPri_wf h
  | fault f => trivial
  | hold u => exact h
  | stall => exact h
  | page n => exact h

theorem RowRes.atLine_keeps {f : Word → Word} {r : RowRes} (h : r.Keeps) : (r.atLine f).Keeps := by
  cases r with
  | ok t => exact h
  | bad b => trivial
  | wait t => exact h

theorem State.rowCells_ends {s : State} {w : Who} {k : AccKind} {x : Stream} {base : Option Xlat} {t : FmtCode} {y : Nat}
    (h : Memory.wf s = true) : EndsKeep (s.rowCells w k x base t y).ends := by
  have hfold : EndsKeep ((List.range x.ncol).foldl (fun (v : RowView) i =>
      match s.manPlace w k x.man base t (x.x0 + i) y 0 0 with
      | .error e =>
        let at' := s.failedLine w k x.man base (x.man.index (x.x0 + i) y 0 0)
        { v with ends := (i, (s.rowStop i x.man.base e).atLine at') :: v.ends }
      | .ok (va, pos, _) =>
        match v.cells.find? fun c => c.va == va with
        | some c => { v with cells := { i, va, pos, x := c.x } :: v.cells }
        | none =>
          match s.reach w k va with
          | .error e => { v with ends := (i, s.rowStop i va e) :: v.ends }
          | .ok xl => { v with cells := { i, va, pos, x := xl } :: v.cells }) {}).ends := by
    refine List.foldlRecOn (motive := fun v : RowView => EndsKeep v.ends) _ _ EndsKeep.nil fun v hv i _ => ?_
    split
    · exact EndsKeep.cons (RowRes.atLine_keeps (State.rowStop_keeps h)) hv
    · split
      · exact hv
      · split
        · exact EndsKeep.cons (State.rowStop_keeps h) hv
        · exact hv
  intro e he
  exact hfold e (List.mem_reverse.mp he)

theorem lowestEnd_keeps {es : List (Nat × RowRes)} {r : RowRes} (hes : EndsKeep es) (e : lowestEnd es = some r) : r.Keeps := by
  obtain ⟨b, hb, rfl⟩ := Option.map_eq_some_iff.mp e
  have hfold : ∀ b, (es.foldl (fun (a : Option (Nat × RowRes)) e => match a with
      | none => some e
      | some b => if e.1 < b.1 then some e else a) none) = some b → b.2.Keeps := by
    refine List.foldlRecOn (motive := fun a : Option (Nat × RowRes) => ∀ b, a = some b → b.2.Keeps) _ _
      (fun _ hb => nomatch hb) fun a ha x hx => ?_
    cases a with
    | none => intro b hb; cases hb; exact hes x hx
    | some c =>
      intro b hb
      dsimp only at hb
      split at hb
      · cases hb; exact hes x hx
      · exact ha b hb
  exact hfold b hb

theorem State.rowIn_keeps {s : State} {team k r : Nat} {x : Stream} (h : Memory.wf s = true) : (s.rowIn team k r x).Keeps := by
  unfold State.rowIn
  extract_lets w y
  split
  · exact State.rowStop_keeps h
  · next base hbase =>
    extract_lets v ls
    split
    next s0 stuck hpair =>
    have h0 : Memory.wf s0 = true := by
      split at hpair
      · next hdrain => cases hpair; exact (Keeps.of_ok hdrain (State.drainTracks_keeps h) :)
      · cases hpair; exact h
    extract_lets atLine src s1 tm
    split
    · next e he =>
      refine lowestEnd_keeps (EndsKeep.append (State.rowCells_ends h) (EndsKeep.filterMap fun c e hc => ?_)) he
      unfold atLine at hc
      split at hc
      · cases hc; exact h
      · obtain ⟨b, -, rfl⟩ := Option.map_eq_some_iff.mp hc
        trivial
    · have h1 : Memory.wf s1 = true :=
        foldl_wf h0 fun _ _ ht => State.chargeLine_wf (State.fillHost_wf (State.used_wf ht))
      exact State.setStream_wf (State.setTeam_wf h1)

theorem State.lineEnd_keeps {s : State} {f t : FmtCode} {l : LineW} {i p : Nat} {e : Nat × RowRes} (h : Memory.wf s = true)
    (he : s.lineEnd f t l i p = some e) : e.2.Keeps := by
  unfold State.lineEnd at he
  split at he
  · cases he
  · split at he
    · cases he; exact h
    · split at he
      · cases he; trivial
      · split at he
        · cases he; trivial
        · cases he

theorem State.rowLine_wf {s : State} {w : Who} {f : FmtCode} {sf : StFmt} {l : LineW} (h : Memory.wf s = true) :
    Memory.wf (s.rowLine w f sf l) = true := by
  simp only [State.rowLine]
  split
  · exact h
  · exact State.writeBackHost_wf (State.writeLine_wf (State.chargeLine_wf (State.used_wf h)))

theorem State.rowOut_keeps {s : State} {team k r : Nat} {x : Stream} (h : Memory.wf s = true) :
    (s.rowOut team k r x).Keeps := by
  unfold State.rowOut
  extract_lets w y tm n spl f spBad
  split
  · exact State.rowStop_keeps h
  · next b hb =>
    extract_lets t v ls first bad refBad
    split
    · trivial
    · split
      · next e he =>
        refine lowestEnd_keeps (EndsKeep.append (EndsKeep.append (EndsKeep.append ?_ (State.rowCells_ends h)) ?_) ?_) he
        · refine EndsKeep.filterMap fun i e hi => ?_
          dsimp only at hi
          split at hi
          · cases hi; trivial
          · cases hi
        · exact EndsKeep.filterMap fun l e hl => State.lineEnd_keeps h hl
        · unfold refBad
          split
          · exact EndsKeep.cons trivial EndsKeep.nil
          · exact EndsKeep.nil
      · exact State.setStream_wf (foldl_wf h fun _ _ ht => State.rowLine_wf ht)

theorem State.rowWork_keeps {s : State} {team k r : Nat} {x : Stream} (h : Memory.wf s = true) :
    (s.rowWork team k r x).Keeps := by
  unfold State.rowWork
  split
  · exact State.rowOut_keeps h
  · exact State.rowIn_keeps h

theorem State.requestRow_keeps {s : State} {team k : Nat} (h : Memory.wf s = true) : OptKeeps (s.requestRow team k) := by
  simp only [State.requestRow]
  split
  · trivial
  · split
    · simp only [Option.map]
      split
      · exact State.setStream_wf h
      · trivial
    · trivial

theorem State.completeRow_keeps {s : State} {team k r : Nat} (h : Memory.wf s = true) : OptKeeps (s.completeRow team k r) := by
  unfold State.completeRow
  split
  · trivial
  · next x hx =>
    have hwork := State.rowWork_keeps (team := team) (k := k) (r := r) (x := x) h
    split
    · trivial
    · split
      · next e => rw [e] at hwork; exact hwork
      · next e =>
        rw [e] at hwork
        split
        · trivial
        · exact hwork
      · trivial

theorem State.failRow_keeps {s : State} {team k r : Nat} (h : Memory.wf s = true) : OptKeeps (s.failRow team k r) := by
  unfold State.failRow
  split
  · trivial
  · split
    · trivial
    · split
      · extract_lets y lower t s1
        have hs1 : Memory.wf s1 = true := by
          refine State.withdrawCopy_wf ?_
          split
          · exact State.spend_wf h
          · exact h
        split
        · exact State.addPend_wf (State.setStream_wf hs1)
        · exact State.setStream_wf h
      · trivial

end Sys2Proof.Machine
end

section
/-! PROOFS. Saved images, preemption, admission and caravans keep memory canonical. -/

namespace Sys2Proof.Machine

theorem Ctx.trapped_quiet {c : Ctx} {va : Word} : Quiet (c.trapped va) :=
  Quiet.bind Quiet.ensure fun _ => Quiet.bind Quiet.ensure fun _ => trivial

theorem State.linesFrom_quiet {s : State} {k : AccKind} {va : Word} {from' n : Nat} : Quiet (s.linesFrom k va from' n) :=
  Quiet.mapM_mem fun _ _ => Quiet.bind (State.locate_quiet fun _ => trivial) fun _ => trivial

theorem State.imageRead_keeps {s : State} {va : Word} {from' n : Nat} (h : Memory.wf s = true) :
    Keeps (fun p => Memory.wf p.1 = true) (s.imageRead va from' n) :=
  Quiet.bind State.linesFrom_quiet fun _ => Quiet.bind (Quiet.forEach fun _ => State.free_quiet) fun _ =>
    Quiet.bind State.requests_quiet fun _ => readLines_keeps h

theorem incompatible_quiet {va : Word} {k : Nat} : Quiet (incompatible va k) := trivial

theorem State.fetch_quiet {s : State} : Quiet s.fetch :=
  Quiet.bind (State.reach_quiet fun _ => trivial) fun _ => Quiet.bind State.loadLine_quiet fun _ =>
    Quiet.bind Quiet.ensure fun _ => trivial

theorem State.chargeFetch_wf {s : State} {pa : Nat} (h : Memory.wf s = true) : Memory.wf (s.chargeFetch pa) = true :=
  State.count_wf h

theorem State.chargeTime_wf {s : State} {p : Passed} {st : Strand} (h : Memory.wf s = true) :
    Memory.wf (s.chargeTime p st) = true := by
  simp only [State.chargeTime]
  split
  · split
    · exact h
    · exact State.charge_wf (State.charge_wf h)
  · exact h

theorem State.pass_wf {s : State} {p : Passed} (h : Memory.wf s = true) : Memory.wf (s.pass p) = true :=
  foldl_wf h fun _ _ ht => State.chargeTime_wf ht

theorem State.clock_wf {s : State} (h : Memory.wf s = true) : Memory.wf s.clock = true := State.pass_wf h

theorem State.putImageLine_keeps {s : State} {w : Who} {va : Word} {l : LineV} (h : Memory.wf s = true) :
    Keeps (fun t => Memory.wf t = true) (s.putImageLine w va l) := by
  refine Quiet.bind (State.reach_quiet fun _ => trivial) fun _ => ?_
  split
  · trivial
  · exact State.writeLine_wf (State.chargeLine_wf (State.used_wf h))

/-- A save of an image ends, or waits, in a state of canonical memory. -/
def SaveRes.Keeps : SaveRes → Prop
  | .ok t => Memory.wf t = true
  | .bad t _ _ _ => Memory.wf t = true
  | .wait t => Memory.wf t = true

theorem State.putImage_keeps {w : Who} {tm : Team} {va : Word} {n : Nat} {s : State} {i : Nat} (h : Memory.wf s = true) :
    (s.putImage w tm va n i).Keeps := by
  induction n generalizing s i with
  | zero => exact h
  | succ n ih =>
    unfold State.putImage
    split
    · next hput => exact ih (Keeps.of_ok hput (State.putImageLine_keeps h) :)
    · exact State.spendBy_wf h
    · exact State.askPri_wf h
    · exact h

theorem State.setSlotWord_wf {s : State} {w : Who} {va : Word} {v : Nat} (h : Memory.wf s = true) :
    Memory.wf (s.setSlotWord w va v) = true := by
  simp only [State.setSlotWord]
  split
  · exact State.writeLine_wf (State.chargeLine_wf (State.used_wf h))
  · exact h

/-- Induction for a function by structural recursion on a number, from its step `F` alone. -/
theorem brecOn_induction {C : Nat → Type} {F : ∀ n, Nat.below (motive := C) n → C n} {Q : ∀ n, C n → Prop}
    (hF : ∀ n (f : Nat.below (motive := C) n),
      (∀ m (g : Nat.below (motive := C) (m + 1)), n = m + 1 → HEq f g → Q m g.1) → Q n (F n f)) (n : Nat) :
    Q n (Nat.brecOn n F) := by
  induction n with
  | zero => exact hF 0 _ fun m _ e => nomatch e
  | succ n ih =>
    refine hF (n + 1) _ fun m g e hg => ?_
    obtain rfl : n = m := by omega
    cases hg
    exact ih

/-- By the recursor itself: Lean's own equation for `saveFrom` is one the kernel cannot check, since it evaluates the
address of a slot, so `slotVa` is held opaque here. -/
theorem State.saveFrom_keeps {id : Nat} {tm : Team} {n : Nat} {s : State} {k : Nat} (h : Memory.wf s = true) :
    (s.saveFrom id tm n k).Keeps := by
  delta State.saveFrom
  refine brecOn_induction (C := fun _ => State → Nat → SaveRes) (Q := fun _ f => ∀ s k, Memory.wf s = true → (f s k).Keeps)
    (fun n f ih s k h => ?_) n s k h
  delta State.saveFrom._f
  obtain ⟨slotVa, hva⟩ : ∃ f, Vi.slotVa = f := ⟨_, rfl⟩
  rw [hva]
  split
  · exact h
  · next m f =>
    extract_lets w va
    split
    · next x _ =>
      have hput := State.putImage_keeps (w := w) (tm := tm) (va := va) (n := (s.imageSections tm).2 / 128) (i := 0)
        (State.chargeLine_wf (vi := w.vi) (pa := x.pa) h)
      split
      · next e => rw [e] at hput; exact State.setTeam_wf hput
      · next e => rw [e] at hput; exact State.setSlotWord_wf hput
      · next e => rw [e] at hput; exact hput
    · exact ih _ _ rfl HEq.rfl _ _ (State.chargeLine_wf h)
    · exact State.spendBy_wf h
    · exact State.askPri_wf h
    · exact h

theorem State.saveTeam_keeps {s : State} {id : Nat} (h : Memory.wf s = true) : (s.saveTeam id).Keeps := by
  unfold State.saveTeam
  extract_lets tm n
  split
  · exact h
  · exact State.saveFrom_keeps h

theorem State.saveAll_keeps {ids : List Nat} {s : State} (h : Memory.wf s = true) : (s.saveAll ids).1.Keeps := by
  induction ids generalizing s with
  | nil => exact h
  | cons id ids ih =>
    have hid := State.saveTeam_keeps (id := id) h
    unfold State.saveAll
    split
    · next e => exact ih (by rw [e] at hid; exact hid)
    · exact hid

theorem State.leaveTile_wf {s : State} {sid : Nat} (h : Memory.wf s = true) : Memory.wf (s.leaveTile sid) = true := by
  simp only [State.leaveTile]
  split
  · exact State.abandon_wf h
  · exact foldl_wf (State.setCar_wf h) fun _ _ ht => State.giveUp_wf ht
  · exact h

theorem State.stopLoad_wf {s : State} {sid : Nat} (h : Memory.wf s = true) : Memory.wf (s.stopLoad sid) = true := by
  simp only [State.stopLoad]
  split
  · exact h
  · split
    · exact h
    · split
      · split
        · next e' => exact Memory.wf_same (OptKeeps.of_eq e' (State.loadStopped_keeps h)) rfl rfl
        · exact h
      · exact h

theorem State.finishRows_wf {s : State} {id : Nat} (h : Memory.wf s = true) : Memory.wf (s.finishRows id) = true := by
  refine foldl_wf h fun _ _ ht => foldl_wf ht fun _ _ hu => ?_
  split
  · next e => exact OptKeeps.of_eq e (State.completeRow_keeps hu)
  · exact OptKeeps.getD (State.failRow_keeps hu) hu

theorem State.onlyAsked_keeps {s t : State} (h : Memory.wf s = true) :
    OptKeeps (s.onlyAsked t) := by
  simp only [State.onlyAsked]
  split
  · trivial
  · exact h

theorem State.takeOff_wf {s : State} {id : Nat} (h : Memory.wf s = true) : Memory.wf (s.takeOff id) = true := by
  simp only [State.takeOff]
  split
  · exact State.realloc_wf (foldl_wf (State.setTeam_wf h) fun _ _ ht => State.setStrand_wf ht)
  · exact foldl_wf (State.setTeam_wf h) fun _ _ ht => State.setStrand_wf ht

theorem State.tellPreempt_wf {s : State} {id v0 : Nat} {v1 v2 : Word} (h : Memory.wf s = true) :
    Memory.wf (s.tellPreempt id v0 v1 v2) = true := by
  refine foldl_wf (State.setTeam_wf h) fun _ _ ht => ?_
  split
  · exact ht
  · exact State.addPend_wf ht

theorem State.preempt_keeps {s : State} {id : Nat} (h : Memory.wf s = true) : OptKeeps (s.preempt id) := by
  unfold State.preempt
  extract_lets grp sids s1 cores
  have h1 : Memory.wf s1 = true :=
    foldl_wf (foldl_wf h fun _ _ ht => State.leaveTile_wf ht) fun _ _ ht => State.stopLoad_wf ht
  split
  · trivial
  · split
    · trivial
    · next s2 hdrain =>
      have h2 : Memory.wf s2 = true :=
        (Keeps.of_ok hdrain (Keeps.foldlM (q := fun t => Memory.wf t = true) h1 fun _ _ ht => State.drainCore_keeps ht) :)
      extract_lets s3
      have h3 : Memory.wf s3 = true := foldl_wf h2 fun _ _ ht => State.finishRows_wf ht
      have hsave := State.saveAll_keeps (ids := grp) h3
      split
      · exact State.onlyAsked_keeps h
      · split
        · next e => rw [e] at hsave; exact foldl_wf (s := _) hsave fun _ _ ht => State.takeOff_wf ht
        · next e => rw [e] at hsave; exact State.onlyAsked_keeps h
        · next e =>
          rw [e] at hsave
          extract_lets s5
          have h5 : Memory.wf s5 = true := foldl_wf hsave fun t g ht => by
            split
            · exact State.setTeam_wf (State.setSlotWord_wf ht)
            · exact ht
          exact foldl_wf (s := s5) h5 fun t g ht => by
            split <;> exact State.tellPreempt_wf ht

theorem State.preemptChosen_keeps {s : State} {id : Nat} (h : Memory.wf s = true) : OptKeeps (s.preemptChosen id) := by
  simp only [State.preemptChosen]
  split
  · exact State.preempt_keeps h
  · trivial

theorem State.settle_wf {s : State} {p : Placed} (h : Memory.wf s = true) : Memory.wf (s.settle p) = true := by
  simp only [State.settle]
  split <;> exact foldl_wf (State.setTeam_wf h) fun _ _ ht => State.setStrand_wf ht

/-- A resume ends, or waits, in a state of canonical memory. -/
def Resume.Keeps : Resume → Prop
  | .good t => Memory.wf t = true
  | .bad t _ _ => Memory.wf t = true
  | .wait t => Memory.wf t = true

/-- A part of a resume goes on with what satisfies `p`, or ends or waits in a state of canonical memory. -/
def ResumeOr {α : Type} (p : α → Prop) : Except Resume α → Prop
  | .ok a => p a
  | .error r => r.Keeps

section
variable {α : Type} {p : α → Prop} {x : Except Resume α}

theorem ResumeOr.of_ok {a : α} (e : x = .ok a) (hx : ResumeOr p x) : p a := by rw [e] at hx; exact hx

theorem ResumeOr.of_error {r : Resume} (e : x = .error r) (hx : ResumeOr p x) : r.Keeps := by rw [e] at hx; exact hx

end

theorem State.readImage_keeps {s : State} {w : Who} {va : Word} (h : Memory.wf s = true) :
    ResumeOr (fun p => Memory.wf p.1 = true) (s.readImage w va) := by
  unfold State.readImage
  split
  · exact State.spendBy_wf h
  · exact State.askPri_wf h
  · exact h
  · next x hx =>
    have h1 : Memory.wf (((s.used x).fillHost x).chargeLine w.vi x.pa) = true :=
      State.chargeLine_wf (State.fillHost_wf (State.used_wf h))
    split
    · exact h
    · extract_lets l s1
      split
      · exact h1
      · exact h1

theorem State.readRest_keeps {w : Who} {va : Word} {n : Nat} {s : State} {i : Nat} (h : Memory.wf s = true) :
    ResumeOr (fun t => Memory.wf t = true) (s.readRest w va n i) := by
  induction n generalizing s i with
  | zero => exact h
  | succ n ih =>
    unfold State.readRest
    split
    · next e => exact ih (ResumeOr.of_ok e (State.readImage_keeps h) :)
    · next e => exact ResumeOr.of_error e (State.readImage_keeps h)

theorem State.checkImage_keeps {s : State} {tm : Team} {va : Word} (h : Memory.wf s = true) : (s.checkImage tm va).Keeps := by
  unfold State.checkImage
  extract_lets w hd
  split
  · next e => exact ResumeOr.of_error e (State.readImage_keeps h)
  · next s1 d e =>
    have h1 : Memory.wf s1 = true := (ResumeOr.of_ok e (State.readImage_keeps h) :)
    extract_lets bs
    clear_value bs hd
    split
    · exact h1
    · split
      · next e => exact ResumeOr.of_error e (State.readRest_keeps h1)
      · next s2 e =>
        have h2 : Memory.wf s2 = true := (ResumeOr.of_ok e (State.readRest_keeps h1) :)
        split
        · exact h2
        · split
          · exact h2
          · exact h2

theorem State.resumeClean_wf {s : State} {id : Nat} {va : Word} {reason : Nat} {v3 : Word} (h : Memory.wf s = true) :
    Memory.wf (s.resumeClean id va reason v3) = true :=
  foldl_wf (State.setTeam_wf h) fun _ _ ht => State.deliver_wf (State.setStrand_wf ht)

theorem State.resume_ok_wf {s t : State} {id : Nat} (h : Memory.wf s = true) (e : s.resume id = .ok t) :
    Memory.wf t = true := by
  unfold State.resume at e
  extract_lets tm at e
  split at e
  · cases e; exact h
  · next va hva =>
    have hchk := State.checkImage_keeps (tm := tm) (va := va) h
    split at e
    · next e' => rw [e'] at hchk; cases e; exact State.setTeam_wf (State.setSlotWord_wf hchk)
    · next e' => rw [e'] at hchk; cases e; exact State.resumeClean_wf hchk
    · cases e

theorem resumes_ok_wf {ps : List Placed} {s t : State} (h : Memory.wf s = true)
    (e : ps.foldlM (fun (s : State) (p : Placed) => (s.settle p).resume p.team) s = .ok t) : Memory.wf t = true := by
  induction ps generalizing s with
  | nil => cases e; exact h
  | cons p ps ih =>
    rw [List.foldlM_cons] at e
    cases hp : (s.settle p).resume p.team with
    | error u => rw [hp] at e; cases e
    | ok u => rw [hp] at e; exact ih (State.resume_ok_wf (State.settle_wf h) hp) e

theorem State.admitAt_keeps {s : State} {ps : List Placed} (h : Memory.wf s = true) : OptKeeps (s.admitAt ps) := by
  unfold State.admitAt
  split
  · next s1 e =>
    exact foldl_wf (f := fun s (p : Placed) => s.realloc p.core) (resumes_ok_wf h e) fun _ _ ht => State.realloc_wf ht
  · next w e => exact State.onlyAsked_keeps h

theorem State.admitTeam_keeps {s : State} (h : Memory.wf s = true) : OptKeeps s.admitTeam := by
  simp only [State.admitTeam]
  split
  · trivial
  · split
    · exact State.admitAt_keeps h
    · split
      · trivial
      · exact h

theorem State.bumpDone_keeps {s : State} {x : Caravan} (h : Memory.wf s = true) :
    Keeps (fun t => Memory.wf t = true) (s.bumpDone x) := by
  refine Quiet.bind (State.reach_quiet fun _ => Quiet.ensure) fun _ => ?_
  split
  · trivial
  · exact Quiet.bind lineBytes_quiet fun _ => State.writeLine_wf (State.chargeLine_wf (State.used_wf h))

theorem State.retire_wf {s : State} {id : Nat} (h : Memory.wf s = true) : Memory.wf (s.retire id) = true := h

theorem State.completeCaravan_keeps {s : State} {id : Nat} (h : Memory.wf s = true) : OptKeeps (s.completeCaravan id) := by
  simp only [State.completeCaravan]
  split
  · trivial
  · split
    · trivial
    · split
      · refine State.retire_wf ?_
        split
        · exact State.postEvent_wf h
        · exact h
      · split
        · next e' =>
          refine State.retire_wf ?_
          split
          · exact State.postEvent_wf (Keeps.of_ok e' (State.bumpDone_keeps h) :)
          · exact (Keeps.of_ok e' (State.bumpDone_keeps h) :)
        · exact State.retire_wf (State.postEvent_wf (State.spendBy_wf h))
        · split
          · trivial
          · exact State.askPri_wf h
        · trivial

theorem launchResult_quiet {s : State} {bs : List Byte} {x : Waybill} : Quiet (launchResult s bs x) := by
  simp only [launchResult]
  split
  · trivial
  · split
    · trivial
    · next e' => exact (Keeps.of_error e' State.xlat_quiet :)
    · split
      · trivial
      · split
        · trivial
        · split <;> trivial

theorem State.spendEntry_wf {s : State} {x : Waybill} (h : Memory.wf s = true) : Memory.wf (s.spendEntry x) = true := by
  simp only [State.spendEntry]
  split
  · exact State.spendBy_wf h
  · exact h

theorem State.createCaravan_wf {s : State} {x : Waybill} (h : Memory.wf s = true) : Memory.wf (s.createCaravan x).1 = true :=
  h

theorem State.finishBar_wf {s : State} {sid id : Nat} (h : Memory.wf s = true) : Memory.wf (s.finishBar sid id) = true :=
  complete_wf (State.setStrand_wf h)

theorem State.barrier_wf {s : State} {team id : Nat} (h : Memory.wf s = true) : Memory.wf (s.barrier team id) = true := by
  simp only [State.barrier]
  split
  · exact foldl_wf h fun _ _ ht => State.finishBar_wf ht
  · exact h

theorem State.leave_wf {s : State} (h : Memory.wf s = true) : Memory.wf s.leave = true := by
  refine State.realloc_wf ?_
  split
  · split
    · exact State.unbind_wf h
    · exact foldl_wf (State.unbind_wf h) fun _ _ ht => State.barrier_wf ht
  · split
    · exact h
    · exact foldl_wf h fun _ _ ht => State.barrier_wf ht

theorem State.leaveJoints_wf {s : State} {p : TilePart → Bool} (h : Memory.wf s = true) :
    Memory.wf (s.leaveJoints p) = true := by
  refine foldl_wf h fun _ _ ht => ?_
  dsimp only
  split
  · exact ht
  · exact foldl_wf (State.setCar_wf ht) fun _ _ hu => State.giveUp_wf hu

end Sys2Proof.Machine
end

section
/-! PROOFS. Translations, recoding, key domains and what performs late keep memory canonical. -/

namespace Sys2Proof.Machine

theorem tlbBody_keeps {ty : BitVec 3} {n : Nat} {a : Word} {s : State} (h : Memory.wf s = true) :
    Keeps (fun r => Memory.wf r.s = true) (tlbBody ty n a s) := by
  simp only [tlbBody]
  split
  · exact State.leaveJoints_wf (State.forget_wf h)
  · next e =>
    split
    · exact (Keeps.of_ok e (drainWhere_keeps (State.leaveJoints_wf (State.forget_wf h))) :)
    · exact done_keeps (Keeps.of_ok e (drainWhere_keeps (State.leaveJoints_wf (State.forget_wf h))) :)

/-- A look at a tensor page that waits does so in a state of canonical memory. -/
def PageStop.Keeps : PageStop → Prop
  | .wait t => Memory.wf t = true
  | _ => True

/-- A part of the look at a tensor page either goes on or stops in a way that keeps memory canonical. -/
def PageKeeps {α : Type} : Except PageStop α → Prop
  | .ok _ => True
  | .error e => e.Keeps

theorem PageKeeps.bind {α β : Type} {x : Except PageStop α} {f : α → Except PageStop β} (hx : PageKeeps x)
    (hf : ∀ a, PageKeeps (f a)) : PageKeeps (x >>= f) := by
  cases x with
  | ok a => exact hf a
  | error e => exact hx

theorem PageKeeps.mapM {α β : Type} {f : α → Except PageStop β} {xs : List α} (hf : ∀ a, PageKeeps (f a)) :
    PageKeeps (xs.mapM f) := by
  induction xs with
  | nil => trivial
  | cons x xs ih =>
    rw [List.mapM_cons]
    exact PageKeeps.bind (hf x) fun _ => PageKeeps.bind ih fun _ => trivial

theorem PageKeeps.check {β : Type} {c : Prop} {_ : Decidable c} {e : PageStop} {f : Unit → Except PageStop β} (he : e.Keeps)
    (hf : PageKeeps (f ())) : PageKeeps (if c then throw e >>= f else f ()) := by
  split
  · exact he
  · exact hf

theorem State.tensorPage_keeps {s : State} {vi : Nat} {va : Word} {target : FmtCode} (h : Memory.wf s = true) :
    PageKeeps (s.tensorPage vi va target) := by
  unfold State.tensorPage
  dsimp only
  refine PageKeeps.check (e := .err 2) trivial ?_
  split
  · trivial
  · refine PageKeeps.check (e := .err 1) trivial (PageKeeps.check (e := .same) trivial (PageKeeps.check (e := .err 3) trivial
      (PageKeeps.bind (PageKeeps.mapM fun i => ?_) fun _ => trivial)))
    split
    · trivial
    · split
      · trivial
      · exact State.askPri_wf h
      · trivial

theorem State.dropPage_wf {s : State} {vi : Nat} {va : Word} (h : Memory.wf s = true) : Memory.wf (s.dropPage vi va) = true :=
  h

theorem State.recodeStart_keeps {s : State} {vi : Nat} (h : Memory.wf s = true) : OptKeeps (s.recodeStart vi) := by
  have hpage := State.tensorPage_keeps (vi := vi) (va := (s.vi vi).rc.va) (target := (s.vi vi).rc.fmt) h
  unfold State.recodeStart
  extract_lets v r put
  split
  · trivial
  · split
    · exact h
    · exact h
    · next e => rw [e] at hpage; exact hpage
    · split
      · exact h
      · split
        · trivial
        · exact State.writeEntry_wf (foldl_wf h fun _ _ ht => State.orByte_wf ht)

theorem State.recodePage_keeps {s : State} {vi : Nat} (h : Memory.wf s = true) : OptKeeps (s.recodePage vi) := by
  have hpage := State.tensorPage_keeps (vi := vi) (va := (s.vi vi).rc.va) (target := (s.vi vi).rc.fmt) h
  unfold State.recodePage
  extract_lets r put
  split
  · trivial
  · split
    · exact h
    · exact h
    · next e => rw [e] at hpage; exact hpage
    · extract_lets s0 back n marked s1 out leaf
      have h0 : Memory.wf s0 = true := State.leaveJoints_wf h
      split
      · split
        · trivial
        · exact h0
      · have h1 : Memory.wf s1 = true := foldl_wf h0 fun _ _ ht => State.orByte_wf ht
        split
        next s2 fl hfold =>
        have h2 : Memory.wf s2 = true :=
          Memory.wf_of_fst hfold (foldl_fst_wf (a := (s1, 0#7)) h1 fun _ _ ha => State.writeLine_wf ha)
        extract_lets s3 s4 s5 v
        have h3 : Memory.wf s3 = true := foldl_wf h2 fun _ _ ht => State.freshFrame_wf ht
        have h4 : Memory.wf s4 = true := State.writeEntry_wf (s := { s3 with unbacked := s3.unbacked ++ out }) h3
        have h5 : Memory.wf s5 = true := State.chargeLlc_wf (State.charge_wf (State.dropPage_wf h4))
        exact State.setVi_wf h5

theorem State.settleLines_keeps {s : State} {p q : Nat → Bool} (h : Memory.wf s = true) :
    Keeps (fun t => Memory.wf t = true) (s.settleLines p q) := by
  simp only [State.settleLines]
  split
  · trivial
  · exact drainWhere_keeps h

theorem State.retireKd_wf {s : State} {kd : Nat} (h : Memory.wf s = true) : Memory.wf (s.retireKd kd) = true := h

theorem kdsetBody_keeps {c : Ctx} (h : Memory.wf c.s = true) : Keeps (fun r => Memory.wf r.s = true) (kdsetBody c) := by
  simp only [kdsetBody]
  split
  · split
    · exact done_keeps (Ctx.putS_wf h)
    · split
      · exact done_keeps (Ctx.putS_wf h)
      · exact Keeps.bind (State.settleLines_keeps h) fun _ hs1 =>
          done_keeps (Ctx.putS_wf (State.forget_wf (State.assign_wf hs1)))
  · split
    · exact done_keeps (Ctx.putS_wf h)
    · split <;> exact done_keeps (Ctx.putS_wf h)
  · split
    · exact done_keeps (Ctx.putS_wf h)
    · split
      · exact done_keeps (Ctx.putS_wf h)
      · exact Keeps.bind (State.settleLines_keeps h) fun _ hs1 =>
          done_keeps (Ctx.putS_wf (State.forget_wf (State.retireKd_wf hs1)))
  · exact done_keeps (Ctx.putS_wf h)

theorem kdset_keeps {i : Instr} {d a b e : Opnd} {s : State} (h : Memory.wf s = true) : OutKeeps (kdset i d a b e s) :=
  issue_keeps h fun _ hc => kdsetBody_keeps hc

theorem State.moveHome_wf {s : State} {h k : Nat} (hs : Memory.wf s = true) : Memory.wf (s.moveHome h k) = true :=
  foldl_wf hs fun _ _ ht => State.writeBackHost_wf ht

theorem State.leaveSlice_keeps {s : State} {h : Nat} (hs : Memory.wf s = true) :
    Keeps (fun t => Memory.wf t = true) (s.leaveSlice h) := by
  unfold State.leaveSlice
  split
  · trivial
  · exact drainWhere_keeps hs

theorem State.defer_wf {s : State} {i : Instr} (h : Memory.wf s = true) : Memory.wf (s.defer i) = true := h

theorem orLater_keeps {i : Instr} {s : State} {x : Res State} (h : Memory.wf s = true)
    (hx : Keeps (fun t => Memory.wf t = true) x) : OutKeeps (orLater i s x) := by
  unfold orLater
  split
  · exact hx
  · exact State.defer_wf (State.askPri_wf h)
  · exact State.defer_wf (s := _) hx
  · exact State.defer_wf h

theorem State.performNext_keeps {s : State} {core track : Nat} (h : Memory.wf s = true) :
    OptKeeps (s.performNext core track) := by
  simp only [State.performNext]
  split
  · split
    · trivial
    · exact State.performBuffered_wf h
  · trivial

theorem State.performLateOf_keeps {s : State} {track sid : Nat} (h : Memory.wf s = true) :
    OptKeeps (s.performLateOf track sid) := by
  cases e : s.performLateOf track sid with
  | none => trivial
  | some t =>
    simp only [State.performLateOf, Option.bind_eq_bind, Option.bind_eq_some_iff] at e
    obtain ⟨st, -, l, -, e⟩ := e
    split at e
    · obtain ⟨n, -, e⟩ := Option.bind_eq_some_iff.mp e
      split at e
      · cases e; exact State.setStrand_wf h
      · cases e
    · cases e

theorem State.performLate_keeps {s : State} {core track : Nat} (h : Memory.wf s = true) :
    OptKeeps (s.performLate core track) := by
  have hof (sid : Nat) : OptKeeps (if s.coreOf (s.strand sid) == core then s.performLateOf track sid else none) := by
    split
    · exact State.performLateOf_keeps h
    · trivial
  cases e : s.performLate core track with
  | none => trivial
  | some t =>
    rcases (Option.orElse_eq_some _ _ _).mp e with he | ⟨-, he⟩
    · exact OptKeeps.of_eq he (hof _)
    · obtain ⟨sid, -, hsid⟩ := List.exists_of_findSome?_eq_some he
      exact OptKeeps.of_eq hsid (hof sid)

theorem State.replyAtomic_wf {r : State × Option Nat} (h : Memory.wf r.1 = true) : Memory.wf (State.replyAtomic r) = true := h

theorem State.atomicEvent_keeps {s : State} {pa : Nat} {w8 : Bool} {op : Aop} {v : Word} {x : AtomicArg}
    (h : Memory.wf s = true) : Keeps (fun t => Memory.wf t = true) (s.atomicEvent pa w8 op v x) := by
  simp only [State.atomicEvent]
  split
  · exact h
  · split
    · trivial
    · exact State.replyAtomic_wf (State.applyAtomic_wf h)

theorem State.leaveJoint_wf {s : State} {sid : Nat} (h : Memory.wf s = true) : Memory.wf (s.leaveJoint sid) = true :=
  State.leaveJoints_wf h

theorem State.takeAsync_keeps {s : State} {sid : Nat} (h : Memory.wf s = true) : OptKeeps (s.takeAsync sid) := by
  simp only [State.takeAsync]
  split
  · trivial
  · split
    · trivial
    · split
      · exact State.takePend_wf h
      · exact State.takePend_wf (State.leaveJoint_wf h)
      · split
        · trivial
        · exact State.takePend_wf (State.abandon_wf h)
      · trivial

theorem State.expireWatchdog_wf {s : State} {sid : Nat} (h : Memory.wf s = true) :
    Memory.wf (s.expireWatchdog sid) = true := by
  simp only [State.expireWatchdog]
  split
  · exact State.setMevt_wf (State.setStrand_wf h)
  · exact State.setStrand_wf h

end Sys2Proof.Machine
end

section
/-! PROOFS. Exchange, the host, links, power and boot keep memory canonical. -/

namespace Sys2Proof.Machine

theorem reduceV_keeps {c : Ctx} {rm : Rm} {sat wide : Bool} {op : RMode → Val → Val → Val × Flags}
    (h : Memory.wf c.s = true) : Keeps (fun r => Memory.wf r.s = true) (reduceV c rm sat wide op) :=
  Quiet.bind palette_quiet fun _ => Quiet.bind laneMismatch_quiet fun _ => Quiet.bind capCheck_quiet fun _ =>
    Quiet.bind laneConflict_quiet fun _ => putDone_keeps h

theorem slide_keeps {c : Ctx} {rm : Rm} {src : Nat → Option Nat} (h : Memory.wf c.s = true) :
    Keeps (fun r => Memory.wf r.s = true) (slide c rm src) :=
  Quiet.bind laneMismatch_quiet fun _ => Quiet.bind capCheck_quiet fun _ => Quiet.bind laneConflict_quiet fun _ =>
    putDone_keeps h

theorem State.setChan_wf {s : State} {vi n : Nat} {ch : Chan} (h : Memory.wf s = true) :
    Memory.wf (s.setChan vi n ch) = true := State.setVi_wf h

theorem Ctx.chanOf_quiet {c : Ctx} : Quiet c.chanOf := by
  simp only [Ctx.chanOf]
  split <;> trivial

theorem Ctx.liveChan_quiet {c : Ctx} : Quiet c.liveChan := by
  refine Quiet.bind Ctx.chanOf_quiet fun _ => ?_
  split <;> trivial

theorem nameLine_keeps {α : Type} {p : α → Prop} {x : Res α} (hx : Keeps p x) : Keeps p (nameLine x) := by
  unfold nameLine
  split
  · trivial
  · exact hx

theorem Ctx.readSpan_keeps {c : Ctx} {fuel : Nat} {s : State} {va : Word} {n : Nat} (h : Memory.wf s = true) :
    Keeps (fun p => Memory.wf p.1 = true) (c.readSpan s fuel va n) := by
  induction fuel generalizing s va n with
  | zero => exact h
  | succ fuel ih =>
    unfold Ctx.readSpan
    split
    · exact h
    · exact Keeps.bind (State.plainRead_keeps h) fun p hp => Keeps.bind (ih hp) fun q hq => hq

theorem State.regionCells_quiet {s : State} {w : Who} {k : AccKind} {m : Manifest} {base : Option Xlat} {t : FmtCode} :
    Quiet (s.regionCells w k m base t) := by
  simp only [State.regionCells]
  refine Quiet.bind (Quiet.foldlM fun _ _ => Quiet.bind State.manPlace_quiet ?_) fun _ => ?_
  · intro a
    split
    · trivial
    · exact Quiet.bind (State.reach_quiet fun _ => trivial) fun _ => trivial
  trivial

theorem State.sourceBase_quiet {s : State} {w : Who} {m : Manifest} : Quiet (s.sourceBase w m) := by
  simp only [State.sourceBase]
  split
  · exact Quiet.map State.xlat_quiet
  · trivial

theorem capBytes_quiet {n : Nat} : Quiet (capBytes n) := Quiet.ensure

theorem Ctx.startable'_keeps {c : Ctx} {s : State} {ch : Chan} {n : Nat} {il : List Interlock}
    (hs : Memory.wf s = true) : Keeps (fun t => Memory.wf t = true) (c.startable' s ch n il) := by
  simp only [Ctx.startable']
  split
  · trivial
  · exact Quiet.bind (Quiet.forEach fun _ => State.freeRange_quiet) fun _ => Ctx.engineReady_keeps hs

theorem Ctx.startOp_keeps {c : Ctx} {s : State} {ch : Chan} {o : Xop}
    (hs : Memory.wf s = true) : Keeps (fun r => Memory.wf r.s = true) (c.startOp s ch o) :=
  done_keeps (Ctx.putS_wf (State.charge_wf (State.setChan_wf hs)))

theorem xredPages_quiet {g t : FmtCode} {ls : List LineW} : Quiet (xredPages g t ls) := by
  refine Quiet.forEach fun _ => ?_
  split
  · exact Quiet.ensure
  · trivial

theorem Ctx.destFmt_quiet {c : Ctx} {s : State} {m : Manifest} : Quiet (c.destFmt s m) := by
  simp only [Ctx.destFmt]
  split
  · exact Quiet.map State.xlat_quiet
  · trivial

theorem engineCells_quiet {x : Res (List XCell)} (hx : Quiet x) : Quiet (engineCells x) := by
  unfold engineCells
  split
  · trivial
  · trivial
  · exact hx

theorem State.sourceCells_quiet {s : State} {vi : Nat} {o : Xop} : Quiet (s.sourceCells vi o) := by
  simp only [State.sourceCells]
  split
  · trivial
  · next e => exact (Keeps.of_error e State.sourceBase_quiet :)
  · exact engineCells_quiet State.regionCells_quiet

theorem State.readRegion_wf {s : State} {vi : Nat} {cs : List XCell} (h : Memory.wf s = true) :
    Memory.wf (s.readRegion vi cs) = true := by
  refine foldl_wf h fun _ _ ht => ?_
  split
  · exact State.chargeLine_wf (State.fillHost_wf (State.used_wf ht))
  · exact ht

theorem State.sendFrames_wf {s t : State} {p n before m : Nat} (h : Memory.wf s = true)
    (e : s.sendFrames p n before = some (t, m)) : Memory.wf t = true := by
  unfold State.sendFrames at e
  extract_lets x k lns s1 at e
  split at e
  · cases e; exact h
  · split at e
    · cases e
    · cases e
      exact foldl_wf (s := s1) h fun _ _ ht => State.writeLine_wf ht

theorem State.sendOver_wf {s t : State} {ch : Chan} {n rank before m : Nat} (h : Memory.wf s = true)
    (e : s.sendOver ch n rank before = some (t, m)) : Memory.wf t = true := by
  unfold State.sendOver at e
  split at e
  · obtain ⟨p, -, hp⟩ := Option.bind_eq_some_iff.mp e
    exact State.sendFrames_wf h hp
  · split at e
    · cases e
    · cases e; exact h

theorem State.sendParts_wf {s : State} {ch : Chan} {o : Xop} {n : Nat} {ks : List Nat} (h : Memory.wf s = true) :
    Memory.wf (s.sendParts ch o n ks).1 = true :=
  foldl_fst_wf h fun a k ha => by
    split
    · next hover => exact State.sendOver_wf ha hover
    · exact ha

theorem State.failSend_wf {s : State} {vi cn : Nat} {ch : Chan} {o : Xop} {dst sub : Nat} {v3 : Word} (h : Memory.wf s = true) :
    Memory.wf (s.failSend vi cn ch o dst sub v3) = true := h

theorem State.sendLines_keeps {s : State} {vi cn : Nat} {ch : Chan} {o : Xop} {dst rank : Nat} {count : Bool}
    (h : Memory.wf s = true) : Keeps (fun t => Memory.wf t = true) (s.sendLines vi cn ch o dst rank count) := by
  refine Quiet.bind State.sourceCells_quiet fun found => ?_
  split
  · exact State.failSend_wf (State.spend_wf h)
  · next cs =>
    extract_lets psn lines n jp
    clear_value psn lines n
    have hjp : Keeps (fun t => Memory.wf t = true) (jp ()) := by
      unfold jp
      split
      · exact State.failSend_wf h
      · split
        next s0 o0 hparts =>
        have h0 : Memory.wf s0 = true := Memory.wf_of_fst hparts (State.sendParts_wf h)
        extract_lets o1 s1
        have h1 : Memory.wf s1 = true := State.charge_wf (State.setChan_wf (State.readRegion_wf h0))
        split
        · exact State.setChan_wf h0
        · exact h1
    split
    · trivial
    · exact hjp

theorem State.sendLands_keeps {s : State} {vi cn seq rank : Nat} {fate : Landing} (h : Memory.wf s = true) :
    Keeps (fun t => Memory.wf t = true) (s.sendLands vi cn seq rank fate) := by
  unfold State.sendLands
  split
  · exact h
  · split
    · exact h
    · split
      · exact h
      · extract_lets early
        split
        · exact h
        · split
          · exact State.setChan_wf h
          · split
            · exact State.setChan_wf h
            · split
              · exact h
              · exact State.sendLines_keeps h
            · split
              · exact h
              · split
                · exact h
                · exact State.sendLines_keeps h

theorem State.landPlace_quiet {s : State} {vi : Nat} {k : AccKind} {va : Word} : Quiet (s.landPlace vi k va) := by
  simp only [State.landPlace]
  split
  · split
    · trivial
    · split <;> trivial
  · trivial
  · next e => exact (Keeps.of_error e (State.reach_quiet fun _ => trivial) :)

theorem State.landAll_quiet {s : State} {vi : Nat} {xs : List Word} : Quiet (s.landAll vi xs) := by
  induction xs with
  | nil =>
    simp only [State.landAll]
    trivial
  | cons y ys ih =>
    simp only [State.landAll]
    refine Quiet.bind State.landPlace_quiet fun _ => ?_
    split
    · trivial
    · refine Quiet.bind ih fun _ => ?_
      split <;> trivial

theorem State.landHere_keeps {s : State} {vi cn seq src off : Nat} {lines : List (List Byte × BitVec 16)} {fate : Landing}
    (h : Memory.wf s = true) : Keeps (fun t => Memory.wf t = true) (s.landHere vi cn seq src off lines fate) := by
  unfold State.landHere
  split
  · exact h
  · extract_lets answer start
    have hanswer {t : State} (f : Option (Nat × Word)) (ht : Memory.wf t = true) : Memory.wf (answer t f) = true := ht
    split
    · exact h
    · split
      · exact State.setChan_wf h
      · split
        · exact h
        · split
          · exact hanswer _ h
          · split
            · exact h
            · refine Quiet.bind State.landAll_quiet fun found => ?_
              cases found with
              | inr va => exact hanswer _ (State.spend_wf h)
              | inl xs =>
                have hland : Memory.wf ((lines.zip xs).foldl (fun s p => s.landLine vi p) s) = true :=
                  foldl_wf h fun _ _ ht => State.landLine_wf ht
                dsimp only
                split
                · exact hland
                · refine Quiet.bind State.landPlace_quiet fun arrival => ?_
                  cases arrival with
                  | inr va => exact hanswer _ (State.spend_wf h)
                  | inl ax => exact hanswer _ (State.setChan_wf (State.landCount_wf hland))

theorem State.writeDest_wf {s : State} {vi : Nat} {g t : FmtCode} {m : RMode} {ls : List LineW} (h : Memory.wf s = true) :
    Memory.wf (s.writeDest vi g t m ls).1 = true := by
  refine foldl_fst_wf h fun _ _ hx => ?_
  split
  · exact State.writeLine_wf (State.chargeLine_wf (State.used_wf hx))
  · exact hx

theorem State.quitRed_wf {s : State} {vi cn : Nat} {ch : Chan} {o : Xop} {sub : Nat} {v3 : Word} (h : Memory.wf s = true) :
    Memory.wf (s.quitRed vi cn ch o sub v3) = true := h

theorem State.redRegions_quiet {s : State} {vi : Nat} {o : Xop} : Quiet (s.redRegions vi o) := by
  refine Quiet.bind State.sourceCells_quiet fun _ => ?_
  split
  · trivial
  · split
    · trivial
    · next e => exact (Keeps.of_error e State.xlat_quiet :)
    · refine Quiet.bind (engineCells_quiet State.regionCells_quiet) fun _ => ?_
      split <;> trivial

theorem State.reduceOp_keeps {s : State} {vi cn : Nat} {ch : Chan} {o : Xop} {mode : Nat} {peers : List PeerPart}
    (h : Memory.wf s = true) : Keeps (fun t => Memory.wf t = true) (s.reduceOp vi cn ch o mode peers) := by
  refine Quiet.bind State.redRegions_quiet fun found => ?_
  split
  · exact State.quitRed_wf (State.spend_wf h)
  · next src dst t =>
    extract_lets mine parts r ls jp jp'
    clear_value mine parts r ls
    have hjp : Keeps (fun t => Memory.wf t = true) (jp ()) := by
      unfold jp
      split
      · exact State.quitRed_wf h
      · split
        · exact State.quitRed_wf h
        · split
          next s0 o0 hparts =>
          have h0 : Memory.wf s0 = true := Memory.wf_of_fst hparts (State.sendParts_wf h)
          extract_lets jp2
          split
          · exact State.setChan_wf h0
          · unfold jp2
            split
            next s1 f2 hdest =>
            have h1 : Memory.wf s1 = true := Memory.wf_of_fst hdest (State.writeDest_wf (State.readRegion_wf h0))
            extract_lets o1 s2
            have h2 : Memory.wf s2 = true := State.charge_wf (State.setChan_wf h1)
            exact h2
    split
    · trivial
    · unfold jp'
      split
      · trivial
      · exact hjp

theorem State.completeOp_keeps {s : State} {vi cn seq : Nat} (h : Memory.wf s = true) :
    OptKeeps (s.completeOp vi cn seq) := by
  simp only [State.completeOp]
  split
  · trivial
  · split
    · trivial
    · split
      · exact State.setChan_wf h
      · trivial

theorem State.failRank_wf {s : State} {vi cn rank sub : Nat} (h : Memory.wf s = true) :
    Memory.wf (s.failRank vi cn rank sub) = true := by
  simp only [State.failRank]
  split
  · exact State.setChan_wf h
  · exact h

theorem State.hostReach_quiet {s : State} {vi off : Nat} {k : AccKind} : Quiet (s.hostReach vi off k) := by
  simp only [State.hostReach]
  split
  · trivial
  · split
    · exact State.s2Trap_keeps
    · refine Quiet.bind State.checkPa_quiet fun _ => ?_
      split
      · trivial
      · refine Quiet.bind State.leavesFree_quiet fun _ => Quiet.bind State.checkHome_quiet fun _ => ?_
        split <;> trivial

theorem State.refuse_wf {s : State} {vi : Nat} {t : Trap} (h : Memory.wf s = true) : Memory.wf (s.refuse vi t) = true := by
  unfold State.refuse
  split
  · exact State.spendAt_wf h
  · exact h

theorem orRefuse_keeps {i : Instr} {vi : Nat} {s : State} {x : Res State} (h : Memory.wf s = true)
    (hx : Keeps (fun t => Memory.wf t = true) x) : OutKeeps (orRefuse i vi s x) := by
  unfold orRefuse
  split
  · exact State.refuse_wf h
  · exact h
  · exact orLater_keeps h hx

theorem hostEvent_keeps {i : Instr} {vi : Nat} {s : State} {x : Res State} (h : Memory.wf s = true)
    (hx : Keeps (fun t => Memory.wf t = true) x) : OutKeeps (hostEvent i vi s x) := by
  unfold hostEvent
  split
  · exact State.defer_wf h
  · exact orRefuse_keeps h hx

theorem State.hostWrite_keeps {s : State} {vi off : Nat} {bs : List Byte} (h : Memory.wf s = true) :
    Keeps (fun t => Memory.wf t = true) (s.hostWrite vi off bs) :=
  Quiet.bind (Quiet.mapM_mem fun _ _ => Quiet.bind State.hostReach_quiet fun _ => trivial) fun _ => foldl_wf h fun _ _ ht =>
    State.hostPut_wf ht

theorem State.tagWrite_keeps {s : State} {vi off : Nat} {tag : BitVec 16} (h : Memory.wf s = true) :
    Keeps (fun t => Memory.wf t = true) (s.tagWrite vi off tag) := by
  refine Quiet.bind State.hostReach_quiet fun _ => ?_
  split
  · exact h
  · exact State.writeLine_wf (State.chargeLine_wf (State.used_wf h))

theorem State.hostFetch_keeps {s : State} {vi off n : Nat} (h : Memory.wf s = true) :
    Keeps (fun p => Memory.wf p.1 = true) (s.hostFetch vi off n) :=
  Quiet.bind (Quiet.mapM_mem fun _ _ => Quiet.bind State.hostReach_quiet fun _ => trivial) fun _ => foldl_wf h fun _ _ ht =>
    State.chargeLine_wf (State.used_wf ht)

theorem State.hostRead_keeps {s : State} {vi off n : Nat} (h : Memory.wf s = true) :
    Keeps (fun t => Memory.wf t = true) (s.hostRead vi off n) := Keeps.bind (State.hostFetch_keeps h) fun _ ha => ha

theorem State.tagRead_keeps {s : State} {vi off n : Nat} (h : Memory.wf s = true) :
    Keeps (fun t => Memory.wf t = true) (s.tagRead vi off n) :=
  Quiet.bind (Quiet.mapM_mem fun _ _ => State.hostReach_quiet) fun _ => foldl_wf h fun _ _ ht =>
    State.chargeLine_wf (State.used_wf ht)

theorem State.barRead_keeps {s : State} {vi off n : Nat} (h : Memory.wf s = true) :
    Keeps (fun t => Memory.wf t = true) (s.barRead vi off n) := by
  simp only [State.barRead]
  split
  · trivial
  · split
    · trivial
    · exact h

theorem State.hostAtomic_keeps {s : State} {vi off : Nat} {w8 : Bool} {op : HostAtomic} {v : Word}
    (h : Memory.wf s = true) : Keeps (fun t => Memory.wf t = true) (s.hostAtomic vi off w8 op v) := by
  simp only [State.hostAtomic]
  split
  · trivial
  · refine Quiet.bind State.hostReach_quiet fun _ => ?_
    split
    · trivial
    · exact State.replyAtomic_wf (State.applyAtomic_wf (State.chargeLine_wf (State.used_wf h)))

theorem State.cxlRequest_keeps {s : State} {pa : Nat} {write : Bool} {data : List Byte} {n tag : Nat}
    (h : Memory.wf s = true) : Keeps (fun t => Memory.wf t = true) (s.cxlRequest pa write data n tag) := by
  simp only [State.cxlRequest]
  split
  · exact Keeps.bind (State.hostWrite_keeps h) fun _ hs1 => hs1
  · exact Keeps.bind (State.hostFetch_keeps h) fun _ ha => ha

theorem State.weatreReach_quiet {s : State} {write : Bool} {ln : Nat} : Quiet (s.weatreReach write ln) := by
  simp only [State.weatreReach]
  split
  · trivial
  · split <;> trivial

theorem State.weatrePerform_keeps {s : State} {src : Nat} {req : WeatreReq} (h : Memory.wf s = true) :
    Keeps (fun t => Memory.wf t = true) (s.weatrePerform src req) := by
  simp only [State.weatrePerform]
  split
  · exact Quiet.bind State.weatreReach_quiet fun _ => h
  · split
    · trivial
    · exact Quiet.bind State.weatreReach_quiet fun _ => State.writeLine_wf h
  · split
    · trivial
    · exact Quiet.bind State.weatreReach_quiet fun _ => State.replyAtomic_wf (State.applyAtomic_wf h)
  · split
    · trivial
    · split
      · trivial
      · exact State.extReserve_wf h
  · exact State.extStage_wf h
  · exact State.extFlip_wf h
  · exact State.extRelease_wf h
  · exact State.notify_wf h

theorem State.linkDown_wf {s : State} {link : Nat} (h : Memory.wf s = true) : Memory.wf (s.linkDown link) = true :=
  State.setMevt_wf h

theorem State.loseStores_wf {s : State} {dev : Nat} (h : Memory.wf s = true) : Memory.wf (s.loseStores dev) = true := by
  refine foldl_wf h fun _ _ ht => ?_
  split
  · split
    · exact State.addPend_wf ht
    · exact ht
  · exact ht

theorem State.loseTiles_wf {s : State} {dev : Nat} (h : Memory.wf s = true) : Memory.wf (s.loseTiles dev) = true := by
  refine foldl_wf h fun _ _ ht => ?_
  split
  · split
    · exact ht
    · exact State.dropTile_wf ht
  · split
    · split
      · exact State.abandon_wf ht
      · exact ht
    · exact ht

theorem State.loseRanks_wf {s : State} {dev : Nat} (h : Memory.wf s = true) : Memory.wf (s.loseRanks dev) = true := by
  refine foldl_wf h fun _ _ ht => foldl_wf ht fun _ _ hu => ?_
  split
  · exact hu
  · exact foldl_wf hu fun _ _ hv => State.failRank_wf hv

theorem State.linkState_wf {s : State} {link : Nat} {up : Bool} (h : Memory.wf s = true) :
    Memory.wf (s.linkState link up) = true := by
  simp only [State.linkState]
  split
  · split
    · exact State.setMevt_wf h
    · exact State.linkDown_wf h
  · split
    · exact State.setMevt_wf h
    · exact h

theorem State.endReset_keeps {s : State} {vi : Nat} (h : Memory.wf s = true) : OptKeeps (s.endReset vi) := by
  simp only [State.endReset]
  split
  · trivial
  · split
    · trivial
    · next hdrain => exact State.setMevt_wf (State.setVi_wf (State.forget_wf (State.viRevoke_wf (Keeps.of_ok hdrain (drainWhere_keeps h) :))))

theorem State.dctlWrite_wf {s : State} {die : Nat} {c : DieCmd} (h : Memory.wf s = true) :
    Memory.wf (s.dctlWrite die c) = true := by
  simp only [State.dctlWrite]
  split
  · exact State.dctlCommand_wf h
  · exact h

theorem State.writeBackDie_wf {s : State} {d : Nat} (h : Memory.wf s = true) : Memory.wf (s.writeBackDie d) = true :=
  foldl_wf h fun _ _ ht => State.writeBackHost_wf ht

theorem State.commandEnds_wf {s : State} {d err : Nat} {f : Die → Die} (h : Memory.wf s = true) :
    Memory.wf (s.commandEnds d err f) = true := State.setMevt_wf (State.setDie_wf h)

theorem State.dctlDone_keeps {s : State} {d : Nat} {ok : Bool} {repair : Nat} (h : Memory.wf s = true) :
    OptKeeps (s.dctlDone d ok repair) := by
  simp only [State.dctlDone]
  split
  · trivial
  · split
    · exact State.commandEnds_wf h
    · trivial
  · exact State.commandEnds_wf (State.writeBackDie_wf h)
  · show Memory.wf _ = true
    split <;> exact State.commandEnds_wf h
  · split
    · exact State.commandEnds_wf h
    · trivial
  · exact State.commandEnds_wf (State.zeroDie_wf h)
  · show Memory.wf _ = true
    split <;> exact State.commandEnds_wf h

theorem State.setPoint_wf {s : State} {i p : Nat} (h : Memory.wf s = true) : Memory.wf (s.setPoint i p) = true := h

theorem State.throttle_wf {s : State} {i : Nat} (h : Memory.wf s = true) : Memory.wf (s.throttle i) = true := h

theorem State.choosePoint_wf {s : State} {i p : Nat} (h : Memory.wf s = true) : Memory.wf (s.choosePoint i p) = true := by
  simp only [State.choosePoint]
  split
  · exact State.throttle_wf (State.setPoint_wf h)
  · exact State.setPoint_wf h

theorem State.lowerPoint_wf {s : State} {i : Nat} (h : Memory.wf s = true) : Memory.wf (s.lowerPoint i) = true := by
  simp only [State.lowerPoint]
  split
  · exact h
  · exact State.choosePoint_wf h

theorem State.capVis_wf {s : State} {watts : List (Nat × Nat)} (h : Memory.wf s = true) : Memory.wf (s.capVis watts) = true :=
  foldl_wf h fun _ _ ht => foldl_wf ht fun _ _ hu => State.lowerPoint_wf hu

theorem State.limitPower_wf {s : State} {watts : Nat} {loads : List (Nat × Nat)} (h : Memory.wf s = true) :
    Memory.wf (s.limitPower watts loads) = true := by
  simp only [State.limitPower]
  split
  · exact foldl_wf h fun _ _ ht => State.lowerPoint_wf ht
  · exact h

theorem State.setBoot_wf {s : State} {b : Boot} (h : Memory.wf s = true) : Memory.wf (s.setBoot b) = true := h

theorem State.placeMonitor_wf {s : State} {pc : Word} (h : Memory.wf s = true) : Memory.wf (s.placeMonitor pc) = true := h

theorem loadImage_wf {img : BootImage} {m : Tab Byte} (h : Tab.wf 0#8 m = true) : Tab.wf 0#8 (loadImage img m) = true := by
  refine List.foldlRecOn (motive := fun m => Tab.wf 0#8 m = true) _ _ h fun m hm x _ => ?_
  have h1 : Tab.wf 0#8 (x.2.bytes.foldl (fun m b => Tab.set 0#8 m (imagePa + x.1 + b.1) b.2) m) = true :=
    List.foldlRecOn (motive := fun m => Tab.wf 0#8 m = true) _ _ hm fun m hm _ _ => Tab.wf_set hm
  have h2 : Tab.wf 0#8 (x.2.relocs.foldl (fun m r => putBytes m (imagePa + x.1 + r.1) (natLe 8 (imageVa + r.2)))
      (x.2.bytes.foldl (fun m b => Tab.set 0#8 m (imagePa + x.1 + b.1) b.2) m)) = true :=
    List.foldlRecOn (motive := fun m => Tab.wf 0#8 m = true) _ _ h1 fun m hm _ _ => putBytes_wf hm
  exact List.foldlRecOn (motive := fun m => Tab.wf 0#8 m = true) _ _ h2 fun m hm _ _ => putBytes_wf hm

theorem imageTags_wf {img : BootImage} {t : Tab (BitVec 16)} (h : Tab.wf tagReset t = true) :
    Tab.wf tagReset (imageTags img t) = true := by
  refine List.foldlRecOn (motive := fun t => Tab.wf tagReset t = true) _ _ h fun t ht x _ => ?_
  split
  · exact ht
  · exact List.foldlRecOn (motive := fun t => Tab.wf tagReset t = true) _ _ ht fun t ht _ _ => Tab.wf_set ht

theorem State.configure_wf {s : State} {keys : BootKeys} {img : BootImage} (h : Memory.wf s = true) :
    Memory.wf (s.configure keys img) = true := by
  obtain ⟨hmem, htags⟩ := Memory.wf_iff.mp h
  refine Memory.wf_iff.mpr ⟨loadImage_wf (putBytes_wf ?_), imageTags_wf (cleanLines_wf (cleanLines_wf htags))⟩
  exact List.foldlRecOn (motive := fun t : Tables => Tab.wf 0#8 t.mem = true) _ _ hmem fun t ht _ _ => Tables.enter_wf ht

end Sys2Proof.Machine
end

section
/-! PROOFS. Every instruction and every event keeps memory canonical. -/

namespace Sys2Proof.Machine

theorem branch_keeps {i : Instr} {a b : Opnd} {off : BitVec 37} {p : Word → Word → Bool} {s : State}
    (h : Memory.wf s = true) : OutKeeps (branch i a b off p s) := issue_keeps h fun _ hc => Keeps.ok hc

theorem fput_keeps {c : Ctx} {t : FTy} {m : RMode} {r : Val × Flags} (h : Memory.wf c.s = true) :
    Keeps (fun r => Memory.wf r.s = true) (fput c t m r) := done_keeps (State.raise_wf (Ctx.putS_wf h))

theorem fp2_keeps {i : Instr} {t : FTy} {rm : Rm} {d a b : Opnd} {f : RMode → Val → Val → Val × Flags} {s : State}
    (h : Memory.wf s = true) : OutKeeps (fp2 i t rm d a b f s) := issue_keeps h fun _ hc => fput_keeps hc

theorem alu2_keeps {i : Instr} {d a : Opnd} {b : SrcB} {f : Word → Word → Word × Flags} {s : State}
    (h : Memory.wf s = true) : OutKeeps (alu2 i d a b f s) :=
  issue_keeps h fun _ hc => done_keeps (State.raise_wf (Ctx.putS_wf hc))

theorem alu1_keeps {i : Instr} {d a : Opnd} {f : Word → Word} {s : State} (h : Memory.wf s = true) :
    OutKeeps (alu1 i d a f s) := issue_keeps h fun _ hc => done_keeps (Ctx.putS_wf hc)

theorem execVtag_keeps {zero : Bool} {d : Opnd} {f : FmtSel} {s : State} (h : Memory.wf s = true) :
    OutKeeps (execVtag zero d f s) := by
  refine issue_keeps h fun _ hc => Quiet.bind ?_ fun _ => done_keeps (Ctx.putImg_wf hc)
  split
  · trivial
  · exact Quiet.bind Quiet.ensure fun _ => trivial

theorem execVcvt_keeps {mk : Mk} {rm : Rm} {d a : Opnd} {f : FmtCode} {s : State} (h : Memory.wf s = true) :
    OutKeeps (execVcvt mk rm d a f s) := by
  simp only [execVcvt]
  refine issue_keeps h fun _ hc => ?_
  split
  · trivial
  · exact Quiet.bind laneMismatch_quiet fun _ => Quiet.bind capCheck_quiet fun _ => Quiet.bind laneConflict_quiet fun _ =>
      putDone_keeps hc

theorem execVresc_keeps {mk : Mk} {rm : Rm} {d a b : Opnd} {s : State} (h : Memory.wf s = true) :
    OutKeeps (execVresc mk rm d a b s) := by
  simp only [execVresc]
  refine issue_keeps h fun _ hc => ?_
  split
  · trivial
  · exact Quiet.bind laneMismatch_quiet fun _ => Quiet.bind capCheck_quiet fun _ => Quiet.bind laneConflict_quiet fun _ =>
      putDone_keeps hc

theorem execVmov_keeps {mk : Mk} {rm : Rm} {all : Bool} {d a : Opnd} {s : State} (h : Memory.wf s = true) :
    OutKeeps (execVmov mk rm all d a s) := by
  refine issue_keeps h fun _ hc => ?_
  split
  · exact done_keeps (Ctx.putImg_wf hc)
  · exact Quiet.bind laneMismatch_quiet fun _ => Quiet.bind capCheck_quiet fun _ => Quiet.bind restart_quiet fun _ =>
      putDone_keeps hc

theorem execVext_keeps {rm : Rm} {d a : Opnd} {e : IdxSel 10} {s : State} (h : Memory.wf s = true) :
    OutKeeps (execVext rm d a e s) := by
  simp only [execVext]
  refine issue_keeps h fun _ hc => Quiet.bind elemIndex_quiet fun _ => Quiet.bind consume_quiet fun _ => ?_
  split
  · exact done_keeps (State.raise_wf (Ctx.putS_wf hc))
  · exact done_keeps (Ctx.putS_wf hc)

theorem execVcmp_keeps {mk : Mk} {cond : BitVec 3} {d a b : Opnd} {s : State} (h : Memory.wf s = true) :
    OutKeeps (execVcmp mk cond d a b s) := by
  simp only [execVcmp]
  refine issue_keeps h fun _ hc => Quiet.bind palette_quiet fun _ => Quiet.bind laneMismatch_quiet fun _ =>
    Quiet.bind capCheck_quiet fun _ => ?_
  split
  · exact Quiet.bind consume_quiet fun _ => done_keeps (State.raise_wf (Ctx.putM_wf hc))
  · exact done_keeps (State.raise_wf (Ctx.putM_wf hc))

theorem execVdot4_keeps {mk : Mk} {rm : Rm} {sat : Bool} {d a b : Opnd} {s : State} (h : Memory.wf s = true) :
    OutKeeps (execVdot4 mk rm sat d a b s) := by
  refine issue_overlap_keeps h (fun _ => Quiet.bind overlapCheck_quiet fun _ => overlapCheck_quiet) fun _ hc => ?_
  split
  · exact dotQueue_keeps hc
  · exact finishV_keeps (dotSteps_keeps hc)

theorem execCop_keeps {mk : Mk} {rm : Rm} {d : BitVec 3} {a b : Opnd} {s : State} (h : Memory.wf s = true) :
    OutKeeps (execCop mk rm d a b s) := by
  simp only [execCop]
  split
  · exact stopIssue_keeps h trivial
  · exact issue_keeps h fun _ hc => accumulate_keeps hc

theorem execCopk_keeps {mk : Mk} {rm : Rm} {d : BitVec 3} {a b : Opnd} {k : BitVec 4} {s : State}
    (h : Memory.wf s = true) : OutKeeps (execCopk mk rm d a b k s) := by
  unfold execCopk
  extract_lets i pair ka
  split
  · exact stopIssue_keeps h trivial
  · exact issue_keeps h fun _ hc => accumulate_keeps hc

theorem execCwr_keeps {n : BitVec 12} {a : Opnd} {s : State} (h : Memory.wf s = true) : OutKeeps (execCwr n a s) :=
  issue_keeps h fun _ hc => Keeps.bind (State.crWrite_keeps hc) fun _ h1 => h1

theorem execCrsw_keeps {d : Opnd} {n : BitVec 12} {a : Opnd} {s : State} (h : Memory.wf s = true) :
    OutKeeps (execCrsw d n a s) :=
  issue_keeps h fun _ hc => Keeps.bind (State.crWrite_keeps hc) fun _ h1 => Ctx.putS_wf h1

theorem execLd_keeps {sz : BitVec 3} {sp : Space} {d a b : Opnd} {imm : BitVec 16} {s : State} (h : Memory.wf s = true) :
    OutKeeps (execLd sz sp d a b imm s) := by
  refine issue_keeps h fun _ hc => Quiet.bind Quiet.ensure fun _ => Quiet.bind (State.locate_quiet fun _ => trivial) fun _ =>
    ?_
  split
  · exact Keeps.bind (State.order_keeps hc) fun _ hs1 => Keeps.bind (State.loadOrder_keeps hs1) fun _ hs2 =>
      done_keeps (Ctx.putS_wf (State.touch_wf hs2))
  · exact Keeps.bind (State.loadAt_keeps hc) fun _ hp => Ctx.putS_wf hp

theorem execSt_keeps {sz : BitVec 2} {sp : Space} {d a b : Opnd} {imm : BitVec 16} {s : State} (h : Memory.wf s = true) :
    OutKeeps (execSt sz sp d a b imm s) := by
  refine issue_keeps h fun _ hc => Quiet.bind Quiet.ensure fun _ => Quiet.bind (State.locate_quiet fun _ => trivial) fun _ =>
    ?_
  split
  · exact Keeps.bind (State.order_keeps hc) fun _ hs1 => Keeps.bind (State.inOrder_keeps hs1) fun _ hs2 =>
      done_keeps (State.regStore_wf (State.touch_wf hs2))
  · exact Keeps.bind (State.storeAt_keeps hc) fun _ hp => hp

theorem execStPatch_keeps {sc : Scope} {o : Ord} {d a b : Opnd} {imm : BitVec 16} {s : State} (h : Memory.wf s = true) :
    OutKeeps (execStPatch sc o d a b imm s) :=
  issue_keeps h fun _ hc => Quiet.bind Quiet.ensure fun _ => Quiet.bind (State.locate_quiet fun _ => trivial) fun _ =>
    Keeps.bind (State.storeAt_keeps hc) fun _ h1 => done_keeps h1

theorem execAmo_keeps {op : Aop} {w8 : Bool} {sp : Space} {d a b : Opnd} {imm : BitVec 16} {s : State}
    (h : Memory.wf s = true) : OutKeeps (execAmo op w8 sp d a b imm s) :=
  issue_keeps h fun _ hc => Keeps.bind (State.scalarAtomic_keeps hc) fun _ h1 => done_keeps (Ctx.putS_wf h1)

theorem execCas_keeps {w8 : Bool} {sp : Space} {d a b : Opnd} {imm : BitVec 16} {s : State} (h : Memory.wf s = true) :
    OutKeeps (execCas w8 sp d a b imm s) :=
  issue_keeps h fun _ hc => Keeps.bind (State.scalarAtomic_keeps hc) fun _ h1 => done_keeps (Ctx.putS_wf h1)

theorem execFence_keeps {kind : BitVec 3} {sc : Scope} {s : State} (h : Memory.wf s = true) :
    OutKeeps (execFence kind sc s) := by
  refine issue_keeps h fun _ hc => done_keeps ?_
  split
  · exact hc
  · exact State.fence_wf hc

theorem execMnf_keeps {d : BitVec 4} {a b : Opnd} {imm : BitVec 16} {s : State} (h : Memory.wf s = true) :
    OutKeeps (execMnf d a b imm s) :=
  issue_keeps h fun c hc => Quiet.bind Quiet.ensure fun _ => Quiet.bind (State.locate_quiet fun _ => trivial) fun _ =>
    Keeps.bind (State.performEarlier_keeps hc) fun s0 h0 => Keeps.bind (State.plainRead_keeps h0) fun p hp => by
      dsimp only
      split
      · trivial
      · exact done_keeps (State.setMe_wf hp)

theorem execMnfget_keeps {d : Opnd} {slot sel : BitVec 4} {s : State} (h : Memory.wf s = true) :
    OutKeeps (execMnfget d slot sel s) :=
  issue_keeps h fun _ hc => Quiet.bind Ctx.slotH_quiet fun _ => done_keeps (Ctx.putS_wf hc)

theorem execMnfset_keeps {add : Bool} {d : BitVec 4} {a : Opnd} {sel : BitVec 4} {s : State} (h : Memory.wf s = true) :
    OutKeeps (execMnfset add d a sel s) := by
  simp only [execMnfset]
  refine issue_keeps h fun _ hc => Quiet.bind Ctx.slotH_quiet fun _ => Quiet.bind Quiet.ensure fun _ => ?_
  split
  · trivial
  · exact done_keeps (State.setMe_wf hc)

theorem execVld_keeps {mk : Mk} {rm : Rm} {ql : Qual} {trim : Bool} {d a b : Opnd} {imm : BitVec 16} {s : State}
    (h : Memory.wf s = true) : OutKeeps (execVld mk rm ql trim d a b imm s) :=
  issue_keeps h fun _ hc => LoadSpec.body_keeps (fun _ => trivial) hc

theorem execVlds_keeps {mk : Mk} {rm : Rm} {ql : Qual} {d a b : Opnd} {imm : BitVec 16} {s : State} (h : Memory.wf s = true) :
    OutKeeps (execVlds mk rm ql d a b imm s) :=
  issue_keeps h fun _ hc => LoadSpec.body_keeps (fun _ => trivial) hc

theorem execVldx_keeps {mk : Mk} {rm : Rm} {ql : Qual} {d a b : Opnd} {imm : BitVec 16} {s : State} (h : Memory.wf s = true) :
    OutKeeps (execVldx mk rm ql d a b imm s) :=
  issue_keeps h fun _ hc => LoadSpec.body_keeps (fun _ => trivial) hc

theorem execVldf_keeps {mk : Mk} {rm : Rm} {ql : Qual} {d a b : Opnd} {imm : BitVec 16} {s : State} (h : Memory.wf s = true) :
    OutKeeps (execVldf mk rm ql d a b imm s) :=
  issue_keeps h fun _ hc => LoadSpec.body_keeps (fun _ => trivial) hc

theorem execVldm_keeps {mk : Mk} {rm : Rm} {sp : Space} {d : Opnd} {slot : BitVec 4} {b e : Opnd} {s : State}
    (h : Memory.wf s = true) : OutKeeps (execVldm mk rm sp d slot b e s) :=
  issue_keeps h fun _ hc => LoadSpec.body_keeps (fun _ => Ctx.manLoad_quiet) hc

theorem execVldg_keeps {mk : Mk} {rm : Rm} {sp : Space} {d : Opnd} {slot : BitVec 4} {b e : Opnd} {k : BitVec 4} {s : State}
    (h : Memory.wf s = true) : OutKeeps (execVldg mk rm sp d slot b e k s) :=
  issue_keeps h fun _ hc => LoadSpec.body_keeps (fun _ => Ctx.manLoad_quiet) hc

theorem execVstm_keeps {mk : Mk} {rm : Rm} {sp : Space} {d : Opnd} {slot : BitVec 4} {b e : Opnd} {s : State}
    (h : Memory.wf s = true) : OutKeeps (execVstm mk rm sp d slot b e s) :=
  issue_keeps h fun _ hc => Quiet.bind Ctx.slotH_quiet fun _ => Quiet.bind Ctx.spTen_quiet fun _ => vecStore_keeps hc

theorem execVstg_keeps {mk : Mk} {rm : Rm} {sp : Space} {d : Opnd} {slot : BitVec 4} {b e : Opnd} {k : BitVec 4} {s : State}
    (h : Memory.wf s = true) : OutKeeps (execVstg mk rm sp d slot b e k s) :=
  issue_keeps h fun _ hc => Quiet.bind Ctx.slotH_quiet fun _ => Quiet.bind Ctx.spTen_quiet fun _ => vecStore_keeps hc

theorem execVamo_keeps {mk : Mk} {op : Aop} {noret : Bool} {sp : Space} {d a b e : Opnd} {x : BitVec 11} {s : State}
    (h : Memory.wf s = true) : OutKeeps (execVamo mk op noret sp d a b e x s) :=
  issue_keeps h fun c hc => Keeps.bind (amoPlan_keeps hc) fun p hp => by
    have h4 : Memory.wf ((p.apply op x.toInt (c.v_ .c)).1.raise (p.apply op x.toInt (c.v_ .c)).2.fl) = true :=
      State.raise_wf (AmoPlan.apply_wf hp)
    dsimp only
    split
    · exact done_keeps h4
    · exact done_keeps (Ctx.putV_wf h4)

theorem execVsave_keeps {sc : Scope} {o : Ord} {a b e : Opnd} {imm : BitVec 16} {s : State} (h : Memory.wf s = true) :
    OutKeeps (execVsave sc o a b e imm s) :=
  issue_keeps h fun _ hc => Keeps.bind (Ctx.imagePlan_keeps hc) fun _ hp => Keeps.bind (imageReady_keeps hp) fun _ h2 =>
    done_keeps (writeImage_wf h2)

theorem execVrstr_keeps {sc : Scope} {o : Ord} {d a b : Opnd} {imm : BitVec 16} {s : State} (h : Memory.wf s = true) :
    OutKeeps (execVrstr sc o d a b imm s) :=
  issue_keeps h fun c hc => Keeps.bind (Ctx.imagePlan_keeps hc) fun p hp => Keeps.bind (readLines_keeps hp) fun q hq => by
    have h3 : Memory.wf (c.putImg (p.1.foldl (fun s l => s.touch l.2) q.1) (VReg.ofImage q.2)) = true :=
      Ctx.putImg_wf (foldl_wf hq fun _ _ ht => State.touch_wf ht)
    dsimp only
    split
    · trivial
    · split
      · exact done_keeps (State.setMe_wf h3)
      · exact done_keeps h3

theorem execCld_keeps {rm : Rm} {atom : Bool} {sp : Space} {d : BitVec 3} {slot : BitVec 4} {b e : Opnd} {ncol : BitVec 9}
    {s : State} (h : Memory.wf s = true) : OutKeeps (execCld rm atom sp d slot b e ncol s) :=
  issue_keeps h fun c hc => Quiet.bind Ctx.canvas_quiet fun cv => Quiet.bind Ctx.slotH_quiet fun m =>
    Quiet.bind Ctx.spTen_quiet fun _ => Keeps.bind (planTile_keeps hc Quiet.ensure) fun p hp => by
      obtain ⟨hps, hlater⟩ := hp
      split
      · exact Quiet.bind (Quiet.forEach fun _ => State.notHeld_quiet) fun _ =>
          Keeps.bind (State.readyTile_keeps hps) fun s1 h1 => Quiet.bind (loadTags_quiet hlater) fun _ => State.startTile_wf h1
      · exact Keeps.bind (State.tileGather_keeps hps) fun q hq => Quiet.bind (loadTags_quiet hlater) fun _ =>
          done_keeps (State.raise_wf (State.setCanvas_wf (foldl_wf hq fun _ _ ht => State.touch_wf ht)))

theorem execCst_keeps {rm : Rm} {atom : Bool} {sp : Space} {d : BitVec 3} {slot : BitVec 4} {b e : Opnd} {ncol : BitVec 9}
    {s : State} (h : Memory.wf s = true) : OutKeeps (execCst rm atom sp d slot b e ncol s) :=
  issue_keeps h fun c hc => Quiet.bind Ctx.canvas_quiet fun cv => Quiet.bind Ctx.slotH_quiet fun m =>
    Quiet.bind Ctx.spTen_quiet fun _ => Keeps.bind (planTile_keeps hc Quiet.ensure) fun p hp => by
      obtain ⟨hps, hlater⟩ := hp
      refine Quiet.bind (storeTags_quiet hlater) fun _ => ?_
      split
      · exact Keeps.bind (State.readyTile_keeps hps) fun s1 h1 => State.startTile_wf h1
      · exact Keeps.bind (State.storeLines_keeps hps) fun s1 h1 => done_keeps (State.raise_wf (State.writeLines_wf h1))

theorem execCjoin_keeps {d : BitVec 3} {j : JoinSel} {s : State} (h : Memory.wf s = true) : OutKeeps (execCjoin d j s) := by
  refine issue_keeps h fun _ hc => Quiet.bind Ctx.canvas_quiet fun _ => ?_
  split
  · refine done_keeps ?_
    split
    · exact State.unbind_wf hc
    · exact hc
  · exact Quiet.bind Quiet.ensure fun _ => Quiet.bind Quiet.ensure fun _ => Quiet.bind Quiet.ensure fun _ =>
      Quiet.bind Quiet.ensure fun _ => done_keeps (State.setCanvas_wf hc)

theorem execCstj_keeps {rm : Rm} {sc : Scope} {o : Ord} {d : BitVec 3} {slot : BitVec 4} {b e : Opnd} {s : State}
    (h : Memory.wf s = true) : OutKeeps (execCstj rm sc o d slot b e s) :=
  issue_keeps h fun c hc => Quiet.bind Ctx.canvas_quiet fun cv => by
    split
    · trivial
    · refine Quiet.bind Ctx.slotH_quiet fun m => Keeps.bind (planTile_keeps hc trivial) fun p hp => ?_
      obtain ⟨hps, hlater⟩ := hp
      refine Quiet.bind (storeTags_quiet hlater) fun _ => ?_
      split
      · trivial
      · exact Keeps.bind (State.readyTile_keeps hps) fun s1 h1 => State.formJoint_wf (State.setMe_wf (State.setCar_wf h1))

theorem execCpstart_keeps {k slot : BitVec 4} {b e : Opnd} {ncol : BitVec 16} {s : State} (h : Memory.wf s = true) :
    OutKeeps (execCpstart k slot b e ncol s) :=
  issue_keeps h fun _ hc => Quiet.bind Ctx.cpDest_quiet fun _ => Quiet.bind Ctx.startable_quiet fun _ =>
    Quiet.bind Ctx.slotH_quiet fun _ => Keeps.bind (Ctx.memFmt_keeps hc) fun _ hp => Quiet.bind Ctx.cpNarrow_quiet fun _ =>
    Quiet.bind (cpBound_quiet rowsBound_quiet) fun _ => Ctx.startStream_keeps hp

theorem execCpgather_keeps {mk : Mk} {k slot : BitVec 4} {b e : Opnd} {ncol : BitVec 16} {s : State} (h : Memory.wf s = true) :
    OutKeeps (execCpgather mk k slot b e ncol s) :=
  issue_keeps h fun _ hc => Quiet.bind Ctx.cpDest_quiet fun _ => Quiet.bind Ctx.startable_quiet fun _ =>
    Quiet.bind Ctx.slotH_quiet fun _ => Keeps.bind (Ctx.memFmt_keeps hc) fun _ hp => Quiet.bind Ctx.cpNarrow_quiet fun _ => by
      dsimp only
      split
      · trivial
      · exact Quiet.bind laneMismatch_quiet fun _ => Quiet.bind capCheck_quiet fun _ => Quiet.bind consumeAs_quiet fun _ =>
          Quiet.bind (cpBound_quiet (Quiet.forEach fun _ => Quiet.ensure)) fun _ => Ctx.startStream_keeps hp

theorem execCpscatter_keeps {rm : Rm} {k slot : BitVec 4} {b e : Opnd} {ncol : BitVec 16} {s : State} (h : Memory.wf s = true) :
    OutKeeps (execCpscatter rm k slot b e ncol s) :=
  issue_keeps h fun _ hc => Quiet.bind Ctx.cpDest_quiet fun _ => Quiet.bind Ctx.startable_quiet fun _ =>
    Quiet.bind Ctx.slotH_quiet fun _ => Quiet.bind State.free_quiet fun _ => Quiet.bind Ctx.cpNarrow_quiet fun _ =>
    Quiet.bind (cpBound_quiet rowsBound_quiet) fun _ => Ctx.startStream_keeps hc

theorem execCpwait_keeps {sc : Scope} {part : Option Opnd} {d : Opnd} {k : BitVec 4} {s : State}
    (h : Memory.wf s = true) : OutKeeps (execCpwait sc part d k s) := by
  simp only [execCpwait]
  refine issue_keeps h fun _ hc => Quiet.bind Ctx.streamOf_quiet fun _ => ?_
  split
  · trivial
  · exact Keeps.bind (State.order_keeps hc) fun _ hs1 => done_keeps (Ctx.putS_wf hs1)

theorem execCpresume_keeps {d : Opnd} {k : BitVec 4} {mode : BitVec 2} {s : State} (h : Memory.wf s = true) :
    OutKeeps (execCpresume d k mode s) := by
  refine issue_keeps h fun _ hc => Quiet.bind Ctx.streamOf_quiet fun _ => ?_
  split
  · refine Keeps.bind (p := fun t => Memory.wf t = true) ?_ fun _ hs1 => ?_
    · split
      · exact State.drainCore_keeps hc
      · exact hc
    refine done_keeps (Ctx.putS_wf (State.setStream_wf ?_))
    split
    · exact State.setMyTeam_wf (State.withdrawCopy_wf hs1)
    · exact State.withdrawCopy_wf hs1
  · exact done_keeps (Ctx.putS_wf hc)

theorem execCtxsave_keeps {vec dirty msks mnfs : Bool} {d : Opnd} {base : CtxBase} {imm : BitVec 16} {s : State}
    (h : Memory.wf s = true) : OutKeeps (execCtxsave vec dirty msks mnfs d base imm s) :=
  issue_keeps h fun _ hc => Quiet.bind Quiet.ensure fun _ => Quiet.bind Ctx.trapped_quiet fun _ =>
    Quiet.bind State.linesFrom_quiet fun _ => Quiet.bind noTensor_quiet fun _ =>
    Quiet.bind (Quiet.forEach fun _ => State.free_quiet) fun _ => Quiet.bind State.requests_quiet fun _ =>
    Keeps.bind (State.drainCore_keeps hc) fun _ h0 => Keeps.bind (imageReady_keeps h0) fun _ h1 =>
      done_keeps (Ctx.putS_wf (State.setMe_wf (writeUntLines_wf h1)))

theorem execCtxrstr_keeps {lzy : Bool} {base : CtxBase} {imm : BitVec 16} {s : State} (h : Memory.wf s = true) :
    OutKeeps (execCtxrstr lzy base imm s) :=
  issue_keeps h fun c hc => Quiet.bind Ctx.trapped_quiet fun x => Keeps.bind (State.order_keeps hc) fun s1 h1 =>
    Keeps.bind (State.imageRead_keeps h1) fun head h2 => by
      split
      extract_lets n jp
      have hjp : Keeps (fun d => Memory.wf d.s = true) (jp ()) := by
        refine Keeps.bind (State.imageRead_keeps h2) fun privLine h3 => ?_
        split
        extract_lets priv jp'
        have hjp' : Keeps (fun d => Memory.wf d.s = true) (jp' ()) := by
          refine Keeps.bind (State.imageRead_keeps h3) fun image h4 => ?_
          split
          extract_lets jp''
          have hjp'' : Keeps (fun d => Memory.wf d.s = true) (jp'' ()) :=
            Quiet.bind State.linesFrom_quiet fun ls =>
              done_keeps (State.reallocMine_wf (State.setMe_wf (foldl_wf h4 fun _ _ ht => State.touch_wf ht)))
          split
          · exact Quiet.bind incompatible_quiet fun _ => hjp''
          · exact hjp''
        generalize (if c.me.priv == .mon then 1 else 0 : Nat) = own
        split
        · exact Quiet.bind incompatible_quiet fun _ => hjp'
        · exact hjp'
      split
      · exact Quiet.bind incompatible_quiet fun _ => hjp
      · exact hjp

theorem execEvTeamReclaim_keeps {team : Nat} {s : State} (h : Memory.wf s = true) : OutKeeps (execEvTeamReclaim team s) := by
  refine OptKeeps.getD ?_ h
  simp only [State.reclaim]
  split
  · trivial
  · split
    · trivial
    · split
      · split
        · trivial
        · exact foldl_wf h fun _ _ ht => State.cancelStream_wf ht
      · exact State.setTeam_wf (foldl_wf h fun _ _ ht => State.cancelStream_wf ht)

theorem execLaunch_keeps {d a : Opnd} {s : State} (h : Memory.wf s = true) : OutKeeps (execLaunch d a s) :=
  issue_keeps h fun c hc => Quiet.bind Quiet.ensure fun _ => Keeps.bind (State.plainRead_keeps hc) fun p hp =>
    Keeps.bind (State.drainCore_keeps hp) fun s2 h2 => Quiet.bind launchResult_quiet fun r => by
      cases r with
      | some r =>
        refine done_keeps (Ctx.putS_wf ?_)
        split
        · exact State.spendEntry_wf h2
        · exact h2
      | none => exact done_keeps (Ctx.putS_wf (State.createCaravan_wf h2))

theorem execExit_keeps {s : State} (h : Memory.wf s = true) : OutKeeps (execExit s) := by
  refine issue_keeps h fun _ hc => ?_
  split
  · trivial
  · exact Keeps.bind (State.drainCore_keeps hc) fun _ hs1 => State.leave_wf (State.charge_wf hs1)

theorem execSnext_keeps {d : Opnd} {s : State} (h : Memory.wf s = true) : OutKeeps (execSnext d s) := by
  simp only [execSnext]
  refine issue_keeps h fun _ hc => ?_
  split
  · exact done_keeps (Ctx.putS_wf (State.setCar_wf hc))
  · exact done_keeps (Ctx.putS_wf hc)

theorem execWaitw_keeps {cond : BitVec 3} {sc : Scope} {d a b e : Opnd} {imm : BitVec 16} {s : State} (h : Memory.wf s = true) :
    OutKeeps (execWaitw cond sc d a b e imm s) :=
  issue_keeps h fun c hc => Quiet.bind Quiet.ensure fun _ => Quiet.bind (State.locate_quiet fun _ => trivial) fun l =>
    Keeps.bind (State.loadAt_keeps hc) fun p hp => by
      dsimp only
      split
      · exact done_keeps (Ctx.putS_wf hp)
      · exact State.setMe_wf hp

theorem execWake_keeps {sc : Scope} {a b : Opnd} {imm : BitVec 16} {s : State} (h : Memory.wf s = true) :
    OutKeeps (execWake sc a b imm s) :=
  issue_keeps h fun c hc => Quiet.bind (State.reach_quiet fun _ => trivial) fun x =>
    Keeps.bind (State.order_keeps hc) fun s1 h1 => by
      have h2 : Memory.wf ((s1.used x).notify (x.pa / 128)) = true := State.notify_wf (State.used_wf h1)
      dsimp only
      split
      · exact h2
      · exact h2

theorem execEvWaitwReevaluate_keeps {sid : Nat} {s : State} (h : Memory.wf s = true) :
    OutKeeps (execEvWaitwReevaluate sid s) := by
  unfold execEvWaitwReevaluate
  extract_lets st
  split
  · next cond sc d a b e imm line hrun =>
    have hw : OutKeeps (execWaitw cond sc d a b e imm (({ s with cur := sid }).setStrand sid { st with run := .active })) :=
      execWaitw_keeps h
    split
    · next s1 hnext => rw [hnext] at hw; exact hw
    · exact hw
  · exact h

theorem execTlbinv_keeps {ty : BitVec 3} {a b : Opnd} {s : State} (h : Memory.wf s = true) :
    OutKeeps (execTlbinv ty a b s) := by
  unfold execTlbinv
  extract_lets i sup
  split
  · exact stopIssue_keeps h trivial
  · split
    · exact stopIssue_keeps h trivial
    · exact issue_keeps h fun c hc => Quiet.bind Quiet.ensure fun _ =>
        Keeps.bind (State.drainCore_keeps hc) fun s1 h1 => tlbBody_keeps h1

theorem execRcstart_keeps {rm : Rm} {d a b : Opnd} {f : FmtCode} {s : State} (h : Memory.wf s = true) :
    OutKeeps (execRcstart rm d a b f s) := by
  simp only [execRcstart]
  refine issue_keeps h fun _ hc => Quiet.bind Quiet.ensure fun _ => ?_
  split
  · exact done_keeps (Ctx.putS_wf hc)
  · split
    · exact done_keeps (Ctx.putS_wf hc)
    · exact Keeps.bind (State.drainCore_keeps hc) fun _ hs1 => done_keeps (Ctx.putS_wf (State.setVi_wf hs1))

theorem execEvRecodePageStart_keeps {vi : Nat} {s : State} (h : Memory.wf s = true) : OutKeeps (execEvRecodePageStart vi s) :=
  OptKeeps.getD (State.recodeStart_keeps h) h

theorem execEvRecodePageReencode_keeps {vi : Nat} {s : State} (h : Memory.wf s = true) :
    OutKeeps (execEvRecodePageReencode vi s) :=
  OptKeeps.getD (State.recodePage_keeps h) h

theorem execHomemap_keeps {d a b : Opnd} {s : State} (h : Memory.wf s = true) : OutKeeps (execHomemap d a b s) := by
  simp only [execHomemap]
  refine issue_keeps h fun _ hc => ?_
  split
  · exact done_keeps (Ctx.putS_wf hc)
  · split
    · next hleave => exact done_keeps (Ctx.putS_wf (State.moveHome_wf (Keeps.of_ok hleave (State.leaveSlice_keeps hc) :)))
    · exact State.setMe_wf hc

theorem execIdle_keeps {d a : Opnd} {s : State} (h : Memory.wf s = true) : OutKeeps (execIdle d a s) := by
  simp only [execIdle]
  refine issue_keeps h fun _ hc => Quiet.bind Quiet.ensure fun _ => ?_
  split
  · exact done_keeps (Ctx.putS_wf hc)
  · split
    · exact State.setMe_wf hc
    · exact done_keeps (Ctx.putS_wf hc)

theorem execEvIdleWake_keeps {sid : Nat} {s : State} (h : Memory.wf s = true) : OutKeeps (execEvIdleWake sid s) := by
  unfold execEvIdleWake
  extract_lets st
  split
  · next d a hrun =>
    have hi : OutKeeps (execIdle d a (({ s with cur := sid }).setStrand sid { st with run := .active })) := execIdle_keeps h
    split
    · next s1 hnext => rw [hnext] at hi; exact hi
    · exact hi
  · exact h

theorem execEvAccessPerform_keeps {core track : Nat} {s : State} (h : Memory.wf s = true) :
    OutKeeps (execEvAccessPerform core track s) := by
  simp only [execEvAccessPerform]
  show Memory.wf _ = true
  split
  · exact OptKeeps.getD (State.performNext_keeps h) h
  · exact OptKeeps.getD (State.performLate_keeps h) h

theorem execEvPriResponse_keeps {p : HostPage} {ok : Bool} {s : State} (h : Memory.wf s = true) :
    OutKeeps (execEvPriResponse p ok s) := by
  simp only [execEvPriResponse]
  show Memory.wf _ = true
  split <;> exact h

theorem execEvFrameMigration_keeps {frame : Nat} {s : State} (h : Memory.wf s = true) :
    OutKeeps (execEvFrameMigration frame s) := by
  simp only [execEvFrameMigration]
  show Memory.wf _ = true
  split <;> exact h

theorem execEvFrameSwitch_keeps {frame : Nat} {s : State} (h : Memory.wf s = true) :
    OutKeeps (execEvFrameSwitch frame s) := by
  simp only [execEvFrameSwitch]
  show Memory.wf _ = true
  split <;> exact h

theorem execEvEphemeralExpiry_keeps {line : Nat} {s : State} (h : Memory.wf s = true) :
    OutKeeps (execEvEphemeralExpiry line s) := by
  simp only [execEvEphemeralExpiry]
  show Memory.wf _ = true
  split <;> exact h

theorem execEvSoftError_keeps {team : Option Nat} {line : Nat} {correctable : Bool} {s : State} (h : Memory.wf s = true) :
    OutKeeps (execEvSoftError team line correctable s) := by
  simp only [execEvSoftError]
  show Memory.wf _ = true
  split
  · exact h
  · exact State.softError_wf h

theorem execEvWatchdogExpiry_keeps {sid : Nat} {s : State} (h : Memory.wf s = true) :
    OutKeeps (execEvWatchdogExpiry sid s) := by
  simp only [execEvWatchdogExpiry]
  show Memory.wf _ = true
  split
  · exact State.expireWatchdog_wf h
  · exact h

theorem execVshuf_keeps {mk : Mk} {rm : Rm} {d a b : Opnd} {s : State} (h : Memory.wf s = true) :
    OutKeeps (execVshuf mk rm d a b s) := by
  simp only [execVshuf]
  refine issue_keeps h fun _ hc => ?_
  split
  · trivial
  · exact Quiet.bind laneMismatch_quiet fun _ => Quiet.bind capCheck_quiet fun _ => Quiet.bind laneConflict_quiet fun _ =>
      putDone_keeps hc

theorem execVlook_keeps {mk : Mk} {rm : Rm} {d a b : Opnd} {s : State} (h : Memory.wf s = true) :
    OutKeeps (execVlook mk rm d a b s) := by
  simp only [execVlook]
  refine issue_keeps h fun _ hc => ?_
  split
  · trivial
  · exact Quiet.bind laneMismatch_quiet fun _ => Quiet.bind capCheck_quiet fun _ => Quiet.bind laneConflict_quiet fun _ =>
      putDone_keeps hc

theorem execVunpk_keeps {mk : Mk} {d a : Opnd} {w1 : BitVec 4} {f : FmtCode} {s : State} (h : Memory.wf s = true) :
    OutKeeps (execVunpk mk d a w1 f s) := by
  simp only [execVunpk]
  refine issue_keeps h fun _ hc => ?_
  split
  · trivial
  · exact Quiet.bind laneMismatch_quiet fun _ => Quiet.bind capCheck_quiet fun _ => Quiet.bind laneConflict_quiet fun _ =>
      putDone_keeps hc

theorem execVpack_keeps {mk : Mk} {sat : Bool} {d a : Opnd} {w1 : BitVec 4} {s : State} (h : Memory.wf s = true) :
    OutKeeps (execVpack mk sat d a w1 s) := by
  simp only [execVpack]
  refine issue_keeps h fun _ hc => ?_
  split
  · trivial
  · refine Quiet.bind laneMismatch_quiet fun _ => Quiet.bind capCheck_quiet fun _ => Quiet.bind Quiet.ensure fun _ =>
      Quiet.bind laneConflict_quiet fun _ => ?_
    split
    · exact done_keeps (State.raise_wf (foldl_wf hc fun _ _ hu => State.setMe_wf hu))
    · exact done_keeps (State.raise_wf (Ctx.putImg_wf hc))

theorem execVtopk_keeps {mk : Mk} {rm : Rm} {d a x : Opnd} {k : BitVec 11} {bs : BitVec 3} {s : State}
    (h : Memory.wf s = true) : OutKeeps (execVtopk mk rm d a x k bs s) := by
  simp only [execVtopk]
  refine issue_overlap_keeps h (fun _ => Quiet.bind overlapCheck_quiet fun _ => overlapCheck_quiet) fun _ hc => ?_
  split
  · trivial
  · refine Quiet.bind laneMismatch_quiet fun _ => Quiet.bind capCheck_quiet fun _ => Quiet.bind Quiet.ensure fun _ =>
      Quiet.bind laneConflict_quiet fun _ => ?_
    split
    · exact done_keeps (State.setMe_wf (putVAt_wf (putVAt_wf hc)))
    · exact done_keeps (State.pushQ_wf (State.raise_wf (putVAt_wf (putVAt_wf hc))))
    · exact done_keeps (putVAt_wf (putVAt_wf (putVAt_wf hc)))

theorem execXopen_keeps {d a : Opnd} {s : State} (h : Memory.wf s = true) : OutKeeps (execXopen d a s) :=
  issue_keeps h fun c hc => Quiet.bind Quiet.ensure fun _ => Keeps.bind (State.drainCore_keeps hc) fun s0 h0 =>
    Keeps.bind (nameLine_keeps (State.plainRead_keeps h0)) fun p hp => by
      dsimp only
      split
      · exact done_keeps (Ctx.putS_wf hp)
      · split
        · exact done_keeps (Ctx.putS_wf (State.spendBy_wf hp))
        · next e => exact Keeps.of_error e (Ctx.readSpan_keeps hp)
        · next s2 tb e =>
          have h2 : Memory.wf s2 = true := (Keeps.of_ok e (Ctx.readSpan_keeps hp) :)
          split
          · exact done_keeps (Ctx.putS_wf h2)
          · split
            · exact done_keeps (Ctx.putS_wf h2)
            · exact done_keeps (Ctx.putS_wf h2)

theorem execXsend_keeps {d a : Opnd} {slot : BitVec 4} {e : Opnd} {s : State} (h : Memory.wf s = true) :
    OutKeeps (execXsend d a slot e s) :=
  issue_keeps h fun _ hc => Quiet.bind Ctx.liveChan_quiet fun _ => Quiet.bind Ctx.slotH_quiet fun _ =>
    Keeps.bind (Ctx.memFmt_keeps hc) fun _ hp => Quiet.bind Ctx.cpNarrow_quiet fun _ => Quiet.bind Quiet.ensure fun _ =>
    Quiet.bind capBytes_quiet fun _ => Quiet.bind State.sourceBase_quiet fun _ => Quiet.bind State.regionCells_quiet fun _ =>
    Keeps.bind (Ctx.startable'_keeps hp) fun _ h2 => Ctx.startOp_keeps h2

theorem execXred_keeps {mode : BitVec 2} {rm : Rm} {d a : Opnd} {hb hc : BitVec 4} {s : State} (h : Memory.wf s = true) :
    OutKeeps (execXred mode rm d a hb hc s) :=
  issue_keeps h fun c hcs => Quiet.bind Ctx.liveChan_quiet fun ch => Quiet.bind Ctx.slotH_quiet fun ms =>
    Quiet.bind Ctx.slotH_quiet fun md => Keeps.bind (Ctx.memFmt_keeps hcs) fun p hp => Quiet.bind Ctx.cpNarrow_quiet fun _ =>
    Quiet.bind Ctx.destFmt_quiet fun g => Quiet.bind Ctx.cpNarrow_quiet fun _ => Quiet.bind capBytes_quiet fun _ =>
    Quiet.bind State.sourceBase_quiet fun _ => Quiet.bind State.regionCells_quiet fun _ => Quiet.bind State.xlat_quiet fun _ =>
    Quiet.bind State.regionCells_quiet fun _ => by
      dsimp only
      split
      · trivial
      · exact Quiet.bind Quiet.ensure fun _ => Quiet.bind Quiet.ensure fun _ => Quiet.bind xredPages_quiet fun _ =>
          Keeps.bind (Ctx.startable'_keeps hp) fun s2 h2 => Ctx.startOp_keeps h2

theorem execXwait_keeps {sc : Scope} {d a b : Opnd} {s : State} (h : Memory.wf s = true) :
    OutKeeps (execXwait sc d a b s) := by
  unfold execXwait
  refine issue_keeps h fun _ hc => Quiet.bind Ctx.chanOf_quiet fun _ => ?_
  extract_lets vi cn last n os fl ops reported
  refine Quiet.bind Quiet.ensure fun _ => ?_
  have hreported : ∀ u, Keeps (fun r => Memory.wf r.s = true) (reported u) := fun _ => by
    unfold reported
    split
    · exact State.setChan_wf hc
    · exact Keeps.bind (State.order_keeps hc) fun _ hs1 =>
        done_keeps (Ctx.putS_wf (State.setMe_wf (State.raise_wf (State.setChan_wf hs1))))
  split
  · exact State.setMe_wf hc
  · exact hreported ()

theorem execXclose_keeps {a : Opnd} {s : State} (h : Memory.wf s = true) : OutKeeps (execXclose a s) := by
  refine issue_keeps h fun _ hc => Quiet.bind Ctx.chanOf_quiet fun _ => ?_
  split
  · trivial
  · exact done_keeps hc

theorem execEvXsendLanding_keeps {vi chan seq src dst off : Nat} {lines : List (List Byte × BitVec 16)} {fate : Landing}
    {s : State} (h : Memory.wf s = true) : OutKeeps (execEvXsendLanding vi chan seq src dst off lines fate s) := by
  simp only [execEvXsendLanding]
  split
  · exact h
  · split
    · exact orLater_keeps h (State.sendLands_keeps h)
    · split
      · exact orLater_keeps h (State.landHere_keeps h)
      · exact h

theorem execEvXredReduce_keeps {vi chan seq : Nat} {peers : List PeerPart} {s : State} (h : Memory.wf s = true) :
    OutKeeps (execEvXredReduce vi chan seq peers s) := by
  simp only [execEvXredReduce]
  split
  · exact h
  · split
    · exact h
    · split
      · split
        · exact orLater_keeps h (State.reduceOp_keeps h)
        · exact h
      · exact h

theorem execEvExchangePeerClose_keeps {vi chan rank : Nat} {s : State} (h : Memory.wf s = true) :
    OutKeeps (execEvExchangePeerClose vi chan rank s) := by
  simp only [execEvExchangePeerClose]
  show Memory.wf _ = true
  split
  · exact State.setChan_wf (State.failRank_wf h)
  · exact State.failRank_wf h

theorem execEvExchangePeerOpen_keeps {vi chan rank : Nat} {s : State} (h : Memory.wf s = true) :
    OutKeeps (execEvExchangePeerOpen vi chan rank s) := by
  simp only [execEvExchangePeerOpen]
  show Memory.wf _ = true
  split
  · split
    · exact h
    · exact State.setChan_wf h
  · exact h

theorem execEvEthernetTransportGaveUp_keeps {vi chan rank : Nat} {s : State} (h : Memory.wf s = true) :
    OutKeeps (execEvEthernetTransportGaveUp vi chan rank s) := by
  simp only [execEvEthernetTransportGaveUp]
  show Memory.wf _ = true
  split
  · exact State.failRank_wf h
  · exact h

theorem execEvHostRead_keeps {vi : Nat} {a : HostAddr} {n : Nat} {s : State} (h : Memory.wf s = true) :
    OutKeeps (execEvHostRead vi a n s) := by
  refine hostEvent_keeps h ?_
  split
  · exact State.hostRead_keeps h
  · exact State.tagRead_keeps h
  · exact State.barRead_keeps h

theorem execEvWeatreInboundRequest_keeps {src : Nat} {req : WeatreReq} {s : State} (h : Memory.wf s = true) :
    OutKeeps (execEvWeatreInboundRequest src req s) := by
  simp only [execEvWeatreInboundRequest]
  split
  · exact State.defer_wf h
  · exact orRefuse_keeps h (State.weatrePerform_keeps h)

theorem execEvFlitRetry_keeps {link : Nat} {s : State} (h : Memory.wf s = true) : OutKeeps (execEvFlitRetry link s) := by
  simp only [execEvFlitRetry]
  show Memory.wf _ = true
  split <;> exact h

theorem execEvLinkFailure_keeps {link : Nat} {s : State} (h : Memory.wf s = true) : OutKeeps (execEvLinkFailure link s) := by
  simp only [execEvLinkFailure]
  show Memory.wf _ = true
  split
  · exact State.linkDown_wf h
  · exact h

theorem execEvDeviceUnreachable_keeps {dev : Nat} {s : State} (h : Memory.wf s = true) :
    OutKeeps (execEvDeviceUnreachable dev s) := by
  simp only [execEvDeviceUnreachable]
  show Memory.wf _ = true
  split
  · exact h
  · split
    · exact State.loseRanks_wf h
    · exact State.loseRanks_wf (State.loseTiles_wf (State.loseStores_wf h))

theorem execEvLinkLayerRetry_keeps {port : Nat} {s : State} (h : Memory.wf s = true) :
    OutKeeps (execEvLinkLayerRetry port s) := by
  simp only [execEvLinkLayerRetry]
  show Memory.wf _ = true
  split
  · exact h
  · split <;> exact h

theorem execEvLinkStateChange_keeps {link : Nat} {up : Bool} {s : State} (h : Memory.wf s = true) :
    OutKeeps (execEvLinkStateChange link up s) := by
  simp only [execEvLinkStateChange]
  show Memory.wf _ = true
  split
  · exact h
  · exact State.linkState_wf h

theorem execEvLhcfgWrite_keeps {port : Nat} {v : Word} {s : State} (h : Memory.wf s = true) :
    OutKeeps (execEvLhcfgWrite port v s) := by
  simp only [execEvLhcfgWrite]
  show Memory.wf _ = true
  split
  · exact State.writeLhcfg_wf h
  · exact h

theorem execEvQuotaRecordWrite_keeps {vi off : Nat} {v : Word} {s : State} (h : Memory.wf s = true) :
    OutKeeps (execEvQuotaRecordWrite vi off v s) := by
  simp only [execEvQuotaRecordWrite]
  show Memory.wf _ = true
  split
  · exact State.writeQuota_wf h
  · exact h

theorem execEvCounterSnapshot_keeps {vi : Nat} {s : State} (h : Memory.wf s = true) :
    OutKeeps (execEvCounterSnapshot vi s) := by
  simp only [execEvCounterSnapshot]
  show Memory.wf _ = true
  split
  · exact State.snapshot_wf h
  · exact h

theorem execEvCounterClear_keeps {vi : Nat} {s : State} (h : Memory.wf s = true) : OutKeeps (execEvCounterClear vi s) := by
  simp only [execEvCounterClear]
  show Memory.wf _ = true
  split
  · exact State.clearCounters_wf h
  · exact h

theorem execEvEvqheadWrite_keeps {vi : Nat} {v : Word} {s : State} (h : Memory.wf s = true) :
    OutKeeps (execEvEvqheadWrite vi v s) := by
  refine hostEvent_keeps h (Keeps.ok ?_)
  split
  · exact State.writeEvqhead_wf h
  · exact h

theorem execEvEvqstatWrite_keeps {vi : Nat} {v : Word} {s : State} (h : Memory.wf s = true) :
    OutKeeps (execEvEvqstatWrite vi v s) := by
  refine hostEvent_keeps h (Keeps.ok ?_)
  split
  · exact State.writeEvqstat_wf h
  · exact h

theorem execEvMmioRegisterWrite_keeps {r : BarReg} {v : Word} {s : State} (h : Memory.wf s = true) :
    OutKeeps (execEvMmioRegisterWrite r v s) := by
  refine hostEvent_keeps h ?_
  split
  · simp only [refused]
    trivial
  · refine Keeps.ok ?_
    split
    · exact State.regWrite_wf h
    · exact h

theorem execEvViReset_keeps {vi : Nat} {s : State} (h : Memory.wf s = true) : OutKeeps (execEvViReset vi s) := by
  simp only [execEvViReset]
  show Memory.wf _ = true
  split
  · exact State.viReset_wf h
  · exact h

theorem execEvDctlAdmit_keeps {die : Nat} {v : Word} {s : State} (h : Memory.wf s = true) :
    OutKeeps (execEvDctlAdmit die v s) := by
  simp only [execEvDctlAdmit]
  show Memory.wf _ = true
  split
  · exact State.dctlAdmit_wf h
  · exact h

theorem execEvOperatingPointChange_keeps {island point : Nat} {s : State} (h : Memory.wf s = true) :
    OutKeeps (execEvOperatingPointChange island point s) := by
  simp only [execEvOperatingPointChange]
  show Memory.wf _ = true
  split
  · split
    · exact State.choosePoint_wf h
    · exact h
  · split
    · exact State.throttle_wf h
    · exact h

theorem execEvThermalReset_keeps {s : State} (h : Memory.wf s = true) : OutKeeps (execEvThermalReset s) := by
  simp only [execEvThermalReset]
  show Memory.wf _ = true
  split
  · exact State.deviceReset_wf h
  · exact h

theorem execEvBootPuf_keeps {ok : Bool} {s : State} (h : Memory.wf s = true) : OutKeeps (execEvBootPuf ok s) := by
  simp only [execEvBootPuf]
  show Memory.wf _ = true
  split
  · exact h
  · split
    · exact State.setBoot_wf h
    · split <;> exact State.setBoot_wf h

theorem execEvBootDhcp_keeps {ok : Bool} {s : State} (h : Memory.wf s = true) : OutKeeps (execEvBootDhcp ok s) := by
  simp only [execEvBootDhcp]
  show Memory.wf _ = true
  split
  · exact State.setBoot_wf h
  · exact h

theorem execEvBootFetch_keeps {ok : Bool} {img : BootFile} {s : State} (h : Memory.wf s = true) :
    OutKeeps (execEvBootFetch ok img s) := by
  simp only [execEvBootFetch]
  show Memory.wf _ = true
  split
  · exact State.setBoot_wf h
  · exact h

theorem execEvBootVerify_keeps {c : ImageCheck} {s : State} (h : Memory.wf s = true) : OutKeeps (execEvBootVerify c s) := by
  simp only [execEvBootVerify]
  show Memory.wf _ = true
  split
  · exact State.setBoot_wf h
  · exact h

theorem execEvBootRetry_keeps {s : State} (h : Memory.wf s = true) : OutKeeps (execEvBootRetry s) := by
  simp only [execEvBootRetry]
  show Memory.wf _ = true
  split
  · exact State.setBoot_wf h
  · exact h

theorem execEvBootBist_keeps {pass spare : BitVec 4} {s : State} (h : Memory.wf s = true) :
    OutKeeps (execEvBootBist pass spare s) := by
  simp only [execEvBootBist]
  show Memory.wf _ = true
  split
  · exact h
  · exact State.setBoot_wf (foldl_wf h fun _ _ ht => State.setDie_wf ht)

theorem execEvBootDice_keeps {s : State} (h : Memory.wf s = true) : OutKeeps (execEvBootDice s) := by
  simp only [execEvBootDice]
  show Memory.wf _ = true
  split
  · exact State.setBoot_wf h
  · exact h

theorem execEvMonitorStart_keeps {keys : BootKeys} {s : State} (h : Memory.wf s = true) :
    OutKeeps (execEvMonitorStart keys s) := by
  simp only [execEvMonitorStart]
  show Memory.wf _ = true
  split
  · exact h
  · split
    · exact State.setBoot_wf h
    · exact State.placeMonitor_wf (State.configure_wf h)

theorem execTret_keeps {s : State} (h : Memory.wf s = true) : OutKeeps (execTret s) := by
  refine issue_keeps h fun _ hc => ?_
  split
  · trivial
  · next e => exact done_keeps (OptKeeps.of_eq e (State.tret_keeps hc))

theorem execQbind_keeps {d : BitVec 3} {a : Opnd} {s : State} (h : Memory.wf s = true) : OutKeeps (execQbind d a s) := by
  refine issue_keeps h fun _ hc => Quiet.bind Quiet.ensure fun _ => Quiet.bind Quiet.ensure fun _ =>
    Quiet.bind Quiet.ensure fun _ => ?_
  split
  · exact done_keeps (State.setMyTeam_wf hc)
  · exact Quiet.bind Quiet.ensure fun _ => done_keeps (State.setMyTeam_wf hc)

theorem execQclose_keeps {a : BitVec 3} {s : State} (h : Memory.wf s = true) : OutKeeps (execQclose a s) := by
  simp only [execQclose]
  refine issue_keeps h fun _ hc => ?_
  split
  · exact Quiet.bind Quiet.ensure fun _ => done_keeps (State.setMyTeam_wf hc)
  · trivial

theorem execFcvt_keeps {t : FTy} {rm : Rm} {kind : FCvtKind} {d a : Opnd} {s : State} (h : Memory.wf s = true) :
    OutKeeps (execFcvt t rm kind d a s) := by
  simp only [execFcvt]
  refine issue_keeps h fun _ hc => ?_
  split
  · exact fput_keeps hc
  · exact fput_keeps hc
  · exact fput_keeps hc
  · exact done_keeps (State.raise_wf (Ctx.putS_wf hc))
  · exact done_keeps (State.raise_wf (Ctx.putS_wf hc))

/-- Each instruction and event, by the lemma of the operation it is made of. -/
theorem exec_keeps (i : Instr) {s : State} (h : Memory.wf s = true) : OutKeeps (exec i s) := by
  unfold exec
  cases i with
  | add => exact alu2_keeps h
  | sub => exact alu2_keeps h
  | mul => exact alu2_keeps h
  | mulh => exact alu2_keeps h
  | mulhu => exact alu2_keeps h
  | div => exact alu2_keeps h
  | divu => exact alu2_keeps h
  | rem => exact alu2_keeps h
  | remu => exact alu2_keeps h
  | and => exact alu2_keeps h
  | or => exact alu2_keeps h
  | xor => exact alu2_keeps h
  | shl => exact alu2_keeps h
  | shr => exact alu2_keeps h
  | sra => exact alu2_keeps h
  | slt => exact alu2_keeps h
  | sltu => exact alu2_keeps h
  | min => exact alu2_keeps h
  | max => exact alu2_keeps h
  | minu => exact alu2_keeps h
  | maxu => exact alu2_keeps h
  | clz => exact alu1_keeps h
  | ctz => exact alu1_keeps h
  | popc => exact alu1_keeps h
  | bfx => exact alu1_keeps h
  | bfi => exact issue_keeps h fun _ hc => done_keeps (Ctx.putS_wf hc)
  | sel => exact issue_keeps h fun _ hc => done_keeps (Ctx.putS_wf hc)
  | li => exact issue_keeps h fun _ hc => done_keeps (Ctx.putS_wf hc)
  | lih => exact alu1_keeps h
  | jmp => exact issue_keeps h fun _ hc => Keeps.ok hc
  | jal => exact issue_keeps h fun _ hc => Keeps.ok (Ctx.putS_wf hc)
  | jr => exact issue_keeps h fun _ hc => Quiet.bind Quiet.ensure fun _ => Keeps.ok (Ctx.putS_wf hc)
  | beq => exact branch_keeps h
  | bne => exact branch_keeps h
  | blt => exact branch_keeps h
  | bge => exact branch_keeps h
  | bltu => exact branch_keeps h
  | bgeu => exact branch_keeps h
  | fadd => exact fp2_keeps h
  | fsub => exact fp2_keeps h
  | fmul => exact fp2_keeps h
  | fdiv => exact fp2_keeps h
  | fsqrt => exact issue_keeps h fun _ hc => fput_keeps hc
  | fma => exact issue_keeps h fun _ hc => fput_keeps hc
  | fmin => exact fp2_keeps h
  | fmax => exact fp2_keeps h
  | fcmp => exact issue_keeps h fun _ hc => done_keeps (State.raise_wf (Ctx.putS_wf hc))
  | fcvt => exact execFcvt_keeps h
  | fclass => exact issue_keeps h fun _ hc => done_keeps (Ctx.putS_wf hc)
  | ld => exact execLd_keeps h
  | st => exact execSt_keeps h
  | stPatch => exact execStPatch_keeps h
  | amo => exact execAmo_keeps h
  | cas => exact execCas_keeps h
  | fence => exact execFence_keeps h
  | lsync => exact issue_keeps h fun _ hc => done_keeps hc
  | flush => exact issue_keeps h fun _ hc => flushRange_keeps hc
  | inval => exact issue_keeps h fun _ hc => flushRange_keeps hc
  | ixset => exact issue_keeps h fun _ hc => done_keeps (State.setMe_wf hc)
  | ixget => exact issue_keeps h fun _ hc => done_keeps (Ctx.putS_wf hc)
  | ixadv => exact issue_keeps h fun _ hc => ixMove_keeps hc
  | ixoff => exact issue_keeps h fun _ hc => ixMove_keeps hc
  | crd => exact issue_keeps h fun _ hc => done_keeps (Ctx.putS_wf hc)
  | cwr => exact execCwr_keeps h
  | crsw => exact execCrsw_keeps h
  | vsetl => exact issue_keeps h fun _ hc => Quiet.bind fmtArg_quiet fun _ =>
    done_keeps (Ctx.putS_wf (State.reallocMine_wf (State.setMe_wf hc)))
  | vgetcap => exact issue_keeps h fun _ hc => Quiet.bind fmtArg_quiet fun _ => done_keeps (Ctx.putS_wf hc)
  | palsel => exact issue_keeps h fun _ hc => Quiet.bind palselCheck_quiet fun _ => done_keeps (State.setMe_wf hc)
  | palrd => exact issue_keeps h fun _ hc => Quiet.bind palArgs_quiet fun _ => Quiet.bind Quiet.ensure fun _ =>
    done_keeps (Ctx.putS_wf hc)
  | palwr => exact issue_keeps h fun _ hc => Quiet.bind palArgs_quiet fun _ => Quiet.bind Quiet.ensure fun _ =>
    done_keeps (foldl_wf hc fun _ _ ht => State.setPalEntry_wf ht)
  | getid => exact issue_keeps h fun _ hc => done_keeps (Ctx.putS_wf hc)
  | heartbeat => exact issue_keeps h fun _ hc => done_keeps (State.setMe_wf hc)
  | vtag => exact execVtag_keeps h
  | vgtag => exact issue_keeps h fun _ hc => done_keeps (Ctx.putS_wf hc)
  | vcvt => exact execVcvt_keeps h
  | vresc => exact execVresc_keeps h
  | vvalid => exact issue_keeps h fun _ hc => done_keeps (Ctx.putM_wf hc)
  | vsave => exact execVsave_keeps h
  | vrstr => exact execVrstr_keeps h
  | vmov => exact execVmov_keeps h
  | vsplat => exact issue_keeps h fun _ hc => Quiet.bind capCheck_quiet fun _ => Quiet.bind restart_quiet fun _ =>
    putDone_keeps hc
  | viota => exact issue_keeps h fun _ hc => Quiet.bind capCheck_quiet fun _ => Quiet.bind restart_quiet fun _ =>
    putDone_keeps hc
  | vext => exact execVext_keeps h
  | vins => exact issue_keeps h fun _ hc => Quiet.bind elemIndex_quiet fun _ =>
    done_keeps (State.raise_wf (Ctx.putImg_wf hc))
  | vadd => exact issue_keeps h fun _ hc => finishV_keeps (vecBin_keeps hc)
  | vsub => exact issue_keeps h fun _ hc => finishV_keeps (vecBin_keeps hc)
  | vmul => exact issue_keeps h fun _ hc => finishV_keeps (vecBin_keeps hc)
  | vfma => exact issue_keeps h fun _ hc => finishV_keeps (vecTri_keeps hc)
  | vmin => exact issue_keeps h fun _ hc => finishV_keeps (vecBin_keeps hc)
  | vmax => exact issue_keeps h fun _ hc => finishV_keeps (vecBin_keeps hc)
  | vabs => exact issue_keeps h fun _ hc => finishV_keeps (vecUn_keeps hc)
  | vneg => exact issue_keeps h fun _ hc => finishV_keeps (vecUn_keeps hc)
  | vdiv => exact issue_keeps h fun _ hc => finishV_keeps (vecBin_keeps hc)
  | vsqrt => exact issue_keeps h fun _ hc => finishV_keeps (vecUn_keeps hc)
  | vrsqrt => exact issue_keeps h fun _ hc => finishV_keeps (vecUn_keeps hc)
  | vrcp => exact issue_keeps h fun _ hc => finishV_keeps (vecUn_keeps hc)
  | vexp2 => exact issue_keeps h fun _ hc => finishV_keeps (vecUn_keeps hc)
  | vlog2 => exact issue_keeps h fun _ hc => finishV_keeps (vecUn_keeps hc)
  | vclip => exact issue_keeps h fun _ hc => finishV_keeps (vecTri_keeps hc)
  | vcmp => exact execVcmp_keeps h
  | vsel => exact issue_keeps h fun _ hc => Quiet.bind palette_quiet fun _ => Quiet.bind vecChecks_quiet fun _ =>
    putDone_keeps hc
  | vand => exact issue_keeps h fun _ hc => logic_keeps hc
  | vor => exact issue_keeps h fun _ hc => logic_keeps hc
  | vxor => exact issue_keeps h fun _ hc => logic_keeps hc
  | vnot => exact issue_keeps h fun _ hc => logic_keeps hc
  | vshl => exact issue_keeps h fun _ hc => shiftV_keeps hc
  | vshr => exact issue_keeps h fun _ hc => shiftV_keeps hc
  | vsra => exact issue_keeps h fun _ hc => shiftV_keeps hc
  | vrsum => exact issue_keeps h fun _ hc => reduceV_keeps hc
  | vrmax => exact issue_keeps h fun _ hc => reduceV_keeps hc
  | vrmin => exact issue_keeps h fun _ hc => reduceV_keeps hc
  | vscan => exact issue_keeps h fun _ hc => Quiet.bind palette_quiet fun _ => Quiet.bind laneMismatch_quiet fun _ =>
    Quiet.bind capCheck_quiet fun _ => Quiet.bind laneConflict_quiet fun _ => putDone_keeps hc
  | vslup => exact issue_keeps h fun _ hc => slide_keeps hc
  | vsldn => exact issue_keeps h fun _ hc => slide_keeps hc
  | vshuf => exact execVshuf_keeps h
  | vcomp => exact issue_keeps h fun _ hc => Quiet.bind laneMismatch_quiet fun _ => Quiet.bind capCheck_quiet fun _ =>
    Quiet.bind laneConflict_quiet fun _ => putDone_keeps hc
  | vexpd => exact issue_keeps h fun _ hc => Quiet.bind laneMismatch_quiet fun _ => Quiet.bind capCheck_quiet fun _ =>
    Quiet.bind laneConflict_quiet fun _ => putDone_keeps hc
  | vzip => exact issue_keeps h fun _ hc => Quiet.bind laneMismatch_quiet fun _ => Quiet.bind Quiet.ensure fun _ =>
    Quiet.bind capCheck_quiet fun _ => Quiet.bind laneConflict_quiet fun _ => putDone_keeps hc
  | vunpk => exact execVunpk_keeps h
  | vpack => exact execVpack_keeps h
  | vlook => exact execVlook_keeps h
  | vtopk => exact execVtopk_keeps h
  | vdot4 => exact execVdot4_keeps h
  | mlog => exact issue_keeps h fun _ hc => done_keeps (Ctx.putM_wf hc)
  | mpop => exact issue_keeps h fun _ hc => done_keeps (Ctx.putS_wf hc)
  | mfirst => exact issue_keeps h fun _ hc => done_keeps (Ctx.putS_wf hc)
  | mset => exact issue_keeps h fun _ hc => done_keeps (Ctx.putM_wf hc)
  | mtov => exact issue_keeps h fun _ hc => Quiet.bind capCheck_quiet fun _ => Quiet.bind laneConflict_quiet fun _ =>
    putDone_keeps hc
  | vtom => exact issue_keeps h fun _ hc => Quiet.bind laneMismatch_quiet fun _ => Quiet.bind capCheck_quiet fun _ =>
    Quiet.bind consume_quiet fun _ => done_keeps (Ctx.putM_wf hc)
  | vld => exact execVld_keeps h
  | vlds => exact execVlds_keeps h
  | vldx => exact execVldx_keeps h
  | vldf => exact execVldf_keeps h
  | vldm => exact execVldm_keeps h
  | vldg => exact execVldg_keeps h
  | vst => exact issue_keeps h fun _ hc => vecStore_keeps hc
  | vsts => exact issue_keeps h fun _ hc => vecStore_keeps hc
  | vstx => exact issue_keeps h fun _ hc => vecStore_keeps hc
  | vstm => exact execVstm_keeps h
  | vstg => exact execVstg_keeps h
  | vamo => exact execVamo_keeps h
  | mnf => exact execMnf_keeps h
  | mnfget => exact execMnfget_keeps h
  | mnfset => exact execMnfset_keeps h
  | czero => exact issue_keeps h fun _ hc => Quiet.bind Ctx.canvas_quiet fun _ => Quiet.bind Quiet.ensure fun _ =>
    done_keeps (State.setCanvas_wf hc)
  | cop => exact execCop_keeps h
  | copk => exact execCopk_keeps h
  | crrow => exact issue_keeps h fun _ hc => readLineOf_keeps hc
  | crcol => exact issue_keeps h fun _ hc => readLineOf_keeps hc
  | cwrow => exact issue_keeps h fun _ hc => writeLineOf_keeps hc
  | cwcol => exact issue_keeps h fun _ hc => writeLineOf_keeps hc
  | cld => exact execCld_keeps h
  | cst => exact execCst_keeps h
  | cjoin => exact execCjoin_keeps h
  | cstj => exact execCstj_keeps h
  | cadd => exact issue_keeps h fun _ hc => Quiet.bind Ctx.canvas_quiet fun _ => Quiet.bind Ctx.canvas_quiet fun _ =>
    Quiet.bind Ctx.canvas_quiet fun _ => Quiet.bind Quiet.ensure fun _ => done_keeps (State.raise_wf (State.setCanvas_wf hc))
  | cstat => exact issue_keeps h fun _ hc => Quiet.bind Ctx.canvas_quiet fun _ => done_keeps (Ctx.putS_wf hc)
  | cpstart => exact execCpstart_keeps h
  | cpgather => exact execCpgather_keeps h
  | cpscatter => exact execCpscatter_keeps h
  | cpwait => exact execCpwait_keeps h
  | cpavail => exact issue_keeps h fun _ hc => Quiet.bind Ctx.streamOf_quiet fun _ => done_keeps (Ctx.putS_wf hc)
  | cpresume => exact execCpresume_keeps h
  | cpcancel => exact issue_keeps h fun _ hc => Quiet.bind Ctx.streamOf_quiet fun _ => done_keeps (State.cancelStream_wf hc)
  | qbind => exact execQbind_keeps h
  | qclose => exact execQclose_keeps h
  | qstat => exact issue_keeps h fun _ hc => Quiet.bind Quiet.ensure fun _ => done_keeps (Ctx.putS_wf hc)
  | launch => exact execLaunch_keeps h
  | exit => exact execExit_keeps h
  | yield => exact issue_keeps h fun _ hc => done_keeps (State.setMe_wf hc)
  | bar => exact issue_keeps h fun _ hc => State.barrier_wf (State.setMe_wf hc)
  | waitw => exact execWaitw_keeps h
  | wake => exact execWake_keeps h
  | snext => exact execSnext_keeps h
  | xopen => exact execXopen_keeps h
  | xsend => exact execXsend_keeps h
  | xred => exact execXred_keeps h
  | xwait => exact execXwait_keeps h
  | xclose => exact execXclose_keeps h
  | trap => exact issue_keeps h fun _ _ => Keeps.raise
  | tret => exact execTret_keeps h
  | brk => exact issue_keeps h fun _ _ => Keeps.raise
  | ctxsave => exact execCtxsave_keeps h
  | ctxrstr => exact execCtxrstr_keeps h
  | tlbinv => exact execTlbinv_keeps h
  | rcstart => exact execRcstart_keeps h
  | rcstat => exact issue_keeps h fun _ hc => done_keeps (Ctx.putS_wf hc)
  | kdsetAssign => exact kdset_keeps h
  | kdsetNewkey => exact kdset_keeps h
  | kdsetRetire => exact kdset_keeps h
  | homemap => exact execHomemap_keeps h
  | idle => exact execIdle_keeps h
  | evTeamAdmission => exact OptKeeps.getD (State.admitTeam_keeps h) h
  | evPreemption => exact OptKeeps.getD (State.preemptChosen_keeps h) h
  | evTeamReclaim => exact execEvTeamReclaim_keeps h
  | evCaravanCompletion => exact OptKeeps.getD (State.completeCaravan_keeps h) h
  | evWaitwReevaluate => exact execEvWaitwReevaluate_keeps h
  | evIdleWake => exact execEvIdleWake_keeps h
  | evAccessPerform => exact execEvAccessPerform_keeps h
  | evAtomicApply => exact orLater_keeps h (State.atomicEvent_keeps h)
  | evPriResponse => exact execEvPriResponse_keeps h
  | evHostInvalidation => exact h
  | evCopyRowRequest => exact OptKeeps.getD (State.requestRow_keeps h) h
  | evCopyRowComplete => exact OptKeeps.getD (State.completeRow_keeps h) h
  | evCopyRowFault => exact OptKeeps.getD (State.failRow_keeps h) h
  | evRecodePageStart => exact execEvRecodePageStart_keeps h
  | evRecodePageReencode => exact execEvRecodePageReencode_keeps h
  | evFrameMigration => exact execEvFrameMigration_keeps h
  | evFrameSwitch => exact execEvFrameSwitch_keeps h
  | evTileCapacityGrant => exact OptKeeps.getD (State.grantTile_keeps h) h
  | evTileLineReserve => exact OptKeeps.getD (State.reserveLine_keeps h) h
  | evTileCommit => exact OptKeeps.getD (State.commitTile_keeps h) h
  | evTileRelease => exact OptKeeps.getD (State.releaseTile_keeps h) h
  | evXsendLanding => exact execEvXsendLanding_keeps h
  | evXredReduce => exact execEvXredReduce_keeps h
  | evExchangeOpComplete => exact OptKeeps.getD (State.completeOp_keeps h) h
  | evExchangePeerTimeout => exact State.failRank_wf h
  | evExchangePeerClose => exact execEvExchangePeerClose_keeps h
  | evAsyncTrapDelivery => exact OptKeeps.getD (State.takeAsync_keeps h) h
  | evWatchdogExpiry => exact execEvWatchdogExpiry_keeps h
  | evEphemeralExpiry => exact execEvEphemeralExpiry_keeps h
  | evSoftError => exact execEvSoftError_keeps h
  | evHostWrite => exact hostEvent_keeps h (State.hostWrite_keeps h)
  | evTagWindowWrite => exact hostEvent_keeps h (State.tagWrite_keeps h)
  | evHostRead => exact execEvHostRead_keeps h
  | evHostAtomicop => exact hostEvent_keeps h (State.hostAtomic_keeps h)
  | evCxlMemRequest => exact orRefuse_keeps h (State.cxlRequest_keeps h)
  | evWeatreInboundRequest => exact execEvWeatreInboundRequest_keeps h
  | evFlitRetry => exact execEvFlitRetry_keeps h
  | evLinkFailure => exact execEvLinkFailure_keeps h
  | evDeviceUnreachable => exact execEvDeviceUnreachable_keeps h
  | evLinkLayerRetry => exact execEvLinkLayerRetry_keeps h
  | evLongHaulAck => exact h
  | evLhcfgWrite => exact execEvLhcfgWrite_keeps h
  | evQuotaRecordWrite => exact execEvQuotaRecordWrite_keeps h
  | evViReset => exact execEvViReset_keeps h
  | evViResetComplete => exact OptKeeps.getD (State.endReset_keeps h) h
  | evCounterSnapshot => exact execEvCounterSnapshot_keeps h
  | evCounterClear => exact execEvCounterClear_keeps h
  | evEvqheadWrite => exact execEvEvqheadWrite_keeps h
  | evEvqstatWrite => exact execEvEvqstatWrite_keeps h
  | evMailboxDoorbell => exact hostEvent_keeps h (Keeps.ok (State.setMevt_wf h))
  | evDctlAdmit => exact execEvDctlAdmit_keeps h
  | evDctlDrain => exact State.dctlWrite_wf h
  | evDctlWb => exact State.dctlWrite_wf h
  | evDctlMig => exact State.dctlWrite_wf h
  | evDctlQuiesce => exact State.dctlWrite_wf h
  | evDctlRst => exact State.dctlWrite_wf h
  | evDctlRetrain => exact State.dctlWrite_wf h
  | evDctlCommandDone => exact OptKeeps.getD (State.dctlDone_keeps h) h
  | evMmioRegisterWrite => exact execEvMmioRegisterWrite_keeps h
  | evOperatingPointChange => exact execEvOperatingPointChange_keeps h
  | evPcapEstimate => exact State.limitPower_wf (State.capVis_wf h)
  | evThermalTrip => exact State.setMevt_wf (foldl_wf h fun _ _ ht => State.setPoint_wf ht)
  | evThermalReset => exact execEvThermalReset_keeps h
  | evDeviceReset => exact State.deviceReset_wf h
  | evBootPuf => exact execEvBootPuf_keeps h
  | evBootDhcp => exact execEvBootDhcp_keeps h
  | evBootFetch => exact execEvBootFetch_keeps h
  | evBootVerify => exact execEvBootVerify_keeps h
  | evBootRetry => exact execEvBootRetry_keeps h
  | evBootBist => exact execEvBootBist_keeps h
  | evBootDice => exact execEvBootDice_keeps h
  | evMonitorStart => exact execEvMonitorStart_keeps h
  | evLinkStateChange => exact execEvLinkStateChange_keeps h
  | evExchangePeerOpen => exact execEvExchangePeerOpen_keeps h
  | evEthernetTransportGaveUp => exact execEvEthernetTransportGaveUp_keeps h
  | evConfigurationRequest => exact h

end Sys2Proof.Machine
end

section
/-! PROOFS. A turn, an idle step and a step of the machine keep memory canonical. -/

namespace Sys2Proof.Machine

theorem turn_keeps {run : Instr → State → Host.Outcome State Fault Refusal} {s : State} (h : Memory.wf s = true)
    (hrun : ∀ i t, Memory.wf t = true → OutKeeps (run i t)) : OutKeeps (turn run s) := by
  unfold turn
  split
  · exact State.takePend_wf h
  · split
    · next herr => exact stopState_keeps h (Keeps.of_error herr State.fetch_quiet)
    · next x w hfetch =>
      have h1 : Memory.wf (((s.used x).fillHost x).chargeFetch x.pa) = true :=
        State.chargeFetch_wf (State.fillHost_wf (State.used_wf h))
      split
      · exact hrun _ _ h1
      · exact State.deliver_wf h1

theorem clocked_keeps {o : Host.Outcome State Fault Refusal} (h : OutKeeps o) : OutKeeps (clocked o) := by
  cases o with
  | next t => exact State.clock_wf h
  | fault f => trivial
  | refused r => trivial

theorem State.dueEvents_keeps {s : State} (h : Memory.wf s = true) : OptKeeps s.dueEvents := by
  simp only [State.dueEvents, Option.map]
  split
  · exact State.flushEvents_wf h
  · trivial

theorem State.prepare_wf {run : Instr → State → Host.Outcome State Fault Refusal} {s : State} {sid : Nat} {drr : Tab Drr}
    (h : Memory.wf s = true) : Memory.wf (State.prepare run s sid drr) = true := h

theorem State.select_keeps {run : Instr → State → Host.Outcome State Fault Refusal} {s : State} (h : Memory.wf s = true) :
    OptKeeps (s.select run) := by
  unfold State.select
  split
  · trivial
  · exact State.prepare_wf h
  · cases e : s.positions.findSome? _ with
    | none => trivial
    | some t =>
      obtain ⟨q, -, hq⟩ := List.exists_of_findSome?_eq_some e
      obtain ⟨c, -, rfl⟩ := Option.map_eq_some_iff.mp hq
      exact State.prepare_wf h

theorem State.shunning_wf {s : State} {sid : Nat} {lns : List Nat} (h : Memory.wf s = true) :
    Memory.wf (s.shunning sid lns) = true := h

theorem unshun_keeps {sid : Nat} {o : Host.Outcome State Fault Refusal} (h : OutKeeps o) : OutKeeps (unshun sid o) := by
  cases o with
  | next t => exact State.shunning_wf h
  | fault f => trivial
  | refused r => trivial

section
variable {run : Instr → State → Host.Outcome State Fault Refusal}
  (hrun : ∀ i t, Memory.wf t = true → OutKeeps (run i t))
include hrun

theorem State.agendaTurn_keeps {s : State} {sid : Nat} (h : Memory.wf s = true) : OutKeeps (s.agendaTurn run sid) := by
  unfold State.agendaTurn
  split
  · exact h
  · split
    · exact clocked_keeps (o := .next s) h
    · exact clocked_keeps (turn_keeps (State.prepare_wf h) hrun)

theorem idleStep_keeps {s : State} (h : Memory.wf s = true) : OutKeeps (idleStep run s) := by
  unfold idleStep
  extract_lets again held work engines strands
  have hnext {t : State} (ht : Memory.wf t = true) : OutKeeps (clocked (.next t)) := clocked_keeps (o := .next t) ht
  have hheld {o} (ho : OutKeeps o) : OutKeeps (held o) := by
    unfold held
    split
    · next e => exact hnext (OptKeeps.of_eq e (State.dueEvents_keeps h))
    · split
      · exact ho
      · exact hnext (t := again) h
  have hwork {o} (ho : OutKeeps o) : OutKeeps (work o) := by
    unfold work
    split
    · exact clocked_keeps (hrun _ _ h)
    · exact ho
  have hengines {o} (ho : OutKeeps o) : OutKeeps (engines () o) := by
    unfold engines
    split
    · exact hheld (hwork ho)
    · exact hwork (hheld ho)
  have hstrands {o} (ho : OutKeeps o) : OutKeeps (strands () o) := by
    unfold strands
    split
    · next e => exact clocked_keeps (turn_keeps (OptKeeps.of_eq e (State.select_keeps h)) hrun)
    · exact ho
  split
  · exact hengines (hstrands (hnext h))
  · exact hstrands (hengines (hnext h))

theorem advance_keeps {s : State} (h : Memory.wf s = true) : OutKeeps (advance run s) := by
  have hput {t : State} {pa : Nat} {bs : List Byte} (ht : Memory.wf t = true) :
      Memory.wf { t with mem := putBytes t.mem pa bs } = true :=
    Memory.wf_iff.mpr ⟨putBytes_wf (Memory.wf_iff.mp ht).1, (Memory.wf_iff.mp ht).2⟩
  unfold advance
  split
  · exact State.agendaTurn_keeps hrun h
  · exact unshun_keeps (State.agendaTurn_keeps hrun (State.shunning_wf h))
  · exact clocked_keeps (hrun _ _ h)
  · next pa data rest hag =>
    extract_lets s1
    have h1 : Memory.wf s1 = true := h
    show Memory.wf _ = true
    split
    · exact hput h1
    · exact hput h1
    · exact foldl_wf (hput h1) fun _ _ ht => State.notify_wf ht
    · exact h1
  · exact State.pass_wf h
  · exact h
  · exact h
  · exact h
  · exact State.setMsixMask_wf h
  · exact idleStep_keeps hrun h

end

/-- Settles O5: every state that a step answers is built from the one before by writes that keep the maps canonical
(`putBytes`, `Tab.set`) or drop entries (`Tab.filter`), through each function of the model that answers a state. -/
theorem stepKeepsMemory : Obligations.StepKeepsMemory := by
  unfold Obligations.StepKeepsMemory
  intro s t h e
  have hs : OutKeeps (step s) := advance_keeps (fun i _ ht => exec_keeps i ht) h
  rw [e] at hs
  exact hs

end Sys2Proof.Machine
end

section
/-! PROOFS. ST and ST.PATCH (R257, R258, R277, R282, R290), and the line after a scalar store (R257). -/

namespace Sys2Proof.Machine

/-! ### A field of a number replaced -/

/-- A number with a field replaced: what lies below it, the new field, what lies above it. -/
theorem setNbits_eq_join (x lo n v : Nat) :
    setNbits x lo n v = x % 2 ^ lo + 2 ^ lo * (v % 2 ^ n + 2 ^ n * (x / 2 ^ lo / 2 ^ n)) := by
  have hx : x % 2 ^ lo + 2 ^ lo * (nbits x lo n + 2 ^ n * (x / 2 ^ lo / 2 ^ n)) = x := by
    rw [nbits, Nat.mod_add_div, Nat.mod_add_div]
  rw [setNbits, Nat.mul_comm (nbits x lo n), Nat.mul_comm (v % 2 ^ n)]
  rw [Nat.mul_add] at hx ⊢
  omega

theorem nbits_setNbits_same {n v : Nat} (x lo : Nat) (hv : v < 2 ^ n) : nbits (setNbits x lo n v) lo n = v := by
  have hjoin := nbits_join_hi (Nat.mod_lt x (Nat.two_pow_pos lo)) (v % 2 ^ n + 2 ^ n * (x / 2 ^ lo / 2 ^ n)) 0 n
  rw [Nat.add_zero] at hjoin
  rw [setNbits_eq_join, hjoin, Nat.mod_eq_of_lt hv, nbits_join_lo (Nat.zero_add n).le, nbits_zero_of_lt hv]

theorem nbits_setNbits_below {j m lo : Nat} (h : j + m ≤ lo) (x n v : Nat) : nbits (setNbits x lo n v) j m = nbits x j m := by
  rw [setNbits_eq_join, nbits_join_lo h, nbits_mod h]

theorem nbits_setNbits_above {j lo n : Nat} (h : lo + n ≤ j) (x m v : Nat) : nbits (setNbits x lo n v) j m = nbits x j m := by
  obtain ⟨r, rfl⟩ := Nat.exists_eq_add_of_le h
  rw [setNbits_eq_join, Nat.add_assoc, nbits_join_hi (Nat.mod_lt _ (Nat.two_pow_pos lo)),
    nbits_join_hi (Nat.mod_lt _ (Nat.two_pow_pos n))]
  simp only [nbits, Nat.pow_add, Nat.div_div_eq_div_mul, Nat.mul_assoc]

/-! ### Tags -/

@[simp] theorem tagFmt_mkTag (f : FmtCode) (cls : Nat) (dem : Bool) : tagFmt (mkTag f cls dem) = f :=
  BitVec.extractLsb'_append_eq_right

@[simp] theorem tagDem_mkTag (f : FmtCode) (cls : Nat) (dem : Bool) : tagDem (mkTag f cls dem) = dem := by
  have hbit : (mkTag f cls dem).extractLsb' 8 1 = BitVec.ofBool dem := by
    rw [mkTag, BitVec.extractLsb'_append_eq_of_le (by decide), BitVec.extractLsb'_append_eq_of_le (by decide)]
    exact BitVec.extractLsb'_append_eq_right
  rw [tagDem, hbit]
  cases dem <;> rfl

theorem tagCls_mkTag {cls : Nat} (h : cls < 4) (f : FmtCode) (dem : Bool) : tagCls (mkTag f cls dem) = cls := by
  have hcls : (mkTag f cls dem).extractLsb' 6 2 = BitVec.ofNat 2 cls := by
    rw [mkTag, BitVec.extractLsb'_append_eq_of_le (by decide)]
    exact BitVec.extractLsb'_append_eq_right
  rw [tagCls, hcls, BitVec.toNat_ofNat, Nat.mod_eq_of_lt h]

/-- A line is partial where its format is narrow and the scale of one of its segments is 0xFF (R58). -/
theorem partialLine_iff (f : FmtCode) (data : Nat) :
    partialLine f data = true ↔
      isNarrow f = true ∧ ∃ k, k < segs (elemBits f) ∧ nbits data ((8 + 16 * elemBits f) * k) 8 = 0xFF := by
  simp [partialLine]

/-! ### The line after a scalar store (R257) -/

section
variable (l : LineV) (off n v : Nat)

theorem stLine_fmt : (stLine l off n v).fmt = l.fmt := tagFmt_mkTag ..

theorem stLine_dem : tagDem (stLine l off n v).tag = tagDem l.tag := tagDem_mkTag ..

theorem stLine_data : (stLine l off n v).data = setNbits (if l.cls = 3 then 0 else l.data) (8 * off) (8 * n) v := by
  simp [stLine]

/-- VCLS after a store: poison stays, and the new data say whether the line is partial. -/
theorem stLine_cls : (stLine l off n v).cls =
    if l.cls = 2 then 2 else if partialLine l.fmt (stLine l off n v).data then 1 else 0 := by
  have hlt : ∀ poisoned part : Bool, (if poisoned then 2 else if part then 1 else 0) < 4 := by decide
  have hcls : (stLine l off n v).cls =
      if l.cls == 2 then 2 else if partialLine l.fmt (stLine l off n v).data then 1 else 0 := tagCls_mkTag (hlt _ _) ..
  rw [hcls]
  simp only [beq_iff_eq]

variable {off n v}

theorem stLine_stored (hv : v < 2 ^ (8 * n)) : nbits (stLine l off n v).data (8 * off) (8 * n) = v := by
  rw [stLine_data, nbits_setNbits_same _ _ hv]

/-- A byte beside the stored ones: as it was, and zero in a line of VCLS zero. -/
theorem stLine_other {k : Nat} (hk : k < off ∨ off + n ≤ k) :
    nbits (stLine l off n v).data (8 * k) 8 = if l.cls = 3 then 0 else nbits l.data (8 * k) 8 := by
  have hbyte : nbits (stLine l off n v).data (8 * k) 8 = nbits (if l.cls = 3 then 0 else l.data) (8 * k) 8 := by
    rw [stLine_data]
    obtain hlo | hhi := hk
    · exact nbits_setNbits_below (by omega) ..
    · exact nbits_setNbits_above (by omega) ..
  have hzero : nbits 0 (8 * k) 8 = 0 := by simp [nbits]
  rw [hbyte, apply_ite (nbits · (8 * k) 8), hzero]

end

/-! ### A store at a place -/

section
variable {s s1 s2 : State} {sp : Space} {va : Word} {n v : Nat}

section
variable (hfree : s.free true sp.isSp va n = .ok ()) (hreq : s.requests 1 = .ok ()) (hord : s.order sp = .ok s1)
include hfree hreq hord

/-- R277: a store that may wait enters its core's store queue. -/
theorem State.storeAt_queued {x : Xlat} (hq : queues s1 sp x = true) (hfence : s1.fenced = .ok s2) :
    s.storeAt sp va n v (.mem x) = .ok (s2.enqueue x va (natLe n v) none) := by
  simp only [State.storeAt, hfree, hreq, hord, hq, hfence, Res.ok_bind, Bool.not_false, Bool.and_true, if_true]
  rfl

/-- A store that may not wait, and one into the scratchpad: the line is written at its home. -/
theorem State.storeAt_home {l : Loc} {now : Bool} (hq : ∀ x, l = .mem x → (queues s1 sp x && !now) = false)
    (hheld : s1.notHeld true l = .ok ()) (hin : s1.inOrder l = .ok s2) :
    s.storeAt sp va n v l now = .ok (s2.putLine false (stLine (s2.lineOf l) l.off n v) l) := by
  have hhome : s1.storeHome n v l = .ok (s2.putLine false (stLine (s2.lineOf l) l.off n v) l) := by
    simp only [State.storeHome, hheld, hin, Res.ok_bind]
    rfl
  simp only [State.storeAt, hfree, hreq, hord, Res.ok_bind]
  cases l with
  | sp t => exact hhome
  | mem x => simpa only [hq x rfl, Bool.false_eq_true, if_false] using hhome

end

theorem State.reachAny_patch {w : Who} {regsOk : Bool} {extra : Xlat → Res Unit} {x : Xlat}
    (h : s.reachAny w .patch va regsOk extra = .ok x) : x.ps = true := by
  simp only [State.reachAny, Res.bind_eq_ok] at h
  obtain ⟨y, -, _, -, h⟩ := h
  split at h <;> simp only [Res.bind_eq_ok] at h
  · obtain ⟨_, -, _, hps, _, -, hy⟩ := h
    cases hy
    exact ensure_eq_ok.mp hps
  · obtain ⟨_, hps, _, -, hy⟩ := h
    cases hy
    exact ensure_eq_ok.mp hps

/-- A place that ST.PATCH found lies on a page open to patching (R258). -/
theorem State.locate_patch {l : Loc} (h : s.locate false .patch va n = .ok l) : ∃ x, l = .mem x ∧ x.ps = true := by
  simp only [State.locate, Bool.false_eq_true, if_false, Res.bind_eq_ok] at h
  obtain ⟨x, hreach, hl⟩ := h
  simp only [State.reach, Res.bind_eq_ok] at hreach
  obtain ⟨y, hany, _, -, hy⟩ := hreach
  cases hl
  cases hy
  exact ⟨x, rfl, State.reachAny_patch hany⟩

end

/-! ### The instructions -/

section
variable {d a b : Opnd} {imm : BitVec 16} {s t : State} {c : Ctx} {va : Word} {l : Loc}

theorem exec_st_completes {sz : BitVec 2} {sp : Space} {n : Nat}
    (h : Issues (.st sz sp d a b imm) [rdS .a a, rdS .b b, rdS .d d] s c)
    (hva : c.address imm = va) (hn : accBytes sz.toNat = n) (hal : va.toNat % n = 0)
    (hloc : s.locate sp.isSp .store va n (n == 4 || n == 8) = .ok l) (hreg : s.regOff l = none)
    (hstore : s.storeAt sp va n ((c.s_ .d).toNat % 2 ^ (8 * n)) l = .ok t) :
    exec (.st sz sp d a b imm) s = .next (complete c { s := t, lines := some l.accessed }) := by
  obtain ⟨rfl, -, -⟩ := ready_same h
  subst hva hn
  refine issue_completes h ?_
  simp only [ensure_of_true (beq_iff_eq.mpr hal), hloc, hreg, hstore, Res.ok_bind]
  rfl

theorem exec_stPatch_completes {sc : Scope} {o : Ord} (h : Issues (.stPatch sc o d a b imm) [rdS .a a, rdS .b b, rdS .d d] s c)
    (hva : c.address imm = va) (hal : va.toNat % 8 = 0) (hloc : s.locate false .patch va 8 = .ok l)
    (hstore : s.storeAt (.mem sc o) va 8 (c.s_ .d).toNat l true = .ok t) :
    exec (.stPatch sc o d a b imm) s = .next (complete c { s := t }) := by
  obtain ⟨rfl, -, -⟩ := ready_same h
  subst hva
  refine issue_completes h ?_
  simp only [ensure_of_true (beq_iff_eq.mpr hal), hloc, hstore, Res.ok_bind]
  rfl

end

/-- Settles O22: the store at its place, into the queue or at the home, and the line that it writes part by part. -/
theorem scalarStoreResult : Obligations.ScalarStoreResult := by
  refine ⟨?st, ?patch, ?line⟩
  case st =>
    intro sz sp d a b imm s c l s1 h va n hal hloc hreg hfree hreq hord v
    have hexec {t : State} (hstore : s.storeAt sp va n v l = .ok t) :
        exec (.st sz sp d a b imm) s = .next (complete c { s := t, lines := some l.accessed }) :=
      exec_st_completes h rfl (accBytes_size sz) hal hloc hreg hstore
    refine ⟨?queued, ?home, ?pad⟩
    case queued =>
      rintro x s2 rfl hq hfence
      exact hexec (State.storeAt_queued hfree hreq hord hq hfence)
    case home =>
      rintro x s2 rfl hq hheld hin
      refine hexec (State.storeAt_home hfree hreq hord ?_ hheld hin)
      rintro y ⟨⟩
      rw [hq, Bool.false_and]
    case pad =>
      rintro t s2 rfl hin
      exact hexec (State.storeAt_home hfree hreq hord (fun x hx => nomatch hx) rfl hin)
  case patch =>
    intro sc o d a b imm s c l s1 s2 h va hal _ hloc hfree hreq hord hheld hin
    have hstore : s.storeAt (.mem sc o) va 8 (c.s_ .d).toNat l true = .ok _ :=
      State.storeAt_home (sp := .mem sc o) hfree hreq hord (fun x _ => Bool.and_false (queues s1 (.mem sc o) x)) hheld hin
    exact ⟨exec_stPatch_completes h rfl hal hloc hstore, State.locate_patch hloc⟩
  case line =>
    intro l off n v _ _ hv r
    refine ⟨stLine_fmt .., stLine_dem .., stLine_stored l hv, fun k _ hk => stLine_other l hk, ?_⟩
    simp only [r, stLine_cls, partialLine_iff]

end Sys2Proof.Machine
end

section
/-! PROOFS. MNF, MNFGET and MNFSET (R250, R253–R255), and how the fields of a record read back (R254, R255). -/

namespace Sys2Proof.Machine

/-! ### Fields of a record (R254, R255) -/

section
variable (m : Manifest) {j k : Nat}

theorem Manifest.field_base_ne (h : j ≠ 0) (x : Word) : { m with base := x }.field j = m.field j := by
  unfold Manifest.field
  split
  · exact absurd rfl h
  all_goals rfl

theorem Manifest.field_fmt_ne (h : j ≠ 1) (x : Byte) : { m with fmt := x }.field j = m.field j := by
  unfold Manifest.field
  split
  case h_2 => exact absurd rfl h
  all_goals rfl

theorem Manifest.field_rank_ne (h : j ≠ 2) (x : Byte) : { m with rank := x }.field j = m.field j := by
  unfold Manifest.field
  split
  case h_3 => exact absurd rfl h
  all_goals rfl

theorem Manifest.field_flags_ne (h : j ≠ 3) (x : BitVec 16) : { m with flags := x }.field j = m.field j := by
  unfold Manifest.field
  split
  case h_4 => exact absurd rfl h
  all_goals rfl

theorem Manifest.dim_set_ne {d e : Nat} (h : d ≠ e) (x : BitVec 32) : { m with dims := m.dims.set d x }.dim e = m.dim e := by
  simp only [Manifest.dim, List.getD_eq_getElem?_getD, List.getElem?_set_ne h]

theorem Manifest.field_dims_ne {d : Nat} (h : j ≠ 4 + d) (x : BitVec 32) :
    { m with dims := m.dims.set d x }.field j = m.field j := by
  unfold Manifest.field
  split
  case h_5 | h_6 | h_7 | h_8 => exact congrArg w64 (m.dim_set_ne (by omega) x)
  all_goals rfl

theorem Manifest.field_strides_ne {d : Nat} (h : j ≠ 8 + d) (x : Word) :
    { m with strides := m.strides.set d x }.field j = m.field j := by
  match j, h with
  | 0, _ | 1, _ | 2, _ | 3, _ | 4, _ | 5, _ | 6, _ | 7, _ => rfl
  | e + 8, h =>
    have hde : d ≠ e := by omega
    simp only [Manifest.field, Nat.add_sub_cancel, List.getD_eq_getElem?_getD, List.getElem?_set_ne hde]

/-- Setting a field leaves the others: each field is read from a part of its own. -/
theorem Manifest.field_setField_ne (h : j ≠ k) (v : Int) : (m.setField k v).field j = m.field j :=
  match k, h with
  | 0, h => m.field_base_ne h _
  | 1, h => m.field_fmt_ne h _
  | 2, h => m.field_rank_ne h _
  | 3, h => m.field_flags_ne h _
  | 4, h | 5, h | 6, h | 7, h => m.field_dims_ne (by omega) _
  | _ + 8, h => m.field_strides_ne (by omega) _

/-- An unsigned field of w bits that holds a value gives it back as a word. -/
theorem setWidth_ofInt_of_lt {w : Nat} {v : Int} (hw : w ≤ 64) (h : 0 ≤ v ∧ v < 2 ^ w) :
    (BitVec.ofInt w v).setWidth 64 = BitVec.ofInt 64 v := by
  obtain ⟨h0, hv⟩ := h
  obtain ⟨n, rfl⟩ := Int.eq_ofNat_of_zero_le h0
  have hn : n < 2 ^ w := by exact_mod_cast hv
  rw [BitVec.ofInt_natCast, BitVec.ofInt_natCast]
  exact BitVec.setWidth_ofNat_of_le_of_lt hw hn

theorem Manifest.dim_set_same {d : Nat} (hd : d < m.dims.length) (x : BitVec 32) :
    { m with dims := m.dims.set d x }.dim d = x.toNat := by
  simp only [Manifest.dim, List.getD_eq_getElem?_getD, List.getElem?_set_self hd, Option.getD_some]

/-- R255: a value within the range of a field reads back from it. -/
theorem Manifest.field_setField_same {v : Int} (hk : k < 12) (hdims : m.dims.length = 4) (hstrides : m.strides.length = 4)
    (hfit : fieldFits k v = true) : (m.setField k v).field k = BitVec.ofInt 64 v := by
  have hrange {b : Int} (h : (decide (0 ≤ v) && decide (v < b)) = true) : 0 ≤ v ∧ v < b := by simpa using h
  have hdim (d : Nat) (hd : d < 4) (h : 0 ≤ v ∧ v < 2 ^ 32) :
      w64 ({ m with dims := m.dims.set d (BitVec.ofInt 32 v) }.dim d) = BitVec.ofInt 64 v := by
    rw [m.dim_set_same (hdims ▸ hd), w64, BitVec.ofNat_toNat, setWidth_ofInt_of_lt (by decide) h]
  match k, hk, hfit with
  | 0, _, _ => rfl
  | 1, _, hfit | 2, _, hfit => exact setWidth_ofInt_of_lt (w := 8) (by decide) (hrange hfit)
  | 3, _, hfit => exact setWidth_ofInt_of_lt (w := 16) (by decide) (hrange hfit)
  | 4, _, hfit | 5, _, hfit | 6, _, hfit | 7, _, hfit => exact hdim _ (by decide) (hrange hfit)
  | d + 8, hk, _ =>
    have hd : d < m.strides.length := by omega
    simp only [Manifest.setField, Manifest.field, Nat.add_sub_cancel, List.getD_eq_getElem?_getD, List.getElem?_set_self hd,
      Option.getD_some]

end

/-! ### The slot and the value -/

section
variable {c : Ctx} {h : BitVec 4} {m : Manifest}

theorem Ctx.slotH_bound (hm : c.me.getH h.toNat = some m) : c.slotH h = .ok m := by
  simp only [Ctx.slotH, hm]

/-- R250: an unbound slot. -/
theorem Ctx.slotH_unbound (hm : c.me.getH h.toNat = none) :
    c.slotH h = .error (.trap { cause := .illegal, v0 := encode c.i, v1 := 0x10#64 }) := by
  simp only [Ctx.slotH, hm]
  rfl

end

theorem signedField_iff (k : Nat) : signedField k = true ↔ k = 0 ∨ 8 ≤ k := by
  simp [signedField]

/-- The value that MNFSET gives a field: S[A], or with ADD the sum with the old value (R255). -/
def mnfsetValue (add : Bool) (m : Manifest) (k : Nat) (w : Word) : Int :=
  let x : Int := if add || signedField k then w.toInt else w.toNat
  let old : Int := if signedField k then (m.field k).toInt else (m.field k).toNat
  if add then old + x else x

theorem mnfsetValue_eq (add : Bool) (m : Manifest) (k : Nat) (w : Word) :
    mnfsetValue add m k w =
      let sgn := k = 0 ∨ 8 ≤ k
      let x : Int := if add ∨ sgn then w.toInt else w.toNat
      if add then (if sgn then (m.field k).toInt else ((m.field k).toNat : Int)) + x else x := by
  simp only [mnfsetValue, Bool.or_eq_true, signedField_iff]

/-- MNFSET writes a value to a field of a slot's record: the value fits the field, and the record that holds it is valid. -/
def Ctx.putField (c : Ctx) (d : BitVec 4) (m : Manifest) (k : Nat) (v : Int) : Res Done := do
  ensure (fieldFits k v) .illegal (wordOf c.i) 0x14#64
  match (m.setField k v).check with
  | some e => raise .illegal (wordOf c.i) (w64 e)
  | none => done (c.s.setMe (c.me.setH d.toNat (m.setField k v)))

section
variable {c : Ctx} {d : BitVec 4} {m : Manifest} {k : Nat} {v : Int}

theorem Ctx.putField_ok (hfit : fieldFits k v = true) (hgood : (m.setField k v).check = none) :
    c.putField d m k v = .ok { s := c.s.setMe (c.s.me.setH d.toNat (m.setField k v)) } := by
  simp only [Ctx.putField, hfit, hgood, ensure_true, Res.ok_bind]
  rfl

theorem Ctx.putField_unfit (hfit : fieldFits k v = false) :
    c.putField d m k v = .error (.trap { cause := .illegal, v0 := encode c.i, v1 := 0x14#64 }) := by
  simp only [Ctx.putField, ensure_of_false hfit, Res.error_bind]
  rfl

theorem Ctx.putField_invalid {e : Nat} (hfit : fieldFits k v = true) (hbad : (m.setField k v).check = some e) :
    c.putField d m k v = .error (.trap { cause := .illegal, v0 := encode c.i, v1 := w64 e }) := by
  simp only [Ctx.putField, hfit, hbad, ensure_true, Res.ok_bind]
  rfl

end

/-! ### The instructions -/

section
variable {d h sel : BitVec 4} {a b o : Opnd} {imm : BitVec 16} {add : Bool} {s s0 s1 : State} {c : Ctx} {m : Manifest}

section
variable {va : Word} {l : Loc} {bs : List Byte} (hi : Issues (.mnf d a b imm) [rdS .a a, rdS .b b] s c) (hva : c.address imm = va)
  (hal : va.toNat % 64 = 0) (hloc : s.locate false .load va 64 = .ok l) (hearly : s.performEarlier = .ok s0)
  (hread : s0.plainRead va 64 = .ok (s1, bs))
include hi hva hal hloc hearly hread

/-- A record that passes validation binds the slot (R253). -/
theorem exec_mnf_binds (hgood : (Manifest.ofBytes bs).1.check (Manifest.ofBytes bs).2 = none) :
    exec (.mnf d a b imm) s = .next (complete c { s := s1.setMe (s1.me.setH d.toNat (Manifest.ofBytes bs).1) }) := by
  obtain ⟨rfl, -, -⟩ := ready_same hi
  subst hva
  refine issue_completes hi ?_
  simp only [ensure_of_true (beq_iff_eq.mpr hal), hloc, hearly, hread, hgood, Res.ok_bind]
  rfl

/-- A record that fails validation raises ILLEGAL with the first sub-code that it breaks (R250). -/
theorem exec_mnf_invalid {k : Nat} (hbad : (Manifest.ofBytes bs).1.check (Manifest.ofBytes bs).2 = some k) :
    exec (.mnf d a b imm) s = .next (s.raises (.mnf d a b imm) [rdS .a a, rdS .b b]
      { cause := .illegal, v0 := encode (.mnf d a b imm), v1 := w64 k }) := by
  obtain ⟨rfl, hc, -⟩ := ready_same hi
  subst hva
  refine issue_raises hi ?_
  simp only [ensure_of_true (beq_iff_eq.mpr hal), hloc, hearly, hread, hbad, hc, Res.ok_bind]
  rfl

end

theorem exec_mnfget_answers (hi : Issues (.mnfget o h sel) [wrS o] s c) (hm : s.me.getH h.toNat = some m) :
    exec (.mnfget o h sel) s = .next (complete c { s := c.putS s (m.field sel.toNat) }) := by
  obtain ⟨rfl, -, -⟩ := ready_same hi
  exact issue_completes hi (Res.bind_of_ok (Ctx.slotH_bound hm) _)

theorem exec_mnfget_unbound (hi : Issues (.mnfget o h sel) [wrS o] s c) (hm : s.me.getH h.toNat = none) :
    exec (.mnfget o h sel) s = .next (s.raises (.mnfget o h sel) [wrS o]
      { cause := .illegal, v0 := encode (.mnfget o h sel), v1 := 0x10#64 }) := by
  obtain ⟨rfl, hc, -⟩ := ready_same hi
  refine issue_raises hi ?_
  simp only [Ctx.slotH_unbound hm, hc, Res.error_bind]

section
variable (hi : Issues (.mnfset add d a sel) [rdS .a a] s c) (hm : s.me.getH d.toNat = some m)
include hi hm

theorem exec_mnfset_completes {x : Done} (hput : c.putField d m sel.toNat (mnfsetValue add m sel.toNat (c.s_ .a)) = .ok x) :
    exec (.mnfset add d a sel) s = .next (complete c x) := by
  obtain ⟨rfl, -, -⟩ := ready_same hi
  exact issue_completes hi ((Res.bind_of_ok (Ctx.slotH_bound hm) _).trans hput)

theorem exec_mnfset_raises {t : Trap}
    (hput : c.putField d m sel.toNat (mnfsetValue add m sel.toNat (c.s_ .a)) = .error (.trap t)) :
    exec (.mnfset add d a sel) s = .next (s.raises (.mnfset add d a sel) [rdS .a a] t) := by
  obtain ⟨rfl, -, -⟩ := ready_same hi
  exact issue_raises hi ((Res.bind_of_ok (Ctx.slotH_bound hm) _).trans hput)

end

end

/-- Settles O42: the validation and the slot decide each instruction, and each field is a part of its own of the record. -/
theorem manifestResults : Obligations.ManifestResults := by
  refine ⟨⟨?mnf, ?mnfget, ?mnfset, ?unbound⟩, ?fields⟩
  case mnf =>
    intro d a b imm s c l s0 s1 bs hi va hal hloc hearly hread r
    exact ⟨exec_mnf_binds hi rfl hal hloc hearly hread, fun k => exec_mnf_invalid hi rfl hal hloc hearly hread⟩
  case mnfget =>
    intro d h sel s c m hi hm
    exact exec_mnfget_answers hi hm
  case mnfset =>
    intro add d a sel s c m hi hm k sgn x v
    obtain ⟨rfl, hc, -⟩ := ready_same hi
    have hv : mnfsetValue add m k (c.s_ .a) = v := mnfsetValue_eq ..
    refine ⟨fun hfit hgood => exec_mnfset_completes hi hm ?_, fun hfit => exec_mnfset_raises hi hm ?_,
      fun hfit e hbad => exec_mnfset_raises hi hm ?_⟩ <;> rw [hv]
    · exact Ctx.putField_ok hfit hgood
    · rw [Ctx.putField_unfit hfit, hc]
    · rw [Ctx.putField_invalid hfit hbad, hc]
  case unbound =>
    intro d h sel s c hi hm
    exact exec_mnfget_unbound hi hm
  case fields =>
    intro m k v hk hdims hstrides hfit
    exact ⟨m.field_setField_same hk hdims hstrides hfit, fun j _ hjk => m.field_setField_ne hjk v⟩

end Sys2Proof.Machine
end

section
/-! PROOFS. The events of a tile: capacity, line reservation, commit and release (R306–R308, R313). -/

namespace Sys2Proof.Machine

/-- An event that must wait leaves the machine as it is. -/
theorem next_getD_of_none {o : Option State} {s : State} (h : o = none) :
    (.next (o.getD s) : Host.Outcome State Fault Refusal) = .next s := by
  rw [h]
  rfl

/-! ### Capacity (R306) -/

theorem State.grantTile_of_capacity {s : State} {id : Nat} {rest : List Nat} {t : Tile} (hhead : s.capFifo = id :: rest)
    (hfind : Tab.find s.tiles id = some t) (hcap : s.hasCapacity t = true) (hhome : s.movingHome t = false) :
    s.grantTile = some { s with
      tiles := Tab.put s.tiles id { t with granted := true, since := s.tileSeq }, tileSeq := s.tileSeq + 1, capFifo := rest } := by
  simp only [State.grantTile, hhead, hfind]
  exact if_pos (by rw [hcap, hhome]; rfl)

section
variable {s : State} {id : Nat} {t : Tile}

/-! ### Line reservation (R307) -/

theorem Tile.wants_of_granted (hgrant : t.granted = true) (hcommit : t.committed = false) : t.wants = t.order[t.bound]? :=
  if_pos (by rw [hgrant, hcommit]; rfl)

/-- A line whose home answers is bound, or waits for what blocks it. -/
theorem State.reserveLine_of_owner {ln : Nat} {p : TilePart} {l : TileLine} (hfind : Tab.find s.tiles id = some t)
    (hwants : t.wants = some ln) (howner : t.owner ln = some (p, l)) (hanswers : s.lineOffline l.eph ln l.va = none) :
    s.reserveLine id = State.reserveLine.bind s id t ln := by
  simp only [State.reserveLine, hfind, hwants, howner, hanswers]

/-- Nothing keeps a line from being bound: no other tile, no store that has checked its tag, and its home can be reached. -/
theorem State.reserveLineBind_of_free {ln : Nat} (hblocked : s.blocked id t ln = false)
    (hlocked : t.store = true → s.locked ln = false) (hlink : s.lineLinked ln = true) (hext : t.ext = none) :
    State.reserveLine.bind s id t ln = some { s with
      tiles := Tab.put s.tiles id { t with bound := t.bound + 1, since := s.tileSeq }, tileSeq := s.tileSeq + 1 } := by
  have hstore : (t.store && s.locked ln) = false := by simpa using hlocked
  simp only [State.reserveLine.bind, hblocked, hstore, hlink, hext]
  rfl

/-! ### Commit (R308, R313) -/

/-- The flips or the reads of a tile's parts in order, each part with the flags of its conversions. -/
def State.commitParts (s : State) (t : Tile) : State × List TilePart :=
  t.parts.foldl (fun (a : State × List TilePart) p =>
    let q := if t.store then a.1.flipPart t.hit p else a.1.loadPart p
    (q.1, a.2 ++ [{ p with flags := q.2 }])) (s, [])

theorem State.commitTile_of_bound (hfind : Tab.find s.tiles id = some t) (hgrant : t.granted = true)
    (hcommit : t.committed = false) (hext : t.ext = none) (hbound : t.bound = t.order.length)
    (hmarks : s.marksFree id t = true)
    (hfits : ∀ p ∈ t.parts, (if t.store then s.partConflict p else s.partMismatch p) = none) :
    s.commitTile id = some { (s.commitParts t).1 with
      tiles := Tab.put (s.commitParts t).1.tiles id { t with committed := true, parts := (s.commitParts t).2 } } := by
  have hready : (!t.granted || t.committed || t.ext.isSome || t.bound != t.order.length || !s.marksFree id t) = false := by
    simp [hgrant, hcommit, hext, hbound, hmarks]
  have hchecks : (t.parts.findSome? fun p => (if t.store then s.partConflict p else s.partMismatch p).map fun e => (p, e)) = none :=
    List.findSome?_eq_none_iff.mpr fun p hp => by rw [hfits p hp]; rfl
  simp only [State.commitTile, hfind, hready, hchecks]
  rfl

theorem State.commitTile_waits_of_unbound (hfind : Tab.find s.tiles id = some t) (hbound : t.bound < t.order.length) :
    s.commitTile id = none := by
  simp only [State.commitTile, hfind]
  exact if_pos (by simp [hbound.ne])

/-! ### Release (R308) -/

theorem State.releaseTile_of_committed (hfind : Tab.find s.tiles id = some t) (hcommit : t.committed = true)
    (hext : t.ext = none) (hlinks : t.order.all s.lineLinked = true) :
    s.releaseTile id = some (t.parts.foldl State.finishPart (s.dropTile id)) := by
  simp only [State.releaseTile, hfind]
  exact if_pos (by rw [hcommit, hext, hlinks]; rfl)

theorem State.releaseTile_waits_of_uncommitted (hfind : Tab.find s.tiles id = some t) (hcommit : t.committed = false) :
    s.releaseTile id = none := by
  simp only [State.releaseTile, hfind]
  exact if_neg (by simp [hcommit])

end

/-- Settles O47: each event through the operation that it performs, under the conditions in which that operation does not wait;
a tile with lines unbound waits in commit and, being uncommitted, in release. -/
theorem tileEvents : Obligations.TileEvents := by
  refine ⟨?grant, ?reserve, ?commit, ?release, ?waits⟩
  case grant =>
    intro s id rest t hhead hfind hcap hhome
    exact next_getD_of_some (State.grantTile_of_capacity hhead hfind hcap hhome)
  case reserve =>
    intro s id t ln p l hfind hgrant hcommit hnext howner hanswers hblocked hlocked hlink hext
    have hwants : t.wants = some ln := (Tile.wants_of_granted hgrant hcommit).trans hnext
    exact next_getD_of_some ((State.reserveLine_of_owner hfind hwants howner hanswers).trans
      (State.reserveLineBind_of_free hblocked hlocked hlink hext))
  case commit =>
    intro s id t hfind hgrant hcommit hext hbound hmarks hfits
    exact next_getD_of_some (State.commitTile_of_bound hfind hgrant hcommit hext hbound hmarks hfits)
  case release =>
    intro s id t hfind hcommit hext hlinks
    exact next_getD_of_some (State.releaseTile_of_committed hfind hcommit hext hlinks)
  case waits =>
    intro s id t hfind hbound
    exact ⟨next_getD_of_none (State.commitTile_waits_of_unbound hfind hbound),
      fun hcommit => next_getD_of_none (State.releaseTile_waits_of_uncommitted hfind hcommit)⟩

end Sys2Proof.Machine
end

section
/-! PROOFS. Delivery of a trap: the level that takes it, what it saves and what it leaves (R384, R385). -/

namespace Sys2Proof.Machine

/-! ### The registers of a level -/

section
variable (s : State) (st : Strand) (l k : Priv) (x : TrapRegs)

theorem State.lvlRegs_setLvl_same : s.lvlRegs (st.setLvl l x) l = { x with vec := (s.lvlRegs st l).vec } := by
  cases l <;> rfl

variable {l k} in
theorem State.lvlRegs_setLvl_ne (h : k ≠ l) : s.lvlRegs (st.setLvl l x) k = s.lvlRegs st k := by
  match l, k, h with
  | .user, .sup, _ | .user, .mon, _ | .sup, .user, _ | .sup, .mon, _ | .mon, .user, _ | .mon, .sup, _ => rfl
  | .user, .user, h | .sup, .sup, h | .mon, .mon, h => exact absurd rfl h

/-- The level registers stand in three fields of the strand, and in its team's VI. -/
theorem Strand.setLvl_eq : st.setLvl l x =
    { st with ut := (st.setLvl l x).ut, st := (st.setLvl l x).st, mt := (st.setLvl l x).mt } := by
  cases l <;> rfl

theorem State.lvlRegs_congr {t : State} {y : Strand} (hlvl : y.ut = st.ut ∧ y.st = st.st ∧ y.mt = st.mt)
    (hvec : (t.vi (t.viNo y)).stvec = (s.vi (s.viNo st)).stvec) : t.lvlRegs y k = s.lvlRegs st k := by
  obtain ⟨hu, hs, hm⟩ := hlvl
  cases k
  case user => exact hu
  case sup => simp only [State.lvlRegs, hs, hvec]
  case mon => exact hm

end

/-! ### STAT at delivery (Table 17.1) -/

/-- The fields of a STAT word that delivery builds, read back. -/
theorem bits_statFields {a p e k r m : Nat} (ha : a < 2) (hp : p < 4) (he : e < 2) (hk : k < 2) (hr : r < 2 ^ 10)
    (hm : m < 2 ^ 2) :
    let w := w64 (1 + 2 * a + (4 * p + 16 * e + 32 * k) + r * 2 ^ 16 + m * 2 ^ 32)
    bits w 0 1 = 1 ∧ bits w 1 1 = a ∧ bits w 2 2 = p ∧ bits w 4 1 = e ∧ bits w 5 1 = k ∧ bits w 6 10 = 0 ∧
      bits w 16 10 = r ∧ bits w 26 6 = 0 ∧ bits w 32 2 = m ∧ bits w 34 30 = 0 := by
  simp only [bits, w64, BitVec.toNat_ofNat]
  omega

theorem statAtDelivery_eq (old : Word) (l : Priv) (async esc : Bool) (pp : Priv) (r m : Word) :
    statAtDelivery old l async esc pp r m =
      w64 (1 + 2 * (if async then 1 else 0) + (4 * (if l = .user then 0 else pp.num) +
        16 * (if l ≠ .user ∧ esc = true then 1 else 0) + 32 * (if l = .user then 0 else bits old 5 1)) +
        bits r 0 10 * 2 ^ 16 + bits m 0 2 * 2 ^ 32) := by
  have hsstep : (if bitAt old 5 then 32 else 0) = 32 * bits old 5 1 := by
    have hlt : bits old 5 1 < 2 := Nat.mod_lt _ (by decide)
    rw [bitAt_eq_decide]
    by_cases h : bits old 5 1 = 1
    · rw [h]; rfl
    · have h0 : bits old 5 1 = 0 := by omega
      rw [h0]; rfl
  have hasync : (if async then 2 else 0) = 2 * (if async then 1 else 0) := by cases async <;> rfl
  simp only [statAtDelivery, hsstep, hasync]
  cases l <;> cases esc <;> simp [Nat.mul_comm]

/-! ### Delivery to a level -/

/-- The registers of the taking level after delivery. -/
def State.savedAt (s : State) (st : Strand) (t : Trap) (async esc : Bool) (l : Priv) : TrapRegs :=
  { pc := if t.cause = .trapcall then st.pc + 8#64 else st.pc
    cause := w64 t.cause.code, v0 := t.v0, v1 := t.v1, v2 := t.v2, v3 := t.v3, vec := (s.lvlRegs st l).vec
    stat := statAtDelivery (s.lvlRegs st l).stat l async esc st.priv st.tstart st.mstep }

/-- The strand after delivery. -/
def State.trappedStrand (s : State) (st : Strand) (t : Trap) (async esc : Bool) (l : Priv) : Strand :=
  { st.setLvl l (s.savedAt st t async esc l) with
    tstart := 0#64, mstep := 0#64, priv := Priv.max st.priv l, pc := (s.lvlRegs st l).vec, sstep := none, run := .active
    xlast := none, got := [], late := [], shun := [], reqs := 0, charged := false, homing := none }

section
variable (s : State) (sid : Nat) (t : Trap) (async esc : Bool) (l : Priv)

theorem State.deliverAt_eq : s.deliverAt sid t async esc l = s.setStrand sid (s.trappedStrand (s.strand sid) t async esc l) := by
  simp only [State.deliverAt, beq_iff_eq]
  rfl

theorem State.lvlRegs_trapped_same (st : Strand) :
    s.lvlRegs (s.trappedStrand st t async esc l) l = s.savedAt st t async esc l := by
  have hlvl : s.lvlRegs (s.trappedStrand st t async esc l) l = s.lvlRegs (st.setLvl l (s.savedAt st t async esc l)) l :=
    s.lvlRegs_congr _ l ⟨rfl, rfl, rfl⟩ rfl
  rw [hlvl, s.lvlRegs_setLvl_same]
  rfl

theorem State.lvlRegs_trapped_ne (st : Strand) {k : Priv} (h : k ≠ l) :
    s.lvlRegs (s.trappedStrand st t async esc l) k = s.lvlRegs st k :=
  (s.lvlRegs_congr _ k ⟨rfl, rfl, rfl⟩ rfl).trans (s.lvlRegs_setLvl_ne st _ h)

/-- Delivery writes, of the strand, its level registers, the pc, the privilege, TSTART and MSTEP, and ends the model's record. -/
theorem State.trappedStrand_eq (st : Strand) : let y := s.trappedStrand st t async esc l
    y = { st with ut := y.ut, st := y.st, mt := y.mt, pc := (s.lvlRegs st l).vec, priv := Priv.max st.priv l, run := .active
                  tstart := 0#64, mstep := 0#64, sstep := none, xlast := none, got := [], late := [], shun := [], reqs := 0
                  charged := false, homing := none } := by
  cases l <;> rfl

variable {s sid t async esc l}

theorem State.deliver_taken {second : Bool} {lvl : Option Priv}
    (h : s.takingLevel (s.strand sid) (baseLevel t (s.strand sid).priv second lvl) async = some (l, esc)) :
    s.deliver sid t async second lvl = s.setStrand sid (s.trappedStrand (s.strand sid) t async esc l) := by
  simp only [State.deliver, h]
  exact s.deliverAt_eq ..

theorem State.deliver_untaken (h : s.takingLevel (s.strand sid) (baseLevel t (s.strand sid).priv false none) false = none) :
    s.deliver sid t = if s.viNo (s.strand sid) = 0 then s.setStrand sid { s.strand sid with run := .stopped }
      else (s.setStrand sid { s.strand sid with run := .stopped }).viReset (s.viNo (s.strand sid)) := by
  simp only [State.deliver, h]

end

/-! ### The taking level (R384) -/

/-- A level that can take a cause: its vector is set and, for a synchronous cause, its HND is 0. -/
def State.opens (s : State) (st : Strand) (async : Bool) (l : Priv) : Bool :=
  !((s.lvlRegs st l).vec == 0#64 || (!async && (s.lvlRegs st l).hnd))

section
variable (s : State) (st : Strand) (async : Bool) (l : Priv)

theorem State.opens_iff : s.opens st async l = true ↔
    (s.lvlRegs st l).vec ≠ 0#64 ∧ (async = false → bits (s.lvlRegs st l).stat 0 1 = 0) := by
  have hlt : bits (s.lvlRegs st l).stat 0 1 < 2 := Nat.mod_lt _ (by decide)
  simp only [State.opens, TrapRegs.hnd, bitAt_eq_decide]
  cases async <;> simp; omega

theorem State.opens_eq_false : s.opens st async l = false ↔
    (s.lvlRegs st l).vec = 0#64 ∨ async = false ∧ bits (s.lvlRegs st l).stat 0 1 = 1 := by
  have hlt : bits (s.lvlRegs st l).stat 0 1 < 2 := Nat.mod_lt _ (by decide)
  simp only [State.opens, TrapRegs.hnd, bitAt_eq_decide]
  cases async <;> simp; tauto

theorem Priv.forall_iff {p : Priv → Prop} : (∀ k, p k) ↔ p .user ∧ p .sup ∧ p .mon :=
  ⟨fun h => ⟨h _, h _, h _⟩, fun ⟨hu, hs, hm⟩ k => by cases k <;> assumption⟩

/-- The levels are tried from the base up, and the first that is open takes the cause. -/
theorem State.takingLevel_eq_some (base : Priv) (esc : Bool) : s.takingLevel st base async = some (l, esc) ↔
    base.num ≤ l.num ∧ s.opens st async l = true ∧
      (∀ k : Priv, base.num ≤ k.num → k.num < l.num → s.opens st async k = false) ∧ esc = decide (l ≠ base) := by
  have htried : s.takingLevel st base async = match base with
      | .user => if s.opens st async .user then some (.user, false) else if s.opens st async .sup then some (.sup, true)
        else if s.opens st async .mon then some (.mon, true) else none
      | .sup => if s.opens st async .sup then some (.sup, false) else if s.opens st async .mon then some (.mon, true) else none
      | .mon => if s.opens st async .mon then some (.mon, false) else none := rfl
  rw [htried, Priv.forall_iff]
  generalize s.opens st async = o
  cases base <;> cases l <;> cases o .user <;> cases o .sup <;> cases o .mon <;> simp [Priv.num, eq_comm]

end

/-- Settles O8: delivery writes one strand, field by field, and the taking level is the first open one from the base up. -/
theorem trapDelivery : Obligations.TrapDelivery := by
  refine ⟨?taken, ?level, fun s sid t h => State.deliver_untaken h⟩
  case taken =>
    intro s sid t async second lvl l esc st h u x old
    have hu : u = s.setStrand sid (s.trappedStrand st t async esc l) := State.deliver_taken h
    have hst : u.strand sid = s.trappedStrand st t async esc l := by rw [hu]; exact State.strand_setStrand ..
    have hlvl (k : Priv) : u.lvlRegs (u.strand sid) k = s.lvlRegs (s.trappedStrand st t async esc l) k := by
      rw [hst, hu]
      exact State.lvlRegs_congr _ _ k ⟨rfl, rfl, rfl⟩ rfl
    have hx : x = s.savedAt st t async esc l := (hlvl l).trans (s.lvlRegs_trapped_same t async esc l st)
    obtain ⟨h0, h1, h2, h4, h5, h6, h16, h26, h32, h34⟩ := bits_statFields (a := if async then 1 else 0)
      (p := if l = .user then 0 else st.priv.num) (e := if l ≠ .user ∧ esc = true then 1 else 0)
      (k := if l = .user then 0 else bits old.stat 5 1) (r := bits st.tstart 0 10) (m := bits st.mstep 0 2)
      (by split <;> decide) (by cases st.priv <;> split <;> decide) (by split <;> decide)
      (by split; exacts [by decide, Nat.mod_lt _ (by decide)]) (bits_lt ..) (bits_lt ..)
    rw [← statAtDelivery_eq old.stat l async esc st.priv] at h0 h1 h2 h4 h5 h6 h16 h26 h32 h34
    rw [hx, hst]
    refine ⟨rfl, rfl, rfl, rfl, rfl, rfl, rfl, h0, h1, h2, h4, h5, h6, h16, h26, h32, h34, rfl, rfl, rfl, rfl, rfl, ?_,
      s.trappedStrand_eq t async esc l st, ?_, ?_⟩
    · intro k hk
      rw [← hst, hlvl, s.lvlRegs_trapped_ne t async esc l st hk]
    · rw [hu]; rfl
    · intro k hk
      rw [hu]
      exact State.strand_setStrand_ne _ _ _ _ hk
  case level =>
    intro s st base async l esc
    simp only [s.takingLevel_eq_some, s.opens_iff, s.opens_eq_false, and_assoc]

end Sys2Proof.Machine
end

section
/-! PROOFS. TRAP, BRK and TRET (R401, R402). -/

namespace Sys2Proof.Machine

/-! ### What an issue leaves of the level registers -/

section
variable {s t : State}

theorem OwnOnly.caravan_eq (h : OwnOnly s t) (n : Nat) : (t.team n).caravan = (s.team n).caravan := by
  by_cases hn : n = s.me.team
  · subst hn
    rw [h.queues]
    rfl
  · rw [h.teams n hn]

theorem OwnOnly.vi_counters (h : OwnOnly s t) (n : Nat) : ∃ k, t.vi n = { s.vi n with counters := k } := by
  by_cases hn : n = s.myVi
  · subst hn
    exact ⟨_, h.counters⟩
  · exact ⟨(s.vi n).counters, h.vis n hn⟩

theorem OwnOnly.viNo_eq (h : OwnOnly s t) {y st : Strand} (hteam : y.team = st.team) : t.viNo y = s.viNo st := by
  rw [State.viNo, State.viNo, State.carOf, State.carOf, hteam, h.caravan_eq, h.car_eq]

theorem OwnOnly.lvlRegs_eq (h : OwnOnly s t) {y st : Strand} (hteam : y.team = st.team)
    (hlvl : y.ut = st.ut ∧ y.st = st.st ∧ y.mt = st.mt) (k : Priv) : t.lvlRegs y k = s.lvlRegs st k := by
  refine s.lvlRegs_congr st k hlvl ?_
  obtain ⟨c, hc⟩ := h.vi_counters (s.viNo st)
  rw [h.viNo_eq hteam, hc]

theorem State.takingLevel_congr {y st : Strand} (h : ∀ k, t.lvlRegs y k = s.lvlRegs st k) (base : Priv) (async : Bool) :
    t.takingLevel y base async = s.takingLevel st base async := by
  simp only [State.takingLevel, h]

end

/-! ### TRAP and BRK -/

section
variable {s : State} {i : Instr} {t : Trap}

/-- An instruction without slots, lanes or a least privilege issues. -/
theorem issues_noSlots (hp : privOk i s.me.priv = true) (hl : needsLanes (opOf i) = false) : Issues i [] s { s, i } :=
  issues_of_noQ hp (fun h => by rw [hl] at h; cases h) (fun _ h => nomatch h) rfl

theorem State.raises_noSlots (ht : t.refusedHost = false) : s.raises i [] t = (s.chargeIssue i).deliver s.cur t := by
  have hspend (u : State) : u.spendFor t = u := by
    simp only [State.spendFor, State.spendBy, ht, Bool.false_eq_true, if_false]
  simp only [State.raises, List.any_nil, Bool.false_eq_true, if_false, hspend, cur_chargeIssue]

/-- The charge of an issue bears on neither the taking level nor what delivery saves there. -/
theorem State.raises_saves {l : Priv} {esc : Bool} (ht : t.refusedHost = false)
    (h : s.takingLevel s.me (baseLevel t s.me.priv false none) false = some (l, esc)) :
    let u := s.raises i [] t
    (u.lvlRegs u.me l).pc = (if t.cause = .trapcall then s.me.pc + 8#64 else s.me.pc) ∧ (u.lvlRegs u.me l).v0 = t.v0 := by
  intro u
  have hme : (s.chargeIssue i).strand s.cur = { s.me with charged := false } := by
    have hcur := State.me_chargeIssue s i
    rwa [State.me, cur_chargeIssue] at hcur
  have hlevel : (s.chargeIssue i).takingLevel ((s.chargeIssue i).strand s.cur)
      (baseLevel t ((s.chargeIssue i).strand s.cur).priv false none) false = some (l, esc) := by
    rw [hme, ← h]
    exact State.takingLevel_congr (fun k => (ownOnly_chargeIssue s i).lvlRegs_eq rfl ⟨rfl, rfl, rfl⟩ k) ..
  obtain ⟨hpc, -, hv0, -⟩ := trapDelivery.1 (s.chargeIssue i) s.cur t false false none l esc hlevel
  have hu : u = (s.chargeIssue i).deliver s.cur t := State.raises_noSlots ht
  have hucur : u.cur = s.cur := by rw [hu, State.deliver_taken hlevel, State.setStrand, cur_chargeIssue]
  have hume : u.me = u.strand s.cur := by rw [State.me, hucur, State.strand]
  rw [hume, hu]
  rw [hme] at hpc
  exact ⟨hpc, hv0⟩

theorem exec_trap (imm : BitVec 16) (s : State) :
    exec (.trap imm) s = .next (s.raises (.trap imm) [] { cause := .trapcall, v0 := imm.setWidth 64 }) :=
  (issue_raises (issues_noSlots rfl rfl) rfl : execTrap imm s = _)

theorem exec_brk (imm : BitVec 16) (s : State) :
    exec (.brk imm) s = .next (s.raises (.brk imm) [] { cause := .breakpoint, v0 := imm.setWidth 64 }) :=
  (issue_raises (issues_noSlots rfl rfl) rfl : execBrk imm s = _)

end

/-! ### TRET -/

/-- STAT of the level that TRET returns from: HND, RSTART and RMSTEP are zero. -/
def returnedStat (w : Word) : Word := setBits (setBits (setBits w 0 1 0) 16 10 0) 32 2 0

theorem getLsbD_returnedStat (w : Word) {k : Nat} (hk : k < 64) : (returnedStat w).getLsbD k =
    if k < 1 ∨ 16 ≤ k ∧ k < 26 ∨ 32 ≤ k ∧ k < 34 then false else w.getLsbD k := by
  simp only [returnedStat, getLsbD_setBits _ _ _ _ hk, Nat.zero_testBit]
  grind

theorem bits_eq_zero {w : Word} {lo n : Nat} (h : ∀ k, k < n → w.getLsbD (lo + k) = false) : bits w lo n = 0 := by
  refine Nat.eq_of_testBit_eq fun k => ?_
  rw [testBit_bits, Nat.zero_testBit]
  by_cases hk : k < n
  · rw [h k hk, Bool.and_false]
  · rw [decide_eq_false hk, Bool.false_and]

theorem bits_returnedStat (w : Word) {lo n : Nat} (hn : lo + n ≤ 64)
    (h : ∀ k, lo ≤ k → k < lo + n → k < 1 ∨ 16 ≤ k ∧ k < 26 ∨ 32 ≤ k ∧ k < 34) : bits (returnedStat w) lo n = 0 :=
  bits_eq_zero fun k hk => by rw [getLsbD_returnedStat w (by omega), if_pos (h _ (by omega) (by omega))]

/-- The acting strand after TRET's own effect (R402). -/
def State.returnedStrand (s : State) : Strand :=
  let x := s.lvlRegs s.me s.me.priv
  { s.me.setLvl s.me.priv { x with stat := returnedStat x.stat } with
    pc := x.pc &&& ~~~7#64, tstart := w64 (bits x.stat 16 10), mstep := w64 (bits x.stat 32 2)
    priv := if s.me.priv = .user then .user else Priv.min (Priv.ofNum (bits x.stat 2 2)) s.me.priv
    sstep := if s.me.priv ≠ .user ∧ bitAt x.stat 5 = true then some s.me.priv else none }

/-- The teams after TRET: from a PREEMPT handler, the team and its gang may be victims again (R392). -/
def State.pardonedTeams (s : State) : Tab Team :=
  let c := s.myTeam.caravan
  if s.me.priv = .user ∨ (s.lvlRegs s.me s.me.priv).cause ≠ w64 Cause.preempt.code then s.teams
  else s.teams.map fun (p : Nat × Team) =>
    if p.1 == s.me.team || ((s.car c).wb.gang && p.2.caravan == c) then (p.1, { p.2 with noVictim := false }) else p

/-- The machine after TRET's own effect. -/
def State.returned (s : State) : State := { s.setMe s.returnedStrand with teams := s.pardonedTeams }

section
variable {s : State}

theorem State.tret_of_hnd (h : (s.lvlRegs s.me s.me.priv).hnd = true) :
    s.tret = some s.returned := by
  simp only [State.tret, State.returned, h, Bool.not_true, Bool.false_eq_true, if_false, State.pardonedTeams, State.returnedStrand,
    beq_iff_eq, bne_iff_ne, Bool.and_eq_true]
  by_cases hu : s.me.priv = .user ∨ (s.lvlRegs s.me s.me.priv).cause ≠ w64 Cause.preempt.code
  · rw [if_pos hu, if_neg (by tauto)]
    rfl
  · rw [if_neg hu, if_pos (by tauto)]
    rfl

theorem State.team_pardoned (s : State) (n : Nat) :
    ∃ b, Tab.get {} s.pardonedTeams n = { s.team n with noVictim := b } := by
  unfold State.pardonedTeams
  simp only
  split
  · exact ⟨(s.team n).noVictim, rfl⟩
  · have hentry : (fun p : Nat × Team => if p.1 == s.me.team || ((s.car s.myTeam.caravan).wb.gang && p.2.caravan == s.myTeam.caravan)
        then (p.1, { p.2 with noVictim := false }) else p) = fun p => (p.1,
          if p.1 == s.me.team || ((s.car s.myTeam.caravan).wb.gang && p.2.caravan == s.myTeam.caravan)
          then { p.2 with noVictim := false } else p.2) := by
      funext p
      split <;> rfl
    rw [hentry]
    refine Tab.get_map (P := fun x y : Team => ∃ b, y = { x with noVictim := b }) s.teams n ⟨_, rfl⟩ fun v => ?_
    split
    · exact ⟨_, rfl⟩
    · exact ⟨_, rfl⟩

/-- An instruction that is neither a plain access nor an operation on registers ends every late load (R282). -/
theorem late_filter_tret (c : Ctx) (d : Done) (hi : c.i = .tret) (ls : List LateLoad) :
    (ls.filter fun l => l.passedBy c d) = [] := by
  refine List.filter_eq_nil_iff.mpr fun l _ => ?_
  have hreg : onRegisters (opOf .tret) = false := rfl
  simp only [LateLoad.passedBy, hi, plainMem, hreg, Bool.and_false, Bool.false_eq_true, not_false_eq_true]

theorem teams_chargeIssue (s : State) (i : Instr) : (s.chargeIssue i).teams = s.teams := by
  unfold State.chargeIssue
  split <;> rfl

/-- What TRET answers: the return, and the charge of its issue. -/
def State.afterTret (s : State) : State :=
  (s.returned.setMe { s.returned.me with got := [], late := [], reqs := 0, homing := none }).chargeIssue .tret

theorem exec_tret_returns (h : (s.lvlRegs s.me s.me.priv).hnd = true) (hs : s.me.sstep = none) :
    exec .tret s = .next s.afterTret := by
  have hi : Issues .tret [] s { s, i := .tret } := issues_noSlots rfl rfl
  have hexec : exec .tret s =
      .next (complete { s, i := .tret } { s := s.returned, pc := some s.returned.me.pc, keepT := true }) := by
    change execTret s = _
    refine issue_completes hi ?_
    simp only [State.tret_of_hnd h]
  rw [hexec, complete_eq (c := { s, i := .tret }) hs, completedStrand, late_filter_tret _ _ rfl, lateOf_eq_nil rfl]
  rfl

theorem exec_tret_privilege (h : (s.lvlRegs s.me s.me.priv).hnd = false) :
    exec .tret s = .next (s.raises .tret [] { cause := .privilege, v0 := encode .tret }) := by
  have htret : s.tret = none := by simp only [State.tret, h, Bool.not_false, if_true]
  have hi : Issues .tret [] s { s, i := .tret } := issues_noSlots rfl rfl
  change execTret s = _
  refine issue_raises hi ?_
  simp only [htret]
  rfl

theorem State.me_afterTret (s : State) : s.afterTret.me =
    { s.returnedStrand with got := [], late := [], reqs := 0, homing := none, charged := false } := by
  have hme : s.returned.me = s.returnedStrand := State.me_setMe ..
  simp only [State.afterTret, State.me_chargeIssue, State.me_setMe, hme]

theorem State.ownOnly_afterTret (s : State) : OwnOnly s.returned s.afterTret :=
  (ownOnly_setMe ..).trans (ownOnly_chargeIssue ..) (by rw [State.me_setMe])

theorem State.afterTret_team (s : State) (n : Nat) : ∃ b, s.afterTret.team n = { s.team n with noVictim := b } := by
  have hteams : s.afterTret.teams = s.pardonedTeams := teams_chargeIssue ..
  rw [State.team, hteams]
  exact s.team_pardoned n

theorem State.lvlRegs_afterTret (s : State) (k : Priv) :
    s.afterTret.lvlRegs s.afterTret.me k = s.lvlRegs s.returnedStrand k := by
  refine s.lvlRegs_congr _ k (by rw [s.me_afterTret]; exact ⟨rfl, rfl, rfl⟩) ?_
  have hteam : s.afterTret.me.team = s.returnedStrand.team := by rw [s.me_afterTret]
  obtain ⟨b, hb⟩ := s.afterTret_team s.returnedStrand.team
  have hcars : s.afterTret.caravans = s.caravans := by rw [s.ownOnly_afterTret.rest]; rfl
  have hno : s.afterTret.viNo s.afterTret.me = s.viNo s.returnedStrand := by
    simp only [State.viNo, State.carOf, State.car, hteam, hb, hcars]
  obtain ⟨c, hc⟩ := s.ownOnly_afterTret.vi_counters (s.viNo s.returnedStrand)
  rw [hno, hc]
  rfl

theorem State.lvlRegs_returned_same (s : State) : let x := s.lvlRegs s.me s.me.priv
    s.lvlRegs s.returnedStrand s.me.priv = { x with stat := returnedStat x.stat } := by
  intro x
  have h : s.lvlRegs s.returnedStrand s.me.priv =
      s.lvlRegs (s.me.setLvl s.me.priv { x with stat := returnedStat x.stat }) s.me.priv :=
    s.lvlRegs_congr _ _ ⟨rfl, rfl, rfl⟩ rfl
  rw [h, s.lvlRegs_setLvl_same]

theorem State.lvlRegs_returned_ne (s : State) {l : Priv} (h : l ≠ s.me.priv) :
    s.lvlRegs s.returnedStrand l = s.lvlRegs s.me l :=
  (s.lvlRegs_congr _ l ⟨rfl, rfl, rfl⟩ rfl).trans (s.lvlRegs_setLvl_ne s.me _ h)

end

/-- Settles O19: TRAP and BRK are traps in every state, and TRET is the return of `State.tret` with the charge of its issue. -/
theorem trapInstructions : Obligations.TrapInstructions := by
  refine ⟨⟨exec_trap, exec_brk⟩, ⟨fun imm s l esc h => ⟨_, exec_trap imm s, State.raises_saves rfl h⟩,
    fun imm s l esc h => ⟨_, exec_brk imm s, State.raises_saves rfl h⟩⟩, fun s => ⟨exec_tret_privilege, fun hhnd hstep => ?_⟩⟩
  have hsame := (s.lvlRegs_afterTret s.me.priv).trans s.lvlRegs_returned_same
  have hme := s.me_afterTret
  refine ⟨s.afterTret, exec_tret_returns hhnd hstep, ?_, ?_, ?_, ?_, ?_, fun l hl => ?_, ?_, ?_, fun sid hsid => ?_,
    s.ownOnly_afterTret.vi_counters, fun hkeep => ?_, fun n => ?_⟩
  · rw [hme]; rfl
  · rw [hme]
    exact Nat.mod_eq_of_lt ((bits_lt ..).trans (by decide))
  · rw [hme]
    exact Nat.mod_eq_of_lt ((bits_lt ..).trans (by decide))
  · rw [hme]; rfl
  · simp only [hsame, and_self, and_true]
    refine ⟨bits_returnedStat _ (by decide) (by omega), bits_returnedStat _ (by decide) (by omega),
      bits_returnedStat _ (by decide) (by omega), fun k h1 h64 h16 h32 => ?_⟩
    rw [getLsbD_returnedStat _ h64, if_neg (by omega)]
  · rw [s.lvlRegs_afterTret, s.lvlRegs_returned_ne hl]
  · rw [hme, State.returnedStrand, Strand.setLvl_eq]
  · have hrest := s.ownOnly_afterTret.rest
    exact hrest
  · exact (s.ownOnly_afterTret.strands sid hsid).trans (State.strand_setMe_ne s sid _ hsid)
  · exact (teams_chargeIssue ..).trans (if_pos hkeep)
  · obtain ⟨b, hb⟩ := s.afterTret_team n
    rw [hb]

end Sys2Proof.Machine
end

section
/-! PROOFS. Writes of the trap program counters (R387). -/

namespace Sys2Proof.Machine

/-- RSTART and RMSTEP of a STAT word that a write of xPC leaves. -/
theorem bits_clearedStat (w : Word) :
    bits (w &&& ~~~0x3_03FF_0000#64) 16 10 = 0 ∧ bits (w &&& ~~~0x3_03FF_0000#64) 32 2 = 0 := by
  have hmask : ∀ k : Fin 64, (16 ≤ k.val ∧ k.val < 26 ∨ 32 ≤ k.val ∧ k.val < 34) →
      (~~~0x3_03FF_0000#64).getLsbD k = false := by decide
  refine ⟨bits_eq_zero fun k hk => ?_, bits_eq_zero fun k hk => ?_⟩
  · rw [BitVec.getLsbD_and, hmask ⟨16 + k, by omega⟩ (.inl ⟨by simp, by simp; omega⟩), Bool.and_false]
  · rw [BitVec.getLsbD_and, hmask ⟨32 + k, by omega⟩ (.inr ⟨by simp, by simp; omega⟩), Bool.and_false]

/-- Register n is the pc of a level whose STAT is register k: a write of it is accepted, reads back, and clears RSTART and
RMSTEP. -/
def WritesTrapPc (n k : Nat) : Prop :=
  ∀ (s : State) w, ∃ t, s.crWrite n w = .ok t ∧ t.crRead n = w ∧ bits (t.crRead k) 16 10 = 0 ∧ bits (t.crRead k) 32 2 = 0

theorem writesTrapPc_user : WritesTrapPc 0x08 0x0F := fun s w =>
  ⟨s.setMe { s.me with ut := s.me.ut.write .user 0 w }, rfl, by simp [State.crRead, TrapRegs.get, TrapRegs.write],
    by simpa [State.crRead, TrapRegs.get, TrapRegs.write] using bits_clearedStat s.me.ut.stat⟩

theorem writesTrapPc_sup : WritesTrapPc 0x20 0x27 := fun s w =>
  ⟨s.setMe { s.me with st := s.me.st.write .sup 0 w }, rfl, by simp [State.crRead, TrapRegs.get, TrapRegs.write],
    by simpa [State.crRead, TrapRegs.get, TrapRegs.write] using bits_clearedStat s.me.st.stat⟩

theorem writesTrapPc_mon : WritesTrapPc 0x40 0x47 := fun s w =>
  ⟨s.setMe { s.me with mt := s.me.mt.write .mon 0 w }, rfl, by simp [State.crRead, TrapRegs.get, TrapRegs.write],
    by simpa [State.crRead, TrapRegs.get, TrapRegs.write] using bits_clearedStat s.me.mt.stat⟩

/-- CWR and CRSW of such a register. -/
theorem trapPcWrites_of {n : BitVec 12} {k : Nat} (hn : ¬(n = 0x02 ∨ n = 0x03)) (h : WritesTrapPc n.toNat k) :
    (∀ a s c, Issues (.cwr n a) [rdS .a a] s c →
      ∃ t, exec (.cwr n a) s = .next (complete c { s := t }) ∧ t.crRead n.toNat = c.s_ .a ∧
        bits (t.crRead k) 16 10 = 0 ∧ bits (t.crRead k) 32 2 = 0) ∧
    (∀ d a s c, Issues (.crsw d n a) [rdS .a a, wrS d] s c →
      ∃ t, exec (.crsw d n a) s = .next (complete c { s := c.putS t (s.crRead n.toNat) }) ∧ t.crRead n.toNat = c.s_ .a ∧
        bits (t.crRead k) 16 10 = 0 ∧ bits (t.crRead k) 32 2 = 0) := by
  refine ⟨fun a s c hi => ?_, fun d a s c hi => ?_⟩ <;> obtain ⟨t, hw, hread⟩ := h s (c.s_ .a)
  · have hexec := execCwr_completes hi hw
    rw [decide_eq_false hn] at hexec
    exact ⟨t, hexec, hread⟩
  · have hexec := execCrsw_completes hi hw
    rw [decide_eq_false hn] at hexec
    exact ⟨t, hexec, hread⟩

/-- Settles O28: each of the three registers is the pc of its level. -/
theorem trapPcWrites : Obligations.TrapPcWrites := by
  simp only [Obligations.TrapPcWrites, List.forall_mem_cons, List.not_mem_nil, false_implies, implies_true, and_true]
  exact ⟨trapPcWrites_of (by decide) writesTrapPc_user, trapPcWrites_of (by decide) writesTrapPc_sup,
    trapPcWrites_of (by decide) writesTrapPc_mon⟩

end Sys2Proof.Machine
end

section
/-! PROOFS. The length and layout of a strand image, and its CORE section (R396, R404, Table 17.7). -/

namespace Sys2Proof.Machine

theorem bitAt_eq_getLsbD (w : Word) (k : Nat) : bitAt w k = w.getLsbD k := by
  rw [← BitVec.testBit_toNat, Nat.testBit_eq_decide_div_mod_eq]
  rfl

/-! ### Pieces of one length -/

section
variable {α β : Type} {f : α → List β} {n : Nat} {l : List α}

theorem length_flatMap_const (h : ∀ x ∈ l, (f x).length = n) : (l.flatMap f).length = n * l.length := by
  rw [List.length_flatMap, List.map_congr_left h, List.map_const', List.sum_replicate, smul_eq_mul, Nat.mul_comm]

/-- The piece of an entry stands behind those of the entries before it. -/
theorem take_drop_flatMap (h : ∀ x ∈ l, (f x).length = n) {k : Nat} (hk : k < l.length) (post : List β) :
    ((l.flatMap f ++ post).drop (n * k)).take n = f l[k] := by
  have hpre : ((l.take k).flatMap f).length = n * k := by
    rw [length_flatMap_const fun x hx => h x (List.mem_of_mem_take hx), List.length_take_of_le hk.le]
  have hsplit : l.flatMap f = (l.take k).flatMap f ++ (f l[k] ++ (l.drop (k + 1)).flatMap f) := by
    rw [← List.flatMap_cons, ← List.flatMap_append, List.getElem_cons_drop, List.take_append_drop]
  rw [hsplit, List.append_assoc, List.append_assoc, List.drop_left' hpre, List.take_left' (h _ (List.getElem_mem hk))]

end

/-! ### Words of an image -/

theorem wordsOf_append (xs ys : List Word) : wordsOf (xs ++ ys) = wordsOf xs ++ wordsOf ys := List.flatMap_append

theorem length_wordsOf (ws : List Word) : (wordsOf ws).length = 8 * ws.length :=
  length_flatMap_const fun w _ => length_natLe 8 w.toNat

/-- Word k of a run of words that begins at offset o. -/
theorem wordAt_wordsOf {pre post : List Byte} {ws : List Word} {o k : Nat} (ho : pre.length = o) (hk : k < ws.length) :
    wordAt (pre ++ wordsOf ws ++ post) (o + 8 * k) = ws[k] := by
  have hlen : ∀ w ∈ ws, (natLe 8 w.toNat).length = 8 := fun w _ => length_natLe 8 w.toNat
  rw [wordAt, bytesAt, List.append_assoc, ← List.drop_drop, List.drop_left' ho]
  change w64 (leNat (((ws.flatMap fun w => natLe 8 w.toNat) ++ post).drop (8 * k) |>.take 8)) = _
  rw [take_drop_flatMap hlen hk, leNat_natLe ws[k].isLt, w64, BitVec.ofNat_toNat, BitVec.setWidth_eq]

theorem Header.length_bytes (h : Header) : h.bytes.length = 128 := by
  simp only [Header.bytes, List.length_append, length_natLe]

/-! ### The CORE section (Table 17.7) -/

/-- The words of the CORE section up to the saved privilege, in order. -/
def Strand.coreWords (st : Strand) (x : TrapRegs) : List Word :=
  (List.range 64).map st.getS ++ (List.range 8).map st.getI ++
    [x.pc, st.vl, st.vfmt, st.vpad, w64 (bits x.stat 16 10), w64 (bits x.stat 32 2), st.fctl, st.palsel, st.vdirty,
      st.vpresent, st.ut.pc, st.ut.cause, st.ut.v0, st.ut.v1, st.ut.v2, st.ut.v3, st.ut.vec, st.ut.stat, st.progress,
      0#64, w64 st.wdrem, w64 (bits x.stat 2 2)]

/-- The part of the CORE section after those words: the supervisor registers that a monitor image holds, and zeros. -/
def Strand.coreTail (st : Strand) (sup : Option TrapRegs) : List Byte :=
  (match sup with
    | some t => wordsOf [t.pc, t.cause, t.v0, t.v1, t.v2, t.v3, t.stat, st.sscratch]
    | none => natLe 64 0) ++ natLe 208 0

section
variable (st : Strand) (x : TrapRegs)

theorem Strand.coreBytes_eq (sup : Option TrapRegs) : st.coreBytes x sup = wordsOf (st.coreWords x) ++ st.coreTail sup := by
  cases sup <;> simp only [Strand.coreBytes, Strand.coreWords, Strand.coreTail, wordsOf_append, List.append_assoc]

theorem Strand.length_coreWords : (st.coreWords x).length = 94 := by
  simp [Strand.coreWords]

theorem Strand.length_coreTail (sup : Option TrapRegs) : (st.coreTail sup).length = 272 := by
  cases sup <;> simp [Strand.coreTail, length_wordsOf]

theorem Strand.length_coreBytes (sup : Option TrapRegs) : (st.coreBytes x sup).length = 1024 := by
  rw [st.coreBytes_eq, List.length_append, length_wordsOf, st.length_coreWords, st.length_coreTail]

theorem Strand.coreWords_s {n : Nat} (hn : n < 64) : (st.coreWords x)[n]? = some (st.getS n) := by
  simp [Strand.coreWords, List.getElem?_append, hn]

theorem Strand.coreWords_i {n : Nat} (hn : n < 8) : (st.coreWords x)[64 + n]? = some (st.getI n) := by
  simp [Strand.coreWords, List.getElem?_append, hn]

theorem wordAt_core (h : Header) (rest : List Byte) {k : Nat} {w : Word} (hk : (st.coreWords x)[k]? = some w) :
    wordAt (h.bytes ++ st.coreBytes x none ++ rest) (128 + 8 * k) = w := by
  obtain ⟨hlt, hw⟩ := List.getElem?_eq_some_iff.mp hk
  rw [st.coreBytes_eq, ← List.append_assoc, List.append_assoc _ _ rest, wordAt_wordsOf h.length_bytes hlt, hw]

end

/-! ### The sections after CORE (R396) -/

theorem length_manifestBytes (m : Manifest) : m.bytes.length = 64 := by
  simp [Manifest.bytes, List.length_flatMap]

theorem length_regsOf (vs : Word) :
    (regsOf vs).length = ((List.range 48).filter fun k => k < 48 ∧ vs.getLsbD k).length := by
  refine congrArg List.length (List.filter_congr fun k hk => ?_)
  rw [bitAt_eq_getLsbD]
  simp [List.mem_range.mp hk]

/-- The registers of a mask word in order: those below one of them, itself, and those above. -/
theorem regsOf_split {vs : Word} {j : Nat} (hj : j < 48) (hv : vs.getLsbD j = true) : ∃ above,
    regsOf vs = ((List.range j).filter fun k => k < 48 ∧ vs.getLsbD k) ++ j :: above := by
  obtain ⟨r, hr⟩ := Nat.exists_eq_add_of_lt hj
  have hrange : List.range 48 = List.range j ++ j :: (List.range r).map (j + ·.succ) := by
    rw [hr, Nat.add_assoc, List.range_add, List.range_succ_eq_map, List.map_cons, Nat.add_zero, List.map_map]
    rfl
  have hbelow : ((List.range j).filter fun k => bitAt vs k) = (List.range j).filter fun k => k < 48 ∧ vs.getLsbD k :=
    List.filter_congr fun k hk => by
      have hlt := List.mem_range.mp hk
      simp [bitAt_eq_getLsbD, show k < 48 by omega]
  rw [regsOf, hrange, List.filter_append, hbelow, List.filter_cons_of_pos (p := fun k => bitAt vs k) (by rwa [bitAt_eq_getLsbD])]
  exact ⟨_, rfl⟩

section
variable (st : Strand)

theorem Strand.length_flatMap_image (rs : List Nat) : (rs.flatMap fun n => (st.getV n).image).length = 1152 * rs.length :=
  length_flatMap_const fun n _ => (st.getV n).length_image

theorem Strand.length_sections (vs : Word) (masks mnfs : Bool) : (st.sections vs masks mnfs).length =
    1152 * (regsOf vs).length + 1536 * (if masks then 1 else 0) + 1024 * (if mnfs then 1 else 0) := by
  rw [Strand.sections, List.length_append, List.length_append]
  refine congrArg₂ (· + ·) (congrArg₂ (· + ·) (st.length_flatMap_image (regsOf vs)) ?m) ?h
  case m =>
    cases masks
    · rfl
    · exact length_flatMap_const (n := 128) fun n _ => length_natLe ..
  case h =>
    cases mnfs
    · rfl
    · refine length_flatMap_const (n := 64) fun n _ => ?_
      cases st.getH n with
      | none => exact length_natLe ..
      | some m => exact length_manifestBytes m

/-- The image of v_j among the sections. -/
theorem Strand.sections_image {vs : Word} {j : Nat} (hj : j < 48) (hv : vs.getLsbD j = true) (masks mnfs : Bool) :
    ((st.sections vs masks mnfs).drop (1152 * ((List.range j).filter fun k => k < 48 ∧ vs.getLsbD k).length)).take 1152 =
      (st.getV j).image := by
  obtain ⟨above, hsplit⟩ := regsOf_split hj hv
  rw [Strand.sections, List.append_assoc, hsplit, List.flatMap_append, List.append_assoc,
    List.drop_left' (st.length_flatMap_image _), List.flatMap_cons, List.append_assoc, List.take_left' (VReg.length_image _)]

end

/-- Settles O53: the image is its header, CORE and sections one behind the other, and CORE is a run of words. -/
theorem imageHoldsRegisters : Obligations.ImageHoldsRegisters := by
  refine ⟨?layout, ?core⟩
  case layout =>
    intro st x h sup vs masks mnfs bs below
    have hhead : (h.bytes ++ st.coreBytes x sup).length = 1152 := by
      rw [List.length_append, h.length_bytes, st.length_coreBytes]
    have hlen : bs.length = 128 + 1024 + 1152 * below 48 + 1536 * (if masks then 1 else 0) + 1024 * (if mnfs then 1 else 0) := by
      rw [List.length_append, hhead, st.length_sections, length_regsOf, ← Nat.add_assoc, ← Nat.add_assoc]
    refine ⟨hlen, ?_, fun j hj hv => ?_⟩
    · rw [hlen, strandLength, length_regsOf]
      cases masks <;> cases mnfs <;> rfl
    · rw [← List.drop_drop, List.drop_left' hhead]
      exact st.sections_image hj hv masks mnfs
  case core =>
    intro st x h rest bs
    have hword {k : Nat} {w : Word} (hk : (st.coreWords x)[k]? = some w) : wordAt bs (128 + 8 * k) = w :=
      wordAt_core st x h rest hk
    refine ⟨st.length_coreBytes x none, h.length_bytes, fun n hn => hword (st.coreWords_s x hn), fun n hn => ?_, hword (k := 72) rfl,
      hword (k := 73) rfl, hword (k := 74) rfl, hword (k := 75) rfl, hword (k := 76) rfl, hword (k := 77) rfl,
      hword (k := 78) rfl, hword (k := 79) rfl, hword (k := 80) rfl, hword (k := 81) rfl, hword (k := 82) rfl,
      hword (k := 90) rfl, hword (k := 93) rfl⟩
    have ho : 640 + 8 * n = 128 + 8 * (64 + n) := by omega
    rw [ho]
    exact hword (st.coreWords_i x hn)

end Sys2Proof.Machine
end

section
/-! PROOFS. The atomic operations: the new word and the flags of each (Table 13.2, R326), and AMO and CAS as one event at the
home (R319–R329). -/

namespace Sys2Proof.Machine

/-! ### FXADD (R326) -/

/-- Decoding a code as F64 is R50's. -/
theorem decodeCode_f64 (v : Nat) : decodeCode 0x0C#6 0 v = decodeFloat 0x0C#6 v := rfl

/-- A number times a power of 2 is a number. -/
theorem Val.scale2_fin (k : Int) (neg : Bool) (a b : Nat) : ∃ p r, (Val.fin neg a b).scale2 k = .fin neg p r := by
  by_cases hk : 0 ≤ k
  · exact ⟨_, _, if_pos hk⟩
  · exact ⟨_, _, if_neg hk⟩

section
variable {e : Int} {old v : Nat}

/-- The word of FXADD: the sum of the word and the rounded operand q, clamped to 64 bits. -/
def fxSum (old : Nat) (q : Int × Bool) : Nat × Flags :=
  let t := (if old < 2 ^ 63 then (old : Int) else (old : Int) - 2 ^ 64) + q.1
  let nx := if q.2 then fNX else 0#7
  if t > 2 ^ 63 - 1 then (2 ^ 63 - 1, nx ||| fSAT) else if t < -2 ^ 63 then (2 ^ 63, nx ||| fSAT)
  else ((t % 2 ^ 64).toNat, nx)

/-- A number as operand: scaled, rounded to nearest even, and added. -/
theorem atomicNew_fxadd_fin {n : Nat} {neg : Bool} {p r : Nat} (h : (decodeFloat 0x0C#6 v).scale2 (-e) = .fin neg p r) :
    atomicNew .fxadd n e old v = fxSum old (roundInt .rne neg p r) := by
  have hlimit (t : Int) : (2 ^ 63 ≤ t) ↔ t > 2 ^ 63 - 1 := by omega
  have hterm : fxTerm e (decodeFloat 0x0C#6 v) = some (roundInt .rne neg p r) := by
    simp only [fxTerm, h]
  simp only [atomicNew, decodeCode_f64, hterm, hlimit]
  rfl

theorem atomicNew_fxadd_other {n : Nat} (h : ∀ neg a b, decodeFloat 0x0C#6 v ≠ .fin neg a b) :
    atomicNew .fxadd n e old v = (old, fNV) := by
  have hterm : fxTerm e (decodeFloat 0x0C#6 v) = none := by
    unfold fxTerm
    cases hv : decodeFloat 0x0C#6 v with
    | fin neg a b => exact absurd hv (h neg a b)
    | inf | nan | invalid => rfl
  simp only [atomicNew, decodeCode_f64, hterm]

end

/-! ### Flags -/

/-- The flags that Table 13.2 lets an atomic operation raise. -/
def atomicFlags : Flags := fNV ||| fOF ||| fUF ||| fNX ||| fSAT

theorem atomicFlags_nv : fNV.Within atomicFlags := rfl

theorem atomicFlags_nx : fNX.Within atomicFlags := rfl

theorem atomicFlags_sat : fSAT.Within atomicFlags := rfl

theorem atomicFlags_round : (fOF ||| fUF ||| fNX).Within atomicFlags := rfl

theorem atomicNew_within (op : Aop) (n : Nat) (e : Int) (old v : Nat) : (atomicNew op n e old v).2.Within atomicFlags := by
  have hfloat (f : FmtCode) (x y : Val) :
      Flags.Within ((addV .rne x y).2 ||| (roundTo f .rne (addV .rne x y).1).2) atomicFlags :=
    ((addV_within ..).trans atomicFlags_nv).or ((roundTo_within ..).trans atomicFlags_round)
  cases op with
  | fadd32 => exact hfloat 0x0B#6 _ _
  | fadd64 => exact hfloat 0x0C#6 _ _
  | fxadd =>
    simp only [atomicNew]
    split
    · exact atomicFlags_nv
    · split_ifs
      · exact (atomicFlags_nx.flagIf _).or atomicFlags_sat
      · exact (atomicFlags_nx.flagIf _).or atomicFlags_sat
      · exact atomicFlags_nx.flagIf _
  | _ => exact Flags.Within.zero _

theorem Flags.Within.and_not {f m : Flags} (h : f.Within m) : f &&& ~~~m = 0#7 := by
  rw [← show f &&& m = f from h, BitVec.and_assoc, BitVec.and_not_self]
  exact BitVec.and_zero

/-- Settles O24: the integer forms by their definition, FXADD by the class of its operand, and the flags form by form. -/
theorem atomicFunctions : Obligations.AtomicFunctions := by
  intro n e old v hn hold hv sg
  have hsg (x : Nat) : sextN (8 * n) x = sg x := by
    simp only [sextN, sg]
    rfl
  refine ⟨rfl, rfl, rfl, rfl, rfl, ?_, ?_, rfl, rfl, fun op n e => (atomicNew_within op n e old v).and_not, ?_⟩
  · simp only [atomicNew, hsg]
  · simp only [atomicNew, hsg, gt_iff_lt]
  · cases hd : decodeFloat 0x0C#6 v with
    | fin neg a b =>
      rintro rfl
      obtain ⟨p, r, hq⟩ := Val.scale2_fin (-e) neg a b
      simp only [hq]
      exact atomicNew_fxadd_fin (hd ▸ hq)
    | inf | nan | invalid => exact fun _ => atomicNew_fxadd_other fun _ _ _ h => by rw [hd] at h; cases h

/-! ### AMO and CAS at the home -/

/-- A place as CAS reads it: the D bits that its store would set are not set (R329). -/
def Loc.cleanly : Loc → Loc
  | .mem x => .mem x.noDirty
  | .sp t => .sp t

/-- The place that an atomic reads its old word at. -/
def Loc.readBy (cas : Bool) (l : Loc) : Loc := if cas then l.cleanly else l

/-- The old word of an atomic of n bytes at a place. -/
def State.oldWord (s : State) (cas : Bool) (n : Nat) (l : Loc) : Nat :=
  nbits (s.lineOf (l.readBy cas)).data (8 * l.off) (8 * n)

section
variable {s : State} {cas : Bool} {n : Nat} {f : Nat → Option Nat × Flags} {l : Loc} {fl : Flags}

/-- An atomic whose function gives a word stores it in the line as it is read for a store. -/
theorem State.atomicAt_writes {new : Nat} (hcls : (s.lineOf (l.readBy cas)).cls ≠ 2) (hlost : s.lost l = false)
    (hf : f (s.oldWord cas n l) = (some new, fl)) :
    s.atomicAt cas n f l =
      (s.putLine false (stLine (s.lineOf l) l.off n new) l, some (s.oldWord cas n l, fl)) := by
  cases l <;> simp only [Loc.readBy, Loc.cleanly, State.oldWord] at hcls hf ⊢ <;>
    simp only [State.atomicAt, hf, hlost, beq_eq_false_iff_ne.mpr hcls, Bool.false_eq_true, if_false]

/-- An atomic whose function gives no word writes nothing. -/
theorem State.atomicAt_leaves (hcls : (s.lineOf (l.readBy cas)).cls ≠ 2) (hlost : s.lost l = false)
    (hf : f (s.oldWord cas n l) = (none, fl)) :
    s.atomicAt cas n f l = (s.touch l.cleanly, some (s.oldWord cas n l, fl)) := by
  cases l <;> simp only [Loc.readBy, Loc.cleanly, State.oldWord] at hcls hf ⊢ <;>
    simp only [State.atomicAt, hf, hlost, beq_eq_false_iff_ne.mpr hcls, Bool.false_eq_true, if_false]

end

section
variable {s s2 s3 : State} {sp : Space} {cas : Bool} {op : Aop} {va : Word} {n : Nat} {f : Nat → Option Nat × Flags} {l : Loc}

/-- The checks of a scalar atomic (R328): each answers, and the order of earlier stores is kept. -/
structure AtomicReady (s : State) (sp : Space) (cas : Bool) (op : Aop) (va : Word) (n : Nat) (l : Loc) (s2 : State) : Prop where
  aligned : va.toNat % n = 0
  place : s.locate sp.isSp .atomic va n (extra := fun x => ensure (s.atomicAllowed cas op x) .access va 7#64) = .ok l
  notHeld : s.notHeld true l = .ok ()
  free : s.free true sp.isSp va n = .ok ()
  requests : s.requests 1 = .ok ()
  ordered : ∃ s0 s1, s.order sp = .ok s0 ∧ s0.inOrder l = .ok s1 ∧ s1.loadOrder l = .ok s2

/-- A scalar atomic whose checks answer and whose event has a result gives the old word and raises the event's flags. -/
theorem State.scalarAtomic_done {old : Nat} {fl : Flags} (h : AtomicReady s sp cas op va n l s2)
    (hat : s2.atomicAt cas n f l = (s3, some (old, fl))) :
    s.scalarAtomic sp cas op va n f = .ok (s3.raise fl, old, fl) := by
  obtain ⟨hal, hloc, hheld, hfree, hreq, s0, s1, h0, h1, h2⟩ := h
  simp only [State.scalarAtomic, hal, BEq.rfl, ensure_true, hloc, hheld, hfree, hreq, h0, h1, h2, hat, Res.ok_bind]
  rfl

end

section
variable {w8 : Bool} {sp : Space} {d a b : Opnd} {imm : BitVec 16} {s s2 : State} {c : Ctx} {l : Loc}

/-- The bytes of the word of AMO and CAS. -/
def atomicBytes (w8 : Bool) : Nat := if w8 then 8 else 4

theorem execAmo_completes {op : Aop} (h : Issues (.amo op w8 sp d a b imm) [rdS .a a, rdS .b b, rwS d] s c)
    (hready : AtomicReady s sp false op (c.atomicVa op imm) (atomicBytes w8) l s2) (hcls : (s2.lineOf l).cls ≠ 2)
    (hlost : s2.lost l = false) :
    let n := atomicBytes w8
    let old := s2.oldWord false n l
    let r := atomicNew op n (fxExp imm) old ((c.s_ .b).toNat % 2 ^ (8 * n))
    exec (.amo op w8 sp d a b imm) s = .next (complete c
      { s := c.putS ((s2.putLine false (stLine (s2.lineOf l) l.off n r.1) l).raise r.2) (BitVec.ofNat 64 old) }) := by
  obtain ⟨rfl, -, -⟩ := ready_same h
  refine issue_completes h ?_
  exact Res.bind_of_ok (State.scalarAtomic_done hready (State.atomicAt_writes hcls hlost rfl)) _

/-- CAS whose word at the home is the one compared with. -/
theorem execCas_swaps (h : Issues (.cas w8 sp d a b imm) [rdS .a a, rdS .b b, rwS d] s c)
    (hready : AtomicReady s sp true .swap (c.atomicVa .swap imm) (atomicBytes w8) l s2)
    (hcls : (s2.lineOf l.cleanly).cls ≠ 2) (hlost : s2.lost l = false) :
    let n := atomicBytes w8
    let old := s2.oldWord true n l
    old = c.sD.toNat % 2 ^ (8 * n) →
    exec (.cas w8 sp d a b imm) s = .next (complete c
      { s := c.putS ((s2.putLine false (stLine (s2.lineOf l) l.off n ((c.s_ .b).toNat % 2 ^ (8 * n))) l).raise 0#7)
          (BitVec.ofNat 64 old) }) := by
  intro n old heq
  obtain ⟨rfl, -, -⟩ := ready_same h
  refine issue_completes h ?_
  exact Res.bind_of_ok (State.scalarAtomic_done hready
    (State.atomicAt_writes hcls hlost (congrArg (fun x => (x, 0#7)) (if_pos heq)))) _

/-- CAS whose word at the home is another: nothing is written (R329). -/
theorem execCas_fails (h : Issues (.cas w8 sp d a b imm) [rdS .a a, rdS .b b, rwS d] s c)
    (hready : AtomicReady s sp true .swap (c.atomicVa .swap imm) (atomicBytes w8) l s2)
    (hcls : (s2.lineOf l.cleanly).cls ≠ 2) (hlost : s2.lost l = false) :
    let n := atomicBytes w8
    let old := s2.oldWord true n l
    old ≠ c.sD.toNat % 2 ^ (8 * n) →
    exec (.cas w8 sp d a b imm) s = .next (complete c
      { s := c.putS ((s2.touch l.cleanly).raise 0#7) (BitVec.ofNat 64 old) }) := by
  intro n old hne
  obtain ⟨rfl, -, -⟩ := ready_same h
  refine issue_completes h ?_
  exact Res.bind_of_ok (State.scalarAtomic_done hready
    (State.atomicAt_leaves hcls hlost (congrArg (fun x => (x, 0#7)) (if_neg hne)))) _

end

theorem Ctx.atomicVa_eq (c : Ctx) (op : Aop) (imm : BitVec 16) :
    c.atomicVa op imm = if op = .fxadd then c.s_ .a else c.s_ .a + imm.signExtend 64 := by
  cases op <;> rfl

/-- Settles O23: AMO by its one event, CAS by whether its comparison succeeds. -/
theorem scalarAtomicResult : Obligations.ScalarAtomicResult := by
  constructor
  · intro op w8 sp d a b imm s c l s0 s1 s2 h va n hal hloc hheld hfree hreq h0 h1 h2 hcls hlost
    have hva : c.atomicVa op imm = va := c.atomicVa_eq op imm
    exact execAmo_completes h (hva ▸ ⟨hal, hloc, hheld, hfree, hreq, s0, s1, h0, h1, h2⟩) hcls hlost
  · intro w8 sp d a b imm s c l s0 s1 s2 h va n hal hloc hheld hfree hreq h0 h1 h2 clean hcls hlost
    have hclean : clean = l.cleanly := by
      cases l <;> rfl
    have hready : AtomicReady s sp true .swap (c.atomicVa .swap imm) (atomicBytes w8) l s2 :=
      ⟨hal, hloc, hheld, hfree, hreq, s0, s1, h0, h1, h2⟩
    simp only [hclean] at hcls ⊢
    exact ⟨execCas_swaps h hready hcls hlost, execCas_fails h hready hcls hlost⟩

end Sys2Proof.Machine
end

section
/-! PROOFS. The instructions of the copy streams (R334, R335, R341–R344). -/

namespace Sys2Proof.Machine

section
variable {c : Ctx} {m : Manifest} {f : FmtCode}

theorem Ctx.cpDest_ok (h : bits (c.s_ .c) 21 11 = 0) : c.cpDest = .ok (bits (c.s_ .c) 0 21) := by
  rw [Ctx.cpDest, ensure_of_true (beq_iff_eq.mpr h), Res.ok_bind]
  rfl

/-- The bounds of a transfer hold where those of its columns and blocks and those of its rows do. -/
theorem cpBound_ok {x0 ncol : Nat} {rows : Res Unit} (h : cpBound m f x0 ncol (.ok ()) = .ok ()) (hrows : rows = .ok ()) :
    cpBound m f x0 ncol rows = .ok () := by
  rw [hrows, h]

/-- The row numbers of a gather lie in DIMS[1] (R335 item 6). -/
theorem gatherRows_ok {v : VOp} {js : List Nat} (h : ∀ j ∈ js, 0 ≤ elemInt v j ∧ (elemInt v j).toNat < m.extent 1) :
    forEach (fun j => ensure (decide (0 ≤ elemInt v j) && decide ((elemInt v j).toNat < m.extent 1)) .bound 0xFE#64
      (wInt (elemInt v j)) 9#64 (w64 j)) js = .ok () := by
  refine forEach_ok fun j hj => ensure_of_true ?_ ..
  obtain ⟨hpos, hlt⟩ := h j hj
  simp only [hpos, hlt, decide_true, Bool.and_self]

/-- CPWAIT is over for a stream that is done or idle, or with enough rows complete (R342). -/
theorem cpwait_ready {x : Stream} {part : Option Opnd} {n : Nat}
    (h : x.state = .done ∨ x.state = .idle ∨ (part ≠ none ∧ n ≤ x.avail)) :
    (x.state == .done || x.state == .idle || (part.isSome && n ≤ x.avail)) = true := by
  rcases h with hdone | hidle | ⟨hpart, havail⟩
  · rw [hdone]
    rfl
  · rw [hidle]
    rfl
  · rw [Option.isSome_iff_ne_none.mpr hpart, decide_eq_true havail, Bool.and_self, Bool.or_true]

/-- CPRESUME of a scatter waits for the strand's stores, and any other does not (R341). -/
theorem resumeDrained {x : Stream} {s1 : State}
    (h : if x.kind = .scatter then c.s.drainCore (c.s.coreOf c.s.me) = .ok s1 else s1 = c.s) :
    (if x.kind == .scatter then c.s.drainCore (c.s.coreOf c.me) else .ok c.s) = .ok s1 := by
  by_cases hkind : x.kind = .scatter
  · rw [if_pos hkind] at h
    rw [if_pos (beq_iff_eq.mpr hkind)]
    exact h
  · rw [if_neg hkind] at h
    rw [if_neg (by rwa [beq_iff_eq]), h]

end

/-- Settles O48: each instruction's checks answer in their order, and its body then completes. -/
theorem copyStreamResults : Obligations.CopyStreamResults := by
  refine ⟨?start, ?gather, ?scatter, ?wait, ?avail, ?resume, ?cancel⟩
  case start =>
    intro k h b e ncol s c m f s1 d hi hdest hstart hslot hfmt hnarrow x0 n ys hbound hd
    refine issue_completes hi ?_
    simp only [Ctx.cpDest_ok hdest, hstart, hslot, hfmt, hnarrow, Res.ok_bind]
    exact (Res.bind_of_ok hbound _).trans hd
  case gather =>
    intro mk k h b e ncol s c m f s1 d hi hdest hstart hslot hfmt hnarrow v x0 n ys hint hlane hcap huse hbound hrows hd
    subst v x0 n ys
    refine issue_completes hi ?_
    simp only [Ctx.cpDest_ok hdest, hstart, hslot, hfmt, hnarrow, hint, hlane, hcap, huse, Res.ok_bind, Bool.not_true,
      Bool.false_eq_true, if_false]
    exact (Res.bind_of_ok (cpBound_ok hbound (gatherRows_ok hrows)) _).trans hd
  case scatter =>
    intro rm k h b e ncol s c m d hi dest f hdest hstart hslot hfree hnarrow x0 n ys hbound hd
    obtain ⟨rfl, -, -⟩ := ready_same hi
    refine issue_completes hi ?_
    simp only [Ctx.cpDest_ok hdest, hstart, hslot, Res.ok_bind]
    refine (Res.bind_of_ok hfree _).trans ((Res.bind_of_ok hnarrow _).trans ?_)
    exact (Res.bind_of_ok hbound _).trans hd
  case wait =>
    intro sc part d k s c x s1 hi hx hready hord
    obtain ⟨rfl, -, -⟩ := ready_same hi
    refine issue_completes hi ?_
    simp only [hx, cpwait_ready hready, hord, Res.ok_bind, Bool.not_true, Bool.false_eq_true, if_false]
    rfl
  case avail =>
    intro d k sel s c x hi hx
    obtain ⟨rfl, -, -⟩ := ready_same hi
    refine issue_completes hi ?_
    simp only [hx, Res.ok_bind]
    rfl
  case resume =>
    intro d k mode s c x hi hx
    obtain ⟨rfl, -, -⟩ := ready_same hi
    refine ⟨fun hidle => issue_completes hi ?_, fun r t s1 hstate hfail hs1 => issue_completes hi ?_⟩
    · simp only [hx, Res.ok_bind]
      cases hstate : x.state with
      | faulted =>
        rw [hidle.resolve_left (fun h => h hstate)]
        rfl
      | idle | active | done => rfl
    · simp only [hx, Res.ok_bind, hstate, hfail]
      refine (Res.bind_of_ok (resumeDrained hs1) _).trans ?_
      simp only [bne_iff_ne, Bool.and_eq_true, beq_iff_eq]
      rfl
  case cancel =>
    intro k s c x hi hx
    obtain ⟨rfl, -, -⟩ := ready_same hi
    change execCpcancel k c.s = _
    refine issue_completes hi ?_
    simp only [hx, Res.ok_bind]
    rfl

end Sys2Proof.Machine
end

section
/-! PROOFS. The exchange channels and their instructions (R355–R360, R365). -/

namespace Sys2Proof.Machine

/-! ### Channels of the VIs -/

section
variable {s t : State} {vi n : Nat} {ch : Chan}

@[simp] theorem State.chan_setChan (s : State) (vi n : Nat) (ch : Chan) : (s.setChan vi n ch).chan vi n = some ch := by
  simp only [State.chan, State.setChan, State.vi_setVi, Tab.find_put_same]

theorem State.chan_setChan_ne {v m : Nat} (h : ¬(v = vi ∧ m = n)) : (s.setChan vi n ch).chan v m = s.chan v m := by
  by_cases hv : v = vi
  · subst hv
    simp only [State.chan, State.setChan, State.vi_setVi]
    exact Tab.find_put_ne _ _ _ _ fun hm => h ⟨rfl, hm⟩
  · simp only [State.chan, State.setChan, State.vi_setVi_ne _ _ _ _ hv]

/-- Usage counters are no part of a channel. -/
theorem CountersOnly.chan (h : CountersOnly s t) (v m : Nat) : t.chan v m = s.chan v m := by
  obtain ⟨k, hk⟩ := h.vis v
  simp only [State.chan, hk]

end

/-! ### XOPEN, XSEND and XRED -/

/-- Recording an operation gives the channel its next number and no other channel, line or strand a change. -/
theorem Ctx.startOp_ok (c : Ctx) (s : State) (ch : Chan) (o : Xop) :
    ∃ t, c.startOp s ch o = .ok { s := c.putS t (w64 (ch.last + 1)) } ∧
      (∃ x, t.chan s.myVi (c.s_ .a).toNat = some x ∧ x.last = ch.last + 1 ∧ x.peers = ch.peers ∧
        ∃ p, x.ops = ch.ops ++ [p] ∧ p.seq = ch.last + 1 ∧ p.sid = s.cur ∧ p.kind = o.kind ∧ p.il = o.il ∧ p.bytes = o.bytes) ∧
      (∀ v m, ¬(v = s.myVi ∧ m = (c.s_ .a).toNat) → t.chan v m = s.chan v m) ∧ t.mem = s.mem ∧ t.strands = s.strands := by
  refine ⟨_, rfl, ?_, fun v m hvm => ?_, rfl, rfl⟩
  · rw [(countersOnly_charge ..).chan, State.chan_setChan]
    exact ⟨_, rfl, rfl, rfl, _, rfl, rfl, rfl, rfl, rfl, rfl⟩
  · rw [(countersOnly_charge ..).chan, State.chan_setChan_ne hvm]

/-- A region of at most 64 MiB fits (R357). -/
theorem capBytes_ok {n : Nat} (h : n ≤ 0x400_0000) : capBytes n = .ok () := ensure_of_true (decide_eq_true h) ..

/-- The rank that a send goes to is another one, or all others (R359). -/
theorem sendTarget {dst rank nrank : Nat} (hne : dst ≠ rank) (h : dst < nrank ∨ dst = 0xFFFF) :
    (dst != rank && (decide (dst < nrank) || dst == 0xFFFF)) = true := by
  simpa [hne] using h

/-- An all-reduce into parts has as many elements as its ranks divide (R361). -/
theorem redDivides {mode : BitVec 2} {e nrank : Nat} (h : mode = 0#2 → e % nrank = 0) :
    (mode != 0#2 || e % nrank == 0) = true := by
  by_cases hmode : mode = 0#2
  · simp only [h hmode, BEq.rfl, Bool.or_true]
  · simp only [bne_iff_ne.mpr hmode, Bool.true_or]

/-- The destination of a reduction has the elements that its mode gives it (R361). -/
theorem redCount {mode : BitVec 2} {e nrank n : Nat} (h : mode ≠ 2#2 → n = if mode = 0#2 then e / nrank else e) :
    (mode == 2#2 || n == (if mode = 0#2 then e / nrank else e)) = true := by
  by_cases hmode : mode = 2#2
  · simp only [hmode, BEq.rfl, Bool.true_or]
  · simp only [h hmode, BEq.rfl, Bool.or_true]

/-- The operations up to a number are settled where none is pending. -/
theorem any_pending_eq_false {os : List Xop} (h : ∀ o ∈ os, o.pending = false) : os.any Xop.pending = false :=
  List.any_eq_false.mpr fun o ho => by simp only [h o ho, Bool.false_eq_true, not_false_eq_true]

/-- No failure is left to report where each failed operation is reported. -/
theorem find_unreported_eq_none {os : List Xop} (h : ∀ o ∈ os, o.failed = none ∨ o.reported = true) :
    os.find? (fun o => o.failed.isSome && !o.reported) = none :=
  List.find?_eq_none.mpr fun o ho => by
    rcases h o ho with hf | hr
    · simp only [hf, Option.isSome_none, Bool.false_and, Bool.false_eq_true, not_false_eq_true]
    · simp only [hr, Bool.not_true, Bool.and_false, Bool.false_eq_true, not_false_eq_true]

/-- Settles O55: each instruction's checks answer in their order, and its body then completes. -/
theorem exchangeResults : Obligations.ExchangeResults := by
  refine ⟨⟨?xopen, ?xsend, ?xred, ?xwait, ?xclose⟩, Ctx.startOp_ok⟩
  case xopen =>
    intro d a s c s0 s1 bs hi hal hdrain hread ch
    obtain ⟨rfl, -, -⟩ := ready_same hi
    constructor
    · intro hbad
      refine issue_completes hi ?_
      subst ch
      simp only [hal, BEq.rfl, ensure_true, Ctx.me, hdrain, hread, nameLine, hbad, Res.ok_bind, if_true]
      rfl
    · intro hgood s2 tb n hspan es hpeers hfree s3
      refine issue_completes hi ?_
      subst ch s3 es
      simp only [hal, BEq.rfl, ensure_true, Ctx.me, hdrain, hread, nameLine, hgood, hspan, hpeers, hfree, Res.ok_bind,
        Bool.false_eq_true, if_false]
      rfl
  case xsend =>
    intro d a h e s c ch m f s1 base cs s2 r hi hchan hslot hfmt hnarrow dst n hne hdst hcap hbase hcells il hstart hop
    obtain ⟨rfl, -, -⟩ := ready_same hi
    subst dst n il
    refine issue_completes hi ?_
    simp only [hchan, hslot, hfmt, hnarrow, Ctx.me, sendTarget hne hdst, ensure_true, capBytes_ok hcap, hbase, hcells, hstart,
      hop, Res.ok_bind]
  case xred =>
    intro mode rm d a hb hc s c ch ms md f s1 g base cs ref ds s2 r hi hchan hsrc hdst hfmt hnarrow hgfmt hgnarrow n w hcap
      hbase hcells href t hdcells hallow e hdiv hcount hpages il hstart hop
    obtain ⟨rfl, -, -⟩ := ready_same hi
    subst n w t e il
    refine issue_completes hi ?_
    simp only [hchan, hsrc, hdst, hfmt, hnarrow, hgfmt, hgnarrow, capBytes_ok hcap, Ctx.me, hbase, hcells, href, hdcells, hallow,
      beq_iff_eq, redDivides hdiv, redCount hcount, ensure_true, hpages, hstart, hop, Res.ok_bind, Bool.false_eq_true, if_false]
  case xwait =>
    intro sc d a b s c ch s1 hi hchan last n os hlast hsettled hord fl ops s2
    obtain ⟨rfl, -, -⟩ := ready_same hi
    refine issue_completes hi ?_
    have hquiet : os.any Xop.pending = false := any_pending_eq_false fun o ho => (hsettled o ho).1
    have hreported := find_unreported_eq_none fun o ho => (hsettled o ho).2
    subst os n last
    simp only [hchan, Ctx.me, beq_iff_eq, hlast, decide_true, ensure_true, hquiet, hreported, hord, Res.ok_bind, Bool.false_eq_true,
      if_false]
    rfl
  case xclose =>
    intro a s c ch hi hchan hdone v n s1
    obtain ⟨rfl, -, -⟩ := ready_same hi
    refine issue_completes hi ?_
    have hquiet : ch.ops.any Xop.pending = false := any_pending_eq_false hdone
    simp only [hchan, hquiet, Res.ok_bind, Bool.false_eq_true, if_false]
    rfl

end Sys2Proof.Machine
end

section
/-! PROOFS. The events of the exchange engine: operations that complete, peers that are heard of, sends that land and reductions
(R356, R360–R366). -/

namespace Sys2Proof.Machine

/-! ### What is heard of a peer -/

/-- Failing operations leaves the number of operations and the ranks that are open. -/
theorem Chan.foldl_failOp (os : List Xop) (ch : Chan) (sub : Nat) (v : Word) :
    (os.foldl (fun ch o => ch.failOp o sub v) ch).ops.length = ch.ops.length ∧
      (os.foldl (fun ch o => ch.failOp o sub v) ch).open_ = ch.open_ := by
  induction os generalizing ch with
  | nil => exact ⟨rfl, rfl⟩
  | cons o os ih =>
    obtain ⟨hlen, hopen⟩ := ih (ch.failOp o sub v)
    exact ⟨hlen.trans (List.length_map ..), hopen⟩

theorem Chan.length_failRank (ch : Chan) (rank sub : Nat) : (ch.failRank rank sub).ops.length = ch.ops.length :=
  (Chan.foldl_failOp ..).1

theorem Chan.open_failRank (ch : Chan) (rank sub : Nat) : (ch.failRank rank sub).open_ = ch.open_ :=
  (Chan.foldl_failOp ..).2

/-- A rank that no pending operation needs fails nothing. -/
theorem Chan.failRank_unneeded {ch : Chan} {rank : Nat} (sub : Nat) (h : ∀ o ∈ ch.ops, o.pending = true → rank ∉ ch.needs o) :
    ch.failRank rank sub = ch := by
  have hnone : (ch.ops.filter fun o => o.pending && (ch.needs o).contains rank) = [] :=
    List.filter_eq_nil_iff.mpr fun o ho hneed => by
      obtain ⟨hp, hc⟩ := Bool.and_eq_true_iff.mp hneed
      exact h o ho hp (List.contains_iff_mem.mp hc)
  rw [Chan.failRank, hnone]
  rfl

section
variable {s : State} {vi cn seq rank : Nat} {ch : Chan}

theorem State.failRank_of_chan (h : s.chan vi cn = some ch) (sub : Nat) :
    s.failRank vi cn rank sub = s.setChan vi cn (ch.failRank rank sub) := by
  simp only [State.failRank, h]

theorem State.completeOp_of_heard {o : Xop} (h : s.chan vi cn = some ch) (ho : ch.op seq = some o) (hp : o.pending = true)
    (hneeds : ch.needs o = []) :
    s.completeOp vi cn seq = some (s.setChan vi cn (ch.setOp { o with complete := true, il := [] })) := by
  simp only [State.completeOp, h, ho, hp, hneeds, List.isEmpty_nil, Bool.and_self, if_true]

theorem exec_peerClose (h : s.chan vi cn = some ch) :
    exec (.evExchangePeerClose vi cn rank) s =
      .next ((s.setChan vi cn (ch.failRank rank 5)).setChan vi cn
        { ch.failRank rank 5 with open_ := ch.open_.filter (· != rank) }) := by
  change execEvExchangePeerClose vi cn rank s = _
  simp only [execEvExchangePeerClose, State.failRank_of_chan h, State.chan_setChan, Chan.open_failRank]

theorem exec_peerOpen (h : s.chan vi cn = some ch) (hrank : rank < ch.nrank) (hclosed : rank ∉ ch.open_) :
    exec (.evExchangePeerOpen vi cn rank) s = .next (s.setChan vi cn { ch with open_ := ch.open_ ++ [rank] }) := by
  change execEvExchangePeerOpen vi cn rank s = _
  have hnot : ¬(ch.open_.contains rank || ch.nrank ≤ rank) = true := by
    simpa using ⟨hclosed, hrank⟩
  simp only [execEvExchangePeerOpen, h]
  exact congrArg Host.Outcome.next (if_neg hnot)

theorem exec_transportGaveUp (h : s.chan vi cn = some ch) (hether : ch.ether = true) :
    exec (.evEthernetTransportGaveUp vi cn rank) s = .next (s.setChan vi cn (ch.failRank rank 6)) := by
  change execEvEthernetTransportGaveUp vi cn rank s = _
  simp only [execEvEthernetTransportGaveUp, h, Option.any_some, hether, if_true, State.failRank_of_chan h]

end

/-! ### The lines of a send leave -/

/-- Sending frames changes of an operation what has left, and no other field. -/
theorem State.sendParts_sent (s : State) (ch : Chan) (o : Xop) (n : Nat) (ks : List Nat) :
    ∃ m, (s.sendParts ch o n ks).2 = { o with sent := m } := by
  unfold State.sendParts
  induction ks generalizing s o with
  | nil => exact ⟨_, rfl⟩
  | cons k ks ih =>
    rw [List.foldl_cons]
    cases h : s.sendOver ch n k (Tab.get 0 o.sent k) with
    | none => exact ih s o
    | some p =>
      obtain ⟨m, hm⟩ := ih p.1 { o with sent := Tab.put o.sent k p.2 }
      exact ⟨m, hm⟩

section
variable {s : State} {vi cn seq dst rk off : Nat} {ch : Chan} {o : Xop} {cs : List XCell}

/-- A source of a send that can leave: found, its lines free, and of the operation's format. -/
structure SourceReady (s : State) (vi : Nat) (o : Xop) (cs : List XCell) : Prop where
  found : s.sourceCells vi o = .ok (.inl cs)
  free : ∀ y ∈ cs, s.held false y.ln = false
  good : s.badLine o.fmt cs = none

theorem any_held_eq_false {w : Bool} (h : ∀ y ∈ cs, s.held w y.ln = false) : (cs.any fun c => s.held w c.ln) = false :=
  List.any_eq_false.mpr fun y hy => by simp only [h y hy, Bool.false_eq_true, not_false_eq_true]

theorem State.sendLines_leaves (h : SourceReady s vi o cs) :
    let ls := s.packSource o cs
    let n := 128 * ls.length
    let r := s.sendParts ch o n [dst]
    r.2.allSent n [dst] = true →
      let o1 := { r.2 with landed := o.landed ++ [dst]
                           status := if cs.any fun y => (s.lineAt y.x).cls == 2 then o.status ||| 4#64 else o.status }
      let s1 := ((r.1.readRegion vi cs).setChan vi cn (ch.setOp o1)).charge vi (9 + ch.level % 4) n
      s.sendLines vi cn ch o rk dst true = .ok { s1 with out := s1.out ++ [.xlanding vi cn o.seq dst ls true] } := by
  intro ls n r hsent
  have hearly : o.early = r.2.early := by
    obtain ⟨m, hm⟩ := s.sendParts_sent ch o n [dst]
    exact (congrArg Xop.early hm).symm
  obtain ⟨hfound, hfree, hgood⟩ := h
  refine (Res.bind_of_ok hfound _).trans ?_
  simp only [any_held_eq_false hfree, hgood, hearly, Bool.false_eq_true, if_false]
  exact if_neg (by simpa using hsent)

theorem State.sendLines_waits (h : SourceReady s vi o cs) :
    let n := 128 * (s.packSource o cs).length
    let r := s.sendParts ch o n [dst]
    r.2.allSent n [dst] = false →
      s.sendLines vi cn ch o rk dst true = .error (.hold (r.1.setChan vi cn (ch.setOp r.2))) := by
  intro n r hsent
  obtain ⟨hfound, hfree, hgood⟩ := h
  refine (Res.bind_of_ok hfound _).trans ?_
  simp only [any_held_eq_false hfree, hgood, Bool.false_eq_true, if_false]
  exact if_pos (by simpa using hsent)

/-- A send's lines leave for a rank that has opened, can be reached and waits for them, with no earlier send ahead. -/
structure SendDue (s : State) (ch : Chan) (o : Xop) (seq dst : Nat) : Prop where
  pending : o.pending = true
  needed : dst ∈ ch.needs o
  opened : dst ∈ ch.open_
  fresh : dst ∉ o.early
  first : ch.behind seq dst = false
  route : ch.ether = true ∨ ch.device dst ∉ s.unreachable

theorem State.sendLands_counted (h : s.chan vi cn = some ch) (ho : ch.op seq = some o) (hkind : o.kind = .send rk off)
    (hdue : SendDue s ch o seq dst) :
    s.sendLands vi cn seq dst .counted = s.sendLines vi cn ch o rk dst true := by
  obtain ⟨hp, hneeds, hopen, hearly, hfirst, hroute⟩ := hdue
  have hunreach : ¬(!ch.ether && decide (ch.device dst ∈ s.unreachable)) = true := by
    simpa [or_iff_not_imp_left] using hroute
  simp only [State.sendLands, h, ho, hkind, hp, List.contains_iff_mem.mpr hneeds, List.contains_iff_mem.mpr hopen,
    hfirst, List.contains_eq_mem, hearly, decide_false, Bool.not_true, Bool.or_self, Bool.false_eq_true, if_false]
  exact if_neg hunreach

end

/-! ### What lands -/

section
variable {s t : State} {vi cn seq src dst off : Nat} {lines : List (List Byte × BitVec 16)} {fate : Landing} {ch : Chan}

theorem exec_landing_own (h : s.chan vi cn = some ch) (hsrc : src = ch.rank) :
    exec (.evXsendLanding vi cn seq src dst off lines fate) s =
      orLater (.evXsendLanding vi cn seq src dst off lines fate) s (s.sendLands vi cn seq dst fate) := by
  change execEvXsendLanding vi cn seq src dst off lines fate s = _
  simp only [execEvXsendLanding, h]
  exact if_pos hsrc

theorem exec_landing_here (h : s.chan vi cn = some ch) (hsrc : src ≠ ch.rank) (hdst : dst = ch.rank) :
    exec (.evXsendLanding vi cn seq src dst off lines fate) s =
      orLater (.evXsendLanding vi cn seq src dst off lines fate) s (s.landHere vi cn seq src off lines fate) := by
  change execEvXsendLanding vi cn seq src dst off lines fate s = _
  simp only [execEvXsendLanding, h]
  exact (if_neg hsrc).trans (if_pos hdst)

/-- A rank of the group that is not this one. -/
theorem not_own_rank (hsrc : src ≠ ch.rank) (hrank : src < ch.nrank) : ¬(src = ch.rank || ch.nrank ≤ src) = true := by
  simpa [hsrc] using hrank

theorem State.landHere_failed (h : s.chan vi cn = some ch) (hsrc : src ≠ ch.rank) (hrank : src < ch.nrank) (sub : Nat) (v3 : Word) :
    s.landHere vi cn seq src off lines (.failed sub v3) =
      .ok (s.setChan vi cn { ch with failed := true, heard := ch.heard <|> some (seq, w64 src) }) := by
  simp only [State.landHere, h]
  exact (if_neg (not_own_rank hsrc hrank)).trans (if_pos rfl)

theorem State.landHere_counted {xs : List Xlat} {ax : Xlat} (h : s.chan vi cn = some ch) (hsrc : src ≠ ch.rank)
    (hrank : src < ch.nrank) (hnew : Tab.get 0 ch.recv src < seq) (hfit : 128 * off + 128 * lines.length ≤ ch.rxlen.toNat)
    (htags : ∀ l ∈ lines, tagAllowed (l.2 &&& 0x00FF#16) = true)
    (hxs : s.landAll vi ((List.range lines.length).map fun i => ch.rxbase + w64 (128 * off) + w64 (128 * i)) = .ok (.inl xs))
    (hax : s.landPlace vi .atomic (ch.arrive + w64 (8 * src)) = .ok (.inl ax)) :
    let s1 := ((lines.zip xs).foldl (fun s p => s.landLine vi p) s).landCount vi ax
    let s2 := s1.setChan vi cn { ch with recv := Tab.put ch.recv src seq }
    s.landHere vi cn seq src off lines .counted = .ok { s2 with out := s2.out ++ [.xanswer vi cn src seq none] } := by
  intro s1 s2
  have hroom : ¬(!lines.isEmpty && decide (ch.rxlen.toNat < 128 * off + 128 * lines.length)) = true := by
    simp only [Nat.not_lt.mpr hfit, decide_false, Bool.and_false, Bool.false_eq_true, not_false_eq_true]
  have hallowed : ¬(!lines.all fun l => tagAllowed (l.2 &&& 0x00FF#16)) = true := by
    simpa using fun a b hab => htags (a, b) hab
  simp only [State.landHere, h]
  refine (if_neg (not_own_rank hsrc hrank)).trans ((if_neg Bool.false_ne_true).trans ((if_neg (Nat.not_le.mpr hnew)).trans ?_))
  refine (if_neg hroom).trans ((if_neg hallowed).trans ((Res.bind_of_ok hxs _).trans ?_))
  exact Res.bind_of_ok hax _

end

/-! ### Reductions -/

section
variable {s : State} {vi cn seq mode : Nat} {peers : List PeerPart} {ch : Chan} {o : Xop}

theorem exec_xredReduce (h : s.chan vi cn = some ch) (ho : ch.op seq = some o) (hkind : o.kind = .red mode)
    (hready : ch.redReady o peers = true) :
    exec (.evXredReduce vi cn seq peers) s =
      orLater (.evXredReduce vi cn seq peers) s (s.reduceOp vi cn ch o mode peers) := by
  change execEvXredReduce vi cn seq peers s = _
  simp only [execEvXredReduce, h, ho, hkind, hready, if_true]

/-- The regions of a reduction as the engine works on them: found, free, with parts that match. -/
structure RedReady (s : State) (vi : Nat) (ch : Chan) (o : Xop) (mode : Nat) (peers : List PeerPart)
    (src dst : List XCell) (t : FmtCode) : Prop where
  found : s.redRegions vi o = .ok (.inl (src, dst, t))
  readable : ∀ y ∈ src, s.held false y.ln = false
  writable : ∀ y ∈ dst, s.held true y.ln = false
  parts : partFailure ch o mode peers (if mode = 2 then none else s.badLine o.fmt src) = none

/-- What a reduction computes of its parts. -/
def State.redResult (s : State) (ch : Chan) (o : Xop) (mode : Nat) (peers : List PeerPart) (src dst : List XCell) : XSum :=
  let parts := allParts ch (s.xsource o mode src) peers
  if mode = 2 then reducePairs o parts.flatten (s.destNow dst) else reduceDense ch o mode parts

variable {src dst : List XCell} {t : FmtCode}

theorem State.reduceOp_writes (h : RedReady s vi ch o mode peers src dst t) :
    let r := s.redResult ch o mode peers src dst
    let ls := destLines dst r.els
    let z := s.sendParts ch o o.wire ch.peersOf
    s.destConflict o.g t ls = none → z.2.allSent o.wire ch.peersOf = true →
      let w := (z.1.readRegion vi src).writeDest vi o.g t o.rm.toMode ls
      let o1 := { z.2 with reduced := true, status := o.status ||| r.status, flags := o.flags ||| (r.fl ||| w.2).setWidth 64 }
      let s2 := (w.1.setChan vi cn (ch.setOp o1)).charge vi (9 + ch.level % 4) o.wire
      s.reduceOp vi cn ch o mode peers = .ok { s2 with out := s2.out ++ [.xpart vi cn o.seq (s.xsource o mode src) none] } := by
  intro r ls z hconf hsent
  obtain ⟨hfound, hread, hwrite, hparts⟩ := h
  refine (Res.bind_of_ok hfound _).trans ?_
  simp only [any_held_eq_false hread, any_held_eq_false hwrite, hparts, Bool.false_eq_true, if_false]
  split
  next va hva => exact absurd (hconf.symm.trans hva) nofun
  next => exact if_neg (by simpa using hsent)

theorem State.reduceOp_waits (h : RedReady s vi ch o mode peers src dst t) :
    let ls := destLines dst (s.redResult ch o mode peers src dst).els
    let z := s.sendParts ch o o.wire ch.peersOf
    s.destConflict o.g t ls = none → z.2.allSent o.wire ch.peersOf = false →
      s.reduceOp vi cn ch o mode peers = .error (.hold (z.1.setChan vi cn (ch.setOp z.2))) := by
  intro ls z hconf hsent
  obtain ⟨hfound, hread, hwrite, hparts⟩ := h
  refine (Res.bind_of_ok hfound _).trans ?_
  simp only [any_held_eq_false hread, any_held_eq_false hwrite, hparts, Bool.false_eq_true, if_false]
  split
  next va hva => exact absurd (hconf.symm.trans hva) nofun
  next => exact if_pos (by simpa using hsent)

end

/-- Settles O56: operations complete, peers are heard of, sends land and reductions are done. -/
theorem exchangeEvents : Obligations.ExchangeEvents := by
  refine ⟨?complete, ?heard, ?own, ?here, ?leaves, ?failed, ?lands, ?reduce, ?writes, ?rank⟩
  case complete =>
    intro s vi cn seq ch o h ho hp hneeds
    exact next_getD_of_some (State.completeOp_of_heard h ho hp hneeds)
  case heard =>
    intro s vi cn rank ch h
    exact ⟨congrArg Host.Outcome.next (State.failRank_of_chan h 1), exec_transportGaveUp h,
      ⟨_, _, exec_peerClose h, State.chan_setChan .., rfl⟩, exec_peerOpen h⟩
  case own =>
    intro s vi cn seq src dst off lines fate ch t h hsrc ht
    rw [exec_landing_own h hsrc, ht, orLater]
  case here =>
    intro s vi cn seq src dst off lines fate ch t h hsrc hdst ht
    rw [exec_landing_here h hsrc hdst, ht, orLater]
  case leaves =>
    intro s vi cn seq dst off lines ch o rk off2 cs h ho hkind hp hneed hopen hearly hfirst hroute hfound hfree hgood ls n r i
    have hexec : exec i s = orLater i s (s.sendLines vi cn ch o rk dst true) := by
      rw [← State.sendLands_counted h ho hkind ⟨hp, hneed, hopen, hearly, hfirst, hroute⟩]
      exact exec_landing_own h rfl
    refine ⟨fun hsent => ?_, fun hsent => ?_⟩
    · rw [hexec, State.sendLines_leaves ⟨hfound, hfree, hgood⟩ hsent, orLater]
    · rw [hexec, State.sendLines_waits ⟨hfound, hfree, hgood⟩ hsent, orLater]
  case failed =>
    intro s vi cn seq src off lines sub v3 ch h hsrc hrank
    rw [exec_landing_here h hsrc rfl, State.landHere_failed h hsrc hrank, orLater]
  case lands =>
    intro s vi cn seq src off lines ch xs ax h hsrc hrank hnew _ hfit htags hxs hax s1 s2
    rw [exec_landing_here h hsrc rfl, State.landHere_counted h hsrc hrank hnew hfit htags hxs hax, orLater]
  case reduce =>
    intro s vi cn seq peers ch o mode t h ho hkind hready ht
    rw [exec_xredReduce h ho hkind hready, ht, orLater]
  case writes =>
    intro s vi cn seq peers ch o mode src dst t h ho hkind hready hfound hread hwrite hparts mine parts r ls hconf z
    have hred : RedReady s vi ch o mode peers src dst t := ⟨hfound, hread, hwrite, hparts⟩
    refine ⟨fun hsent => ?_, fun hsent => ?_⟩
    · rw [exec_xredReduce h ho hkind hready, State.reduceOp_writes hred hconf hsent, orLater]
      rfl
    · rw [exec_xredReduce h ho hkind hready, State.reduceOp_waits hred hconf hsent, orLater]
  case rank =>
    intro ch rank sub x
    exact ⟨Chan.length_failRank .., fun h => Chan.failRank_unneeded sub h⟩

end Sys2Proof.Machine
end

section
/-! PROOFS. The events of the management registers, of the dies, and of power and temperature (R370–R378, R414–R416, R447). -/

namespace Sys2Proof.Machine

/-! ### Register writes by the host -/

section
variable {s t : State} {i : Instr} {vi : Nat}

/-- A host event behind which nothing waits takes effect. -/
theorem hostEvent_ok (h : s.hostBehind i = false) : hostEvent i vi s (.ok t) = .next t := by
  simp only [hostEvent, h, Bool.false_eq_true, if_false, orRefuse, orLater]

/-- A refused request is answered with Unsupported Request. -/
theorem hostEvent_refused (h : s.hostBehind i = false) :
    hostEvent i vi s refused = .next { s with out := s.out ++ [.unsupported] } := by
  simp only [hostEvent, h, Bool.false_eq_true, if_false]
  rfl

theorem exec_mmioWrite {off : Nat} {v : Word} (h : s.deferred.any fromHost = false) (hanswers : vi = 0 ∨ s.answers vi = true)
    (hvi : vi < 256) (hoff : off < 2 ^ 24) (hal : off % 8 = 0) :
    exec (.evMmioRegisterWrite ⟨vi, off⟩ v) s = .next (if (barReg vi off).monitorOnly then
      { s with out := s.out ++ [.unsupported] } else s.regWrite (barReg vi off) v) := by
  have hfree : (vi != 0 && !s.answers vi) = false := by
    simpa [or_iff_not_imp_left] using hanswers
  change execEvMmioRegisterWrite ⟨vi, off⟩ v s = _
  simp only [execEvMmioRegisterWrite, hfree, Bool.false_or, hvi, hoff, hal, decide_true, Bool.and_self]
  cases (barReg vi off).monitorOnly with
  | true => exact hostEvent_refused h
  | false => exact hostEvent_ok h

end

/-! ### The end of a VI reset -/

theorem State.endReset_of_drained {s s1 : State} {vi : Nat} (hbusy : (s.vi vi).flrBusy = true)
    (hquiet : ∀ t ∈ s.tiles, ∀ p ∈ t.2.parts, p.vi ≠ vi)
    (hdrain : drainWhere (fun b => b.vi == vi || s.ofReset vi (b.pa / 128)) s.storeQ s = .ok s1) :
    let s2 := (s1.viRevoke vi).forget (s1.ofReset vi)
    s.endReset vi = some ((s2.setVi vi { s2.vi vi with flrBusy := false, flrDone := true }).setMevt 1) := by
  have hnone : (s.tiles.any fun t => t.2.parts.any fun p => p.vi == vi) = false := by
    simpa using fun a b hab p hp => hquiet (a, b) hab p hp
  simp only [State.endReset, hbusy, hnone, hdrain, Bool.not_true, Bool.or_self, Bool.false_eq_true, if_false]

/-! ### Die commands -/

section
variable {s t : State} {d : Nat}

theorem State.die_setMevt (s : State) (k d : Nat) : (s.setMevt k).die d = s.die d := rfl

theorem State.die_setDie_ne {k : Nat} {x : Die} (h : k ≠ d) : (s.setDie d x).die k = s.die k := by
  simp only [State.die, State.setDie, Tab.get_put_ne _ _ _ _ _ h]

theorem State.die_commandEnds (s : State) (d err : Nat) (f : Die → Die) :
    (s.commandEnds d err f).die d = { f (s.die d) with busy := false, cmd := none, err := err != 0, errc := err } := by
  simp only [State.commandEnds, State.die_setMevt, State.die_setDie]

theorem State.die_commandEnds_ne {k err : Nat} {f : Die → Die} (h : k ≠ d) : (s.commandEnds d err f).die k = s.die k := by
  simp only [State.commandEnds, State.die_setMevt, State.die_setDie_ne h]

/-- A command that is over ends the event's work. -/
theorem exec_commandDone {ok : Bool} {repair : Nat} (h : s.dctlDone d ok repair = some t) :
    exec (.evDctlCommandDone d ok repair) s = .next t := next_getD_of_some h

end

/-! ### Operating points -/

section
variable {s : State} {i p : Nat}

theorem State.point_setPoint (h : s.point i ≠ 0) (p : Nat) : (s.setPoint i p).point i = p := by
  have hidle : s.idleCore i = false := by
    cases hc : s.idleCore i with
    | false => rfl
    | true => exact absurd (if_pos hc) h
  change (if s.idleCore i then 0 else Tab.get 7 (Tab.set 7 s.points i p) i) = p
  rw [hidle, if_neg Bool.false_ne_true, Tab.get_set_same]

theorem State.point_throttle (s : State) (i k : Nat) : (s.throttle i).point k = s.point k := rfl

theorem State.point_choosePoint (h : s.point i ≠ 0) (p : Nat) : (s.choosePoint i p).point i = p := by
  unfold State.choosePoint
  split
  · rw [State.point_throttle, State.point_setPoint h]
  · exact State.point_setPoint h p

/-- Lowering a point lowers it, but from OP0. -/
theorem State.lowerPoint_lt (s : State) (i : Nat) :
    (s.lowerPoint i).point i < s.point i ∨ s.point i = 0 ∧ s.lowerPoint i = s := by
  by_cases h : s.point i = 0
  · exact .inr ⟨h, if_pos h⟩
  · left
    rw [State.lowerPoint, if_neg h, State.point_choosePoint h]
    exact Nat.lt_of_le_of_lt (Nat.min_le_left ..) (Nat.sub_one_lt h)

theorem State.vis_lowerPoint (s : State) (i : Nat) : (s.lowerPoint i).vis = s.vis := by
  unfold State.lowerPoint State.choosePoint
  split_ifs <;> rfl

theorem State.vis_foldl_lowerPoint (is : List Nat) (s : State) : (is.foldl State.lowerPoint s).vis = s.vis := by
  induction is generalizing s with
  | nil => rfl
  | cons i is ih => rw [List.foldl_cons, ih, State.vis_lowerPoint]

/-- Slowing the cores of the VIs over their caps changes no VI. -/
theorem State.vis_slowed (ws : List (Nat × Nat)) (s : State) :
    (ws.foldl (fun s w => (s.coresOf w.1).foldl State.lowerPoint s) s).vis = s.vis := by
  induction ws generalizing s with
  | nil => rfl
  | cons w ws ih => rw [List.foldl_cons, ih, State.vis_foldl_lowerPoint]

/-- The fraction withheld from each VI; one of which nothing was ever written has no cap. -/
theorem State.withheld_capVis (s : State) (watts : List (Nat × Nat)) (vi : Nat) :
    ((s.capVis watts).vi vi).withheld = s.withhold vi (Tab.get 0 watts vi) := by
  have hvis : (s.capVis watts).vis =
      s.vis.map fun p => (p.1, { p.2 with withheld := s.withhold p.1 (Tab.get 0 watts p.1) }) := State.vis_slowed ..
  rw [State.vi, hvis, Tab.get,
    Tab.find_map (fun p : Nat × Vi => { p.2 with withheld := s.withhold p.1 (Tab.get 0 watts p.1) })]
  cases hfind : Tab.find s.vis vi with
  | some v => rfl
  | none =>
    have hdef : s.vi vi = {} := by
      rw [State.vi, Tab.get, hfind]
      rfl
    have hcap : s.overCap vi (Tab.get 0 watts vi) = false := by
      have hq : bits ({} : Vi).q4 0 16 = 0 := rfl
      simp only [State.overCap, hdef, hq, bne_self_eq_false, Bool.and_false, Bool.false_and]
    rw [State.withhold, hcap]
    rfl

theorem State.withhold_eq (s : State) (vi w : Nat) :
    let q := bits (s.vi vi).q4 0 16
    s.withhold vi w = if vi ≠ 0 ∧ q ≠ 0 ∧ q < w then (w - q, w) else (0, 1) := by
  simp only [State.withhold, State.overCap, Bool.and_eq_true, bne_iff_ne, decide_eq_true_eq, and_assoc]

/-- The core islands below n at OP0. -/
def State.coldTo (s : State) (n : Nat) : State := (List.range n).foldl (fun s c => s.setPoint c 0) s

theorem State.coldTo_succ (s : State) (n : Nat) : s.coldTo (n + 1) = (s.coldTo n).setPoint n 0 := by
  rw [State.coldTo, List.range_succ, List.foldl_append]
  rfl

theorem State.point_coldTo (s : State) {n i : Nat} (h : i < n) : Tab.get 7 (s.coldTo n).points i = 0 := by
  induction n with
  | zero => exact absurd h (Nat.not_lt_zero _)
  | succ n ih =>
    rw [State.coldTo_succ]
    by_cases hi : i = n
    · rw [hi]
      exact Tab.get_set_same 7 _ n 0
    · exact (Tab.get_set_ne 7 _ n i 0 hi).trans (ih (by omega))

theorem State.thermal_coldTo (s : State) (n : Nat) : (s.coldTo n).thermal = s.thermal := by
  induction n with
  | zero => rfl
  | succ n ih =>
    rw [State.coldTo_succ]
    exact ih

theorem State.mevt_coldTo (s : State) (n : Nat) : (s.coldTo n).mevt = s.mevt := by
  induction n with
  | zero => rfl
  | succ n ih =>
    rw [State.coldTo_succ]
    exact ih

theorem exec_pointChange (hi : i < 256) (hp : p ≤ 7) (hmax : p ≤ Tab.get s.opInit s.opmax i) (hcool : s.thermal = true → p = 0) :
    let t := { s with points := Tab.set 7 s.points i p }
    exec (.evOperatingPointChange i p) s = .next (if p < s.point i then t.throttle i else t) := by
  have hlimit : p ≤ Nat.min 7 (Tab.get s.opInit s.opmax i) := Nat.le_min.mpr ⟨hp, hmax⟩
  have hallowed : (decide (p ≤ Nat.min 7 (Tab.get s.opInit s.opmax i)) && (!s.thermal || p == 0)) = true := by
    simpa [hlimit, or_iff_not_imp_left] using hcool
  exact congrArg Host.Outcome.next ((if_pos hi).trans (if_pos hallowed))

theorem exec_islandThrottle (hlo : 256 ≤ i) (hhi : i < 512) (hp : p < 7) :
    exec (.evOperatingPointChange i p) s = .next (s.throttle i) := by
  have hisland : (decide (i < 512) && decide (p < 7)) = true := by
    simp only [hhi, hp, decide_true, Bool.and_self]
  exact congrArg Host.Outcome.next ((if_neg (Nat.not_lt.mpr hlo)).trans (if_pos hisland))

/-- THERMAL_TRIP takes every core island to OP0 and sets MEVT bit 6 (R416). -/
theorem execEvThermalTrip_eq (s : State) :
    execEvThermalTrip s = .next ((({ s with thermal := true } : State).coldTo 256).setMevt 6) := by
  rw [execEvThermalTrip, State.coldTo]

theorem State.mevt_setMevt_six (s : State) : (s.setMevt 6).mevt = s.mevt ||| 0x40#64 := rfl

theorem State.points_setMevt (s : State) (k : Nat) : (s.setMevt k).points = s.points := rfl

theorem State.thermal_setMevt (s : State) (k : Nat) : (s.setMevt k).thermal = s.thermal := rfl

theorem exec_thermalTrip (s : State) :
    ∃ t, exec .evThermalTrip s = .next t ∧ t.thermal = true ∧ (∀ i, i < 256 → Tab.get 7 t.points i = 0) ∧
      t.mevt = s.mevt ||| 0x40#64 := by
  refine ⟨_, execEvThermalTrip_eq s, ?_, fun i hi => ?_, ?_⟩
  · rw [State.thermal_setMevt, State.thermal_coldTo]
  · rw [State.points_setMevt, State.point_coldTo _ hi]
  · rw [State.mevt_setMevt_six, State.mevt_coldTo]

end

/-- Settles O59: each event by its own work, where it can happen. -/
theorem managementEvents : Obligations.ManagementEvents := by
  refine ⟨?lhcfg, ?quota, ?vi, ?evq, ?reset, ?doorbell, ?mmio, ?dctl, ?done, ?ends, ?point, ?island, ?estimate, ?capped, ?lowered,
    ?trip, ?thermalReset, ?deviceReset⟩
  case lhcfg => exact fun s port v h => congrArg Host.Outcome.next (if_pos h)
  case quota =>
    intro s vi off v h
    change execEvQuotaRecordWrite vi off v s = _
    simp only [execEvQuotaRecordWrite, h, decide_true, Bool.true_and, decide_eq_true_eq]
  case vi =>
    exact fun s vi h => ⟨congrArg Host.Outcome.next (if_pos h), congrArg Host.Outcome.next (if_pos h),
      congrArg Host.Outcome.next (if_pos h)⟩
  case evq =>
    intro s vi v hvi h
    refine ⟨(hostEvent_ok (i := .evEvqheadWrite vi v) h).trans ?_, (hostEvent_ok (i := .evEvqstatWrite vi v) h).trans ?_⟩
    · exact congrArg Host.Outcome.next (if_pos hvi)
    · exact congrArg Host.Outcome.next (if_pos hvi)
  case reset =>
    exact fun s vi s1 hbusy hquiet hdrain => next_getD_of_some (State.endReset_of_drained hbusy hquiet hdrain)
  case doorbell => exact fun s h => ⟨s.setMevt 0, hostEvent_ok h, rfl⟩
  case mmio => exact fun s vi off v h hanswers hvi hoff hal => exec_mmioWrite h hanswers hvi hoff hal
  case dctl =>
    intro s d v hd
    have hwrite (c : DieCmd) : s.dctlWrite d c = s.dctlCommand d c := if_pos hd
    have hadmit : (if d < 4 then s.dctlAdmit d (bitAt v 0) else s) = s.dctlAdmit d (v.getLsbD 0) := by
      rw [if_pos hd, bitAt_eq_getLsbD]
    exact ⟨congrArg Host.Outcome.next hadmit, congrArg Host.Outcome.next (hwrite .drain),
      congrArg Host.Outcome.next (hwrite .wb), congrArg Host.Outcome.next (hwrite .mig),
      congrArg Host.Outcome.next (hwrite .quiesce), congrArg Host.Outcome.next (hwrite .rst),
      congrArg Host.Outcome.next (hwrite .retrain)⟩
  case done =>
    intro s d ok repair ends
    refine ⟨fun h hc => ?_, fun hc => ?_, fun h hc => ?_, fun h hc => ?_, fun h hc => ?_, fun hc => ?_, fun h hc => ?_,
      fun h hc => ?_⟩
    · exact exec_commandDone (by simp only [State.dctlDone, hc, h, if_true])
    · exact exec_commandDone (by simp only [State.dctlDone, hc])
    · exact exec_commandDone (by simp only [State.dctlDone, hc, h, if_true])
    · exact exec_commandDone (by simp only [State.dctlDone, hc, h, Bool.false_eq_true, if_false])
    · exact exec_commandDone (by simp only [State.dctlDone, hc, h, if_true])
    · exact exec_commandDone (by simp only [State.dctlDone, hc])
    · exact exec_commandDone (by simp only [State.dctlDone, hc, h, if_true])
    · exact exec_commandDone (by simp only [State.dctlDone, hc, h, Bool.false_eq_true, if_false])
  case ends =>
    exact fun s d err f _ => ⟨State.die_commandEnds .., rfl, fun k hk => State.die_commandEnds_ne hk⟩
  case point => exact fun s i p hi hp hmax hcool => exec_pointChange hi hp hmax hcool
  case island => exact fun s i p hlo hhi hp => exec_islandThrottle hlo hhi hp
  case estimate => exact fun s e => rfl
  case capped => exact fun s watts vi => (State.withheld_capVis ..).trans (State.withhold_eq ..)
  case lowered => exact State.lowerPoint_lt
  case trip => exact exec_thermalTrip
  case thermalReset => exact fun s h => congrArg Host.Outcome.next (if_pos h)
  case deviceReset => exact fun s => rfl

end Sys2Proof.Machine
end

section
/-! PROOFS. CTXSAVE and CTXRSTR (R396, R397, R403–R405). -/

namespace Sys2Proof.Machine

/-- The registers of an image: none without the vector section, those dirty under DIRTY (R403). -/
theorem savedRegs_eq (vec dirty : Bool) (present dirtied : Word) :
    (if !vec then 0#64 else if dirty then present &&& dirtied else present) =
      if vec then (if dirty then present &&& dirtied else present) else 0#64 := by
  cases vec <;> rfl

/-- Settles O52: the checks answer in their order, and the image is written or restored. -/
theorem contextResults : Obligations.ContextResults := by
  constructor
  · intro vec dirty msks mnfs d base imm s c x ls s1 hi hform va hx vs len hlines htensor hfree hreq s0 hdrain hready h sup bs s2
    obtain ⟨rfl, -, -⟩ := ready_same hi
    refine issue_completes hi ?_
    have hflags : (vec || !dirty) = true := by simpa using hform
    have hlinesFree := forEach_ok hfree
    subst va vs len
    simp only [hflags, ensure_true, Ctx.me, hx, savedRegs_eq, hlines, htensor, hlinesFree, hreq, hdrain, hready, beq_iff_eq, Res.ok_bind]
    rfl
  · intro lzy base imm s c x s1 s2 s3 s4 hb pb ls bs hi va hx hord hhead hgood hpriv hpl hread hcont hlines s5 st
    obtain ⟨rfl, -, -⟩ := ready_same hi
    refine issue_completes hi ?_
    have hlow := Nat.not_lt.mpr hpl
    subst va
    simp only [Ctx.me, hx, hord, hhead, hgood, hpriv, beq_iff_eq, hlow, hread, hcont, hlines, Res.ok_bind, Bool.false_eq_true, if_false]
    rfl

end Sys2Proof.Machine
end

section
/-! PROOFS. The state after reset, and its first step (R408). -/

namespace Sys2Proof.Machine

/-- No strand can issue in the reset state. -/
theorem select_reset : State.reset.select exec = none := rfl

/-- No engine has work in the reset state. -/
theorem due_reset : State.reset.due = none := rfl

/-- No event is written or held in the reset state. -/
theorem dueEvents_reset : State.reset.dueEvents = none := rfl

/-- In the first step time passes, and nothing else happens. -/
theorem step_reset : step State.reset = .next State.reset.clock := by
  change idleStep exec State.reset = _
  simp only [idleStep, select_reset, due_reset, dueEvents_reset]
  rfl

theorem byteAt_reset (pa : Nat) : State.reset.byteAt pa = 0#8 := rfl

theorem tagAt_reset (ln : Nat) : State.reset.tagAt ln = tagReset := rfl

theorem tagCls_tagReset : tagCls tagReset = 3 := by decide

theorem state_die_reset {d : Nat} (h : d < 4) : (State.reset.die d).state = .online := by
  interval_cases d <;> rfl

/-- Settles O6: nothing is in the reset state but its dies, and its first step only passes time. -/
theorem resetState : Obligations.ResetState :=
  ⟨rfl, rfl, rfl, rfl, rfl, rfl, rfl, rfl, byteAt_reset,
    fun ln => (congrArg tagCls (tagAt_reset ln)).trans tagCls_tagReset, fun _ => state_die_reset, fun _ => rfl,
    State.reset.clock, step_reset, rfl, rfl⟩

end Sys2Proof.Machine
end

section
/-! PROOFS. The stages of the boot and the device reset (R408–R412, R416–R419). -/

namespace Sys2Proof.Machine

/-! ### The image as the boot holds it -/

section
variable {α : Type} {t : Tab α} {k : Nat}

theorem Tab.find_eq_none (h : k ∉ t.map Prod.fst) : Tab.find t k = none := by
  induction t with
  | nil => rfl
  | cons p t ih =>
    rw [List.map_cons, List.mem_cons, not_or] at h
    exact (if_neg h.1).trans (ih h.2)

/-- Entries chosen by their keys. -/
theorem Tab.find_filter (p : Nat → Bool) (t : Tab α) (k : Nat) :
    Tab.find (t.filter fun b => p b.1) k = if p k then Tab.find t k else none := by
  induction t with
  | nil => exact (ite_self _).symm
  | cons b t ih =>
    obtain ⟨j, v⟩ := b
    by_cases hj : k = j
    · subst hj
      cases hp : p k with
      | true => simp only [List.filter_cons, hp, if_true, Tab.find]
      | false => simp only [List.filter_cons, hp, Bool.false_eq_true, if_false, ih]
    · cases hp : p j with
      | true => simp only [List.filter_cons, hp, if_true, Tab.find, hj, if_false, ih]
      | false => simp only [List.filter_cons, hp, Bool.false_eq_true, if_false, ih, Tab.find, hj]

/-- Writing entries of different keys one after another gives each key its entry. -/
theorem Tab.get_foldl_set [DecidableEq α] (d : α) {l : Tab α} (h : (l.map Prod.fst).Nodup) (t : Tab α) (k : Nat) :
    Tab.get d (l.foldl (fun t b => Tab.set d t b.1 b.2) t) k = (Tab.find l k).getD (Tab.get d t k) := by
  induction l generalizing t with
  | nil => rfl
  | cons b l ih =>
    obtain ⟨j, v⟩ := b
    rw [List.map_cons, List.nodup_cons] at h
    rw [List.foldl_cons, ih h.2]
    by_cases hk : k = j
    · subst hk
      simp only [Tab.find_eq_none h.1, Tab.find, if_true, Option.getD_none, Option.getD_some, Tab.get_set_same]
    · simp only [Tab.find, hk, if_false, Tab.get_set_ne _ _ _ _ _ hk]

end

theorem byte_held {f : BootFile} (h : (f.bytes.map Prod.fst).Nodup) (a : Nat) :
    Tab.get 0#8 f.held.bytes a = if a < f.len then Tab.get 0#8 f.bytes a else 0#8 := by
  have hkeys : ((f.bytes.filter fun b => decide (b.1 < f.len)).map Prod.fst).Nodup :=
    (List.filter_sublist.map Prod.fst).nodup h
  have hget := Tab.get_foldl_set 0#8 hkeys [] a
  rw [Tab.find_filter (fun n => decide (n < f.len))] at hget
  refine hget.trans ?_
  by_cases ha : a < f.len
  · rw [decide_eq_true ha, if_pos rfl, if_pos ha]
    rfl
  · rw [decide_eq_false ha, if_neg Bool.false_ne_true, if_neg ha]
    rfl

/-! ### What a device reset keeps -/

theorem byteAt_deviceReset (s : State) (pa : Nat) :
    s.deviceReset.byteAt pa = if 2 ^ 49 ≤ pa then s.byteAt pa else 0#8 := by
  have hfind := Tab.find_filter (fun n => decide (2 ^ 49 ≤ n)) s.mem pa
  by_cases h : 2 ^ 49 ≤ pa
  · rw [decide_eq_true h, if_pos rfl] at hfind
    rw [if_pos h]
    exact congrArg (Option.getD · 0#8) hfind
  · rw [decide_eq_false h, if_neg Bool.false_ne_true] at hfind
    rw [if_neg h]
    exact congrArg (Option.getD · 0#8) hfind

/-! ### The dies after their tests -/

section
variable {s : State} {pass use : Nat → Bool} {d n : Nat}

/-- The test of one die, with the repair that it finds. -/
def State.testDie (pass use : Nat → Bool) (s : State) (d : Nat) : State :=
  s.setDie d (dieTested (pass d) (use d) (Config.repairRows s.tick d).toNat (s.die d))

/-- The dies below n tested in their order. -/
def State.testDies (s : State) (pass use : Nat → Bool) (n : Nat) : State := (List.range n).foldl (State.testDie pass use) s

theorem State.testDies_succ : s.testDies pass use (n + 1) = (s.testDies pass use n).testDie pass use n := by
  rw [State.testDies, List.range_succ, List.foldl_append]
  rfl

theorem State.die_testDies_past (h : n ≤ d) : (s.testDies pass use n).die d = s.die d := by
  induction n with
  | zero => rfl
  | succ n ih =>
    rw [State.testDies_succ, State.testDie, State.die_setDie_ne (by omega), ih (by omega)]

theorem State.die_testDies (h : d < n) : ∃ repair, (s.testDies pass use n).die d = dieTested (pass d) (use d) repair (s.die d) := by
  induction n with
  | zero => exact absurd h (Nat.not_lt_zero _)
  | succ n ih =>
    rw [State.testDies_succ, State.testDie]
    by_cases hd : d = n
    · subst hd
      rw [State.die_setDie, State.die_testDies_past le_rfl]
      exact ⟨_, rfl⟩
    · rw [State.die_setDie_ne hd]
      exact ih (by omega)

theorem inServ_dieTested (p u : Bool) (repair : Nat) (x : Die) : (dieTested p u repair x).inServ = (p && u) := by
  cases p <;> cases u <;> rfl

end

/-! ### The stages -/

section
variable {s : State} {b : Boot}

theorem Boot.standsAt_iff {n : Nat} : b.standsAt n = true ↔ b.stage = n ∧ b.waiting = false ∧ b.halted = false := by
  simp only [Boot.standsAt, Bool.and_eq_true, beq_iff_eq, Bool.not_eq_true', and_assoc]

/-- A boot at stage 0 or 1 begins stage 1. -/
theorem Boot.standsAt_one (h : b.standsAt 0 = true ∨ b.standsAt 1 = true) :
    ({ b with stage := Nat.max 1 b.stage } : Boot).standsAt 1 = true := by
  rw [Boot.standsAt_iff, Boot.standsAt_iff] at h
  rw [Boot.standsAt_iff]
  rcases h with ⟨hs, hrest⟩ | ⟨hs, hrest⟩ <;> exact ⟨by rw [hs]; rfl, hrest⟩

theorem exec_puf (h : s.boot.standsAt 0 = true ∨ s.boot.standsAt 1 = true) :
    ∃ t, exec (.evBootPuf true) s = .next t ∧ t.boot.stage = 2 ∧ t.boot.uds = true ∧ (Tab.get {} t.ports 0).up = true := by
  have hnot : ¬(!({ s.boot with stage := Nat.max 1 s.boot.stage } : Boot).standsAt 1) = true := by
    rw [Boot.standsAt_one h]
    exact Bool.false_ne_true
  refine ⟨_, congrArg Host.Outcome.next ((if_neg hnot).trans (if_pos rfl)), rfl, rfl, ?_⟩
  exact congrArg Port.up (Tab.get_put_same ..)

theorem accepted_iff (c : ImageCheck) (f : BootFile) :
    accepted c f = true ↔ f.headerOk = true ∧ c.rootHashes = true ∧ c.mldsa = true ∧ c.ecdsa = true ∧ c.minSvn ≤ f.svn := by
  simp only [accepted, Bool.and_eq_true, decide_eq_true_eq, and_assoc]

theorem exec_fetch {f : BootFile} (h : s.boot.standsAt 3 = true) :
    exec (.evBootFetch true f) s = .next { s with boot :=
      if f.len ≤ 2 ^ 30 then { s.boot with stage := 4, image := f.held } else s.boot.retrying 2 } := by
  refine congrArg Host.Outcome.next ((if_pos h).trans ?_)
  by_cases hlen : f.len ≤ 2 ^ 30
  · rw [if_pos hlen]
    exact congrArg s.setBoot (if_neg (Nat.not_lt.mpr hlen))
  · rw [if_neg hlen]
    exact congrArg s.setBoot (if_pos (Nat.lt_of_not_le hlen))

theorem exec_verify {x : ImageCheck} (h : s.boot.standsAt 4 = true) :
    let f := s.boot.image
    exec (.evBootVerify x) s = .next { s with boot :=
      if f.headerOk = true ∧ x.rootHashes = true ∧ x.mldsa = true ∧ x.ecdsa = true ∧ x.minSvn ≤ f.svn
      then { s.boot with stage := 5, imgSvn := f.svn, config := f.slice f.cfgOff 64 } else s.boot.retrying 2 } := by
  refine congrArg Host.Outcome.next ((if_pos h).trans (congrArg s.setBoot ?_))
  simp only [accepted_iff]

theorem exec_retry (hwait : s.boot.waiting = true) (hhalt : s.boot.halted = false) :
    exec .evBootRetry s = .next { s with boot := { s.boot with stage := 2, waiting := false } } := by
  have hdue : (s.boot.waiting && !s.boot.halted) = true := by
    rw [hwait, hhalt]
    rfl
  exact congrArg Host.Outcome.next (if_pos hdue)

/-- Whether a die passed its tests, and whether DIEEN uses it. -/
def State.goodDie (pass spare : BitVec 4) (d : Nat) : Bool := nbits (pass &&& spare).toNat d 1 == 1

def State.usedDie (s : State) (d : Nat) : Bool := nbits (cfgDieen s.boot.config) d 1 == 1

/-- BOOT_BIST tests the four dies, and the boot goes on or halts with FAIL 3. -/
theorem exec_bist {pass spare : BitVec 4} (h : s.boot.standsAt 5 = true) :
    ∃ b : Boot, exec (.evBootBist pass spare) s = .next ((s.testDies (State.goodDie pass spare) s.usedDie 4).setBoot b) ∧
      b.dieok = pass ∧ (b.stage = 6 ∨ b.halted = true ∧ b.fail = 3) := by
  have hnot : ¬(!s.boot.standsAt 5) = true := by
    rw [h]
    exact Bool.false_ne_true
  refine ⟨_, congrArg Host.Outcome.next (if_neg hnot), ?_⟩
  split
  · exact ⟨rfl, .inl rfl⟩
  · exact ⟨rfl, .inr ⟨rfl, rfl⟩⟩

theorem exec_dice (h : s.boot.standsAt 6 = true) :
    exec .evBootDice s = .next { s with boot := { s.boot with stage := 7, cdi := some s.boot.image, uds := false } } :=
  congrArg Host.Outcome.next (if_pos h)

theorem not_standsAt_seven (h : s.boot.standsAt 7 = true) : ¬(!s.boot.standsAt 7) = true := by
  rw [h]
  exact Bool.false_ne_true

theorem exec_monitorStart_refused {keys : BootKeys} (h : s.boot.standsAt 7 = true)
    (hbad : (configOk s.boot.config s.boot.image.object && s.boot.image.objectOk && s.imageFits s.boot.image.object) = false) :
    exec (.evMonitorStart keys) s = .next { s with boot := s.boot.retrying 3 } := by
  have hrefuse : (!configOk s.boot.config s.boot.image.object || !s.boot.image.objectOk || !s.imageFits s.boot.image.object) = true := by
    rw [← Bool.not_and, ← Bool.not_and, hbad]
    rfl
  exact congrArg Host.Outcome.next ((if_neg (not_standsAt_seven h)).trans (if_pos hrefuse))

theorem exec_monitorStart {keys : BootKeys} (h : s.boot.standsAt 7 = true)
    (hconfig : configOk s.boot.config s.boot.image.object = true) (hobject : s.boot.image.objectOk = true)
    (hfits : s.imageFits s.boot.image.object = true) :
    exec (.evMonitorStart keys) s = .next ((s.configure keys s.boot.image.object).placeMonitor
      (w64 (imageVa + s.boot.image.object.entry))) := by
  have hgood : ¬(!configOk s.boot.config s.boot.image.object || !s.boot.image.objectOk || !s.imageFits s.boot.image.object) = true := by
    rw [hconfig, hobject, hfits]
    exact Bool.false_ne_true
  exact congrArg Host.Outcome.next ((if_neg (not_standsAt_seven h)).trans (if_neg hgood))

theorem vtbase_placeMonitor (s : State) (pc : Word) : ((s.placeMonitor pc).vi 0).vtbase = 0x20_0000#64 :=
  congrArg Vi.vtbase (Tab.get_put_same ..)

end

/-- Settles O60: each stage by its own work. -/
theorem bootEvents : Obligations.BootEvents := by
  refine ⟨?puf, ?dhcp, ?fetch, ?held, ?verify, ?retry, ?bist, ?dice, ?refused, ?monitor, ?reset⟩
  case puf => exact fun s h => exec_puf h
  case dhcp => exact fun s h => congrArg Host.Outcome.next (if_pos h)
  case fetch => exact fun s f h => exec_fetch h
  case held => exact fun f a h => byte_held h a
  case verify => exact fun s x h => exec_verify h
  case retry => exact fun s hwait hhalt => exec_retry hwait hhalt
  case bist =>
    intro s pass spare h
    obtain ⟨b, hexec, hdieok, hend⟩ := exec_bist (pass := pass) (spare := spare) h
    refine ⟨_, hexec, hdieok, ?_⟩
    intro good used
    have hgood (d : Nat) : State.goodDie pass spare d = good.getLsbD d := nbits_one_eq_getLsbD good d
    have hused (d : Nat) : s.usedDie d = used d := nbits_one_eq_testBit _ d
    have hdie {d : Nat} (hd : d < 4) : ∃ repair, ((s.testDies (State.goodDie pass spare) s.usedDie 4).setBoot b).die d =
        dieTested (good.getLsbD d) (used d) repair (s.die d) := by
      rw [← hgood, ← hused]
      exact State.die_testDies hd
    refine ⟨hend, fun d hd => ?_, fun d hd hfailed => ?_, fun d hd hpassed hout => ?_⟩
    · obtain ⟨repair, hx⟩ := hdie hd
      rw [hx, inServ_dieTested]
    · obtain ⟨repair, hx⟩ := hdie hd
      rw [hx, hfailed]
      exact ⟨rfl, rfl, rfl⟩
    · obtain ⟨repair, hx⟩ := hdie hd
      rw [hx, hpassed, hout]
      exact ⟨rfl, rfl⟩
  case dice => exact fun s h => exec_dice h
  case refused =>
    intro s keys h img hbad
    exact exec_monitorStart_refused h hbad
  case monitor =>
    intro s keys h img hconfig hobject hfits
    refine ⟨_, exec_monitorStart h hconfig hobject hfits, rfl, rfl, rfl, rfl, rfl, rfl, ?_, rfl, rfl, vtbase_placeMonitor .., rfl⟩
    exact BitVec.ofNat_add imageVa img.entry
  case reset =>
    intro s
    refine ⟨rfl, rfl, rfl, fun pa h => ?_, fun pa h => ?_⟩
    · rw [byteAt_deviceReset, if_neg (Nat.not_le.mpr h)]
    · rw [byteAt_deviceReset, if_pos h]

end Sys2Proof.Machine
end
